-- ==== Sys2Proof/Word.lean ====
section
/-! DEFINITION. The word types of the block: the 64-bit words of descriptors, records and messages (R12), the byte,
the 16-bit element code, and the one way a bit field of a word is read and placed. -/

namespace Sys2Proof

/-- A 64-bit word of a descriptor, record, frame header or message (R12, R122). -/
abbrev W64 := BitVec 64

/-- A byte of a buffer, image or datagram. -/
abbrev Byte := BitVec 8

/-- An element code, the data of one 16-bit unit (R17, R248). -/
abbrev Code := BitVec 16

/-- Field [hi:lo] of a number read as a word, as the field tables write it. -/
def fieldOf (w hi lo : Nat) : Nat := w / 2 ^ lo % 2 ^ (hi - lo + 1)

/-- Field [hi:lo] of a 64-bit word. -/
def fld (w : W64) (hi lo : Nat) : Nat := fieldOf w.toNat hi lo

/-- Bit `i` of a number. -/
def bitOf (w i : Nat) : Bool := w / 2 ^ i % 2 == 1

/-- A value placed at bit `lo` of a word. -/
def at_ (v lo : Nat) : Nat := v * 2 ^ lo

/-- A Boolean as the bit a field holds. -/
def bit (b : Bool) : Nat := if b then 1 else 0

/-- Division rounded up. -/
def ceilDiv (a b : Nat) : Nat := (a + b - 1) / b

end Sys2Proof
end

