-- ==== Sys2Proof/Syntax.lean ====
section
/-! DEFINITION. The commands of the block: one constructor of `Instr` for each row of spec/opcode_table.json, with the
row's operands, and the data a command carries (a descriptor, a cascade frame, a datagram, a unit of the block). -/

namespace Sys2Proof

/-- A 64-byte descriptor: eight 64-bit words (R122). -/
structure Desc where
  w0 : W64
  w1 : W64
  w2 : W64
  w3 : W64
  w4 : W64
  w5 : W64
  w6 : W64
  w7 : W64
deriving DecidableEq, Repr

/-- A payload flit of a cascade frame: 64 bytes as one number's bits, and the poison of its 32 units (R302). -/
structure Flit where
  data : BitVec 512
  psn : BitVec 32
deriving DecidableEq, Repr

/-- A cascade frame: the header flit's eight words (Table 12-2) and its payload flits (R302). -/
structure Frame where
  w0 : W64
  w1 : W64
  w2 : W64
  w3 : W64
  w4 : W64
  w5 : W64
  w6 : W64
  w7 : W64
  payload : List Flit
deriving DecidableEq, Repr

/-- A chain of a core: the block-wide core number c, the top engine, and the quadrant (0 for a chain of whole engines,
4 to 7 for NW, NE, SW, SE as the QUARTER codes of Table 05-6) (R94, R135). -/
structure ChainId where
  core : Nat
  top : Nat
  quarter : Nat
deriving DecidableEq, Repr

/-- A requester role of the dictionary (Table 00-5, R371). -/
inductive Role where
  | m
  | h
  | t
deriving DecidableEq, Repr

/-- A write transaction to one object as its requester sends it: role, source address and port of a datagram (role M),
transaction identity, tenant (role H), and the value bytes (R369, R379). -/
structure Req where
  role : Role
  src : Nat
  sport : Nat
  xid : Nat
  tenant : Nat
  value : List Byte
deriving DecidableEq, Repr

/-- A UDP datagram as it reaches the management port: source and destination address (128 bits), ports, whether the UDP checksum
held, and the payload (R376, R377). -/
structure Datagram where
  src : Nat
  dst : Nat
  sport : Nat
  dport : Nat
  sumOk : Bool
  payload : List Byte
deriving DecidableEq, Repr

/-- A silicon fault met by a running sum: the class of the failing check (0x010 to 0x013), the engine's place in the
chain, the physical row, the block stage, and the error it adds to the checked quantity (R252, R254, R270). -/
structure SumFault where
  cls : Nat
  eng : Nat
  prow : Nat
  stage : Nat
  err : Int
deriving DecidableEq, Repr

/-- The checks of a drain (Table 10-1, R253): the register read, the conversion, and the product step of a fused multiply. -/
inductive ReadPoint where
  | read
  | conv
  | product
deriving DecidableEq, Repr

/-- A fault at a register read: the logical column of a row, the element of a frame or of a range, or for a SAVE the register's key;
the check that it meets (class 0x014 of a read, 0x015 of a conversion), the error it adds to the checked value, and whether the one
retry fails too (Table 10-2, R419). -/
structure ReadFault where
  col : Nat
  pt : ReadPoint
  err : Int
  twice : Bool
deriving DecidableEq, Repr

/-- Work of the block that reads registers: the number of its op or send job, and the faults that the silicon makes in these reads and
conversions. -/
structure Reads where
  id : Nat
  faults : List ReadFault
deriving DecidableEq, Repr

/-- A fault at a register of a tile, by row and logical column, of a snapshot or its restore: the error it adds to the value checked,
and whether the one retry of a read fails too (Table 10-2). -/
structure RegFault where
  row : Nat
  col : Nat
  err : Int
  twice : Bool
deriving DecidableEq, Repr

/-- What a failing deck test localizes to (R275, Table 11-6 DECK_FAIL). -/
inductive DeckScope where
  | column (eng col : Nat)
  | engine (eng : Nat)
  | core
deriving DecidableEq, Repr

/-- A failing core test: its scope, the pattern's ID and, for a transparent march pattern, the (engine, row) register
rows it touched (R287). -/
structure DeckFail where
  scope : DeckScope
  pattern : Nat
  rows : List (Nat × Nat)
deriving DecidableEq, Repr

/-- A failure of the opening deck, on core `core` (R288). -/
structure OpeningFail where
  core : Nat
  fail : DeckFail
deriving DecidableEq, Repr

/-- A unit that can be charged with offences (Table 11-1): engine n, the drain of core c, the spine link leaving core c. -/
inductive HwUnit where
  | engine (n : Nat)
  | drain (c : Nat)
  | link (c : Nat)
deriving DecidableEq, Repr

/-- One line of a memory read with its ECC status (Table 16-3 MR). -/
structure ReadLine where
  data : BitVec 512
  ecc : BitVec 2
deriving DecidableEq, Repr

/-- The commands: one constructor for each row of the table of operations and events. Each constructor's comment names
its row; the rule of the row decides what it does. -/
inductive Instr where
  /-- LOADW (R70). -/
  | loadw (d : Desc)
  /-- STREAM (R134). -/
  | stream (d : Desc)
  /-- PRELOAD (R139). -/
  | preload (d : Desc)
  /-- DRAIN (R140). -/
  | drain (d : Desc)
  /-- SCAN (R137). -/
  | scan (d : Desc)
  /-- MPASS (R172). -/
  | mpass (d : Desc)
  /-- OWNER_XRED (R306). -/
  | ownerXred (d : Desc)
  /-- CONTRIBUTION (R314). -/
  | contribution (d : Desc)
  /-- TRIMMED_LONG_CONTRIBUTION (R233). -/
  | trimmedLongContribution (d : Desc)
  /-- COLLECTION (R314). -/
  | collection (d : Desc)
  /-- RETRACT (R318). -/
  | retract (d : Desc)
  /-- FENCE_ORDER (R142). -/
  | fenceOrder (d : Desc)
  /-- FENCE_EPOCH (R236). -/
  | fenceEpoch (d : Desc)
  /-- FENCE_QUIESCE (R240). -/
  | fenceQuiesce (d : Desc)
  /-- GATE (R221). -/
  | gate (d : Desc)
  /-- COMMIT (R228). -/
  | commit (d : Desc)
  /-- SQUASH (R229). -/
  | squash (d : Desc)
  /-- SAVE (R361). -/
  | save (d : Desc)
  /-- RESTORE (R365). -/
  | restore (d : Desc)
  /-- DICT_READ (R145). -/
  | dictRead (d : Desc)
  /-- DICT_WRITE (R384). -/
  | dictWrite (d : Desc)
  /-- BALLAST (R336). -/
  | ballast (d : Desc)
  /-- RESPONSE_CREDIT (R217): `n` response flits returned on WRK. -/
  | responseCredit (n : BitVec 8)
  /-- OP_START (R197): the accepted op with acceptance number `op`. -/
  | opStart (op : Nat)
  /-- SHADOW_ROW_WRITE (R70): row `row` of engine `eng` of the chain, for the chain's next weight set. -/
  | shadowRowWrite (ch : ChainId) (eng row : Nat)
  /-- SWAP_FRONT (R71): block stage `blk` of engine `eng` of the chain. -/
  | swapFront (ch : ChainId) (eng blk : Nat)
  /-- TOKEN_PRESENT (R107): the chain's next token. -/
  | tokenPresent (ch : ChainId)
  /-- RUNNING_SUM_ADD (R51): the oldest running sum of logical column `col`, term `term`, with the fault it met, if any. -/
  | runningSumAdd (ch : ChainId) (col term : Nat) (fault : Option SumFault)
  /-- LOCAL_RETRY (R270). -/
  | localRetry (ch : ChainId)
  /-- DRAIN_ROW_CONVERT (R152): row `row` of the DRAIN `op`, in the tile of its chain `ci`. -/
  | drainRowConvert (op row ci : Nat) (faults : List ReadFault)
  /-- PRELOAD_ROW_WRITE (R163): row `row` of the PRELOAD `op`. -/
  | preloadRowWrite (op row : Nat)
  /-- SPINE_SEND (R113): row `row`, column `col` of chain `ci` on core `sc` of the spine set of the op `op`, with the faults that its
  register read meets (R254). -/
  | spineSend (op : Reads) (sc ci row col : Nat)
  /-- SPINE_RECEIVE (R113): the oldest trimmed long in flight on the link leaving core `core`; `err` is the error
  pattern that the link adds to its bits (0 for none). -/
  | spineReceive (core : Nat) (err : Nat)
  /-- SPINE_RESEND (R255). -/
  | spineResend (core : Nat)
  /-- SNAPSHOT_TAKE (R223): the snapshot of region `region` of tenant `tenant` on the tile `tile` (a tile handle);
  `bad` lists the faults that its register reads meet. -/
  | snapshotTake (tenant region : Nat) (tile : BitVec 16) (bad : List RegFault)
  /-- SNAPSHOT_RESTORE (R229); `bad` lists the faults that its registers meet. -/
  | snapshotRestore (tenant region : Nat) (tile : BitVec 16) (bad : List RegFault)
  /-- COMMIT_TAKES_EFFECT (R228). -/
  | commitTakesEffect (tenant region : Nat)
  /-- REGION_TTL_EXPIRY (R230). -/
  | regionTtlExpiry (tenant region : Nat)
  /-- REROLL_VERDICT (R285): the rerolled op. -/
  | rerollVerdict (op : Nat)
  /-- OP_DELIVERY (R202), with the faults that the register reads and conversions of a SAVE or an owner op meet (R254). -/
  | opDelivery (op : Reads)
  /-- BALLAST_TOKEN (R335): on the chain, with the logical column and the fault of a sum that fails a check, if any. -/
  | ballastToken (ch : ChainId) (fault : Option (Nat × SumFault))
  /-- BALLAST_HOLD_EXPIRY (R334). -/
  | ballastHoldExpiry (core : Nat)
  /-- FORECAST_LEAD_EXPIRY (R332). -/
  | forecastLeadExpiry
  /-- SIDEREAL_COUNTER_ADVANCE (R192). -/
  | siderealCounterAdvance
  /-- STROBE_LOST (R408). -/
  | strobeLost
  /-- STROBE_RESTORED (R408). -/
  | strobeRestored
  /-- PROMISE_FLOOR_EVALUATION (R208). -/
  | promiseFloorEvaluation
  /-- VT (R339): the fields of Table 13-3. -/
  | vt (core : BitVec 6) (mv : BitVec 12) (tj : BitVec 8) (rail env : BitVec 2)
  /-- STEPDN (R342). -/
  | stepdn (env : BitVec 2) (cap : BitVec 12) (force : Bool)
  /-- DENY (R341): the TYPE refused (0x3 or 0x6) and the core of a VOFS. -/
  | deny (type : BitVec 4) (core : BitVec 6)
  /-- EXCURSION (R339): the island of the core. -/
  | excursion (core : Nat)
  /-- EXCURSION_END (R339). -/
  | excursionEnd
  /-- STEP_UP_TIMEOUT (R341). -/
  | stepUpTimeout
  /-- ENVELOPE_STEP_UP_REQUEST (R341). -/
  | envelopeStepUpRequest (r : Req)
  /-- ENVELOPE_STEP_DOWN_REQUEST (R342). -/
  | envelopeStepDownRequest (r : Req)
  /-- COOLING_CLASS (R340). -/
  | coolingClass (r : Req)
  /-- POWER_CAP (R344). -/
  | powerCap (r : Req)
  /-- PENDING_MARGIN_STEP (R214). -/
  | pendingMarginStep (core : Nat) (r : Req)
  /-- MARGIN_STEP_IN_FORCE (R209). -/
  | marginStepInForce (core : Nat) (r : Req)
  /-- PENDING_BYPASS_MAP (R84): engine n. -/
  | pendingBypassMap (n : Nat) (r : Req)
  /-- BYPASS_MAP_APPLY (R84): engine n. -/
  | bypassMapApply (n : Nat)
  /-- TENANT_STATE (R356). -/
  | tenantState (t : Nat) (r : Req)
  /-- TENANT_RELEASE (R356). -/
  | tenantRelease (t : Nat)
  /-- CORE_OWNER (R358). -/
  | coreOwner (core : Nat) (r : Req)
  /-- QUADRANT_OWNERS (R357): engine n. -/
  | quadrantOwners (n : Nat) (r : Req)
  /-- BUFFER_RANGE (R359): subindex `sub` (2cl base, 2cl + 1 length) of tenant t. -/
  | bufferRange (t sub : Nat) (r : Req)
  /-- CORE_MOVE_COMPLETE (R358). -/
  | coreMoveComplete (core : Nat)
  /-- DEBUG_MODE (R366). -/
  | debugMode (r : Req)
  /-- DEBUG_EXPIRY (R366). -/
  | debugExpiry
  /-- TRANSFER_OPEN (R355). -/
  | transferOpen (r : Req)
  /-- TRANSFER_CHUNK (R355). -/
  | transferChunk (r : Req)
  /-- TRANSFER_VERIFY (R352). -/
  | transferVerify (r : Req)
  /-- GFW_ACTIVATE (R353). -/
  | gfwActivate (r : Req)
  /-- GFW_HEARTBEAT (R349). -/
  | gfwHeartbeat
  /-- GFW_HEARTBEAT_TIMEOUT (R349). -/
  | gfwHeartbeatTimeout
  /-- FLASH_COMMIT (R373): the object's key 256 * index + subindex, and whether the flash took it. -/
  | flashCommit (key : Nat) (ok : Bool)
  /-- COLD_RESET_REQUEST (R410). -/
  | coldResetRequest (r : Req)
  /-- WARM_RESET_REQUEST (R410). -/
  | warmResetRequest (r : Req)
  /-- WARM_RESET (R410). -/
  | warmReset
  /-- POWER_GOOD (R411): with the failures that the opening deck finds. -/
  | powerGood (deck : List OpeningFail)
  /-- POWER_GOOD_LOSS (R402). -/
  | powerGoodLoss
  /-- ADMISSION_OPEN (R411). -/
  | admissionOpen
  /-- PORT_RESET (R410): port index q. -/
  | portReset (q : Nat) (r : Req)
  /-- QUARANTINE_HOLD_EXPIRY (R401). -/
  | quarantineHoldExpiry (q : Nat)
  /-- LIVE_RISE (R404). -/
  | liveRise (q : Nat)
  /-- LIVE_LOSS (R400). -/
  | liveLoss (q : Nat)
  /-- CAP (R404): the partner's link word. -/
  | cap (q : Nat) (w : W64)
  /-- CAPSEL (R404). -/
  | capsel (q : Nat) (w : W64)
  /-- DOWN (R406). -/
  | down (q : Nat) (w : W64)
  /-- EXCHANGE_TIMEOUT (R404). -/
  | exchangeTimeout (q : Nat)
  /-- RACING_FAULT (R401): port, channel code, kind 0x1 to 0x5. -/
  | racingFault (q chan kind : Nat)
  /-- SILENCE_BOUND_EXPIRY (R400): port, channel code, kind 0x6 to 0x8 or 0xA. -/
  | silenceBoundExpiry (q chan kind : Nat)
  /-- CREDIT_BOUND_EXPIRY (R400): port and channel code. -/
  | creditBoundExpiry (q chan : Nat)
  /-- CREDIT_RETURN (R215): `n` flits on channel `chan` of port q. -/
  | creditReturn (q chan : Nat) (n : BitVec 8)
  /-- MEMORY_READ_LINES (R250): port, request TAG, the lines. -/
  | memoryReadLines (q tag : Nat) (lines : List ReadLine)
  /-- FRAME_SEND (R302): the next frame of the send job `job`, with the faults that the register reads of its source meet (R254). -/
  | frameSend (job : Reads)
  /-- DATA (R309): a frame received on port q (0xFE for the loopback path). -/
  | data (q : Nat) (f : Frame)
  /-- END (R311). -/
  | end_ (q : Nat) (f : Frame)
  /-- ACK (R316). -/
  | ack (q : Nat) (f : Frame)
  /-- RESEND (R305). -/
  | resend (q : Nat) (f : Frame)
  /-- RESULT (R314). -/
  | result (q : Nat) (f : Frame)
  /-- COLLECT (R313). -/
  | collect (q : Nat) (f : Frame)
  /-- COMMIT_NOTICE (R317). -/
  | commitNotice (q : Nat) (f : Frame)
  /-- REVOKE (R323). -/
  | revoke (q : Nat) (f : Frame)
  /-- ABORT (R322). -/
  | abort (q : Nat) (f : Frame)
  /-- CLAIM (R298). -/
  | claim (q : Nat) (f : Frame)
  /-- CLAIMREPLY (R300). -/
  | claimreply (q : Nat) (f : Frame)
  /-- ELECTED (R298). -/
  | elected (q : Nat) (f : Frame)
  /-- ALLOT (R301). -/
  | allot (q : Nat) (f : Frame)
  /-- CLAIM_RETRY (R298): group slot g. -/
  | claimRetry (g : Nat)
  /-- RANGE_TIMEOUT (R322): the range (GROUP, BUCKET, EOFF). -/
  | rangeTimeout (group bucket eoff : Nat)
  /-- BEACON_PERIOD (R405). -/
  | beaconPeriod
  /-- BEACON (R405). -/
  | beacon (q : Nat) (w : W64)
  /-- MEMBER_LOST (R405): group slot and position. -/
  | memberLost (g pos : Nat)
  /-- WRITE (R379). -/
  | write (dg : Datagram)
  /-- EVACK (R387). -/
  | evack (dg : Datagram)
  /-- EVENT_SEND (R385). -/
  | eventSend
  /-- EVENT_RETRY (R385): the XID of the EVENT or NOTICE. -/
  | eventRetry (xid : Nat)
  /-- COALESCING_INTERVAL_EXPIRY (R264): the place of the key in the table of open keys. -/
  | coalescingIntervalExpiry (k : Nat)
  /-- NEIGHBOUR_SOLICITATION (R376): source address and target address. -/
  | neighbourSolicitation (src target : Nat)
  /-- ECHO_REQUEST (R376): source, destination, identifier, sequence, data. -/
  | echoRequest (src dst ident seq : Nat) (data : List Byte)
  /-- DRAIN_REQUEST (R171): a write to the request slot of the requester's role. -/
  | drainRequest (r : Req)
  /-- DICTIONARY_DRAIN (R170): the slot of a role; the register reads that fail their retry. -/
  | dictionaryDrain (role : Role) (faults : List ReadFault)
  /-- DECK_ROTATION (R286). -/
  | deckRotation
  /-- CORE_TEST_START (R286). -/
  | coreTestStart (core : Nat)
  /-- CORE_TEST_END (R275): the outcome. -/
  | coreTestEnd (core : Nat) (res : Option DeckFail)
  /-- DECK_PAUSE (R286). -/
  | deckPause (r : Req)
  /-- RELEASE_REQUEST (R279). -/
  | releaseRequest (r : Req)
  /-- QUARANTINE (R277). -/
  | quarantine (u : HwUnit)
  /-- OFFENCE_DECAY (R276). -/
  | offenceDecay (u : HwUnit)
  /-- SWEEP_REQUEST (R291): ageing unit u. -/
  | sweepRequest (u : Nat) (r : Req)
  /-- AGEING_SWEEP (R291): unit u and the first failing setting, if any. -/
  | ageingSweep (u : Nat) (f : Option (BitVec 4))
  /-- UNLISTED_OP_DESCRIPTOR (R150). -/
  | unlistedOpDescriptor (d : Desc)
  /-- BAD_MESSAGE (R337): the message as received on the power port. -/
  | badMessage (w : W64)
  /-- RESERVED_FRAME_TYPE (R303). -/
  | reservedFrameType (q : Nat) (f : Frame)
deriving DecidableEq, Repr

end Sys2Proof
end

