-- ==== Sys2Proof/Decode.lean ====
section
/-! DEFINITION. Commands spelled by a word of the operation table's bits. -/

namespace Sys2Proof

/-- The command that a word spells. The operation table of this block gives no row any bits, so no word spells one. -/
def decodeTableWord (_nbits _w : Nat) : Option Instr := none

end Sys2Proof
end

