-- ==== Sys2Proof/Config.lean ====
section
/-! DEFINITION. The free values: what the spec leaves open, as constants with no body. -/

namespace Sys2Proof.Config

/-- The code that a register read or drain conversion leaves when its retry fails: R419 says that it has no defined value.
The argument is the number of free values drawn before it (log 3). -/
opaque freeCode : Nat → BitVec 16

/-- The limbs that the registers of a core hold after its contents are lost (R278): the spec gives them no value. The
argument is the number of free values drawn before it (log 3). -/
opaque freeLimbs : Nat → BitVec 576

/-- The operand lanes of a ballast token by row: R335 gives a fixed alternating pattern and no codes (log 88). -/
opaque ballastLane : Nat → BitVec 16

/-- What the opening deck finds after a cold reset on request: which units fail is the silicon's (R288; log 70). The argument is the
number of free values drawn before it. -/
opaque openingDeck : Nat → List OpeningFail

end Sys2Proof.Config
end

