-- ==== Sys2Proof/Machine/State.lean ====
section
/-! DEFINITION. The state of the block as plain data: everything the spec gives the machine, in groups by chapter; the
faults and refusals a command can end in; and the state after reset. INVENTORY.md lists every field with its rule. -/

namespace Sys2Proof.Machine

/-- A sparse table: entries by rising key, none of them equal to what an unlisted key reads as. -/
abbrev Sparse (α : Type) := List (Nat × α)

/-- Why a command stops the model. -/
inductive Fault where
  /-- Raised by a command that names a port, core, engine or cluster which this configuration does not build: R374 and
  R394 say such a unit does not exist. Safe: nothing the spec describes is lost. -/
  | absentUnit
deriving DecidableEq, Repr

/-- Why the model gives a command no meaning. -/
inductive Refusal where
  /-- Raised only by an arm of `exec` whose command has no meaning yet (there is none). Safe. -/
  | notModelled (mnemonic : String)
deriving DecidableEq, Repr

/-- The three configurations (R3). -/
inductive Conf where
  | d2
  | d4
  | d8
deriving DecidableEq, Repr

/-! ### Long registers, tiles, cells, chains (chapters 2 to 4) -/

/-- A long register: N as 576 bits and its sideband (R39, R41, Table 02-3). -/
structure LongReg where
  n : BitVec 576
  nan : Bool
  pinf : Bool
  ninf : Bool
  poison : Bool
  r127 : BitVec 7
  r255 : BitVec 8
deriving DecidableEq, Repr

/-- What a tile quarter holds (R93). -/
inductive TMode where
  | free
  | sums
  | compare
deriving DecidableEq, Repr

/-- The planner's state of one tile quarter (R418): term bound (R40), mode (R93), region binding (R226). -/
structure TileQ where
  tb : Nat
  mode : TMode
  bound : Option (Nat × Nat)
deriving DecidableEq, Repr

/-- A weight of a cell: 16 bits with parity and poison (Table 03-1). -/
structure Cell where
  code : Code
  par : Bool
  psn : Bool
deriving DecidableEq, Repr

/-- An operand element after its parity check: its code and its poison (R249). -/
structure Elem where
  code : Code
  psn : Bool
deriving DecidableEq, Repr

/-- A core's shape code (Table 05-2) and its split engines (R77, R94). -/
structure CoreSt where
  shape : Nat
  split : List Nat
deriving DecidableEq, Repr

/-- A weight load: the op that makes it and its number within the op (R70, R104, R178). -/
structure LoadId where
  op : Nat
  no : Nat
deriving DecidableEq, Repr

/-- The weight set in force of a chain (R134): its load and the FMT, K, N, N0 of its LOADW. -/
structure WSet where
  load : LoadId
  fmt : Nat
  k : Nat
  n : Nat
  n0 : Nat
deriving DecidableEq, Repr

/-- The weight set pending in a chain's shadow (R73): the rows written (32 * engine offset + row), the rows enabled, the
enabled logical columns, and the block stages swapped so far (8 * engine offset + stage). -/
structure Load where
  id : LoadId
  rows : List Nat
  need : List Nat
  cols : Nat
  swapped : List Nat
deriving DecidableEq, Repr

/-- A token in the array: the op and its index, the operand lanes of each row from the top of the chain, 16 bits with parity and
poison each (R59, R248), and the weights of its pass (row by row, logical columns ascending; none yet in a row whose block stage has
not swapped, R72) as the replay store keeps them (R58, R271), and the sums already added (2 * column + term). -/
structure Tok where
  op : Nat
  idx : Nat
  lanes : List Cell
  wts : List (List Elem)
  done : List Nat
deriving DecidableEq, Repr

/-- A failure being retried: the token (op, index), the sum (column, term), the class of its check, the UNIT, LOC, PROW and PCOL
of its record, and its capture slot (R266, R270, R280). -/
structure Retry where
  op : Nat
  idx : Nat
  col : Nat
  term : Nat
  cls : Nat
  unit : Nat
  loc : Nat
  pos : Option (Nat × Nat)
  cap : Option Nat
deriving DecidableEq, Repr

/-- A chain: weight set in force (R134), the load in the stationary registers, the load pending in the shadow and the one
that follows it in the blocks already swapped (R73), the tokens in flight in order (R64), the tokens held for a local
retry and the failures retried (R270). -/
structure ChainSt where
  ws : Option WSet
  cur : Option LoadId
  pend : Option Load
  nxt : Option Load
  retry : List Retry
  fly : List Tok
  held : List Tok
deriving DecidableEq, Repr

/-! ### Buffer, staging, spine -/

/-- The cluster buffers: bytes by 2^25 * cluster + offset, and the parity and poison bits of the 16-bit units that are
set, by unit number (R109, R248). -/
structure Buffer where
  bytes : List Host.Cell
  par : List Nat
  psn : List Nat
deriving DecidableEq, Repr

/-- A line in a staging ring: the op and the descriptor word of the tensor it belongs to, its place in the op's sequence of
needs, its cluster, STAGE, slot of the ring, memory line number, and the port it came through (R132). -/
structure SLine where
  op : Nat
  ten : Nat
  seq : Nat
  cluster : Nat
  stage : Nat
  slot : Nat
  line : Nat
  q : Nat
deriving DecidableEq, Repr

/-- A read request outstanding on a memory or pairing port: port, TAG, op and tensor word, place of its next line in the
op's sequence of needs, that memory line, the lines left (R396, R397), when it was sent, and the lines that its op awaited through
the port once it was sent (R200). -/
structure ReadReq where
  q : Nat
  tag : Nat
  op : Nat
  ten : Nat
  seq : Nat
  line : Nat
  left : Nat
  since : Nat
  queue : Nat
deriving DecidableEq, Repr

/-- Staging rings, read requests outstanding, and the next request TAG. -/
structure Staging where
  lines : List SLine
  reads : List ReadReq
  nextTag : Nat
deriving DecidableEq, Repr

/-- A trimmed long on a spine link and the register it is for (R113, R255). -/
structure SpineMsg where
  op : Nat
  sc : Nat
  ci : Nat
  row : Nat
  col : Nat
  words : List W64
  resent : Bool
deriving DecidableEq, Repr

/-- A spine link: the send buffer (held until the credit returns), what is in flight, and whether a resend is owed. -/
structure LinkSt where
  buf : List SpineMsg
  wire : List SpineMsg
  resend : Bool
deriving DecidableEq, Repr

/-! ### Ops, regions, admission (chapters 5, 8, 9) -/

/-- The kinds of op, by row of the table; `reroll` is the replay of a rerolled op (R284), and `tagged` stands for a
provisional contribution that has completed, while its region can still withdraw it (R314, R317), and `clear` for the rows that a
DRAIN cut short still has to clear (R154). -/
inductive OpK where
  | loadw
  | stream
  | preload
  | drain
  | scan
  | mpass
  | owner
  | contrib
  | trimmed
  | collection
  | retract
  | fenceOrder
  | fenceEpoch
  | fenceQuiesce
  | gate
  | commit
  | squash
  | save
  | restore
  | dict
  | ballast
  | reroll
  | tagged
  | clear
deriving DecidableEq, Repr

/-- A resource of the assured timeline that keeps a slip count (R201): a chain; its shares of the operand and weight lanes and of the
core drain; the lease of a tile quarter; the units of a port in one direction; the spine link leaving a core; a cascade port. -/
inductive Res where
  | chain (k : Nat)
  | lane (k : Nat)
  | drain (k : Nat)
  | tile (q : Nat)
  | units (k : Nat)
  | spine (core : Nat)
  | port (q : Nat)
deriving DecidableEq, Repr

/-- The priced components of an op (Table 08-2): feeder lead, first weight load, tokens or register rows, and what follows them, in
1/512 of the priced period; the token period with no load to hide; memory and link time in ticks of 1/256 step, and that of one weight
set, `wps`, in ps. -/
structure OpLen where
  lead : Nat
  load : Nat
  wps : Nat
  tok : Nat
  post : Nat
  per : Nat
  fixed : Nat
deriving DecidableEq, Repr

/-- An outstanding op in the hardware op table (R219, R349). Times `start` and `finish` are the priced ones in 1/256 step (R197); `lens`
its priced components at the priced period `tau` (ps). `req` is how many lines of each tensor word have been requested from memory, `wl` the
load in force on each chain at acceptance (R180), `cmpq` the quarters that hold compare records for a DRAIN (R156, R418), `rd` the descriptor
of the op that a companion rolls with (R169), `rel` the release time of its cores (R333), `res` the resources it uses with their slip at its
acceptance (R201), `wdue` the time by which its writes are due at its reserved share (R200), `sent` the time its last frame left (R324), `flr`
its tenant's epoch floor at its acceptance (R236, R238), and `dflt` says that the power stage left its obligations while it was outstanding
(R203). `tbs` holds the term bound and mode in acceptance order of the quarters that it will trim (log 18), `held` the quarters that a context
op covers, as at its acceptance (R361), `cuts` the epochs that a fence under discard or a REVOKE has fenced since, as the floor before it and
its FEPOCH (R237, R238), and `sets` the weight sets in force there by chain (R362). -/
structure Op where
  id : Nat
  k : OpK
  d : Desc
  form : Bool
  cAcc : Nat
  deadline : Nat
  start : Nat
  finish : Nat
  rel : Nat
  tau : Nat
  lens : OpLen
  units : List Nat
  chains : List ChainId
  res : List (Res × Nat)
  tl : List Nat
  tl2 : List Nat
  comp : List Nat
  rolled : Option Nat
  started : Bool
  stopped : Bool
  pres : List Nat
  added : List Nat
  loads : List Nat
  wl : List (Option LoadId)
  rows : List Nat
  retried : Bool
  failed : Bool
  poisoned : Bool
  ending : Option Nat
  own : Nat
  wout : Nat
  wdue : Nat
  sent : Nat
  dflt : Bool
  fin : Bool
  ackc : Option Nat
  got : Nat
  again : Bool
  waits : List Nat
  flr : Nat
  reroll : Option Nat
  verdict : Option Nat
  dstat : Nat
  cmpq : List Nat
  img : List (Nat × BitVec 512)
  req : List (Nat × Nat)
  rd : Option Desc
  tbs : List (Nat × Nat × TMode)
  held : List Nat
  cuts : List (Nat × Nat)
  sets : List (Nat × WSet)
deriving DecidableEq, Repr

/-- A snapshot of a tile (handle) for a region: the op whose first write it precedes, its place in the tenant's snapshot area (buffer
address and bytes reserved, R224), the term bound and mode of each quarter in acceptance order just before that op (log 18), whether it
has been taken, and whether it has been restored or cancelled (R223 to R225, R229). -/
structure Snap where
  tile : Nat
  op : Nat
  addr : Nat
  bytes : Nat
  tb : List Nat
  mode : List TMode
  taken : Bool
  closed : Bool
deriving DecidableEq, Repr

/-- A provisional region that is open or closing (R221 to R231): `bound` holds the buffer ranges (key, bytes) that its ops
write (R226), `wrote` the tile quarters that they write (R283). -/
structure Region where
  tenant : Nat
  num : Nat
  gkind : Nat
  ttl : Nat
  cGate : Nat
  closer : Option Nat
  squash : Bool
  closing : Bool
  snaps : List Snap
  bound : List (Nat × Nat)
  wrote : List Nat
  verdicts : List Nat
deriving DecidableEq, Repr

/-- A response record, and the descriptor credits that its emission returns: those of the descriptors that an admission
response answers, none for a completion record (R118, R120, R149). -/
structure Resp where
  w0 : W64
  w1 : W64
  credits : Nat
deriving DecidableEq, Repr

/-- The work port and the planner's arrival order (R118, R119, R126, R217); ops with acceptance numbers below `mute` were
accepted before a loss of the work source and send no completion record (R406). -/
structure Adm where
  openA : Bool
  wdCredits : Nat
  wait : List Desc
  held : List Desc
  respQ : List Resp
  respCr : Nat
  nextId : Nat
  mute : Nat
deriving DecidableEq, Repr

/-- A dictionary drain slot: the request value, its tenant (role H), the acceptance number it was queued at, the state
(0 served, 1 queued, 2 refused), the quarters that held compare records then, and the result's codes and sideband bytes (R170,
R171). -/
structure DrainSlot where
  req : Nat
  tenant : Nat
  at_ : Nat
  state : Nat
  cmpq : List Nat
  codes : List Code
  sb : List Byte
deriving DecidableEq, Repr

/-! ### Cascade (chapter 12) -/

/-- A claim under way (R298). -/
structure Claim where
  term : Nat
  since : Nat
  agree : List Nat
deriving DecidableEq, Repr

/-- A group slot: live mask, first player, term, claim, route tables received, last beacons, allotments granted as first
player (receiver, sender, flits), reductions awaiting confirmation (receiver, sender), the ops whose delivery this member
awaits before it confirms a reduction, and flits in use at each position (R298 to R301). -/
structure GroupSt where
  live : List Nat
  first : Option Nat
  term : Nat
  claim : Option Claim
  tabs : List (Nat × List Byte)
  heard : List (Nat × Nat)
  grants : List (Nat × Nat × Nat)
  decs : List (Nat × Nat)
  confirm : Option (List Nat)
  used : List (Nat × Nat)
deriving DecidableEq, Repr

/-- Slot states (Table 12-4). -/
inductive SlotState where
  | empty
  | receiving
  | held
  | final
  | excised
deriving DecidableEq, Repr

/-- A slot of a range: the contribution it holds, frames added, running and recorded checksum, ledger entries (element,
flag bits NAN 1, PINF 2, NINF 4, POISON 8), whether its reservation is used up, the code after which a withdrawal is
awaited, the progress of a withdrawal or retraction, whether it has answered CSUM before (R307 to R312, R316, R318), and the terms by
quarter that the stream in progress has brought (R309). -/
structure Slot where
  st : SlotState
  src : Nat
  cid : Nat
  prov : Option (Nat × Nat × Nat)
  nf : Nat
  cs : Nat
  ledger : List (Nat × Nat)
  used : Bool
  crc : Nat
  csum : Nat
  drop : Bool
  await : Option Nat
  wd : Option (Nat × Nat)
  undo : Bool
  nanRec : Bool
  again : Bool
  tq : Sparse Nat
deriving DecidableEq, Repr

/-- A range record (R306, R320); `ccrc` holds the positions whose COLLECT has failed its CRC once (R305). -/
structure Range where
  g : Nat
  group : Nat
  bucket : Nat
  eoff : Nat
  elems : Nat
  ncon : Nat
  fmt : Nat
  hier : Bool
  excise : Bool
  tenant : Nat
  tiles : List Nat
  slots : List Slot
  colls : List Nat
  op : Option Nat
  last : Nat
  badSum : Bool
  ccrc : List Nat
deriving DecidableEq, Repr

/-- What a send job carries (R302 to R305, R313, R316, R318). -/
inductive JobK where
  | contrib
  | withdraw
  | retract
  | unretract
  | collect
  | results
deriving DecidableEq, Repr

/-- A send job: the op it belongs to, group slot, destination position, next frame number, number of DATA or RESULT frames,
the checksum share of each frame sent (R310), whether it has been resent, and whether its last frame has gone (R302). -/
structure Job where
  id : Nat
  op : Nat
  k : JobK
  g : Nat
  dest : Nat
  next : Nat
  total : Nat
  cs : List Nat
  resent : Bool
  ended : Bool
deriving DecidableEq, Repr

/-! ### Power (chapter 13) -/

/-- An island as last reported (R338, R339): voltage, junction, RAIL, ENV, time of the last VT, the time since which its reports lie
outside the band, and whether its excursion has been recorded. -/
structure Island where
  mv : Nat
  tj : Nat
  rail : Nat
  env : Nat
  last : Nat
  outSince : Option Nat
  exc : Bool
deriving DecidableEq, Repr

/-- A forecast sent: level (0.1 A), the time it was sent, its lead (R332). -/
structure Forecast where
  level : Nat
  sent : Nat
  lead : Nat
deriving DecidableEq, Repr

/-- An interval of a core in the planned draw: at full load `cur` from its release time `rel` until `until_` (R333); the LEVEL of its
last op, which the hold keeps, and the time of that op's last token, 0 before the first (R334). An interval whose hold has ended tapers
from `until_` on. -/
structure PlanCore where
  core : Nat
  cur : Nat
  rel : Nat
  until_ : Nat
  level : Nat
  last : Nat
deriving DecidableEq, Repr

/-- Envelope, metering and forecasts. `lost` says that the power stage has been lost and not every island has reported
settled since (R406); `up` is the step-up asked for and when (R341), `granted` and `grantCap` the envelope and the cap of a grant that waits for
settled reports (R342), `met` the islands that have reported settled for it (R339), `taper` the intervals of the plan whose hold has ended
(R334), `ofs` the voltage offsets asked for by core (R345). `energy` is the sum over the tokens of this step of enabled cells times the square of
the island voltage in mV (R328, R329); draws are in microamperes. -/
structure Power where
  env : Nat
  metEnv : Nat
  up : Option (Nat × Nat)
  pendEnv : Option Nat
  pendCap : Option Nat
  byStage : Bool
  firstReq : Option Nat
  granted : Option Nat
  grantCap : Option Nat
  met : List Nat
  lastChange : Nat
  changed : Bool
  islands : Sparse Island
  exc : Bool
  excLast : Nat
  energy : Nat
  im : Nat
  hist : List Nat
  fLevel : Nat
  fcs : List Forecast
  plan : List PlanCore
  taper : List PlanCore
  rampFree : Nat
  ofs : List (Nat × Nat)
  lost : Bool
deriving DecidableEq, Repr

/-! ### Ports, containment, trust, management, records -/

/-- Flits sent and not yet returned: the op and tenant they belong to, if any, and on a cascade port the group slot and
position they are for (R215, R240, R301). -/
structure Flight where
  op : Option Nat
  tenant : Option Nat
  n : Nat
  peer : Option (Nat × Nat)
deriving DecidableEq, Repr

/-- A port (R394, R404): state 0 down, 1 exchanging, 2 up, 3 quarantined, 4 held down; live lines; link words of the exchange; the time the
present state began; agreement; partner's pool; credits the block holds, and the time when the last of them was spent (R400); flits sent and
not yet returned, in order; frames that wait for credits; on a cascade port the frames that wait in the receive pool, whose credits have not
gone back (R215, R218); times of its quarantines; total of quarantines; last reason. -/
structure PortSt where
  st : Nat
  liveI : Bool
  liveO : Bool
  capIn : Option W64
  selOut : Option W64
  selIn : Option W64
  since : Nat
  agreed : Nat
  feat : Nat
  pool : Nat
  cr : Nat
  dry : Nat
  fly : List Flight
  wait : List (Flight × Frame)
  rx : List Frame
  qtimes : List Nat
  qcount : Nat
  reason : Nat
deriving DecidableEq, Repr

/-- The deck sequencer (R286): 0 idle, 1 test pending, 2 testing; core under test; the released unit's address of a release
test; whether the test follows an offence (R274); priority and release tests waiting (core, and the released unit's address
for a release test); place in the rotation; time of the last rotation start. -/
structure DeckSt where
  state : Nat
  core : Option Nat
  rel : Option Nat
  byPrio : Bool
  prio : List (Nat × Option Nat)
  next : Nat
  last : Nat
deriving DecidableEq, Repr

/-- Containment: offences with their times, the units whose core has passed a test since their last offence (R276), the deck,
capture slots (bytes as a number) with busy marks, sweeps running. -/
structure Contain where
  offences : List (HwUnit × Nat)
  clean : List HwUnit
  deck : DeckSt
  caps : Sparse Nat
  capBusy : List Nat
  capNext : Nat
  capSeq : List (Nat × Nat)
  sweeps : List Nat
deriving DecidableEq, Repr

/-- An image in package flash: kind, version, bytes, and whether it is the one in force (R352). -/
structure Image where
  kind : Nat
  dver : Nat
  bytes : List Byte
  inForce : Bool
deriving DecidableEq, Repr

/-- TMON's state (chapter 14): heartbeat, GFW restart under way, ROM digest of the root key, images, transfer, debug, an
activation under way (R353), and whether the first heartbeat of an image activated is awaited. -/
structure Trust where
  heartbeat : Nat
  gfwDown : Bool
  romKey : Nat
  images : List Image
  xKind : Nat
  xTotal : Nat
  xBytes : List Byte
  xOpen : Bool
  xStatus : Nat
  dbgOn : Bool
  dbgScope : Nat
  dbgExpiry : Nat
  lastGrant : Nat
  jobAct : Bool
  fresh : Bool
deriving DecidableEq, Repr

/-- A pending change of ownership or buffer range: object key, the value to be written, and the next acceptance number when
it was written (R358, R359). -/
structure Move where
  key : Nat
  val : Nat
  since : Nat
deriving DecidableEq, Repr

/-- A token bucket: source (or tenant), tokens in 1/10^8 of a token, time of the last update, time at which its source was last heard
(R388, R389). -/
structure Bucket where
  src : Nat
  tokens : Nat
  last : Nat
  heard : Nat
deriving DecidableEq, Repr

/-- A kept response to a WRITE (R382). -/
structure Kept where
  src : Nat
  xid : Nat
  w0 : W64
  w1 : W64
  time : Nat
deriving DecidableEq, Repr

/-- An EVENT (first SEQ, records) or NOTICE (object key) sent and not acknowledged (R385, R386). -/
structure Flying where
  xid : Nat
  isEvent : Bool
  seq : Nat
  nrec : Nat
  key : Nat
  sent : Nat
deriving DecidableEq, Repr

/-- Management port state; `drops` holds the sources whose drop has been answered, with the time of that answer (R388), `words` W4 to W7 as
the last reading DICT left them (R145). -/
structure Mgmt where
  buckets : List Bucket
  shared : Bucket
  hBuckets : List Bucket
  kept : List Kept
  fly : List Flying
  notices : List Nat
  nextXid : Nat
  evNext : Nat
  ndTimes : List Nat
  drops : List (Nat × Nat)
  words : List W64
deriving DecidableEq, Repr

/-- An error record: its four words (Table 10-4). -/
structure Rec where
  w0 : W64
  w1 : W64
  w2 : W64
  w3 : W64
deriving DecidableEq, Repr

/-- An open coalescing key (R264): the class key, the severity, when it opened, repeats, the first repeat's time and the
last repeat's words W2 and W3 fields. -/
structure CoKey where
  cls : Nat
  sev : Nat
  unit : Nat
  loc : Nat
  pcol : Nat
  rcvw : Nat
  tenant : Option Nat
  openedAt : Nat
  count : Nat
  firstRep : Nat
  detail : Nat
deriving DecidableEq, Repr

/-- The error ring (R263 to R265): the next SEQ, the unretired sequence numbers in order, the slots, and the records not
written since the last loss record with the time of the first. -/
structure Records where
  seq : Nat
  unret : List Nat
  ring : Sparse Rec
  lostN : Nat
  lostAt : Nat
  keys : List CoKey
deriving DecidableEq, Repr

/-- The dictionary's stored objects in force, the two flash copies, which is current, and commits pending (R372, R373). -/
structure Dict where
  vals : Sparse Nat
  flash0 : Sparse Nat
  flash1 : Sparse Nat
  cur : Bool
  commits : List Nat
deriving DecidableEq, Repr

/-- The sidereal counter and the strobe (R192); `extra` counts the steps by which the port timers have advanced while the strobe was
lost (R408). -/
structure Clock where
  counter : BitVec 64
  lost : Bool
  extra : Nat
deriving DecidableEq, Repr

/-- Start-up and reset sequencing (R410 to R412). -/
structure Boot where
  step : Nat
  cold : Bool
  pgAt : Nat
  duration : Nat
  deck : List OpeningFail
  warm : Option Nat
  warmCause : Nat
deriving DecidableEq, Repr

/-- A line written to memory: its bytes enabled, data, unit parity, unit poison, and the write's tag (Table 16-3 MW). -/
structure MemWrite where
  line : Nat
  be : BitVec 64
  dat : BitVec 512
  par : BitVec 32
  psn : BitVec 32
  prov : Bool
  tenant : Nat
  region : Nat
  epoch : Nat
deriving DecidableEq, Repr

/-- What leaves the block (Table 16-2). -/
inductive Out where
  /-- A response flit of one to four records (WR). -/
  | resp (rs : List (W64 × W64))
  /-- Credits returned on channel `chan` of port `q`. -/
  | credit (q chan n : Nat)
  /-- A read request (MQ, PQ). -/
  | readReq (q tag line lines : Nat)
  /-- A write of one line (MW, PW). -/
  | memWrite (q : Nat) (w : MemWrite)
  /-- A cascade frame (CO); port 0xFE is the loopback path. -/
  | frame (q : Nat) (f : Frame)
  /-- A power-port message (PO). -/
  | power (w : W64)
  /-- A link word (LKO). -/
  | link (q : Nat) (w : W64)
  /-- LIVE_O of a port. -/
  | live (q : Nat) (up : Bool)
  /-- A datagram from an address, port and MAC address to an address and port (R376, R379). -/
  | dgram (src sport mac dst dport : Nat) (payload : List Byte)
  /-- A neighbour advertisement or echo reply (R376). -/
  | icmp (kind dst ident seq : Nat) (data : List Byte)
  /-- A value answered to the trusted monitor's own transaction (role T). -/
  | tmon (key status : Nat)
deriving DecidableEq, Repr

/-- The whole state of the block; `loop` holds the frames on the loopback path, in order (R295). -/
structure State where
  pending : List Instr
  conf : Conf
  pwrGood : Bool
  clk : Clock
  boot : Boot
  dict : Dict
  speed : Sparse (List W64 × List Nat)
  regs : Sparse LongReg
  tiles : Sparse TileQ
  cells : Sparse Cell
  shadow : Sparse Cell
  swr : List Nat
  cores : Sparse CoreSt
  chains : Sparse ChainSt
  buf : Buffer
  stg : Staging
  spine : Sparse LinkSt
  adm : Adm
  ops : List Op
  slips : List (Res × Nat)
  regions : List Region
  drq : List DrainSlot
  groups : Sparse GroupSt
  ranges : List Range
  jobs : List Job
  nextJob : Nat
  loop : List Frame
  pwr : Power
  ports : Sparse PortSt
  con : Contain
  tru : Trust
  moves : List Move
  mg : Mgmt
  errs : Records
  out : List Out
  freeCtr : Nat
deriving DecidableEq, Repr

/-! ### Default entries of the sparse tables -/

/-- A cleared register (Table 02-3 resets, R42 Clear). -/
def LongReg.zero : LongReg := ⟨0, false, false, false, false, 0, 0⟩

/-- A quarter with term bound 0 and free mode (R40, R93). -/
def TileQ.zero : TileQ := ⟨0, .free, none⟩

/-- A zero weight (R60). -/
def Cell.zero : Cell := ⟨0, false, false⟩

/-- Shape 16×1 with no engine split (R358). -/
def CoreSt.zero : CoreSt := ⟨0, []⟩

/-- A chain with no weight set and no token. -/
def ChainSt.zero : ChainSt := ⟨none, none, none, none, [], [], []⟩

/-- An idle spine link. -/
def LinkSt.zero : LinkSt := ⟨[], [], false⟩

/-- An island that has not reported. -/
def Island.zero : Island := ⟨0, 0, 0, 0, 0, none, false⟩

/-- A headless group slot (R299, Table 12-8). -/
def GroupSt.zero : GroupSt := ⟨[], none, 0, none, [], [], [], [], none, []⟩

/-- A port that is down with its outputs clamped (R402, R410). -/
def PortSt.zero : PortSt := ⟨0, false, false, none, none, none, 0, 0, 0, 0, 0, 0, [], [], [], [], 0, 0⟩

/-- An empty slot of a range (Table 12-4). -/
def Slot.zero : Slot := ⟨.empty, 0, 0, none, 0, 0, [], false, 0, 0, false, none, none, false, false, false, []⟩

/-- An idle dictionary drain slot (Tables 06-8, 06-9). -/
def DrainSlot.zero : DrainSlot := ⟨0, 0, 0, 0, [], [], []⟩

/-- A bucket not yet drawn on: the full default burst of 64 tokens (Table 15-6). -/
def Bucket.zero : Bucket := ⟨0, 6400000000, 0, 0⟩

/-- The state in which a cold reset holds the block until PWRGOOD rises: everything cleared but FLASH and CONST objects
(R402, R410 Table 16-9), the counter 0 (R192), every port down with its outputs clamped, envelope A (R340). The values
the spec does not give are DESIGN CHOICES: the configuration (log 2), the counter of free values (log 3),
the strobe's line (log 5), what production writes (log 6), the shape of cores (log 7), the acceptance number (log 9). -/
def State.reset : State where
  pending := []
  conf := .d4
  pwrGood := false
  clk := ⟨0, false, 0⟩
  boot := ⟨1, true, 0, 0, [], none, 0⟩
  dict := ⟨[], [], [], false, []⟩
  speed := []
  regs := []
  tiles := []
  cells := []
  shadow := []
  swr := []
  cores := []
  chains := []
  buf := ⟨[], [], []⟩
  stg := ⟨[], [], 0⟩
  spine := []
  adm := ⟨false, 0, [], [], [], 0, 0, 0⟩
  ops := []
  slips := []
  regions := []
  drq := [.zero, .zero, .zero]
  groups := []
  ranges := []
  jobs := []
  nextJob := 0
  loop := []
  pwr := ⟨0, 0, none, none, none, false, none, none, none, [], 0, false, [], false, 0, 0, 0, [], 0, [], [], [], 0, [], false⟩
  ports := []
  con := ⟨[], [], ⟨0, none, none, false, [], 0, 0⟩, [], [], 0, [], []⟩
  tru := ⟨0, false, 0, [], 0, 0, [], false, 0, false, 0, 0, 0, false, false⟩
  moves := []
  mg := ⟨[], .zero, [], [], [], [], 0, 0, [], [], [0, 0, 0, 0]⟩
  errs := ⟨0, [], [], 0, 0, []⟩
  out := []
  freeCtr := 0

end Sys2Proof.Machine
end

