-- ==== Sys2Proof/Machine/Number.lean ====
section
/-! DEFINITION. The number formats: rung table, products, and the rounding of exact long values to EL16, EL8 and comet
pairs (spec/01_number_formats.md; the product terms of spec/02_products_and_long_register.md). Exact values are integers
in units of 2^-271, the least significant bit of the long register. -/

namespace Sys2Proof.Machine

/-- The 128 rungs of Table 01-4 (R20). -/
def rungs : List Nat :=
  [32768, 32946, 33125, 33305, 33486, 33667, 33850, 34034, 34219, 34405, 34591, 34779, 34968, 35158, 35349, 35541] ++
  [35734, 35928, 36123, 36319, 36516, 36715, 36914, 37114, 37316, 37518, 37722, 37927, 38133, 38340, 38548, 38757] ++
  [38968, 39180, 39392, 39606, 39821, 40037, 40255, 40473, 40693, 40914, 41136, 41360, 41584, 41810, 42037, 42265] ++
  [42495, 42726, 42958, 43191, 43425, 43661, 43898, 44137, 44376, 44617, 44859, 45103, 45348, 45594, 45842, 46091] ++
  [46341, 46593, 46846, 47100, 47356, 47613, 47871, 48131, 48393, 48655, 48920, 49185, 49452, 49721, 49991, 50262] ++
  [50535, 50810, 51085, 51363, 51642, 51922, 52204, 52488, 52773, 53059, 53347, 53637, 53928, 54221, 54515, 54811] ++
  [55109, 55408, 55709, 56012, 56316, 56622, 56929, 57238, 57549, 57861, 58176, 58491, 58809, 59128, 59449, 59772] ++
  [60097, 60423, 60751, 61081, 61413, 61746, 62081, 62419, 62757, 63098, 63441, 63785, 64132, 64480, 64830, 65182]

/-- rung[f], with rung[128] taken as 65,536 (R20, R21). -/
def rung (f : Nat) : Nat := rungs.getD f 65536

/-- m[f] = rung[f] + rung[f + 1] (Table 01-5, R21). -/
def midpoint (f : Nat) : Nat := rung f + rung (f + 1)

/-- m8[j] = rung[16j] + rung[16(j + 1)] (Table 01-9, R31). -/
def midpoint8 (j : Nat) : Nat := rung (16 * j) + rung (16 * (j + 1))

/-- The class of a code or term, with the encoding of Table 03-6. -/
inductive Cls where
  | zero
  | fin
  | pinf
  | ninf
  | nan
deriving DecidableEq, Repr

/-- CLASS code of Table 03-6. -/
def Cls.code : Cls → Nat
  | .zero => 0
  | .fin => 1
  | .pinf => 2
  | .ninf => 3
  | .nan => 4

/-- CLASS of a code of Table 03-6; reserved values are read as zero. -/
def Cls.ofCode : Nat → Cls
  | 1 => .fin
  | 2 => .pinf
  | 3 => .ninf
  | 4 => .nan
  | _ => .zero

/-- The log field of an EL16 code (Table 01-1). -/
def logField (c : Code) : Nat := c.toNat % 32768

/-- The sign of an EL16 code (Table 01-1). -/
def signOf (c : Code) : Bool := decide (32768 ≤ c.toNat)

/-- The meaning class of an EL16 code (Table 01-2, R18, R19). -/
def classOf (c : Code) : Cls :=
  let l := logField c
  if l = 0 then (if signOf c then .nan else .zero)
  else if l = 32767 then (if signOf c then .ninf else .pinf)
  else .fin

/-- The EL16 code that an EL8 code is read as (R22, R23). -/
def el8To16 (b : Byte) : Code :=
  let l8 := b.toNat % 128
  let s := b.toNat / 128 * 32768
  if l8 = 0 then BitVec.ofNat 16 s
  else if l8 = 127 then BitVec.ofNat 16 (s + 32767)
  else BitVec.ofNat 16 (s + 0x3C00 + 16 * l8)

/-- A product term (Table 02-1): class, sign, position, rung, poison, and the residues modulo 127 and 255 of its integer
(R36, R243). -/
structure Term where
  cls : Cls
  sign : Bool
  pos : Nat
  rung : Nat
  psn : Bool
  r127 : BitVec 7
  r255 : BitVec 8
deriving DecidableEq, Repr

/-- The residue of a signed integer modulo m, as a number (R242). -/
def residue (x : Int) (m : Nat) : Nat := (x % (m : Int)).toNat

/-- ρ127[f], of the residue table beside the rung table (R243). -/
def rho127 (f : Nat) : Nat := rung f % 127

/-- ρ255[f] (R243). -/
def rho255 (f : Nat) : Nat := rung f % 255

/-- A number with the sign of a term. -/
def signed (neg : Bool) (n : Nat) : Int := if neg then -(n : Int) else n

/-- The finite term of sign s, position p and rung index f, its residues from the residue table rotated by p (R35, R243). -/
def finTerm (neg : Bool) (p f : Nat) (psn : Bool) : Term :=
  ⟨.fin, neg, p, rung f, psn, BitVec.ofNat 7 (residue (signed neg (rho127 f * 2 ^ (p % 7))) 127),
    BitVec.ofNat 8 (residue (signed neg (rho255 f * 2 ^ (p % 8))) 255)⟩

/-- The integer that a term adds to a register, in units of 2^-271 (R35, R37). -/
def Term.value (t : Term) : Int :=
  match t.cls with
  | .fin => signed t.sign (t.rung * 2 ^ t.pos)
  | _ => 0

/-- An infinity of a sign as a class. -/
def infCls (neg : Bool) : Cls := if neg then .ninf else .pinf

/-- Whether a class is an infinity. -/
def Cls.isInf : Cls → Bool
  | .pinf => true
  | .ninf => true
  | _ => false

/-- The term that is not finite: position and rung 0, sign 0 for zero and NaN, both residues 0 (Table 02-1, R243). -/
def specialTerm (c : Cls) (psn : Bool) : Term := ⟨c, c == .ninf, 0, 0, psn, 0, 0⟩

/-- The product term of two EL16 codes: Table 01-7 for specials (R26), R25 and R35 for finite codes. X + 16,384 is
L1 + L2, so p = (L1 + L2) / 128 and f = (L1 + L2) mod 128. -/
def product (a b : Code) (psn : Bool) : Term :=
  let neg := signOf a != signOf b
  let ca := classOf a
  let cb := classOf b
  if ca = .nan ∨ cb = .nan then specialTerm .nan psn
  else if (ca = .zero ∧ cb.isInf) ∨ (ca.isInf ∧ cb = .zero) then specialTerm .nan psn
  else if ca.isInf ∨ cb.isInf then specialTerm (infCls neg) psn
  else if ca = .zero ∨ cb = .zero then specialTerm .zero psn
  else
    let sum := logField a + logField b
    finTerm neg (sum / 128) (sum % 128) psn

/-- A code entered into a register: the format product of the code and 1.0 (R43). -/
def termOfCode (c : Code) (psn : Bool) : Term := product c 0x4000 psn

/-- The magnitude of the finite EL16 log field L in units of 2^-271: rung[f] × 2^(e + 256) (R18, R43). -/
def codeMag (l : Nat) : Nat := rung (l % 128) * 2 ^ (l / 128 + 128)

/-- The magnitude of the finite EL8 log field in units of 2^-271 (R22). -/
def codeMag8 (l8 : Nat) : Nat := codeMag (0x3C00 + 16 * l8)

/-- What a rounding by value gave: the code, and the OVF, SATD and UNF marks of Table 06-1. -/
structure Rounded where
  code : Code
  satd : Bool
  ovf : Bool
  unf : Bool
deriving DecidableEq, Repr

/-- The number of table entries `r` with 2 × r × 2^lg ≤ a × 2^16, that is 2 × rung ≤ t (R29). -/
def countBelow (tab : List Nat) (a lg : Nat) : Nat :=
  (tab.filter (fun r => 2 * r * 2 ^ lg ≤ a * 65536)).length

/-- Rounding by value to EL16, by the procedure of R29 and R30; `x` in units of 2^-271. -/
def round16 (x : Int) (sat : Bool) : Rounded :=
  let a := x.natAbs
  let s := if x < 0 then 32768 else 0
  if a = 0 then ⟨0, false, false, false⟩
  else if 2 * a ≤ codeMag 1 then ⟨0, false, false, true⟩
  else if a < codeMag 1 then ⟨BitVec.ofNat 16 (s + 1), false, false, false⟩
  else
    let lg := Nat.log2 a
    let f := countBelow rungs a lg - 1
    let up := midpoint f * 2 ^ lg < a * 65536 ∨ (a * 65536 = midpoint f * 2 ^ lg ∧ f % 2 = 1)
    let l := 128 * lg + f + (if up then 1 else 0) - 18304
    if 32767 ≤ l then
      (if sat then ⟨BitVec.ofNat 16 (s + 32766), true, false, false⟩
       else ⟨BitVec.ofNat 16 (s + 32767), false, true, false⟩)
    else ⟨BitVec.ofNat 16 (s + l), false, false, false⟩

/-- The eight EL8 rungs of Table 01-9. -/
def rungs8 : List Nat := [32768, 35734, 38968, 42495, 46341, 50535, 55109, 60097]

/-- Rounding by value to EL8 (R31): the rule of R29 on the EL8 codes. The code is in the low byte. -/
def round8 (x : Int) (sat : Bool) : Rounded :=
  let a := x.natAbs
  let s := if x < 0 then 128 else 0
  if a = 0 then ⟨0, false, false, false⟩
  else if 2 * a ≤ codeMag8 1 then ⟨0, false, false, true⟩
  else if a < codeMag8 1 then ⟨BitVec.ofNat 16 (s + 1), false, false, false⟩
  else
    let lg := Nat.log2 a
    let j := countBelow rungs8 a lg - 1
    let up := midpoint8 j * 2 ^ lg < a * 65536 ∨ (a * 65536 = midpoint8 j * 2 ^ lg ∧ j % 2 = 1)
    let l := 8 * lg + j + (if up then 1 else 0) + 64 - 2168
    if 127 ≤ l then
      (if sat then ⟨BitVec.ofNat 16 (s + 126), true, false, false⟩
       else ⟨BitVec.ofNat 16 (s + 127), false, true, false⟩)
    else ⟨BitVec.ofNat 16 (s + l), false, false, false⟩

/-- The exact value of an EL16 code in units of 2^-271; 0 for zero and specials. -/
def valueOf (c : Code) : Int := (termOfCode c false).value

/-- The overflow threshold of EL16, m[126] × 2^111, in units of 2^-271 (R30). -/
def overflow16 : Nat := 130012 * 2 ^ 382

/-- The tail of a comet pair for the value `x` and its head (R32). -/
def cometTail (x : Int) (head : Code) : Code :=
  if classOf head ≠ .pinf ∧ classOf head ≠ .ninf ∧ x.natAbs ≤ overflow16
  then (round16 (x - valueOf head) false).code else 0

/-- Output formats of a conversion (Table 05-4, DRAIN column). -/
inductive Fmt where
  | el16
  | el8
  | comet
deriving DecidableEq, Repr

/-- Bytes of an output element (R154). -/
def Fmt.size : Fmt → Nat
  | .el16 => 2
  | .el8 => 1
  | .comet => 4

/-- The result of a conversion: head (or the only code), tail (comet only), and the rounding marks. -/
structure Conv where
  head : Code
  tail : Code
  satd : Bool
  ovf : Bool
  unf : Bool
deriving DecidableEq, Repr

/-- The code of a flagged register in a format (Table 01-8); a class is a NaN or an infinity here. -/
def specialCode (fmt : Fmt) (c : Cls) : Code :=
  match fmt with
  | .el8 => (match c with
    | .pinf => 0x7F
    | .ninf => 0xFF
    | _ => 0x80)
  | _ => (match c with
    | .pinf => 0x7FFF
    | .ninf => 0xFFFF
    | _ => 0x8000)

/-- Conversion of a long value and its flags (R28 to R34). -/
def convert (fmt : Fmt) (sat : Bool) (x : Int) (nan pinf ninf : Bool) : Conv :=
  if nan ∨ (pinf ∧ ninf) then ⟨specialCode fmt .nan, 0, false, false, false⟩
  else if pinf then ⟨specialCode fmt .pinf, 0, false, false, false⟩
  else if ninf then ⟨specialCode fmt .ninf, 0, false, false, false⟩
  else
    match fmt with
    | .el16 => let r := round16 x sat; ⟨r.code, 0, r.satd, r.ovf, r.unf⟩
    | .el8 => let r := round8 x sat; ⟨r.code, 0, r.satd, r.ovf, r.unf⟩
    | .comet => let r := round16 x sat; ⟨r.code, cometTail x r.code, r.satd, r.ovf, r.unf⟩

/-- The fused multiply's product step (R158): y and g are codes of the format `fmt` (EL16 or EL8). -/
def productStep (fmt : Fmt) (sat : Bool) (y g : Code) : Conv :=
  let y16 := if fmt = .el8 then el8To16 (y.setWidth 8) else y
  let g16 := if fmt = .el8 then el8To16 (g.setWidth 8) else g
  let t := product y16 g16 false
  match t.cls with
  | .nan => ⟨specialCode fmt .nan, 0, false, false, false⟩
  | .pinf => ⟨specialCode fmt .pinf, 0, false, false, false⟩
  | .ninf => ⟨specialCode fmt .ninf, 0, false, false, false⟩
  | .zero => ⟨0, 0, false, false, false⟩
  | .fin =>
    match fmt with
    | .el8 =>
      let x8 := y.toNat % 128 + g.toNat % 128
      if 65 ≤ x8 ∧ x8 ≤ 190 then ⟨BitVec.ofNat 16 (bit t.sign * 128 + (x8 - 64)), 0, false, false, false⟩
      else let r := round8 t.value sat; ⟨r.code, 0, r.satd, r.ovf, r.unf⟩
    | _ =>
      let x := logField y + logField g
      if 16385 ≤ x ∧ x ≤ 49150 then ⟨BitVec.ofNat 16 (bit t.sign * 32768 + (x - 16384)), 0, false, false, false⟩
      else let r := round16 t.value sat; ⟨r.code, 0, r.satd, r.ovf, r.unf⟩

/-- Negation of an activation code by the feeder (R174). -/
def negCode (c : Code) : Code := if logField c = 0 then c else c ^^^ 0x8000

end Sys2Proof.Machine
end

