-- ==== Sys2Proof/Machine/LongReg.lean ====
section
/-! DEFINITION. The long register, its residues, the register operations of Table 02-4, trimmed longs, and the compare
records of compare mode (spec/02_products_and_long_register.md, spec/03_engine_array.md R88 to R92,
spec/10_detection.md R242 to R244). -/

namespace Sys2Proof.Machine

/-- The signed integer N of a register (R39). -/
def LongReg.val (r : LongReg) : Int := r.n.toInt

/-- The residues of N computed from its limbs (R244). -/
def LongReg.residuesOf (n : BitVec 576) : BitVec 7 × BitVec 8 :=
  (BitVec.ofNat 7 (residue n.toInt 127), BitVec.ofNat 8 (residue n.toInt 255))

/-- The register-read check: the sideband residues against those of N (Table 10-1). -/
def LongReg.checks (r : LongReg) : Bool := (r.r127, r.r255) == LongReg.residuesOf r.n

/-- What enters a register: a value, the specials ORed in, and poison. -/
structure Incoming where
  v : Int
  nan : Bool
  pinf : Bool
  ninf : Bool
  psn : Bool
deriving DecidableEq, Repr

/-- Nothing enters. -/
def Incoming.zero : Incoming := ⟨0, false, false, false, false⟩

/-- A product term as what enters a register (R37). -/
def Incoming.ofTerm (t : Term) : Incoming := ⟨t.value, t.cls == .nan, t.cls == .pinf, t.cls == .ninf, t.psn⟩

/-- Two things that enter together: values add, flags OR (R44, R53). -/
def Incoming.plus (a b : Incoming) : Incoming :=
  ⟨a.v + b.v, a.nan || b.nan, a.pinf || b.pinf, a.ninf || b.ninf, a.psn || b.psn⟩

/-- An EL16 code as what enters (R43). -/
def Incoming.ofCode (c : Code) (psn : Bool) : Incoming := Incoming.ofTerm (termOfCode c psn)

/-- A comet pair enters as the sum of its head and its tail (R43). -/
def Incoming.ofComet (h t : Code) (psn : Bool) : Incoming := (Incoming.ofCode h psn).plus (Incoming.ofCode t psn)

/-- Two residues added modulo m (R242). -/
def plusResidue (w m : Nat) (a b : BitVec w) : BitVec w := BitVec.ofNat w ((a.toNat + b.toNat) % m)

/-- Residues after a value is added: the sideband residues plus the incoming ones (Table 10-1, register add). -/
def addResidue (w m : Nat) (old : BitVec w) (v : Int) : BitVec w :=
  BitVec.ofNat w ((old.toNat + residue v m) % m)

/-- Add: N + value, flags ORed (Table 02-4). -/
def LongReg.add (r : LongReg) (i : Incoming) : LongReg :=
  { n := r.n + BitVec.ofInt 576 i.v
    nan := r.nan || i.nan
    pinf := r.pinf || i.pinf
    ninf := r.ninf || i.ninf
    poison := r.poison || i.psn
    r127 := addResidue 7 127 r.r127 i.v
    r255 := addResidue 8 255 r.r255 i.v }

/-- Subtract: N − value, flags and poison unchanged (Table 02-4, R57). -/
def LongReg.sub (r : LongReg) (v : Int) : LongReg :=
  { r with
    n := r.n - BitVec.ofInt 576 v
    r127 := addResidue 7 127 r.r127 (-v)
    r255 := addResidue 8 255 r.r255 (-v) }

/-- Preload (overwrite): the value, flags and poison of the preloaded element only (Table 02-4). -/
def LongReg.preload (i : Incoming) : LongReg := LongReg.zero.add i

/-- A register whose POISON is set, N unchanged (R237, R254, R272, R419). -/
def LongReg.mark (r : LongReg) : LongReg := { r with poison := true }

/-- A register with given N and flags and the residues of N. -/
def LongReg.ofVal (n : BitVec 576) (nan pinf ninf psn : Bool) : LongReg :=
  let rs := LongReg.residuesOf n
  ⟨n, nan, pinf, ninf, psn, rs.1, rs.2⟩

/-- Limb i of N (R11). -/
def limb (n : BitVec 576) (i : Nat) : W64 := n.extractLsb' (64 * i) 64

/-- The sign fill of bit 63 of a limb. -/
def signFill (l : W64) : W64 := if l.msb then BitVec.allOnes 64 else 0

/-- The lowest limb that is not zero, from limb `i` up; `k` limbs are left (R56). -/
def lowLimb (n : BitVec 576) : Nat → Nat → Nat
  | _, 0 => 0
  | i, k + 1 => if limb n i ≠ 0 then i else lowLimb n (i + 1) k

/-- Whether every limb above `h` equals the sign fill of limb `h`. -/
def topFilled (n : BitVec 576) (h : Nat) : Bool :=
  (List.range 9).all fun i => decide (i ≤ h) || limb n i == signFill (limb n h)

/-- HI: the lowest limb at or above `i` above which all is sign fill (R56). -/
def highLimb (n : BitVec 576) : Nat → Nat → Nat
  | i, 0 => i
  | i, k + 1 => if topFilled n i then i else highLimb n (i + 1) k

/-- The smallest k with 2^k ≥ the term bound, from `k` up (R56). -/
def texpFrom (tb : Nat) : Nat → Nat → Nat
  | k, 0 => k
  | k, m + 1 => if tb ≤ 2 ^ k then k else texpFrom tb (k + 1) m

/-- TEXP of a term bound (R56). -/
def texp (tb : Nat) : Nat := texpFrom tb 0 48

/-- The header word of a trimmed long (Table 02-5). -/
def trimHeader (r : LongReg) (hi lo z te : Nat) : W64 :=
  BitVec.ofNat 64 (at_ 1 60 + at_ r.r255.toNat 48 + at_ r.r127.toNat 40 + at_ (bit r.poison) 39 + at_ (bit r.ninf) 38 +
    at_ (bit r.pinf) 37 + at_ (bit r.nan) 36 + at_ hi 32 + at_ lo 28 + at_ z 27 + at_ te 16)

/-- The canonical trimmed long of a register, from a tile quarter of the given term bound (R54, R56). -/
def trim (r : LongReg) (tb : Nat) : List W64 :=
  if r.n = 0 then [trimHeader r 0 0 1 (texp tb)]
  else
    let lo := lowLimb r.n 0 9
    let hi := highLimb r.n lo (8 - lo)
    trimHeader r hi lo 0 (texp tb) :: (List.range (hi - lo + 1)).map (fun i => limb r.n (lo + i))

/-- A trimmed long as received: the register it stands for (with the residues of its header) and its term exponent. -/
structure Trimmed where
  reg : LongReg
  te : Nat
deriving DecidableEq, Repr

/-- The number that limb words make from limb `lo` up, with the sign fill above (R54). -/
def fromLimbs (lo : Nat) (ws : List W64) : BitVec 576 :=
  let raw : Nat := ws.foldr (fun (w : W64) (acc : Nat) => w.toNat + 2 ^ 64 * acc) 0
  let width := 64 * ws.length
  let signed : Int := if 2 ^ (width - 1) ≤ raw ∧ width ≠ 0 then (raw : Int) - 2 ^ width else raw
  BitVec.ofInt 576 (signed * 2 ^ (64 * lo))

/-- The limb words that follow a header (R54). -/
def trimCount (h : W64) : Nat := if bitOf h.toNat 27 then 0 else fld h 35 32 - fld h 31 28 + 1

/-- Whether a header is well-formed (R55). -/
def trimWf (h : W64) : Bool :=
  fld h 63 60 == 1 && fld h 59 56 == 0 && fld h 47 47 == 0 && fld h 26 22 == 0 && fld h 15 0 == 0 &&
    decide (fld h 31 28 ≤ fld h 35 32) && decide (fld h 35 32 ≤ 8) && decide (fld h 21 16 ≤ 48) &&
    (!bitOf h.toNat 27 || (fld h 35 32 == 0 && fld h 31 28 == 0))

/-- Reads a trimmed long: none when it is not well-formed or its limb words are missing (R55). -/
def untrim (ws : List W64) : Option Trimmed :=
  match ws with
  | [] => none
  | h :: ls =>
    if trimWf h = false ∨ ls.length ≠ trimCount h then none
    else
      let n := if bitOf h.toNat 27 then 0 else fromLimbs (fld h 31 28) ls
      some ⟨⟨n, bitOf h.toNat 36, bitOf h.toNat 37, bitOf h.toNat 38, bitOf h.toNat 39,
        BitVec.ofNat 7 (fld h 46 40), BitVec.ofNat 8 (fld h 55 48)⟩, fld h 21 16⟩

/-- The header residues of a trimmed long against its limbs, a field above 126 or 254 failing (R55, R244). -/
def Trimmed.checks (t : Trimmed) : Bool := t.reg.checks

/-- A register as what enters another register (Table 02-4, add a trimmed long). -/
def LongReg.incoming (r : LongReg) : Incoming := ⟨r.val, r.nan, r.pinf, r.ninf, r.poison⟩

/-! ### Compare mode -/

/-- A candidate: class, sign, position, rung and index (R88). -/
structure Cand where
  cls : Cls
  sign : Bool
  pos : Nat
  rung : Nat
  index : Nat
deriving DecidableEq, Repr

/-- Rank of a candidate, first to last (Table 03-5). -/
def Cand.rank (min : Bool) (c : Cand) : Nat :=
  match c.cls with
  | .nan => 1
  | .pinf => if min then 6 else 2
  | .ninf => if min then 2 else 6
  | .zero => 4
  | .fin => if c.sign = min then 3 else 5

/-- The order of magnitude of a finite candidate: the pair (p, rung) (R89). -/
def Cand.mag (c : Cand) : Nat := c.pos * 65536 + c.rung

/-- Whether `a` ranks ahead of `b` (R89): by rank, within rank 3 the larger and within rank 5 the smaller magnitude,
then the lower index. -/
def Cand.ahead (min : Bool) (a b : Cand) : Bool :=
  let ra := a.rank min
  let rb := b.rank min
  if ra ≠ rb then decide (ra < rb)
  else if ra = 3 ∧ a.mag ≠ b.mag then decide (b.mag < a.mag)
  else if ra = 5 ∧ a.mag ≠ b.mag then decide (a.mag < b.mag)
  else decide (a.index < b.index)

/-- The first-ranked of two optional candidates. -/
def Cand.best (min : Bool) (a b : Option Cand) : Option Cand :=
  match a, b with
  | none, y => y
  | x, none => x
  | some x, some y => if y.ahead min x then some y else some x

/-- The compare record of a candidate as N: L1 holds INDEX, L0 the candidate with VALID = 1 (Table 03-6). An index kb + k0 + r at
or above 2^48 is ranked as the number it is, and stored modulo 2^48: DESIGN CHOICE, the spec does not say what the 48-bit INDEX
then holds (log 85). -/
def Cand.record (c : Cand) : BitVec 576 :=
  BitVec.ofNat 576 (at_ (c.index % 2 ^ 48) 64 + at_ c.rung 48 + at_ c.pos 39 + at_ c.cls.code 36 + at_ (bit c.sign) 35 + at_ 1 34)

/-- The candidate of a compare record; none when VALID = 0 (R91). -/
def candOf (n : BitVec 576) : Option Cand :=
  let l0 := (limb n 0).toNat
  let l1 := (limb n 1).toNat
  if bitOf l0 34 then
    some ⟨Cls.ofCode (fieldOf l0 38 36), bitOf l0 35, fieldOf l0 47 39, fieldOf l0 63 48, fieldOf l1 47 0⟩
  else none

/-- A running sum as it travels, a windowed long value (R50): the 9-bit limb-valid mask, the number that the marked limbs and
their fill make, the four flags and the two residues; in compare mode the leading candidate (R90). -/
structure RunSum where
  mask : BitVec 9
  n : BitVec 576
  nan : Bool
  pinf : Bool
  ninf : Bool
  psn : Bool
  r127 : BitVec 7
  r255 : BitVec 8
  best : Option Cand
deriving DecidableEq, Repr

/-- The running sum that enters the top of a chain: no limb marked, N = 0 (R50). -/
def RunSum.zero : RunSum := ⟨0, 0, false, false, false, false, 0, 0, none⟩

/-- Limbs LO to HI of a number as R56 finds them, none for 0: its lowest limb that is not zero and the lowest above which all is sign
fill. -/
def limbSpan (n : BitVec 576) : Option (Nat × Nat) :=
  if n = 0 then none
  else
    let lo := lowLimb n 0 9
    some (lo, highLimb n lo (8 - lo))

/-- The mask of limbs `lo` to `hi`. -/
def spanMask (lo hi : Nat) : BitVec 9 := BitVec.ofNat 9 (2 ^ (hi + 1) - 2 ^ lo)

/-- The marked limbs of a mask, lowest and highest; none when it is all zero. -/
def maskSpan (m : BitVec 9) : Option (Nat × Nat) :=
  match (List.range 9).filter (fun i => m.getLsbD i) with
  | [] => none
  | i :: r => some (i, r.getLastD i)

/-- The least span that holds two (R50: the marked limbs are contiguous). -/
def joinSpan (a b : Option (Nat × Nat)) : Option (Nat × Nat) :=
  Option.merge (fun x y => (min x.1 y.1, max x.2 y.2)) a b

/-- The mask after a sum has entered: widened over the limbs of the sum and, for a carry, of the new value (R50; log 86). -/
def widen (m : BitVec 9) (sum new : BitVec 576) : BitVec 9 :=
  match joinSpan (maskSpan m) (joinSpan (limbSpan sum) (limbSpan new)) with
  | none => 0
  | some p => spanMask p.1 p.2

/-- Add a running sum: N + its value, flags ORed, sideband plus incoming residues (Table 02-4, Table 10-1). -/
def LongReg.addRun (r : LongReg) (s : RunSum) : LongReg :=
  { n := r.n + s.n
    nan := r.nan || s.nan
    pinf := r.pinf || s.pinf
    ninf := r.ninf || s.ninf
    poison := r.poison || s.psn
    r127 := plusResidue 7 127 r.r127 s.r127
    r255 := plusResidue 8 255 r.r255 s.r255 }

/-- Whether a candidate takes the place of the record of a register: it ranks ahead of it, or there is none (R90). -/
def LongReg.yields (r : LongReg) (min : Bool) (c : Cand) : Bool :=
  match candOf r.n with
  | none => true
  | some x => c.ahead min x

/-- The record that a register holds once a running candidate has come: the candidate with its own residues when it takes the
record's place, else the record as it was (R90, R91, R247). -/
def LongReg.replaced (r : LongReg) (min : Bool) (b : Option Cand) : LongReg :=
  match b with
  | none => r
  | some c => if r.yields min c then LongReg.ofVal c.record r.nan r.pinf r.ninf r.poison else r

/-- A running candidate that enters a register: the record is replaced only when the candidate ranks ahead of it; flags
and poison are ORed (R90, R91). -/
def LongReg.compare (r : LongReg) (min : Bool) (s : RunSum) : LongReg :=
  let x := r.replaced min s.best
  { x with nan := r.nan || s.nan, pinf := r.pinf || s.pinf, ninf := r.ninf || s.ninf, poison := r.poison || s.psn }

/-- The sideband as the 32-bit word of Table 02-3. -/
def LongReg.sideband (r : LongReg) : Nat :=
  at_ r.r255.toNat 16 + at_ r.r127.toNat 8 + at_ (bit r.poison) 3 + at_ (bit r.ninf) 2 + at_ (bit r.pinf) 1 + bit r.nan

end Sys2Proof.Machine
end

