-- ==== Sys2Proof/Machine/Objects.lean ====
section
/-! DEFINITION. The Yilzil object table: every object of Table 15-3 with its type, rights, default, range and persistence
class, from Tables 00-6, 03-3, 06-7, 08-3, 09-3, 10-5, 11-7, 12-8, 13-5, 14-6, 15-6 and 16-12 (R369 to R375). -/

namespace Sys2Proof.Machine

/-- Clusters built (Table 00-3; log 2). -/
def Conf.clusters : Conf → Nat
  | .d2 => 2
  | .d4 => 4
  | .d8 => 8

/-- Cores built (Table 00-3). -/
def Conf.cores (c : Conf) : Nat := 8 * c.clusters

/-- Engines built (Table 00-3). -/
def Conf.engines (c : Conf) : Nat := 128 * c.clusters

/-- Cascade ports built (Table 00-3). -/
def Conf.cascades (c : Conf) : Nat := c.clusters

/-- Value types (Table 15-1); `oct n` and `vis n` carry a size in bytes. -/
inductive Ty where
  | bool
  | u8
  | u16
  | u32
  | u64
  | time
  | vis (n : Nat)
  | oct (n : Nat)
deriving DecidableEq, Repr

/-- Bytes of a value (Table 15-1). -/
def Ty.size : Ty → Nat
  | .bool => 1
  | .u8 => 1
  | .u16 => 2
  | .u32 => 4
  | .u64 => 8
  | .time => 8
  | .vis n => n
  | .oct n => n

/-- A right of one role (R371). -/
inductive Right where
  | none
  | r
  | w
  | rw
deriving DecidableEq, Repr

/-- Whether a right allows a read. -/
def Right.canRead : Right → Bool
  | .r => true
  | .rw => true
  | _ => false

/-- Whether a right allows a write. -/
def Right.canWrite : Right → Bool
  | .w => true
  | .rw => true
  | _ => false

/-- Persistence classes (Table 15-2). -/
inductive Persist where
  | const
  | flash
  | volatile
deriving DecidableEq, Repr

/-- A row of an object table: type, rights of M, H, T, default, range, the number the value must be a multiple of, and
the persistence class. -/
structure Obj where
  ty : Ty
  m : Right
  h : Right
  t : Right
  dflt : Nat
  lo : Nat
  hi : Nat
  mult : Nat
  per : Persist
deriving DecidableEq, Repr

/-- The key of index:subindex. -/
def key (index sub : Nat) : Nat := 256 * index + sub

/-- An object that every role reads and none writes. -/
def Obj.ro (ty : Ty) (dflt : Nat) (per : Persist) : Obj := ⟨ty, .r, .r, .r, dflt, 0, 0, 1, per⟩

/-- An object that roles M and T write and H reads, with its range. -/
def Obj.cfg (ty : Ty) (dflt lo hi : Nat) (per : Persist) : Obj := ⟨ty, .rw, .r, .rw, dflt, lo, hi, 1, per⟩

/-- An object that only role T writes. -/
def Obj.tmon (ty : Ty) (dflt lo hi : Nat) (per : Persist) : Obj := ⟨ty, .r, .r, .rw, dflt, lo, hi, 1, per⟩

/-- An object that M and T read and write and H does not reach. -/
def Obj.mt (ty : Ty) (dflt lo hi : Nat) (per : Persist) : Obj := ⟨ty, .rw, .none, .rw, dflt, lo, hi, 1, per⟩

/-- An object that only M and T read. -/
def Obj.mtRead (ty : Ty) (per : Persist) : Obj := ⟨ty, .r, .none, .r, 0, 0, 0, 1, per⟩

/-- ASCII text as a little-endian number (R370 VIS). -/
def ascii (cs : List Nat) : Nat := cs.foldr (fun c acc => c + 256 * acc) 0

/-- The bound of a `w`-byte value. -/
def maxOf (w : Nat) : Nat := 256 ^ w - 1

/-- Identity objects (Table 00-6). The host position reads 0xFF, that of a die other than a Uliphor, the model's choice, as the spec does
not say which this part holds (log 6). -/
def objIdentity (conf : Conf) (index sub : Nat) : Option Obj :=
  match index, sub with
  | 0x0000, 0 => some (.ro (.vis 16) (ascii [65, 101, 100, 104, 111, 103, 101, 114, 32, 67, 111, 109, 112, 117, 116, 101]) .const)
  | 0x0000, 1 => some (.ro (.vis 5) (ascii [69, 100, 118, 111, 110]) .const)
  | 0x0001, 0 => some (.ro .u16 0x0100 .const)
  | 0x0002, 0 => some (.ro .u8 conf.clusters .const)
  | 0x0002, 1 => some (.ro .u8 conf.clusters .const)
  | 0x0002, 2 => some (.ro .u64 (2 ^ conf.cores - 1) .const)
  | 0x0003, 0 => some (.ro .u8 1 .const)
  | 0x0004, 0 => some (.ro (.oct 16) 0 .flash)
  | 0x0005, 0 => some (.ro .u8 0xFF .flash)
  | 0x0010, 0 => some (.ro .u16 0x0100 .const)
  | 0x0010, 1 => some (.ro .u64 0 .const)
  | 0x0010, 2 => some (.ro .u8 0 .volatile)
  | 0x0010, 3 => some (.ro .u32 0 .volatile)
  | _, _ => none

/-- Core availability, credits, start-up and ports (Tables 09-3, 11-7, 16-12). -/
def objPorts (index sub : Nat) : Option Obj :=
  match index, sub with
  | 0x1000, 0 => some (.ro .u64 0 .volatile)
  | 0x1000, 1 => some (.tmon .u64 0 0 (maxOf 8) .flash)
  | 0x1200, 0 => some (.ro .u32 0 .volatile)
  | 0x1200, 1 => some (.ro .u16 0 .volatile)
  | 0x1300, 0 => some (.mt .u8 0 1 2 .volatile)
  | 0x1300, 1 => some (.ro .u8 0 .flash)
  | 0x1300, 2 => some (.ro .time 0 .volatile)
  | 0x1300, 3 => some (.ro .u8 0 .volatile)
  | 0x1302, 0 => some (.cfg .time 1000000 100000 6000000000 .flash)
  | 0x1302, 1 => some (.ro .time 200 .const)
  | 0x1302, 2 => some (.ro .time 1000 .const)
  | 0x1302, 3 => some (.ro .time 3000 .const)
  | 0x1302, 4 => some (.ro .time 100000 .const)
  | 0x1302, 5 => some (.ro .time 100000 .const)
  | 0x1303, 0 => some ⟨.bool, .r, .none, .rw, 0, 0, 1, 1, .volatile⟩
  | 0x1304, 0 => some { Obj.cfg .u64 0 0 (maxOf 8) .flash with mult := 2 ^ 20 }
  | 0x1304, 1 => some { Obj.cfg .u64 0 0 (maxOf 8) .flash with mult := 2 ^ 20 }
  | _, _ => none

/-- Whether port index q exists (Table 16-1, R394). -/
def portBuilt (conf : Conf) (q : Nat) : Bool :=
  decide (q = 0) || (decide (1 ≤ q) && decide (q ≤ 8) && decide (q - 1 < conf.clusters)) ||
    (decide (9 ≤ q) && decide (q ≤ 16) && decide (q - 9 < conf.clusters)) ||
    (decide (17 ≤ q) && decide (q ≤ 24) && decide (q - 17 < conf.cascades)) || (decide (25 ≤ q) && decide (q ≤ 28))

/-- Per-port objects 0x1310 + q (Table 16-12). -/
def objPort (sub : Nat) : Option Obj :=
  match sub with
  | 0 => some (.ro .u8 0 .volatile)
  | 1 => some (.ro .u16 0 .volatile)
  | 2 => some (.ro .u8 0 .volatile)
  | 3 => some (.ro .u32 0 .volatile)
  | 4 => some (.ro .u32 0 .volatile)
  | 5 => some (.mt .bool 0 1 1 .volatile)
  | 6 => some (.ro .u8 0 .volatile)
  | _ => none

/-- Management network objects (Table 15-6). -/
def objMgmt (index sub : Nat) : Option Obj :=
  match index, sub with
  | 0x1400, 0 => some (.cfg .u16 7471 1024 65535 .flash)
  | 0x1400, 1 => some (.cfg (.oct 8) 0 0 (maxOf 8) .flash)
  | 0x1400, 2 => some (.tmon (.oct 6) 0 0 (maxOf 6) .flash)
  | 0x1400, 3 => some (.cfg .bool 1 0 1 .flash)
  | 0x1400, 4 => some (.cfg .u8 1 1 254 .flash)
  | 0x1410, 0 => some (.cfg .u16 500 10 5000 .flash)
  | 0x1410, 1 => some (.cfg .u8 64 1 255 .flash)
  | 0x1410, 2 => some (.cfg .u16 1000 10 5000 .flash)
  | 0x1410, 3 => some (.cfg .u8 64 1 255 .flash)
  | 0x1411, 0 => some (.ro .u32 0 .volatile)
  | 0x1411, 1 => some (.ro .u8 0 .volatile)
  | 0x1411, 2 => some (.ro .u32 0 .volatile)
  | 0x4002, 0 => some (.mt (.oct 16) (ascii [0xFE, 0x80, 0, 0, 0, 0, 0, 0, 0, 0, 0, 0, 0, 0, 0, 1]) 0 (maxOf 16) .flash)
  | 0x4002, 1 => some (.mt .u16 7471 1024 65535 .flash)
  | 0x4002, 2 => some (.cfg .time 100000 10000 10000000 .flash)
  | 0x4002, 3 => some (.cfg .u8 4 1 16 .flash)
  | 0x4002, 4 => some (.ro .u64 0 .volatile)
  | 0x4002, 5 => some (.ro .u64 0 .volatile)
  | _, _ => none

/-- Power and planner objects (Tables 08-3, 13-5). -/
def objPower (conf : Conf) (index sub : Nat) : Option Obj :=
  match index, sub with
  | 0x2000, 0 => some (.cfg .u8 0 0 2 .flash)
  | 0x2000, 1 => some (.ro .u8 0 .volatile)
  | 0x2000, 2 => some (.mt .u8 0 0 2 .volatile)
  | 0x2000, 3 => some (.cfg .u16 0 0 65535 .volatile)
  | 0x2000, 4 => some (.ro .time 0 .volatile)
  | 0x2000, 5 => some (.cfg .u8 0 0 2 .flash)
  | 0x2000, 6 => some (.cfg .time 100000000 10000000 500000000 .flash)
  | 0x2000, 7 => some (.ro .u8 0 .volatile)
  | 0x2200, 0 => some (.ro .time 0 .volatile)
  | 0x2200, 1 => some (.cfg .time 5000000 1000 10000000 .flash)
  | 0x2200, 2 => some (.ro .u16 0 .volatile)
  | 0x2200, 3 => some (.ro .u8 1 .flash)
  | 0x2200, 4 => some (.ro .u8 0 .volatile)
  | 0x2300, 0 => some (.ro .u16 0 .volatile)
  | 0x2300, 1 => some (.ro .u16 0 .volatile)
  | 0x2300, 2 => some (.ro .u16 0 .volatile)
  | 0x2300, 3 => some (.cfg .time 5000 0 5000 .flash)
  | 0x2300, 4 => some (.ro .u16 (125 * conf.clusters) .const)
  | 0x2300, 5 => some (.ro .u16 (150 * conf.clusters) .const)
  | _, _ => none

/-- Envelope constants 0x2310 + e (Tables 13-1, 13-5). -/
def objEnv (e sub : Nat) : Option Obj :=
  match sub with
  | 0 => some (.ro .u16 ([620, 750, 850].getD e 0) .const)
  | 1 => some (.ro .u16 ([95, 85, 75].getD e 0) .const)
  | 2 => some (.ro .u16 ([850, 500, 400].getD e 0) .const)
  | 3 => some (.ro .u16 ([300, 575, 825].getD e 0) .const)
  | 4 => some (.ro .u16 ([900, 1125, 1050].getD e 0) .const)
  | 5 => some (.ro .u16 ([1162, 1700, 2184].getD e 0) .const)
  | _ => none

/-- Per-core objects 0x2100 + c (Tables 08-3, 11-7). -/
def objCore (sub : Nat) : Option Obj :=
  match sub with
  | 1 => some (.tmon .u8 0 0 15 .flash)
  | 2 => some (.ro .u8 0 .flash)
  | 3 => some (.tmon .u8 0 0 15 .volatile)
  | 4 => some (.ro .u16 0 .volatile)
  | 5 => some (.ro .u16 0 .volatile)
  | 6 => some (.ro .u16 0 .volatile)
  | 7 => some (.tmon .u8 0 0 5 .flash)
  | 8 => some (.tmon .u8 0 0 3 .flash)
  | _ => none

/-- Per-tenant objects 0x3100 + t (Tables 09-3, 11-7, 14-6, 15-6). -/
def objTenant (sub : Nat) : Option Obj :=
  match sub with
  | 0x0 => some (.cfg .u8 0 0 1 .flash)
  | 0x1 => some (.ro .u16 0 .volatile)
  | 0x2 => some ⟨.u8, .rw, .rw, .rw, 0, 0, 1, 1, .volatile⟩
  | 0x3 => some (.ro .u64 0 .volatile)
  | 0x4 => some (.ro .u32 0 .volatile)
  | 0x5 => some { Obj.cfg .u32 1048576 0 8388608 .flash with mult := 65536 }
  | 0x6 => some (.cfg .u8 0 0 1 .flash)
  | 0x7 => some ⟨.u32, .rw, .rw, .rw, 0, 0, maxOf 4, 64, .flash⟩
  | 0x8 => some ⟨.u8, .rw, .rw, .rw, 0, 0, 1, 1, .flash⟩
  | 0x9 => some (.ro .u64 0 .volatile)
  | 0xA => some (.ro .u32 0 .volatile)
  | _ => none

/-- Record objects (Table 10-5). -/
def objRecords (index sub : Nat) : Option Obj :=
  match index, sub with
  | 0x4000, 0 => some (.ro .u32 0 .volatile)
  | 0x4000, 1 => some (.ro .u16 0 .volatile)
  | 0x4000, 2 => some (.ro .u32 0 .volatile)
  | 0x4000, 3 => some (.cfg .time 100000 1000 10000000 .flash)
  | 0x4000, 4 => some (.ro .u8 0 .volatile)
  | _, _ =>
    if index = 0x4001 ∧ sub ≤ 5 then some (.ro .u64 0 .volatile)
    else if 0x4010 ≤ index ∧ index ≤ 0x4013 then some (.ro (.oct 32) 0 .volatile)
    else if 0x4100 ≤ index ∧ index < 0x4110 ∧ sub = 0 then some (.ro .u64 0 .volatile)
    else if 0x4100 ≤ index ∧ index < 0x4110 ∧ sub = 1 then some (.ro .u32 0 .volatile)
    else none

/-- One hour and seven days in steps. -/
def hour : Nat := 360000000000

/-- Deck, containment and capture objects (Table 11-7). -/
def objDeck (index sub : Nat) : Option Obj :=
  match index, sub with
  | 0x5000, 0 => some (.cfg .time 8640000000000 hour 60480000000000 .flash)
  | 0x5000, 1 => some (.ro .u32 0 .flash)
  | 0x5000, 2 => some (.ro .u8 0 .volatile)
  | 0x5000, 3 => some (.ro .u8 0xFF .volatile)
  | 0x5000, 4 => some (.mt .bool 0 0 1 .volatile)
  | 0x5000, 5 => some (.ro .u8 0 .flash)
  | 0x5000, 6 => some (.mt .u16 0 0 0x803F .volatile)
  | 0x5010, 0 => some (.cfg .u8 0 0 1 .flash)
  | 0x5010, 1 => some (.cfg .u8 0 0 1 .flash)
  | 0x5010, 2 => some (.cfg .u8 6 2 15 .flash)
  | 0x5010, 3 => some (.cfg .time 8640000000000 hour 60480000000000 .flash)
  | 0x5010, 4 => some (.cfg .u64 0 0 (maxOf 8) .flash)
  | 0x5021, 0 => some (.ro .u32 0 .volatile)
  | 0x5021, 1 => some (.ro .u32 0 .volatile)
  | _, _ => if index = 0x5020 ∧ sub < 32 then some (.mtRead (.oct 256) .volatile) else none

/-- Ageing objects 0x5200 + u (Table 11-7). -/
def objAgeing (sub : Nat) : Option Obj :=
  match sub with
  | 0 => some (.tmon .u8 0 0 15 .flash)
  | 1 => some (.cfg .u8 3 1 8 .flash)
  | 2 => some (.ro (.oct 64) 0 .flash)
  | 3 => some (.mt .bool 0 0 1 .volatile)
  | _ => none

/-- Ageing units that exist (R291, R374). -/
def ageingBuilt (conf : Conf) (u : Nat) : Bool :=
  decide (u < conf.cores) || (decide (64 ≤ u) && decide (u - 64 < conf.cascades)) || decide (u = 72)

/-- Group slot objects 0x6000 + g (Table 12-8). -/
def objGroup (sub : Nat) : Option Obj :=
  match sub with
  | 0 => some (.cfg .u16 0 0 65535 .flash)
  | 1 => some (.cfg .u8 0 0 63 .flash)
  | 2 => some (.cfg .u64 0 0 (maxOf 8) .flash)
  | 3 => some (.cfg .u8 0 0 15 .flash)
  | 4 => some (.ro .u64 0 .volatile)
  | 5 => some (.ro .u8 0xFF .volatile)
  | 6 => some (.ro .u32 0 .volatile)
  | 7 => some (.cfg .time 1000000 10000 100000000 .flash)
  | _ => none

/-- Cascade counters 0x6110 (Table 12-8). -/
def objReduction (sub : Nat) : Option Obj :=
  match sub with
  | 0 => some (.ro .u64 0 .volatile)
  | 1 => some (.ro .u64 0 .volatile)
  | 2 => some (.ro .u32 0 .volatile)
  | 3 => some (.ro .u64 0 .volatile)
  | 4 => some (.ro .u32 0 .volatile)
  | _ => none

/-- Trust and transfer objects (Table 14-6). -/
def objTrust (index sub : Nat) : Option Obj :=
  match index, sub with
  | 0x7000, 0 => some (.ro .u32 0 .flash)
  | 0x7000, 1 => some (.ro .u32 0 .flash)
  | 0x7000, 2 => some (.ro .u32 0 .flash)
  | 0x7000, 3 => some (.ro .u32 0 .flash)
  | 0x7000, 4 => some (.mt .bool 0 0 1 .volatile)
  | 0x7000, 5 => some (.ro .u32 0 .volatile)
  | 0x7000, 6 => some (.ro .u8 0 .flash)
  | 0x7010, 0 => some (.mt .u64 0 0 (maxOf 8) .volatile)
  | 0x7010, 1 => some (.mt .bool 0 0 1 .volatile)
  | 0x7010, 2 => some (.mtRead .u8 .volatile)
  | 0x7011, 0 => some ⟨.oct 256, .w, .none, .w, 0, 0, maxOf 256, 1, .volatile⟩
  | 0xF000, 0 => some (.cfg .u8 0 0 1 .volatile)
  | 0xF000, 1 => some (.mtRead .u16 .volatile)
  | 0xF000, 2 => some (.mtRead .time .volatile)
  | 0xF010, 0 => some (.mt (.oct 8) 0 0 (maxOf 8) .volatile)
  | 0xF010, 1 => some (.mtRead (.oct 128) .volatile)
  | 0xF010, 2 => some ⟨.oct 8, .none, .rw, .rw, 0, 0, maxOf 8, 1, .volatile⟩
  | 0xF010, 3 => some ⟨.oct 128, .none, .r, .r, 0, 0, 0, 1, .volatile⟩
  | 0xF010, 4 => some ⟨.oct 8, .none, .none, .rw, 0, 0, maxOf 8, 1, .volatile⟩
  | 0xF010, 5 => some ⟨.oct 128, .none, .none, .r, 0, 0, 0, 1, .volatile⟩
  | 0xF100, 0 => some (.mt .u32 0 0 (maxOf 4) .volatile)
  | 0xF100, 1 => some (.mtRead (.oct 80) .volatile)
  | _, _ => none

/-- Per-engine objects 0x8000 + n (Tables 03-3, 11-7, 14-6). The column map of production is not given: the model takes 0, no column
bypassed, its choice (log 6). -/
def objEngine (sub : Nat) : Option Obj :=
  match sub with
  | 1 => some (.tmon .u32 0 0 (maxOf 4) .flash)
  | 2 => some (.tmon .u32 0 0 (maxOf 4) .flash)
  | 3 => some (.tmon .u8 0 0 3 .flash)
  | 4 => some (.ro .u8 0 .flash)
  | 5 => some (.ro .time 0 .flash)
  | 6 => some (.cfg .u32 0xFFFFFFFF 0 (maxOf 4) .flash)
  | _ => none

/-- The first of two optional rows. -/
def orObj (a b : Option Obj) : Option Obj := match a with
  | none => b
  | some x => some x

/-- Objects whose index is formed from a unit number; none for a unit that is not built (R374). -/
def objUnit (conf : Conf) (index sub : Nat) : Option Obj :=
  if 0x1310 ≤ index ∧ index < 0x1310 + 29 then (if portBuilt conf (index - 0x1310) then objPort sub else none)
  else if 0x2100 ≤ index ∧ index < 0x2100 + conf.cores then objCore sub
  else if 0x2310 ≤ index ∧ index < 0x2313 then objEnv (index - 0x2310) sub
  else if 0x3100 ≤ index ∧ index < 0x3110 then objTenant sub
  else if 0x3180 ≤ index ∧ index < 0x3190 then
    (if sub < 2 * conf.clusters then some { Obj.cfg .u32 0 0 (2 ^ 25) .flash with mult := 65536 } else none)
  else if 0x3200 ≤ index ∧ index < 0x3200 + conf.cores then
    (match sub with
    | 0 => some (.cfg .u8 0xFF 0 0xFF .flash)
    | 1 => some (.ro .bool 0 .volatile)
    | _ => none)
  else if 0x5200 ≤ index ∧ index ≤ 0x5200 + 72 then (if ageingBuilt conf (index - 0x5200) then objAgeing sub else none)
  else if 0x6000 ≤ index ∧ index < 0x6010 then objGroup sub
  else if 0x6040 ≤ index ∧ index < 0x6050 then (if sub < 64 then some (.cfg .u8 0xFF 0 0xFF .flash) else none)
  else if 0x6080 ≤ index ∧ index < 0x6090 then (if sub < 64 then some (.ro .u16 0 .volatile) else none)
  else if index = 0x6100 then (if sub < conf.cascades then some (.cfg .u8 0 0 1 .flash) else none)
  else if index = 0x6101 then (if sub < conf.clusters then some (.ro .u32 65536 .volatile) else none)
  else if index = 0x6110 then objReduction sub
  else if 0x8000 ≤ index ∧ index < 0x8000 + conf.engines then objEngine sub
  else none

/-- The object table: the row of index:subindex, none where no object exists (R374, R375). -/
def objInfo (conf : Conf) (index sub : Nat) : Option Obj :=
  orObj (objIdentity conf index sub) (orObj (objPorts index sub) (orObj (objMgmt index sub)
    (orObj (objPower conf index sub) (orObj (objRecords index sub) (orObj (objDeck index sub)
      (orObj (objTrust index sub) (objUnit conf index sub)))))))

/-- The table's default of a key. -/
def objDefault (conf : Conf) (k : Nat) : Nat := match objInfo conf (k / 256) (k % 256) with
  | none => 0
  | some o => o.dflt

/-- Whether a key is a FLASH object (R372). -/
def isFlash (conf : Conf) (k : Nat) : Bool := match objInfo conf (k / 256) (k % 256) with
  | none => false
  | some o => o.per == .flash

end Sys2Proof.Machine
end

