-- ==== Sys2Proof/Machine/Ops.lean ====
section
/-! DEFINITION. The named operations over the state that every meaning uses: sparse tables, the cluster buffer, tiles
and registers, dictionary values, error records, responses and outputs. -/

namespace Sys2Proof.Machine

/-! ### Sparse tables and sets -/

/-- The entry of a key. -/
def sfind {α : Type} : Sparse α → Nat → Option α
  | [], _ => none
  | (a, v) :: r, k => if a = k then some v else sfind r k

/-- What a key reads as: its entry, or the default. -/
def sget {α : Type} (d : α) (m : Sparse α) (k : Nat) : α := (sfind m k).getD d

/-- The table with an entry placed at its key. -/
def sput {α : Type} : Sparse α → Nat → α → Sparse α
  | [], k, v => [(k, v)]
  | e :: r, k, v => if e.1 < k then e :: sput r k v else (k, v) :: (if e.1 = k then r else e :: r)

/-- The table without an entry of a key. -/
def sdel {α : Type} : Sparse α → Nat → Sparse α
  | [], _ => []
  | (a, w) :: r, k => if a = k then sdel r k else (a, w) :: sdel r k

/-- A write in canonical form: writing the default removes the entry. -/
def sset {α : Type} [DecidableEq α] (d : α) (m : Sparse α) (k : Nat) (v : α) : Sparse α :=
  if v = d then sdel m k else sput m k v

/-- Keys strictly rise from above `lo`, and no entry is the default. -/
def swfFrom {α : Type} [DecidableEq α] (d : α) : Option Nat → Sparse α → Bool
  | _, [] => true
  | lo, e :: r => lo.all (fun l => decide (l < e.1)) && decide (e.2 ≠ d) && swfFrom d (some e.1) r

/-- The canonical form of a sparse table. -/
def swf {α : Type} [DecidableEq α] (d : α) (m : Sparse α) : Bool := swfFrom d none m

/-- A number placed in a rising list. -/
def insN : List Nat → Nat → List Nat
  | [], k => [k]
  | a :: r, k => if a < k then a :: insN r k else k :: (if a = k then r else a :: r)

/-- A number removed from a list. -/
def delN (l : List Nat) (k : Nat) : List Nat := l.filter (fun x => x != k)

/-- The list rises strictly. -/
def rising : List Nat → Bool
  | [] => true
  | [_] => true
  | a :: b :: r => decide (a < b) && rising (b :: r)

/-- Membership set to a truth value. -/
def putN (l : List Nat) (k : Nat) (b : Bool) : List Nat := if b then insN l k else delN l k

/-- The sum of a list. -/
def sumN (l : List Nat) : Nat := l.foldl (· + ·) 0

/-- The largest of a list, 0 for none. -/
def maxN (l : List Nat) : Nat := l.foldl max 0

/-- An entry of a list replaced at a place. -/
abbrev setAt {α : Type} (l : List α) (i : Nat) (v : α) : List α := l.set i v

/-! ### The cluster buffer (R109, R248) -/

/-- One byte; an unlisted one reads 0 (log 8). -/
def Buffer.byte (b : Buffer) (a : Nat) : Byte := sget 0 b.bytes a

/-- Number of ones of a byte. -/
def ones (v : Byte) : Nat := ((List.range 8).filter (fun i => v.getLsbD i)).length

/-- The parity bit that makes the 18 bits of a unit even (R248). -/
def parityFor (lo hi : Byte) (q : Bool) : Bool := (ones lo + ones hi + bit q) % 2 == 1

/-- PAR over words: bit `i` is the parity of 16-bit unit `i` (R396, Table 16-3). -/
def wordsPar (ws : List W64) : List Bool :=
  ws.flatMap (fun w => (List.range 4).map (fun i => parityFor (w.extractLsb' (16 * i) 8) (w.extractLsb' (16 * i + 8) 8) false))

/-- SB PAR of what leaves on WR, LKO and PO, empty response slots being zero (R396, Table 16-3; log 115). -/
def Out.par : Out → List Bool
  | .resp rs => wordsPar (rs.flatMap (fun r => [r.1, r.2]) ++ List.replicate (8 - 2 * rs.length) 0)
  | .power w => wordsPar [w]
  | .link _ w => wordsPar [w]
  | _ => []

/-- A unit's poison bit. -/
def Buffer.poison (b : Buffer) (u : Nat) : Bool := b.psn.elem u

/-- Whether a unit passes its parity check (R249). -/
def Buffer.parityOk (b : Buffer) (u : Nat) : Bool :=
  b.par.elem u == parityFor (b.byte (2 * u)) (b.byte (2 * u + 1)) (b.poison u)

/-- The poison with which a byte is read: its unit's, or Q = 1 when the parity check fails (R248, R249). -/
def Buffer.readPsn (b : Buffer) (a : Nat) : Bool := b.poison (a / 2) || !b.parityOk (a / 2)

/-- A byte to be written with its poison. -/
structure WByte where
  a : Nat
  v : Byte
  q : Bool
deriving DecidableEq, Repr

/-- The other byte of a unit. -/
def sibling (a : Nat) : Nat := if a % 2 = 0 then a + 1 else a - 1

/-- The poison that the unit of a written byte takes: the OR of both bytes written together, or of the old poison and the
one byte's (R248). -/
def Buffer.newPoison (b : Buffer) (ws : List WByte) (w : WByte) : Bool :=
  match ws.find? (fun x => x.a == sibling w.a) with
  | some x => w.q || x.q
  | none => b.poison (w.a / 2) || w.q

/-- The bytes of a write placed. -/
def putBytes (bytes : List Host.Cell) (ws : List WByte) : List Host.Cell :=
  ws.foldl (fun m w => sset 0 m w.a w.v) bytes

/-- One write of several bytes together: data, then poison, then parity generated afresh over each unit (R248). -/
def Buffer.write (b : Buffer) (ws : List WByte) : Buffer :=
  let bytes := putBytes b.bytes ws
  let psn := ws.foldl (fun l w => putN l (w.a / 2) (b.newPoison ws w)) b.psn
  let par := ws.foldl (fun l w => putN l (w.a / 2)
    (parityFor (sget 0 bytes (2 * (w.a / 2))) (sget 0 bytes (2 * (w.a / 2) + 1)) (psn.elem (w.a / 2)))) b.par
  ⟨bytes, par, psn⟩

/-- The canonical form of the buffer: bytes in rising order with no zero entry, units in rising order. -/
def Memory.wf (b : Buffer) : Bool := swf (0 : Byte) b.bytes && rising b.par && rising b.psn

/-- The bytes of a number, least significant first (R12). -/
def leBytes : Nat → Nat → List Byte
  | 0, _ => []
  | n + 1, v => BitVec.ofNat 8 v :: leBytes n (v / 256)

/-- The number that bytes spell, least significant first (R12). -/
def ofLe (bs : List Byte) : Nat := bs.foldr (fun b acc => b.toNat + 256 * acc) 0

/-- The bytes of a value placed from an address on. -/
def wbytes (a : Nat) (bs : List Byte) (q : Bool) : List WByte :=
  (List.range bs.length).map (fun i => ⟨a + i, bs.getD i 0, q⟩)

/-- The buffer key of an offset in a cluster (R109). -/
def bufAddr (cluster off : Nat) : Nat := cluster * 2 ^ 25 + off

/-- The element of one 16-bit unit read at an even address. -/
def Buffer.elem16 (b : Buffer) (a : Nat) : Elem :=
  ⟨BitVec.ofNat 16 ((b.byte a).toNat + 256 * (b.byte (a + 1)).toNat), b.readPsn a⟩

/-- The element of one byte, its code in the low byte. -/
def Buffer.elem8 (b : Buffer) (a : Nat) : Elem := ⟨BitVec.ofNat 16 (b.byte a).toNat, b.readPsn a⟩

/-! ### CRC-32C (R187, R302, R362) -/

/-- One bit of the reflected CRC. -/
def crcBit (c : BitVec 32) : BitVec 32 := if c.getLsbD 0 then (c.ushiftRight 1) ^^^ 0x82F63B78 else c.ushiftRight 1

/-- One byte of the CRC. -/
def crcByte (c : BitVec 32) (b : Byte) : BitVec 32 :=
  crcBit (crcBit (crcBit (crcBit (crcBit (crcBit (crcBit (crcBit (c ^^^ b.setWidth 32))))))))

/-- CRC-32C of bytes. -/
def crc32c (bs : List Byte) : Nat := ((bs.foldl crcByte 0xFFFFFFFF) ^^^ 0xFFFFFFFF).toNat

/-! ### Dictionary values -/

/-- The sidereal counter as a number (R192). -/
def State.now (s : State) : Nat := s.clk.counter.toNat

/-- The time of the port timers: the counter, and the steps that they ran while the strobe was lost (R408; log 25). -/
def State.portNow (s : State) : Nat := s.now + s.clk.extra

/-- MFLOOR of a core's speed table (Table 08-1); 0 where there is no record. -/
def State.mfloor (s : State) (c : Nat) : Nat := match sfind s.speed c with
  | none => 0
  | some r => fld (r.1.getD 1 0) 7 4

/-- What an object reads as when nothing is stored for it: the table's default, MFLOOR for a margin step (Table 08-3),
the value in force for a pending margin step or bypass map (Tables 03-3, 08-3), and for the interface identifier and the
PLCA node ID what follows from the serial and the host position (Table 15-6). -/
def State.unset (s : State) (k : Nat) : Nat :=
  let index := k / 256
  let sub := k % 256
  if 0x2100 ≤ index ∧ index < 0x2140 ∧ (sub = 1 ∨ sub = 2) then s.mfloor (index - 0x2100)
  else if 0x2100 ≤ index ∧ index < 0x2140 ∧ sub = 3 then sget (s.mfloor (index - 0x2100)) s.dict.vals (key index 1)
  else if 0x8000 ≤ index ∧ index < 0x8400 ∧ sub = 2 then sget 0 s.dict.vals (key index 1)
  else if k = key 0x1400 1 then sget 0 s.dict.vals (key 0x0004 0) / 2 ^ 64
  else if k = key 0x1400 4 then (if sget 0xFF s.dict.vals (key 0x0005 0) = 0xFF then 1 else sget 0xFF s.dict.vals (key 0x0005 0) + 1)
  else objDefault s.conf k

/-- The stored value of an object in force (R369, R372). -/
def State.obj (s : State) (k : Nat) : Nat := sget (s.unset k) s.dict.vals k

/-- The notifying objects (R386). -/
def notifying (k : Nat) : Bool :=
  k == key 0x0010 3 || k == key 0x1000 0 || k == key 0x1000 1 || k == key 0x2000 1 || k == key 0xF000 0 ||
    (decide (key 0x3100 0 ≤ k) && decide (k < key 0x3110 0) && k % 256 == 0)

/-- A NOTICE of an object waits to be sent, unless one waits already: for its turn, or behind one that is unacknowledged (R386). -/
def State.notify (s : State) (k : Nat) : State :=
  if s.mg.notices.elem k then s
  else { s with mg := { s.mg with notices := s.mg.notices ++ [k] } }

/-- An object takes a value: in force at once, a FLASH value's commit pending (R372, R373), a notice of a notifying
object that changed (R386). -/
def State.setObj (s : State) (k v : Nat) : State :=
  let s1 : State := { s with dict := { s.dict with
    vals := sset (s.unset k) s.dict.vals k v
    commits := if isFlash s.conf k then insN s.dict.commits k else s.dict.commits } }
  if notifying k ∧ s.obj k ≠ v then s1.notify k else s1

/-- A counter object goes up by `n`, saturating at its maximum (R269). -/
def State.bump (s : State) (k n : Nat) : State :=
  match objInfo s.conf (k / 256) (k % 256) with
  | none => s
  | some o => s.setObj k (min (maxOf o.ty.size) (s.obj k + n))

/-! ### Outputs -/

/-- The block sends something on a port. -/
def State.emit (s : State) (o : Out) : State := { s with out := s.out ++ [o] }

/-- The block sends several things in order. -/
def State.emitAll (s : State) (os : List Out) : State := { s with out := s.out ++ os }

/-- Credits are returned on channel `chan` of port `q`, at most 255 a transfer (R395). -/
def State.giveCredits (s : State) (q chan n : Nat) : State :=
  s.emitAll ((List.range (ceilDiv n 255)).map (fun i => Out.credit q chan (min 255 (n - 255 * i))))

/-! ### Error records (R263 to R265) -/

/-- Word 0 of a record (Table 10-4). -/
def recW0 (kind sev cls : Nat) (tenant : Option Nat) (seq : Nat) : W64 :=
  BitVec.ofNat 64 (at_ 1 60 + at_ kind 58 + at_ sev 56 + at_ cls 44 + at_ ((tenant.getD 0) % 16) 40 +
    at_ (bit tenant.isSome) 39 + seq % 2 ^ 32)

/-- Whether the slot of the next record still holds an unretired record (R265). -/
def Records.full (r : Records) : Bool := r.unret.any (fun u => u % 1024 == r.seq % 1024)

/-- A record is placed in the slot of its sequence number (R265). -/
def State.placeRec (s : State) (kind sev cls : Nat) (tenant : Option Nat) (time : Nat) (w2 w3 : W64) : State :=
  let r := s.errs
  { s with errs := { r with
    ring := sset ⟨0, 0, 0, 0⟩ r.ring (r.seq % 1024) ⟨recW0 kind sev cls tenant r.seq, BitVec.ofNat 64 time, w2, w3⟩
    unret := r.unret ++ [r.seq]
    seq := (r.seq + 1) % 2 ^ 32 } }

/-- A record is written, or counted in 0x4000:02 when its slot is not free (R265). -/
def State.writeRec (s : State) (kind sev cls : Nat) (tenant : Option Nat) (time : Nat) (w2 w3 : W64) : State :=
  if s.errs.full then
    let s1 := s.bump (key 0x4000 2) 1
    { s1 with errs := { s1.errs with
      lostAt := if s.errs.lostN = 0 then time else s.errs.lostAt
      lostN := s.errs.lostN + 1 } }
  else s.placeRec kind sev cls tenant time w2 w3

/-- The loss record, once the slot of the next record is free (R265). -/
def State.flushLoss (s : State) : State :=
  if s.errs.lostN ≠ 0 ∧ s.errs.full = false then
    let s1 := s.placeRec 2 0 0 none s.errs.lostAt 0 (BitVec.ofNat 64 (at_ (min s.errs.lostN (2 ^ 24 - 1)) 40))
    { s1 with errs := { s1.errs with lostN := 0, lostAt := 0 } }
  else s

/-- What an event names (Table 10-4): class, severity, unit, LOC, (PROW, PCOL), tenant, DETAIL. -/
structure Event where
  cls : Nat
  sev : Nat
  unit : Nat
  loc : Nat
  at_ : Option (Nat × Nat)
  tenant : Option Nat
  detail : Nat
deriving DecidableEq, Repr

/-- Word 2 of a record (Table 10-4). -/
def Event.w2 (e : Event) : W64 :=
  let pos := match e.at_ with
    | none => 0
    | some p => Sys2Proof.at_ p.1 35 + Sys2Proof.at_ p.2 30 + Sys2Proof.at_ 1 29
  BitVec.ofNat 64 (Sys2Proof.at_ e.unit 56 + Sys2Proof.at_ e.loc 40 + pos)

/-- The physical column of an event's class key. -/
def Event.pcol (e : Event) : Nat := match e.at_ with
  | none => 0
  | some p => p.2

/-- Whether an open key is the class key of an event (R264). -/
def CoKey.isOf (k : CoKey) (e : Event) : Bool :=
  k.cls == e.cls && k.unit == e.unit && k.loc == e.loc && k.pcol == e.pcol && k.tenant == e.tenant

/-- A key closes: one summary record when repeats were counted (R264). DESIGN CHOICE: its PROW and RCV are those of the key's first
event (log 95). -/
def State.closeKey (s : State) (k : CoKey) : State :=
  if k.count = 0 then s
  else s.writeRec 1 k.sev k.cls k.tenant k.firstRep (BitVec.ofNat 64 k.rcvw)
    (BitVec.ofNat 64 (at_ (min k.count (2 ^ 24 - 1)) 40 + k.detail))

/-- The oldest key closes early when the table of 64 keys is full (R264). -/
def State.evictKey (s : State) : State :=
  if s.errs.keys.length < 64 then s
  else match s.errs.keys with
    | [] => s
    | k :: r => ({ s with errs := { s.errs with keys := r } }).closeKey k

/-- A repeat is counted in an open key (R264). -/
def CoKey.repeat_ (k : CoKey) (now detail : Nat) : CoKey :=
  { k with count := k.count + 1, firstRep := if k.count = 0 then now else k.firstRep, detail := detail }

/-- The SEQ of the record that an event writes, after that of a key which closes early for it; the next SEQ when it only counts as a
repeat (R263, R264; log 53). -/
def State.seqOf (s : State) (e : Event) : Nat :=
  if s.errs.keys.any (fun k => k.isOf e) then s.errs.seq else s.evictKey.errs.seq

/-- An event produces its record, or counts as a repeat of an open key (R263, R264). -/
def State.event (s : State) (e : Event) : State :=
  if s.errs.keys.any (fun k => k.isOf e) then
    { s with errs := { s.errs with
      keys := s.errs.keys.map (fun k => if k.isOf e then k.repeat_ s.now e.detail else k) } }
  else
    let s1 := s.evictKey
    let s2 := s1.writeRec 0 e.sev e.cls e.tenant s.now e.w2 (BitVec.ofNat 64 (at_ 1 40 + e.detail % 2 ^ 40))
    { s2 with errs := { s2.errs with
      keys := s2.errs.keys ++ [⟨e.cls, e.sev, e.unit, e.loc, e.pcol, e.w2.toNat, e.tenant, s.now, 0, 0, 0⟩] } }

/-- LOC of a port (Table 10-4). -/
def portLoc (q : Nat) : Nat := q * 256

/-- UNIT of a port (Table 16-1). -/
def portUnit (q : Nat) : Nat :=
  if q = 0 then 0x13 else if q ≤ 8 then 0x10 else if q ≤ 16 then 0x11 else if q ≤ 24 then 0x12
  else if q = 25 then 0x14 else if q = 26 then 0x15 else if q = 27 then 0x16 else 0x21

/-! ### Tiles and registers -/

/-- A tile of an engine (quarter 0), or one quarter of it (QUARTER codes 4 to 7) (R129, R79). -/
structure TileRef where
  n : Nat
  q : Nat
deriving DecidableEq, Repr

/-- The tile a handle names (Table 05-6). -/
def TileRef.ofHandle (h : Nat) : TileRef := ⟨fieldOf h 15 13 * 128 + fieldOf h 12 10 * 16 + fieldOf h 9 6, fieldOf h 5 3⟩

/-- The handle of a tile (Table 05-6). -/
def TileRef.handle (t : TileRef) : Nat := t.n / 128 * 2 ^ 13 + t.n / 16 % 8 * 2 ^ 10 + t.n % 16 * 2 ^ 6 + t.q * 8

/-- Core c = 8 × cluster + core of an engine number. -/
def coreOf (n : Nat) : Nat := n / 16

/-- The cluster of a tile. -/
def TileRef.cluster (t : TileRef) : Nat := t.n / 128

/-- Rows of a tile: 32, or 16 of a quarter (R79). -/
def TileRef.rows (t : TileRef) : Nat := if t.q = 0 then 32 else 16

/-- The first physical row: 16 for a south quarter. -/
def TileRef.row0 (t : TileRef) : Nat := if t.q = 6 ∨ t.q = 7 then 16 else 0

/-- The planner's quarter keys of a tile: all four of a whole tile (R418). -/
def TileRef.quarters (t : TileRef) : List Nat :=
  if t.q = 0 then [4 * t.n, 4 * t.n + 1, 4 * t.n + 2, 4 * t.n + 3] else [4 * t.n + (t.q - 4)]

/-- The bypass map in force of an engine (R84). -/
def State.bypass (s : State) (n : Nat) : Nat := s.obj (key (0x8000 + n) 1)

/-- Physical columns of a side: all, west 0 to 15, or east 16 to 31 (R9). -/
def sideCols (q : Nat) : List Nat :=
  if q = 0 then List.range 32 else if q = 4 ∨ q = 6 then List.range 16 else (List.range 16).map (· + 16)

/-- The physical columns of the logical columns, ascending (R10, R78). -/
def State.physCols (s : State) (t : TileRef) : List Nat := (sideCols t.q).filter (fun c => !bitOf (s.bypass t.n) c)

/-- The presented width (R10, R78). -/
def State.width (s : State) (t : TileRef) : Nat := (s.physCols t).length

/-- The key of a register or cell: engine, physical row, physical column. -/
def regKey (n row col : Nat) : Nat := (n * 32 + row) * 32 + col

/-- The key of register (row, logical column) of a tile; none beyond the presented width (R100). -/
def State.regAt (s : State) (t : TileRef) (row col : Nat) : Option Nat :=
  match (s.physCols t)[col]? with
  | none => none
  | some p => some (regKey t.n (t.row0 + row) p)

/-- A register by key. -/
def State.reg (s : State) (k : Nat) : LongReg := sget .zero s.regs k

/-- A register takes a new content. -/
def State.setReg (s : State) (k : Nat) (r : LongReg) : State := { s with regs := sset .zero s.regs k r }

/-- Several registers change by a function of their key. -/
def State.mapRegs (s : State) (ks : List Nat) (f : Nat → LongReg → LongReg) : State :=
  ks.foldl (fun s k => s.setReg k (f k (s.reg k))) s

/-- The keys of the registers of one row over the logical columns below `w`. -/
def State.rowKeys (s : State) (t : TileRef) (row w : Nat) : List Nat :=
  ((s.physCols t).take w).map (fun p => regKey t.n (t.row0 + row) p)

/-- The keys of every presented register of a tile. -/
def State.tileKeys (s : State) (t : TileRef) : List Nat :=
  (List.range t.rows).flatMap (fun r => s.rowKeys t r 32)

/-- A quarter's planner state. -/
def State.tileQ (s : State) (k : Nat) : TileQ := sget .zero s.tiles k

/-- A quarter's planner state changes. -/
def State.setTile (s : State) (k : Nat) (t : TileQ) : State := { s with tiles := sset .zero s.tiles k t }

/-- Each quarter of a tile changes. -/
def State.mapTile (s : State) (t : TileRef) (f : TileQ → TileQ) : State :=
  t.quarters.foldl (fun s k => s.setTile k (f (s.tileQ k))) s

/-- The term bound of a tile: the largest of its quarters' (R418). -/
def State.termBound (s : State) (t : TileRef) : Nat := maxN (t.quarters.map (fun k => (s.tileQ k).tb))

/-- The quarter a register lies in (R79): by its physical row and column. -/
def quarterOfReg (k : Nat) : Nat := 4 * (k / 1024) + 2 * (k / 32 % 32 / 16) + k % 32 / 16

/-! ### Cores, chains, ports, ops -/

/-- A core's shape and splits. -/
def State.core (s : State) (c : Nat) : CoreSt := sget .zero s.cores c

/-- A core's shape and splits change. -/
def State.setCore (s : State) (c : Nat) (v : CoreSt) : State := { s with cores := sset .zero s.cores c v }

/-- The key of a chain. -/
def chainKey (c : ChainId) : Nat := (c.core * 16 + c.top) * 8 + c.quarter

/-- A chain's state. -/
def State.chain (s : State) (c : ChainId) : ChainSt := sget .zero s.chains (chainKey c)

/-- A chain's state changes. -/
def State.setChain (s : State) (c : ChainId) (v : ChainSt) : State := { s with chains := sset .zero s.chains (chainKey c) v }

/-- A chain's state changes by a function of it. -/
def State.mapChain (s : State) (c : ChainId) (f : ChainSt → ChainSt) : State := s.setChain c (f (s.chain c))

/-- The cluster of a chain. -/
def chainCluster (c : ChainId) : Nat := c.core / 8

/-- A port. -/
def State.port (s : State) (q : Nat) : PortSt := sget .zero s.ports q

/-- A port changes. -/
def State.setPort (s : State) (q : Nat) (p : PortSt) : State := { s with ports := sset .zero s.ports q p }

/-- Credits are spent; `t` is kept as the time when the last one went (R400). -/
def PortSt.spend (p : PortSt) (n t : Nat) : PortSt := { p with cr := p.cr - n, dry := if p.cr ≤ n then t else p.dry }

/-- Whether a port is up. -/
def State.up (s : State) (q : Nat) : Bool := (s.port q).st == 2

/-- A spine link, by the core it leaves. -/
def State.link (s : State) (c : Nat) : LinkSt := sget .zero s.spine c

/-- A spine link changes. -/
def State.setLink (s : State) (c : Nat) (l : LinkSt) : State := { s with spine := sset .zero s.spine c l }

/-- A group slot. -/
def State.group (s : State) (g : Nat) : GroupSt := sget .zero s.groups g

/-- A group slot changes. -/
def State.setGroup (s : State) (g : Nat) (v : GroupSt) : State := { s with groups := sset .zero s.groups g v }

/-- The outstanding op of an acceptance number. -/
def State.op? (s : State) (id : Nat) : Option Op := s.ops.find? (fun o => o.id == id)

/-- An outstanding op changes. -/
def State.mapOp (s : State) (id : Nat) (f : Op → Op) : State :=
  { s with ops := s.ops.map (fun o => if o.id == id then f o else o) }

/-- An op leaves the op table with its send jobs. -/
def State.dropOp (s : State) (id : Nat) : State :=
  { s with ops := s.ops.filter (fun o => o.id != id), jobs := s.jobs.filter (fun j => j.op != id) }

/-- The slip count of a resource (R201). -/
def State.slipOf (s : State) (r : Res) : Nat := ((s.slips.find? (fun e => e.1 == r)).map (fun e => e.2)).getD 0

/-- The slip count of a resource advances by one. -/
def State.slipUp (s : State) (r : Res) : State :=
  { s with slips := (r, s.slipOf r + 1) :: s.slips.filter (fun e => e.1 != r) }

/-- The region of a tenant and number, open or closing. -/
def State.region? (s : State) (t r : Nat) : Option Region := s.regions.find? (fun x => x.tenant == t && x.num == r)

/-- A region changes. -/
def State.mapRegion (s : State) (t r : Nat) (f : Region → Region) : State :=
  { s with regions := s.regions.map (fun x => if x.tenant == t && x.num == r then f x else x) }

/-! ### The work port's responses (R118, R120, R217) -/

/-- The credits that the admission responses of a flit return. -/
def admissions (rs : List Resp) : Nat := sumN (rs.map (fun r => r.credits))

/-- A flit of up to four records leaves; the credits of its admission responses return (R118, Table 16-2 WR). -/
def State.sendFlit (s : State) (rs : List Resp) : State :=
  let n := admissions rs
  let s1 := s.emit (.resp (rs.map (fun r => (r.w0, r.w1))))
  let s2 := s1.giveCredits 0 0x02 n
  { s2 with adm := { s2.adm with respCr := s.adm.respCr - 1, wdCredits := s.adm.wdCredits + n } }

/-- Queued records leave while the source has response credit (R217); at most `fuel` flits. -/
def State.drainResp (s : State) : Nat → State
  | 0 => s
  | k + 1 =>
    if s.adm.respCr = 0 ∨ s.adm.respQ = [] then s
    else
      let s1 : State := { s with adm := { s.adm with respQ := s.adm.respQ.drop 4 } }
      (s1.sendFlit (s.adm.respQ.take 4)).drainResp k

/-- The records in the response queue: 1,024 at most (R217). -/
def State.respQueue (s : State) : List Resp := s.adm.respQ.take 1024

/-- A response is formed: it leaves at once when the source has credit and nothing waits, else it waits (R217). DESIGN CHOICE: a record
formed while the queue is full, by an op that delivers or for a group admitted whole, waits outside it for a place (log 94). -/
def State.respond (s : State) (r : Resp) : State :=
  if s.adm.respQ = [] ∧ s.adm.respCr ≠ 0 then s.sendFlit [r]
  else { s with adm := { s.adm with respQ := s.adm.respQ ++ [r] } }

/-- A free 16-bit value is drawn: the model's own counter moves on (R419). -/
def State.drawFree (s : State) : State := { s with freeCtr := s.freeCtr + 1 }

end Sys2Proof.Machine
end

