-- ==== Sys2Proof/Machine/Operands.lean ====
section
/-! DEFINITION. Every operand form of the descriptors: the fields of Tables 05-1, 05-2 and 05-5 to 05-10, tile handles and
tile lists (R129, R130), tensor references (R131), chains (R94, R135, R136), the sequences of weight loads and tokens of
an array op (R103, R134, R178 to R180), the layouts of a drain (R165, R166), and the places each of them touches. -/

namespace Sys2Proof

/-- Word i of a descriptor. -/
def Desc.word (d : Desc) : Nat → W64
  | 0 => d.w0
  | 1 => d.w1
  | 2 => d.w2
  | 3 => d.w3
  | 4 => d.w4
  | 5 => d.w5
  | 6 => d.w6
  | _ => d.w7

/-- VER (Table 05-1). -/
def Desc.ver (d : Desc) : Nat := fld d.w0 63 60
/-- OP (Table 05-1). -/
def Desc.op (d : Desc) : Nat := fld d.w0 59 52
/-- TENANT (Table 05-1). -/
def Desc.tenant (d : Desc) : Nat := fld d.w0 51 48
/-- EPOCH (Table 05-1). -/
def Desc.epoch (d : Desc) : Nat := fld d.w0 47 32
/-- TAG (Table 05-1). -/
def Desc.tag (d : Desc) : Nat := fld d.w0 31 0
/-- WREQ (Table 05-2). -/
def Desc.wreq (d : Desc) : Nat := fld d.w1 63 32
/-- REGION (Table 05-2). -/
def Desc.region (d : Desc) : Nat := fld d.w1 31 26
/-- PROV (Table 05-2). -/
def Desc.prov (d : Desc) : Bool := bitOf d.w1.toNat 25
/-- COMM (Table 05-2). -/
def Desc.comm (d : Desc) : Bool := bitOf d.w1.toNat 24
/-- ALT (Table 05-2). -/
def Desc.alt (d : Desc) : Bool := bitOf d.w1.toNat 23
/-- ALTF (Table 05-2). -/
def Desc.altf (d : Desc) : Bool := bitOf d.w1.toNat 22
/-- GS (Table 05-2). -/
def Desc.gs (d : Desc) : Nat := fld d.w1 21 20
/-- FMT (Table 05-2). -/
def Desc.fmt (d : Desc) : Nat := fld d.w1 19 16
/-- SHAPE (Table 05-2). -/
def Desc.shape (d : Desc) : Nat := fld d.w1 15 13
/-- OPF (Table 05-2). -/
def Desc.opf (d : Desc) : Nat := fld d.w1 7 4
/-- M, rows (Tables 05-8, 05-9). -/
def Desc.m (d : Desc) : Nat := fld d.w2 63 32
/-- K (Table 05-8). -/
def Desc.k (d : Desc) : Nat := fld d.w2 31 0
/-- N (Tables 05-8, 05-9). -/
def Desc.n (d : Desc) : Nat := fld d.w3 63 40
/-- N0 (Tables 05-8, 05-9). -/
def Desc.n0 (d : Desc) : Nat := fld d.w3 39 16
/-- TILE of the array ops, PRELOAD, DRAIN and BALLAST (W3), of XRED and RETRACT (W4) (Tables 05-8 to 05-10, R146). -/
def Desc.tile (d : Desc) : Nat := if d.op = 0x08 ∨ d.op = 0x09 then fld d.w4 15 0 else fld d.w3 15 0
/-- TLIST: W4, or W6 of XRED and RETRACT. -/
def Desc.tlist (d : Desc) : Nat := if d.op = 0x08 ∨ d.op = 0x09 then d.w6.toNat else d.w4.toNat
/-- STRIDE (Tables 05-8, 05-9), in lines. -/
def Desc.stride (d : Desc) : Nat := fld d.w7 63 48
/-- NCHAIN (Table 05-8); 1 for SCAN (R137). -/
def Desc.nchain (d : Desc) : Nat := if d.op = 0x05 then 1 else fld d.w7 47 40
/-- SPINEN of a STREAM (Table 05-8), 0 for every other op. -/
def Desc.spinen (d : Desc) : Nat := if d.op = 0x02 then fld d.w7 39 37 else 0
/-- KSLICE of a STREAM (Table 05-8). -/
def Desc.kslice (d : Desc) : Nat := fld d.w7 31 0
/-- KB of a SCAN (Table 05-8). -/
def Desc.kb (d : Desc) : Nat := fld d.w7 47 0
/-- APLANE of an MPASS, in lines (Table 05-8). -/
def Desc.aplane (d : Desc) : Nat := if d.op = 0x06 then fld d.w7 39 20 else 0
/-- WPLANE of an MPASS, in lines (Table 05-8). -/
def Desc.wplane (d : Desc) : Nat := if d.op = 0x06 then fld d.w7 19 0 else 0
/-- M0 of a DRAIN (Table 05-9). -/
def Desc.m0 (d : Desc) : Nat := fld d.w2 31 0
/-- ASTRIDE of a DRAIN, in lines (Table 05-9). -/
def Desc.astride (d : Desc) : Nat := fld d.w7 47 32
/-- LAYOUT of a DRAIN (Table 05-9). -/
def Desc.layout (d : Desc) : Nat := fld d.w7 31 28
/-- TRANS of a DRAIN (Table 05-9). -/
def Desc.trans (d : Desc) : Bool := bitOf d.w7.toNat 27
/-- AFMT of a DRAIN (Table 06-5). -/
def Desc.afmt (d : Desc) : Nat := fld d.w7 26 25
/-- SBE of a DRAIN (Table 06-5). -/
def Desc.sbe (d : Desc) : Bool := bitOf d.w7.toNat 24
/-- LP of a DRAIN (Table 06-5). -/
def Desc.lp (d : Desc) : Nat := fld d.w7 19 0
/-- FUSE of a DRAIN (Table 05-5). -/
def Desc.fuse (d : Desc) : Nat := d.opf / 4
/-- KEEP of a DRAIN (Table 05-5). -/
def Desc.keep (d : Desc) : Bool := bitOf d.opf 1
/-- SAT of a DRAIN (Table 05-5). -/
def Desc.sat (d : Desc) : Bool := bitOf d.opf 0
/-- ROWB of a PRELOAD (Table 05-5). -/
def Desc.rowb (d : Desc) : Bool := bitOf d.opf 0
/-- DIR of a SCAN: true for min (Table 05-5). -/
def Desc.dirMin (d : Desc) : Bool := bitOf d.opf 0
/-- KIND of an MPASS or a FENCE (Table 05-5), also GKIND. -/
def Desc.kind (d : Desc) : Nat := d.opf % 4
/-- ROLE of XRED and RETRACT: true for the owner (Table 05-5). -/
def Desc.role (d : Desc) : Bool := bitOf d.opf 0
/-- HIER of XRED and RETRACT (Table 05-5). -/
def Desc.hier (d : Desc) : Bool := bitOf d.opf 1
/-- EXCISE of XRED and RETRACT (Table 05-5). -/
def Desc.excise (d : Desc) : Bool := bitOf d.opf 2
/-- TRIM of SAVE and RESTORE, WRITE of DICT (Table 05-5). -/
def Desc.flag0 (d : Desc) : Bool := bitOf d.opf 0
/-- ELEMS (Table 05-10). -/
def Desc.elems (d : Desc) : Nat := fld d.w2 63 32
/-- EOFF (Table 05-10). -/
def Desc.eoff (d : Desc) : Nat := fld d.w2 31 0
/-- BUCKET (Table 05-10). -/
def Desc.bucket (d : Desc) : Nat := fld d.w3 63 32
/-- CID (Table 05-10). -/
def Desc.cid (d : Desc) : Nat := fld d.w3 31 0
/-- GROUP (Table 05-10). -/
def Desc.group (d : Desc) : Nat := fld d.w4 63 48
/-- DEST (Table 05-10). -/
def Desc.dest (d : Desc) : Nat := fld d.w4 47 42
/-- NCON (Table 05-10). -/
def Desc.ncon (d : Desc) : Nat := fld d.w4 31 24
/-- FEPOCH of a FENCE (R142). -/
def Desc.fepoch (d : Desc) : Nat := fld d.w2 63 48
/-- CLMASK of a FENCE (R142). -/
def Desc.clmask (d : Desc) : Nat := fld d.w2 7 0
/-- TTL of a GATE (R143). -/
def Desc.ttl (d : Desc) : Nat := fld d.w2 31 0
/-- INDEX of a DICT (R145). -/
def Desc.dindex (d : Desc) : Nat := fld d.w2 63 48
/-- SUB of a DICT (R145). -/
def Desc.dsub (d : Desc) : Nat := fld d.w2 47 40
/-- LEN of a DICT (R145). -/
def Desc.dlen (d : Desc) : Nat := fld d.w2 15 0
/-- DUR of a BALLAST (R146). -/
def Desc.dur (d : Desc) : Nat := fld d.w2 31 0
/-- LEVEL of a BALLAST (R146). -/
def Desc.level (d : Desc) : Nat := fld d.w2 39 32

end Sys2Proof

namespace Sys2Proof.Machine

/-! ### Tensor references (R131, R132, Table 05-7) -/

/-- SPACE of a reference. -/
def refSpace (r : W64) : Nat := fld r 63 62
/-- Whether a reference is in memory space. -/
def refMem (r : W64) : Bool := fld r 63 62 == 1
/-- STAGE of a memory-space reference. -/
def refStage (r : W64) : Nat := fld r 61 48
/-- The address: 25 bits in buffer space, 48 bits in memory space. -/
def refAddr (r : W64) : Nat := if refMem r then fld r 47 0 else fld r 24 0

/-! ### Shapes and chains (R94, R135, R136) -/

/-- Depth d of a SHAPE (Table 04-1); a quadrant runs at depth 1 (R80). -/
def depthOf (shape : Nat) : Nat := [16, 8, 4, 2, 1, 1].getD shape 1

/-- Chains of a core in a SHAPE: 16/d, or 64 when every engine is split (R195). -/
def chainsPerCore (shape : Nat) : Nat := if shape = 5 then 64 else 16 / depthOf shape

/-- K per pass: 32d, 16 for a quadrant (R94, R101). -/
def kPerPass (shape : Nat) : Nat := if shape = 5 then 16 else 32 * depthOf shape

/-- Output rows of a tile of the op's arrangement (R103). -/
def rowsPerTile (shape : Nat) : Nat := if shape = 5 then 16 else 32

/-- The tile a descriptor names. -/
def Desc.tileRef (d : Desc) : TileRef := TileRef.ofHandle d.tile

/-- Core of the descriptor's TILE. -/
def tileCore (d : Desc) : Nat := (TileRef.ofHandle d.tile).n / 16

/-- Engine of the descriptor's TILE within its core. -/
def tileEng (d : Desc) : Nat := (TileRef.ofHandle d.tile).n % 16

/-- Chain number i of an op within one core or run of cores, from the chain of TILE (R135). -/
def chainAt (d : Desc) (core i : Nat) : ChainId :=
  let dep := depthOf d.shape
  let per := 16 / dep
  let j := tileEng d / dep + i
  ⟨core + j / per, j % per * dep, (TileRef.ofHandle d.tile).q⟩

/-- The chains of an array op: NCHAIN of each core of its spine set in ring order, or of its run of cores (R135, R136). -/
def opChains (d : Desc) : List ChainId :=
  let c := tileCore d
  if d.spinen = 0 then (List.range d.nchain).map (chainAt d c)
  else (List.range (d.spinen + 1)).flatMap fun s =>
    (List.range d.nchain).map (chainAt d (c / 8 * 8 + (c + s) % 8))

/-- Whether the chains of an op pass core 7, or the last chain of a core of a spine set (R135, R136). -/
def chainsOver (d : Desc) : Bool :=
  let per := 16 / depthOf d.shape
  let last := tileEng d / depthOf d.shape + d.nchain - 1
  if d.spinen = 0 then decide (7 < tileCore d % 8 + last / per) else decide (per ≤ last)

/-- The engines of a chain, from the top. -/
def chainEngines (c : ChainId) (depth : Nat) : List Nat := (List.range depth).map (fun i => c.core * 16 + c.top + i)

/-- The presented width of a chain: the smallest of its engines' (R65), or of the quadrant's side (R78). -/
def State.chainWidth (s : State) (c : ChainId) (depth : Nat) : Nat :=
  ((chainEngines c depth).map (fun n => s.width ⟨n, c.quarter⟩)).foldl min 32

/-- Column offset of chain ci of an op: N0 plus the widths of the chains before it (R135). DESIGN CHOICE: on every core of a spine set
these are the widths of the first core's chains, for which R136 gives no other rule where the widths differ (log 109). -/
def State.chainOff (s : State) (d : Desc) (ci : Nat) : Nat :=
  let chains := (opChains d).take (ci % d.nchain)
  d.n0 + sumN (chains.map (fun c => s.chainWidth c (depthOf d.shape)))

/-- Enabled logical columns of chain ci: c with n0 + c < N and c < w (R74). -/
def State.chainCols (s : State) (d : Desc) (c : ChainId) (ci : Nat) : Nat :=
  min (s.chainWidth c (depthOf d.shape)) (d.n - s.chainOff d ci)

/-- Enabled logical columns of chain ci of an op; those of the op's chain for a reroll, whose chain may be wider (R284). -/
def State.opCols (s : State) (o : Op) (c : ChainId) (ci : Nat) : Nat :=
  match o.k, o.rd with
  | .reroll, some r => s.chainCols r ((opChains r).getD ci c) ci
  | _, _ => s.chainCols o.d c ci

/-! ### Tile lists (R130) -/

/-- Nibble i of a tile list. -/
def nibble (tl i : Nat) : Nat := tl / 16 ^ i % 16

/-- The first `n` offsets of a tile list from nibble `i` on. -/
def nibbles (tl i n : Nat) : List Nat := (List.range n).map (fun j => nibble tl (i + j))

/-- Whether an op is an array op that presents tokens. -/
def isToken (d : Desc) : Bool := d.op == 0x02 || d.op == 0x05 || d.op == 0x06

/-- Whether an array op runs as a rolling drain: K at most the K per pass, no spine set, and no reserved SHAPE (R134, R136, R169). -/
def isRolling (d : Desc) : Bool := isToken d && decide (d.shape ≤ 5) && decide (d.k ≤ kPerPass d.shape) && decide (d.spinen = 0)

/-- Whether an MPASS is of a complex kind, with two halves of its tile list (R138). -/
def isComplex (d : Desc) : Bool := d.op == 0x06 && (d.kind == 1 || d.kind == 2)

/-- Tiles of each half of an array op's list: one for a rolling drain, else one for each 32 (16) rows (R101, R103). -/
def tileCount (d : Desc) : Nat := if isRolling d then 1 else ceilDiv d.m (rowsPerTile d.shape)

/-- The tile at an offset of a chain. -/
def chainTile (c : ChainId) (off : Nat) : TileRef := ⟨c.core * 16 + c.top + off, c.quarter⟩

/-- Whether an XRED or RETRACT names tiles: an owner, a trimmed-long contribution, and a RETRACT of trimmed longs, which
reads its source tiles again (R306, R307; DEDUCED, log 15). -/
def xredNames (d : Desc) : Bool := d.role || (d.hier && d.fmt == 6)

/-! ### Passes, loads and tokens (R103, R134, R172 to R180) -/

/-- A pass of Table 07-1: weight plane, activation plane, whether the activation is negated, whether the target is the
imaginary half, and whether the pass is a cross pass (R175). -/
structure Pass where
  w : Nat
  a : Nat
  neg : Bool
  imag : Bool
  cross : Bool
deriving DecidableEq, Repr

/-- Table 07-1; the single pass of a STREAM or SCAN. The reserved KIND 0b11 is refused with MODE (R172); for the RANGE check, which
comes before MODE, it touches the planes of the complex comet kind: DESIGN CHOICE, the spec names none (log 92). -/
def passes (d : Desc) : List Pass :=
  if d.op ≠ 0x06 then [⟨0, 0, false, false, false⟩]
  else match d.kind with
    | 0 => [⟨0, 0, false, false, false⟩, ⟨0, 1, false, false, true⟩, ⟨1, 0, false, false, true⟩]
    | 1 => [⟨0, 0, false, false, false⟩, ⟨0, 1, false, true, false⟩, ⟨1, 0, false, true, false⟩, ⟨1, 1, true, false, false⟩]
    | _ => [⟨0, 0, false, false, false⟩, ⟨0, 1, false, false, true⟩, ⟨0, 2, false, true, false⟩, ⟨0, 3, false, true, true⟩,
      ⟨1, 0, false, false, true⟩, ⟨1, 2, false, true, true⟩, ⟨2, 2, true, false, false⟩, ⟨2, 3, true, false, true⟩,
      ⟨2, 0, false, true, false⟩, ⟨2, 1, false, true, true⟩, ⟨3, 2, true, false, true⟩, ⟨3, 0, false, true, true⟩]

/-- Weight groups of a kind: its weight planes (R173). -/
def groupCount (d : Desc) : Nat := if d.op ≠ 0x06 then 1 else if d.kind = 2 then 4 else 2

/-- Whether the op runs in EL8 mode, with row pairs (R66). -/
def el8Mode (d : Desc) : Bool := d.fmt == 1

/-- Tokens that one pass of the op presents (R67, R104). -/
def passTokens (d : Desc) : Nat := if el8Mode d then ceilDiv d.m 2 else d.m

/-- Rows of a chunk of a rolling MPASS (R179). -/
def chunkRows (d : Desc) : Nat := if d.shape = 5 then 8 else 16

/-- K rows of the sweep on core `sc` of the spine set: first and end (R136). -/
def sliceOf (d : Desc) (sc : Nat) : Nat × Nat :=
  if d.spinen = 0 then (0, d.k) else (min d.k (sc * d.kslice), min d.k ((sc + 1) * d.kslice))

/-- K blocks of the sweep on core `sc` (R103). -/
def blocksOf (d : Desc) (sc : Nat) : Nat :=
  if isRolling d then 1 else ceilDiv ((sliceOf d sc).2 - (sliceOf d sc).1) (kPerPass d.shape)

/-- Tokens that the op presents on a chain of core `sc` (R416, Table 07-2). -/
def tokenCount (d : Desc) (sc : Nat) : Nat := blocksOf d sc * (passes d).length * passTokens d

/-- What a token is: its weight load within the op, K block, pass, and output row of term 0. -/
structure TokSpec where
  load : Nat
  blk : Nat
  pass : Pass
  row : Nat
deriving DecidableEq, Repr

/-- The default pass. -/
def Pass.one : Pass := ⟨0, 0, false, false, false⟩

/-- Token `idx` of the op on core `sc` of its set (R103, R178, R179). -/
def tokSpec (d : Desc) (sc idx : Nat) : TokSpec :=
  let ps := passes d
  let np := ps.length
  if isRolling d ∧ d.op = 0x06 then
    let cr := chunkRows d
    let j := idx / (cr * np)
    let r := min cr (d.m - j * cr)
    let w := idx - j * cr * np
    let i := w / r
    let pi := if j % 2 = 0 then i else np - 1 - i
    let p := ps.getD pi Pass.one
    let gp := if j % 2 = 0 then p.w else groupCount d - 1 - p.w
    ⟨j * (groupCount d - 1) + gp, 0, p, j * cr + w % r⟩
  else
    let pt := passTokens d
    let b := idx / (np * pt)
    let p := ps.getD (idx / pt % np) Pass.one
    ⟨if isRolling d then 0 else b * groupCount d + p.w, b + (sliceOf d sc).1 / kPerPass d.shape, p,
      idx % pt * (if el8Mode d then 2 else 1)⟩

/-- Weight loads of the op on core `sc`: for a rolling MPASS load 0 is the set in force and a last load returns plane 0
after an odd number of chunks (R104, R178 to R180); a rolling STREAM or SCAN has the set in force only. -/
def loadCount (d : Desc) (sc : Nat) : Nat :=
  if d.op = 0x01 then 1
  else if isRolling d then
    (if d.op = 0x06 then
      let c := ceilDiv d.m (chunkRows d)
      c * (groupCount d - 1) + 1 + c % 2
    else 1)
  else blocksOf d sc * groupCount d

/-- The first load that the op makes itself (R180). -/
def firstLoad (d : Desc) : Nat := if isRolling d then 1 else 0

/-- Weight plane of a load (R178 to R180). -/
def loadPlane (d : Desc) (sc no : Nat) : Nat :=
  if d.op ≠ 0x06 then 0
  else if isRolling d then
    let g := groupCount d - 1
    let c := ceilDiv d.m (chunkRows d)
    if no = 0 ∨ no = c * g + 1 then 0
    else
      let gp := (no - 1) % g + 1
      if (no - 1) / g % 2 = 0 then gp else g - gp
  else no % groupCount d + 0 * sc

/-- K block of a load, counted over the whole op. -/
def loadBlock (d : Desc) (sc no : Nat) : Nat :=
  if d.op = 0x01 ∨ isRolling d then 0 else no / groupCount d + (sliceOf d sc).1 / kPerPass d.shape

/-- Bytes of one chain's weight set for one K block: 32d lines, or 16d in EL8 mode and for EL8 weights (R134, R127). -/
def setBytes (d : Desc) : Nat := 64 * (if d.fmt = 1 ∨ d.fmt = 3 then 16 else 32) * depthOf d.shape

/-- Offset in WREF of the weight set of a load for chain `i` of NCHAIN (R134, R135, R178, R180). -/
def loadOff (d : Desc) (sc no i : Nat) : Nat :=
  64 * d.wplane * loadPlane d sc no +
    (if d.op = 0x01 ∨ isRolling d then setBytes d * i else setBytes d * (loadBlock d sc no * d.nchain + i))

/-- Offset in a set of the weight of chain row `r`, logical column `c` (Table 04-4, R127). -/
def weightOff (d : Desc) (r c : Nat) : Nat :=
  if d.fmt = 1 ∨ d.fmt = 3 then 32 * r + c else 64 * r + 2 * c

/-- Bytes of one weight. -/
def weightSize (d : Desc) : Nat := if d.fmt = 1 ∨ d.fmt = 3 then 1 else 2

/-- First K position of the pass's row 0 (W[k0 + r]): the K block's, or K0 of a LOADW (R61, Table 05-8). -/
def loadK0 (d : Desc) (sc no : Nat) : Nat :=
  if d.op = 0x01 then fld d.w2 63 32 else loadBlock d sc no * kPerPass d.shape

/-- End of the K range that a load or token of core `sc` may use. -/
def kEnd (d : Desc) (sc : Nat) : Nat := if d.spinen = 0 then d.k else (sliceOf d sc).2

/-- Enabled rows of a load, by chain row: k0 + r < K (R74). -/
def enabledRows (d : Desc) (sc no : Nat) : Nat := min (kPerPass d.shape) (kEnd d sc - loadK0 d sc no)

/-- Bytes from one K block of a row to the next: 64d, or 32d for the EL8 activations of FMT 0x2 (R127, R134). A quadrant has d = 1
(R80), so the 16 positions of its block take the first half of it (DEDUCED, log 13). -/
def blockStep (d : Desc) : Nat := (if d.fmt = 2 then 32 else 64) * depthOf d.shape

/-- Offset in AREF of the activation of output row `m`, K position `k`, plane `p` (Table 04-4, R127, R134, R138). -/
def actOff (d : Desc) (p m k : Nat) : Nat :=
  let row := 64 * d.stride * (if el8Mode d then m / 2 else m)
  let block := blockStep d * (k / kPerPass d.shape)
  let r := k % kPerPass d.shape
  if el8Mode d then row + block + 2 * r + m % 2
  else if d.fmt = 2 then row + block + r
  else 64 * d.aplane * p + row + block + 2 * r

/-- Bytes of the activations of one token, from K position `k` on, `n` of them: offset and length in AREF. -/
def tokenSpan (d : Desc) (sc idx : Nat) : Nat × Nat :=
  let t := tokSpec d sc idx
  let k0 := t.blk * kPerPass d.shape
  let n := min (kPerPass d.shape) (kEnd d sc - k0)
  (actOff d t.pass.a t.row k0, n * (if d.fmt = 2 then 1 else 2))

/-! ### Rows, elements and layouts of PRELOAD and DRAIN (R139, R164 to R167) -/

/-- Element size in bytes of a code of Table 05-4, DRAIN and PRELOAD columns (R154). -/
def fmtOf (f : Nat) : Fmt := if f = 1 then .el8 else if f = 4 then .comet else .el16

/-- The fusion format of AFMT (Table 06-5). DESIGN CHOICE: the reserved AFMT 0b11, which is refused with MODE, has elements of EL16 for
the RANGE check that comes first (log 108). -/
def afmtOf (f : Nat) : Fmt := if f = 1 then .el8 else if f = 2 then .comet else .el16

/-- Whether a layout's LP fields are in range, with its output format (Table 06-6, R166). -/
def layoutOk (d : Desc) : Bool :=
  let lp := d.lp
  match d.layout with
  | 0 => lp == 0
  | 1 => decide (6 ≤ fieldOf lp 19 14 ∧ fieldOf lp 19 14 ≤ 47 ∧ 1 ≤ fieldOf lp 13 6 ∧ fieldOf lp 5 0 = 0)
  | 2 => decide (6 ≤ fieldOf lp 19 14 ∧ fieldOf lp 19 14 ≤ 47 ∧ 1 ≤ fieldOf lp 13 6 ∧ fieldOf lp 5 0 = 0)
  | 3 => decide (fieldOf lp 19 17 ≤ 4 ∧ 1 ≤ fieldOf lp 16 11 ∧ fieldOf lp 16 11 ≤ 32 ∧ 1 ≤ fieldOf lp 10 3 ∧
      fieldOf lp 10 3 ≤ 128 ∧ fieldOf lp 2 0 = 0 ∧ d.stride = 0 ∧ d.fmt ≠ 4)
  | 4 => lp == 0 && d.fmt == 1
  | _ => false

/-- Offset in DATA of layout element (u, v) (Table 06-6). -/
def layoutOff (d : Desc) (u v : Nat) : Nat :=
  let s := (fmtOf d.fmt).size
  let lp := d.lp
  let sh := fieldOf lp 19 14
  let w := 32 * fieldOf lp 13 6
  match d.layout with
  | 0 => 64 * d.stride * u + s * v
  | 1 => v / w * 2 ^ sh + 64 * d.stride * u + s * (v % w)
  | 2 => u / w * 2 ^ sh + 64 * d.stride * (u % w) + s * v
  | 3 =>
    let dd := 2 ^ fieldOf lp 19 17
    let b := u / (32 * dd)
    let r := u % (32 * dd)
    let i := v / fieldOf lp 16 11
    let j := v % fieldOf lp 16 11
    let nch := fieldOf lp 10 3
    if d.fmt = 1 then 64 * 16 * dd * (b * nch + i) + 64 * (r / 2) + 32 * (r % 2) + j
    else 64 * 32 * dd * (b * nch + i) + 64 * r + 2 * j
  | _ => 64 * d.stride * (u / 2) + 2 * v + u % 2

/-- Offset in DATA of output element (m, n) (R165). -/
def dataOff (d : Desc) (m n : Nat) : Nat := if d.trans then layoutOff d n m else layoutOff d m n

/-- Offset in AUX of the sideband byte, the fusion element or the index element of (m, n) (R155, R157, R160). -/
def auxOff (d : Desc) (sz m n : Nat) : Nat := 64 * d.astride * m + sz * n

/-- The tiles that a DRAIN or PRELOAD names, with the first row of each and the output column of its logical column 0.
For a companion the tile of each chain of its rolling op stands at row 0 (R169). -/
structure Part where
  t : TileRef
  row0 : Nat
  rows : Nat
  n0 : Nat
  cols : Nat
deriving DecidableEq, Repr

/-- The parts of a DRAIN or PRELOAD that is no companion (R130, R139, R165). -/
def State.plainParts (s : State) (d : Desc) : List Part :=
  let t := TileRef.ofHandle d.tile
  let rpt := t.rows
  (List.range (ceilDiv d.m rpt)).map fun i =>
    let ti : TileRef := ⟨t.n / 16 * 16 + (t.n % 16 + nibble d.tlist i), t.q⟩
    ⟨ti, i * rpt, min rpt (d.m - i * rpt), d.n0, min (s.width ti) (d.n - d.n0)⟩

/-- The parts of a companion DRAIN of rolling op `r`: the tile of each chain at the offset `off` (R169, R181). -/
def State.compParts (s : State) (r d : Desc) (off : Nat) : List Part :=
  (List.range r.nchain).map fun i =>
    let c := chainAt r (tileCore r) i
    ⟨chainTile c off, 0, d.m, s.chainOff r i, s.chainCols r c i⟩

/-- The offset of a companion: nibble 0 of its rolling op's list, or nibble 8 for the imaginary half (R169, R181). -/
def compOff (r d : Desc) : Nat :=
  if isComplex r ∧ d.tile = (chainTile (chainAt r (tileCore r) 0) (nibble r.tlist 8)).handle then nibble r.tlist 8
  else nibble r.tlist 0

/-- The parts of a DRAIN or PRELOAD op. -/
def State.partsOf (s : State) (d : Desc) (rolled : Option Desc) : List Part :=
  match rolled with
  | none => s.plainParts d
  | some r => s.compParts r d (compOff r d)

/-- The register row in its tile that row i of a part enters: i, or i mod 32 (16) for a companion (R165, R169). -/
def partRow (p : Part) (i : Nat) : Nat := i % p.t.rows

end Sys2Proof.Machine
end

