-- ==== Sys2Proof/Machine/Flags.lean ====
section
/-! DEFINITION. What a drain reports of a register: the output element, its poison and the sideband byte of Table 06-1,
for sums with each fusion (R152, R155, R157, R158) and for compare records (R160). -/

namespace Sys2Proof.Machine

/-- The result sideband byte (Table 06-1). -/
def sidebandByte (psn satd ovf unf ninf pinf nan : Bool) : Byte :=
  BitVec.ofNat 8 (at_ (bit psn) 7 + at_ (bit satd) 6 + at_ (bit ovf) 5 + at_ (bit unf) 4 + at_ (bit ninf) 2 +
    at_ (bit pinf) 1 + bit nan)

/-- An output element: its codes (head, and tail of a comet pair), poison, sideband byte, and the index of a compare
record. -/
structure OutElem where
  head : Code
  tail : Code
  psn : Bool
  sb : Byte
  index : Nat
deriving DecidableEq, Repr

/-- A fusion element: head and tail codes (tail 0 unless comet) and poison. -/
structure Fusion where
  head : Code
  tail : Code
  psn : Bool
deriving DecidableEq, Repr

/-- A fusion element as what enters an exact sum; an EL8 code is read under R22 (R157). -/
def Fusion.incoming (f : Fmt) (g : Fusion) : Incoming :=
  match f with
  | .el8 => Incoming.ofCode (el8To16 (g.head.setWidth 8)) g.psn
  | .el16 => Incoming.ofCode g.head g.psn
  | .comet => Incoming.ofComet g.head g.tail g.psn

/-- The element of a register that holds a sum, without fusion or with a fused add of `i` (R152, R157). -/
def drainAdd (fmt : Fmt) (sat : Bool) (r : LongReg) (i : Incoming) : OutElem :=
  let nan := r.nan || i.nan
  let pinf := r.pinf || i.pinf
  let ninf := r.ninf || i.ninf
  let psn := r.poison || i.psn
  let c := convert fmt sat (r.val + i.v) nan pinf ninf
  ⟨c.head, c.tail, psn, sidebandByte psn c.satd c.ovf c.unf ninf pinf nan, 0⟩

/-- The element of a register with a fused multiply by `g` (R158). -/
def drainMul (fmt : Fmt) (sat : Bool) (r : LongReg) (g : Fusion) : OutElem :=
  let i := g.incoming fmt
  let y := convert fmt sat r.val r.nan r.pinf r.ninf
  let c := productStep fmt sat y.head g.head
  let psn := r.poison || g.psn
  ⟨c.head, 0, psn, sidebandByte psn (y.satd || c.satd) (y.ovf || c.ovf) (y.unf || c.unf) (r.ninf || i.ninf)
    (r.pinf || i.pinf) (r.nan || i.nan), 0⟩

/-- The signed value of a finite candidate in units of 2^-271 (R160). -/
def Cand.value (c : Cand) : Int :=
  if c.sign then -((c.rung * 2 ^ c.pos : Nat) : Int) else ((c.rung * 2 ^ c.pos : Nat) : Int)

/-- The conversion of a candidate (R160). -/
def Cand.convert (fmt : Fmt) (sat : Bool) (c : Cand) : Conv :=
  match c.cls with
  | .fin => Sys2Proof.Machine.convert fmt sat c.value false false false
  | .zero => ⟨0, 0, false, false, false⟩
  | .pinf => ⟨specialCode fmt .pinf, 0, false, false, false⟩
  | .ninf => ⟨specialCode fmt .ninf, 0, false, false, false⟩
  | .nan => ⟨specialCode fmt .nan, 0, false, false, false⟩

/-- The element of a compare record: value code and index (R160). -/
def drainCompare (fmt : Fmt) (sat : Bool) (r : LongReg) : OutElem :=
  match candOf r.n with
  | none => ⟨specialCode fmt .nan, 0, r.poison, sidebandByte r.poison false false false r.ninf r.pinf r.nan, 2 ^ 64 - 1⟩
  | some k =>
    let c := k.convert fmt sat
    ⟨c.head, c.tail, r.poison, sidebandByte r.poison c.satd c.ovf c.unf r.ninf r.pinf r.nan, k.index⟩

/-- How a drain reads a register: output format, fusion format, FUSE (0 none, 1 add, 2 multiply), SAT, and whether the register
holds a compare record. -/
structure ReadForm where
  fmt : Fmt
  afmt : Fmt
  fuse : Nat
  sat : Bool
  cmp : Bool
deriving DecidableEq, Repr

/-- What a fused add adds to the register. -/
def ReadForm.addend (f : ReadForm) (g : Fusion) : Incoming := if f.fuse = 1 then g.incoming f.afmt else Incoming.zero

/-- The element that a DRAIN writes of a register (R152). -/
def drainElem (f : ReadForm) (r : LongReg) (g : Fusion) : OutElem :=
  if f.cmp then drainCompare f.fmt f.sat r
  else if f.fuse = 2 then drainMul f.fmt f.sat r g
  else drainAdd f.fmt f.sat r (f.addend g)

/-! ### The checks of a drain (R253) -/

/-- The exact value of a code of an output format, in units of 2^-271: that of R243 for a finite code, 0 for a special one. -/
def codeValue (fmt : Fmt) (head tail : Code) : Int :=
  match fmt with
  | .el16 => valueOf head
  | .el8 => valueOf (el8To16 (head.setWidth 8))
  | .comet => valueOf head + valueOf tail

/-- A conversion as its check sees it (R253): the residues r(x) of the value converted, that value, and the value of its code. -/
structure ConvCheck where
  r127 : Nat
  r255 : Nat
  x : Int
  code : Int
deriving DecidableEq, Repr

/-- The remainder d = x − value(code) that the converter gives with the code, off by an error of the converter (R253). -/
def ConvCheck.rem (c : ConvCheck) (err : Int) : Int := c.x + err - c.code

/-- r(value(code)) + r(d), modulo m. -/
def ConvCheck.sum (c : ConvCheck) (err : Int) (m : Nat) : Nat := (residue c.code m + residue (c.rem err) m) % m

/-- The identity r(value(code)) + r(d) = r(x) (R253). -/
def ConvCheck.holds (c : ConvCheck) (err : Int) : Bool := c.sum err 127 == c.r127 && c.sum err 255 == c.r255

/-- The conversion of a register with its fused addend, x being the candidate's exact value for a compare record (DEDUCED, log 99),
and the first rounding of a fused multiply (R158, R160, R253). -/
def ReadForm.convCheck (f : ReadForm) (r : LongReg) (g : Fusion) : ConvCheck :=
  if f.cmp then
    match candOf r.n with
    | none => ⟨0, 0, 0, 0⟩
    | some k =>
      let x := if k.cls = .fin then k.value else 0
      let c := k.convert f.fmt f.sat
      ⟨residue x 127, residue x 255, x, codeValue f.fmt c.head c.tail⟩
  else
    let i := f.addend g
    let c := convert f.fmt f.sat (r.val + i.v) (r.nan || i.nan) (r.pinf || i.pinf) (r.ninf || i.ninf)
    ⟨(r.r127.toNat + residue i.v 127) % 127, (r.r255.toNat + residue i.v 255) % 255, r.val + i.v, codeValue f.fmt c.head c.tail⟩

/-- The product step of a fused multiply, x being the product's exact value (R253). -/
def ReadForm.productCheck (f : ReadForm) (r : LongReg) (g : Fusion) : ConvCheck :=
  let wide (c : Code) : Code := if f.fmt = .el8 then el8To16 (c.setWidth 8) else c
  let y := convert f.fmt f.sat r.val r.nan r.pinf r.ninf
  let t := product (wide y.head) (wide g.head) false
  let c := productStep f.fmt f.sat y.head g.head
  ⟨t.r127.toNat, t.r255.toNat, t.value, codeValue f.fmt c.head c.tail⟩

/-- A register whose N reads wrong by an error. -/
def LongReg.off (r : LongReg) (err : Int) : LongReg := { r with n := r.n + BitVec.ofInt 576 err }

/-- Whether a drain has the step that a fault meets: only a fused multiply has a product step. -/
def ReadForm.meets (f : ReadForm) (x : ReadFault) : Bool := x.pt != .product || (f.fuse == 2 && !f.cmp)

/-- Whether a fault at a drain fails its check (R253): an error that is a multiple of 127 and of 255 fails none. -/
def ReadForm.fails (f : ReadForm) (r : LongReg) (g : Fusion) (x : ReadFault) : Bool :=
  f.meets x && (match x.pt with
  | .read => !(r.off x.err).checks
  | .conv => !(f.convCheck r g).holds x.err
  | .product => !(f.productCheck r g).holds x.err)

/-- Residues predicted and computed by the check that a fault fails (Table 10-6). -/
def ReadForm.detail (f : ReadForm) (r : LongReg) (g : Fusion) (x : ReadFault) : Nat × Nat × Nat × Nat :=
  let of (c : ConvCheck) : Nat × Nat × Nat × Nat := (c.r127, c.r255, c.sum x.err 127, c.sum x.err 255)
  match x.pt with
  | .read =>
    let p := LongReg.residuesOf (r.off x.err).n
    (r.r127.toNat, r.r255.toNat, p.1.toNat, p.2.toNat)
  | .conv => of (f.convCheck r g)
  | .product => of (f.productCheck r g)

/-- The element with a code of no defined value. -/
def OutElem.wrong (ctr : Nat) (e : OutElem) : OutElem :=
  { e with head := Config.freeCode (2 * ctr), tail := Config.freeCode (2 * ctr + 1) }

/-- The element whose retry failed: a code of no defined value, Q = 1 (R419). -/
def OutElem.failed (ctr : Nat) (e : OutElem) : OutElem := { e.wrong ctr with psn := true, sb := e.sb ||| 0x80 }

/-- The bytes of an output element in its format (R12, R24): head then tail of a comet pair. -/
def OutElem.bytes (fmt : Fmt) (e : OutElem) : List Byte :=
  match fmt with
  | .el16 => leBytes 2 e.head.toNat
  | .el8 => leBytes 1 e.head.toNat
  | .comet => leBytes 2 e.head.toNat ++ leBytes 2 e.tail.toNat

end Sys2Proof.Machine
end

