-- ==== Sys2Proof/Machine/Meter.lean ====
section
/-! DEFINITION. The envelope figures, the metered draw and the draw ceiling (spec/13_power_and_envelopes.md R328 to R332,
R344), and the entry of a token into the meter. Draws are in microamperes. -/

namespace Sys2Proof.Machine

/-- V_ARR of an envelope, mV (Table 13-1). -/
def vArr (env : Nat) : Nat := [620, 750, 850].getD env 620

/-- Tj max of an envelope (Table 13-1). -/
def tjMax (env : Nat) : Nat := [95, 85, 75].getD env 95

/-- τ_env of an envelope, ps (Table 13-1). -/
def tauEnv (env : Nat) : Nat := [850, 500, 400].getD env 850

/-- Fixed draw of the block, mW (Table 13-1). -/
def fixedPower (conf : Conf) (env : Nat) : Nat := [9000, 11250, 10500].getD env 9000 * conf.clusters

/-- Power ceiling of the block, mW (Table 13-1). -/
def ceilPower (conf : Conf) (env : Nat) : Nat := [30000, 57500, 82500].getD env 30000 * conf.clusters

/-- Power in mW as a draw at V_ARR (R329). -/
def drawOf (mw env : Nat) : Nat := mw * 1000000 / vArr env

/-- The power cap in force, W; 0 for none (R344). -/
def State.capW (s : State) : Nat := s.obj (key 0x2000 3)

/-- The draw ceiling (R330): the lower of the metering envelope's ceiling and the cap, over V_ARR of the envelope in
force. -/
def State.drawCeil (s : State) : Nat :=
  let p := ceilPower s.conf s.pwr.metEnv
  drawOf (if s.capW = 0 then p else min p (s.capW * 1000)) s.pwr.env

/-- The draw that a sum of cells × mV² in one step adds at V_ARR: e(V) = 170 fJ × (V / 750 mV)² per cell-token, over
10 ns and V_ARR (R328, R329). -/
def dynDraw (energy env : Nat) : Nat := energy * 34 / (1125 * vArr env)

/-- The metered draw of a step in which tokens of that sum entered (R329). -/
def State.meter (s : State) (energy : Nat) : Nat := drawOf (fixedPower s.conf s.pwr.env) s.pwr.env + dynDraw energy s.pwr.env

/-- m20: the least metered draw over the last 2,000 steps (R332). -/
def State.m20 (s : State) : Nat := s.pwr.hist.foldl min s.pwr.im

/-- F: the level of the latest FORECAST whose lead has expired, the fixed draw over V_ARR before the first one (R332). -/
def State.forecastLevel (s : State) : Nat :=
  if s.pwr.fLevel = 0 then drawOf (fixedPower s.conf s.pwr.env) s.pwr.env else s.pwr.fLevel

/-- The limit on the rise and the fall of the metered draw of the block, µA per step (R331). -/
def State.slew (s : State) : Nat := 125000 * s.conf.clusters

/-- The bounds of R330, R331 and R332 on the metered draw of the present step. -/
def State.drawOk (s : State) (energy : Nat) : Bool :=
  let i := s.meter energy
  decide (i ≤ s.drawCeil) && decide (i ≤ s.pwr.im + s.slew) &&
    decide (i ≤ max s.forecastLevel s.m20 + 15000000 * s.conf.clusters)

/-- A core's island as last reported. -/
def State.island (s : State) (c : Nat) : Island := sget .zero s.pwr.islands c

/-- The voltage last reported for a core's island (R329). -/
def State.islandMv (s : State) (core : Nat) : Nat := (s.island core).mv

/-- The share of a token of `cells` enabled cells on a core in the meter's sum. -/
def State.tokenEnergy (s : State) (core cells : Nat) : Nat := cells * s.islandMv core * s.islandMv core

/-- Whether a token may enter now (R330 to R332). -/
def State.mayEnter (s : State) (core cells : Nat) : Bool := s.drawOk (s.pwr.energy + s.tokenEnergy core cells)

/-- Whether a token leaves the draw falling at the rate of R331 at least: a taper may still use it (R334). -/
def State.tapers (s : State) (core cells : Nat) : Bool := decide (s.meter (s.pwr.energy + s.tokenEnergy core cells) + s.slew ≤ s.pwr.im)

/-- A token has entered. -/
def State.enter (s : State) (core cells : Nat) : State :=
  { s with pwr := { s.pwr with energy := s.pwr.energy + s.tokenEnergy core cells } }

/-- The ballast hold in steps (R334). -/
def State.holdTime (s : State) : Nat := s.obj (key 0x2300 3)

/-- A token of an op has entered: the hold after the core's tokens counts from the last of them (R334). -/
def State.opToken (s : State) (core cells : Nat) : State :=
  let s1 := s.enter core cells
  { s1 with pwr := { s1.pwr with plan := s1.pwr.plan.map (fun p =>
    if p.core = core ∧ p.rel ≤ s1.now then { p with until_ := max p.until_ (s1.now + s1.holdTime), last := s1.now } else p) } }

/-- The end of an interval's hold: the ballast hold after the last token of the core's op, as planned before its first (R334). -/
def State.holdEnd (s : State) (p : PlanCore) : Nat := if p.last = 0 then p.until_ else p.last + s.holdTime

/-! ### Speed tables (R187 to R190) -/

/-- The entries of a record by voltage point. -/
def speedRows (es : List Nat) (nt : Nat) : Nat → List (List Nat)
  | 0 => []
  | k + 1 => es.take nt :: speedRows (es.drop nt) nt k

/-- Whether a list does not decrease. -/
def rises : List Nat → Bool
  | [] => true
  | [_] => true
  | a :: b :: r => decide (a ≤ b) && rises (b :: r)

/-- Whether the entries do not increase along the voltage points. -/
def rowsFall : List (List Nat) → Bool
  | [] => true
  | [_] => true
  | a :: b :: r => (a.zip b).all (fun p => decide (p.2 ≤ p.1)) && rowsFall (b :: r)

/-- What is wrong with the record of core c (R188, the codes of class 0x050): 1 the CRC, 2 the content. -/
def speedFault (c : Nat) (r : List W64 × List Nat) : Option Nat :=
  let h := r.1.getD 0 0
  let g := r.1.getD 1 0
  let nv := fld h 47 40
  let nt := fld h 39 32
  let rows := speedRows r.2 nt nv
  if crc32c (r.2.flatMap (leBytes 2)) ≠ fld g 63 32 then some 1
  else if fld h 63 60 = 1 ∧ fld h 59 54 = c ∧ fld h 53 48 = 0 ∧ fld g 31 8 = 0 ∧ fld g 3 0 = 0 ∧ 2 ≤ nv ∧ nv ≤ 64 ∧ 2 ≤ nt ∧
      nt ≤ 16 ∧ fld h 19 12 ≠ 0 ∧ fld h 3 0 ≠ 0 ∧ r.2.length = nv * nt ∧ r.2.all (fun e => e != 0) ∧ rows.all rises ∧ rowsFall rows
    then none
  else some 2

/-- The grid entry of a speed-table record at or below V and at or above T; none outside the grid (R189). -/
def speedEntry (r : List W64 × List Nat) (v t : Nat) : Option Nat :=
  let h := r.1.getD 0 0
  let nv := fld h 47 40
  let nt := fld h 39 32
  let v0 := fld h 31 20
  let vs := fld h 19 12
  let t0 := fld h 11 4
  let ts := 5 * fld h 3 0
  let i := min (nv - 1) ((v - v0) / max 1 vs)
  let j := ceilDiv (t - t0) (max 1 ts)
  if v < v0 ∨ nt ≤ j then none else r.2[nt * i + j]?

/-- τ_tab of a core at the admitted corner of an envelope: V_ARR − 20 mV and Tj max (R190). -/
def State.tauTab (s : State) (c env : Nat) : Option Nat :=
  match sfind s.speed c with
  | none => none
  | some r => if (speedFault c r).isSome then none else speedEntry r (vArr env - 20) (tjMax env)

/-- The lower of the envelope in force and a pending one (R206). -/
def State.envPriced (s : State) : Nat := match s.pwr.pendEnv with
  | none => s.pwr.env
  | some e => min e s.pwr.env

/-- Whether a core has a lookup value at the admitted corner, without which it is not offered for work (R188, R189). -/
def State.hasPeriod (s : State) (c : Nat) : Bool := (s.tauTab c s.envPriced).isSome

end Sys2Proof.Machine
end

