-- ==== Sys2Proof/Machine/Access.lean ====
section
/-! DEFINITION. What each op reads and writes outside the array, use by use: the buffer lines that order ops of one
cluster (R147), the staging rings and read requests of memory-space tensors (R132, R397, R398), and memory writes
(R202, R215, R227). -/

namespace Sys2Proof.Machine

/-- A use of a tensor: descriptor word, unit of use, offset in the tensor, bytes, and whether it writes. -/
structure Use where
  ten : Nat
  unit : Nat
  off : Nat
  len : Nat
  wr : Bool
deriving DecidableEq, Repr

/-- The cluster of an op: that of its TILE (R131, R219). An op that names no tile (a contribution, a collection, a RETRACT of a
contribution, the W3 of a DICT) reads and writes the buffer of cluster 0: DESIGN CHOICE, the spec names none (log 67). -/
def opCluster (d : Desc) : Nat :=
  if d.op = 0x18 ∨ d.op = 0x19 ∨ d.op = 0x1C then 0 else (TileRef.ofHandle d.tile).cluster

/-- The unit of a token. -/
def tokUnit (sc idx : Nat) : Nat := idx * 8 + sc

/-- The unit of a line of a weight set. -/
def loadUnit (no ci line : Nat) : Nat := (no * 1024 + ci) * 1024 + line

/-- The unit of a row of a part. -/
def rowUnit (ci i : Nat) : Nat := ci * 2 ^ 32 + i

/-- The line of a weight set that holds chain row `r`. -/
def rowLine (d : Desc) (r : Nat) : Nat := if d.fmt = 1 ∨ d.fmt = 3 then r / 2 else r

/-- The reads of activations. -/
def tokenUses (d : Desc) : List Use :=
  let scs := List.range (d.spinen + 1)
  let most := maxN (scs.map (tokenCount d))
  (List.range most).flatMap fun idx => scs.flatMap fun sc =>
    if idx < tokenCount d sc then [⟨5, tokUnit sc idx, (tokenSpan d sc idx).1, (tokenSpan d sc idx).2, false⟩] else []

/-- The reads of weights, loads in order. -/
def weightUses (d : Desc) : List Use :=
  let nch := (opChains d).length
  let most := maxN ((List.range (d.spinen + 1)).map (loadCount d))
  (List.range most).flatMap fun no => (List.range nch).flatMap fun ci =>
    let sc := ci / d.nchain
    if firstLoad d ≤ no ∧ no < loadCount d sc then
      let rows := enabledRows d sc no
      (List.range (if rows = 0 then 0 else rowLine d (rows - 1) + 1)).map fun l =>
        ⟨6, loadUnit no ci l, loadOff d sc no (ci % d.nchain) + 64 * l, 64, false⟩
    else []

/-- The row of the fusion tensor that row m uses: row 0 when ASTRIDE is 0. -/
def fuseUnit (d : Desc) (ci i : Nat) : Nat := if d.astride = 0 then rowUnit ci 0 else rowUnit ci i

/-- The uses of one row of a part of a DRAIN: elements written, index elements of the columns that hold compare records, and sideband
or fusion elements (R155 to R166). -/
def drainRowUses (d : Desc) (cmp : Nat → Bool) (ci : Nat) (p : Part) (i : Nat) : List Use :=
  let m := d.m0 + p.row0 + i
  let s := (fmtOf d.fmt).size
  let cells := (List.range p.cols).map fun c => (⟨5, rowUnit ci i, dataOff d m (p.n0 + c), s, true⟩ : Use)
  let index := ((List.range p.cols).filter cmp).map fun c => (⟨6, rowUnit ci i, auxOff d 8 m (p.n0 + c), 8, true⟩ : Use)
  let aux : List Use :=
    if p.cols = 0 then []
    else if d.sbe then [⟨6, rowUnit ci i, auxOff d 1 m p.n0, p.cols, true⟩]
    else if d.fuse ≠ 0 then
      [⟨6, fuseUnit d ci i, auxOff d (afmtOf d.afmt).size m p.n0, (afmtOf d.afmt).size * p.cols, false⟩]
    else []
  cells ++ index ++ aux

/-- The uses of one row of a part of a PRELOAD (R139). -/
def preloadRowUses (d : Desc) (ci : Nat) (p : Part) (i : Nat) : List Use :=
  let s := if d.fmt = 4 then 4 else 2
  let m := if d.rowb then 0 else p.row0 + i
  if p.cols = 0 then [] else [⟨5, rowUnit ci i, 64 * d.stride * m + s * p.n0, s * p.cols, false⟩]

/-- The keys of the registers of a row of a part. -/
def State.partKeys (s : State) (p : Part) (i : Nat) : List Nat := s.rowKeys p.t (partRow p i) p.cols

/-- Those of some quarters that hold compare records; a quarter whose mode is free holds sums (R156, R418). -/
def State.cmpQuarters (s : State) (qs : List Nat) : List Nat := qs.eraseDups.filter (fun k => (s.tileQ k).mode == .compare)

/-- The quarters in which a part has registers. -/
def State.partQuarters (s : State) (p : Part) : List Nat :=
  ([0, 16].filter (fun i => decide (i < min p.rows p.t.rows))).flatMap (fun i => (s.partKeys p i).map quarterOfReg)

/-- Whether column `c` of a row of a part lies in one of the quarters that hold compare records. -/
def State.cmpAt (s : State) (cq : List Nat) (p : Part) (i c : Nat) : Bool :=
  match (s.partKeys p i)[c]? with
  | none => false
  | some rk => cq.elem (quarterOfReg rk)

/-- Bytes of an element of an XRED or RETRACT (Table 05-4). -/
def xredSize (d : Desc) : Nat := if d.fmt = 4 then 4 else 2

/-- Elements in one DATA frame of a contribution (R304): 2,048 bytes of codes. -/
def frameElems (d : Desc) : Nat := 2048 / xredSize d

/-- The uses of a contribution or retraction: its source elements frame by frame (R304), its destination if it receives
results. -/
def xredUses (d : Desc) (wr : Bool) : List Use :=
  (List.range (ceilDiv d.elems (frameElems d))).map fun f =>
    ⟨5, f, f * frameElems d * xredSize d, min (frameElems d) (d.elems - f * frameElems d) * xredSize d, wr⟩

/-- Every use of an op, in the order of need. `rolled` is the rolling op of a companion; `cq` the quarters that
hold compare records. -/
def State.allUses (s : State) (k : OpK) (d : Desc) (rolled : Option Desc) (cq : List Nat) : List Use :=
  match k with
  | .loadw => weightUses d
  | .stream => tokenUses d ++ weightUses d
  | .scan => tokenUses d ++ weightUses d
  | .mpass => tokenUses d ++ weightUses d
  | .reroll => tokenUses d ++ weightUses d
  | .drain => (s.partsOf d rolled).zipIdx.flatMap fun pi =>
      (List.range pi.1.rows).flatMap fun i => drainRowUses d (s.cmpAt cq pi.1 i) pi.2 pi.1 i
  | .preload => (s.partsOf d rolled).zipIdx.flatMap fun pi =>
      (List.range pi.1.rows).flatMap fun i => preloadRowUses d pi.2 pi.1 i
  | .contrib => if d.prov then xredUses d false else xredUses d false ++ xredUses d true
  | .collection => xredUses d true
  | .retract => if xredNames d then [] else xredUses d false
  | .tagged => if xredNames d then [] else xredUses d false
  | .owner => if d.hier then [] else xredUses d true
  | .save => [⟨5, 0, 0, d.w2.toNat, true⟩]
  | .restore => (List.range (ceilDiv d.w2.toNat 64)).map fun l => ⟨5, l, 64 * l, min 64 (d.w2.toNat - 64 * l), false⟩
  | .dict => if d.dlen ≤ 32 then [] else [⟨3, 0, 0, d.dlen, !d.flag0⟩]
  | _ => []

/-- The uses of an outstanding op. -/
def State.uses (s : State) (o : Op) : List Use := s.allUses o.k o.d o.rd o.cmpq

/-- Chain rows that share a line of a set with row `r`. -/
def lineRows (d : Desc) (l : Nat) : List Nat := if d.fmt = 1 ∨ d.fmt = 3 then [2 * l, 2 * l + 1] else [l]

/-- Whether a use is finished; the one fusion row of ASTRIDE 0, when every row of its part has been converted. A contribution has made
its last read once it is FINAL (R314), and its and a collection's writes frame by frame. -/
def State.useDone (s : State) (o : Op) (u : Use) : Bool :=
  match o.k with
  | .drain =>
    if u.ten = 6 ∧ o.d.fuse ≠ 0 ∧ o.d.astride = 0 then
      (match (s.partsOf o.d o.rd)[u.unit / 2 ^ 32]? with
      | none => true
      | some p => (List.range p.rows).all (fun i => o.rows.elem (rowUnit (u.unit / 2 ^ 32) i)))
    else o.rows.elem u.unit
  | .preload => o.rows.elem u.unit
  | .contrib => if u.wr then o.rows.elem u.unit else !o.d.prov && o.ackc == some 0
  | .collection => o.rows.elem u.unit
  | .retract => false
  | .tagged => false
  | .owner => decide (u.unit + 1 < o.got)
  | .restore => o.img.any (fun p => p.1 == u.unit)
  | .save => false
  | .dict => false
  | _ =>
    if u.ten = 5 then
      (List.range o.chains.length).all fun ci =>
        ci / o.d.nchain != u.unit % 8 || decide (u.unit / 8 < o.pres.getD ci 0)
    else
      let no := u.unit / 1048576
      let ci := u.unit / 1024 % 1024
      let l := u.unit % 1024
      decide (no < o.loads.getD ci 0) ||
        (match o.chains[ci]? with
        | none => true
        | some c =>
          let st := s.chain c
          let has (x : Option Load) : Bool := match x with
            | none => false
            | some ld => ld.id == ⟨o.id, no⟩ && (lineRows o.d l).all (fun r => ld.rows.elem r || !ld.need.elem r)
          has st.pend || has st.nxt)

/-- Whether a use has been read and its lines may leave the ring: for what a send job reads, that its frame has gone; the
buffer lines stay held (R314). -/
def State.useRead (s : State) (o : Op) (u : Use) : Bool :=
  s.useDone o u || s.jobs.any (fun j => j.op == o.id && j.k != .results && decide (u.unit < j.next))

/-- The uses of an op that are not finished. -/
def State.usesLeft (s : State) (o : Op) : List Use := (s.uses o).filter (fun u => !s.useDone o u)

/-! ### Buffer lines (R147) -/

/-- The buffer bytes that a use of a reference touches, and whether it counts as a write: the bytes themselves, or the
whole staging ring of a memory-space tensor (R132). -/
def useSpan (ref : W64) (u : Use) : Nat × Nat × Bool :=
  if refMem ref then (refStage ref * 2048, 16384, true) else (refAddr ref + u.off, u.len, u.wr)

/-- Whether two spans share a 64 B line and one of them writes. -/
def spansMeet (a b : Nat × Nat × Bool) : Bool :=
  (a.2.2 || b.2.2) && decide (a.1 / 64 < (b.1 + b.2.1 + 63) / 64) && decide (b.1 / 64 < (a.1 + a.2.1 + 63) / 64)

/-- Whether a kind is a context op (R361). -/
def OpK.context (k : OpK) : Bool := k == .save || k == .restore

/-- The clusters in which an op uses buffer lines: the cluster of its TILE, or for a context op those of the cores that it covers
(R111, R361; log 67). -/
def Op.clusters (o : Op) : List Nat := if o.k.context then (o.held.map (· / 512)).eraseDups else [opCluster o.d]

/-- Whether an op still needs the lines of its unfinished uses: one that was squashed or fenced reads and writes nothing further
(R229), but what a contribution or retraction sends may have to be sent again until it has delivered (R314). -/
def Op.holdsLines (o : Op) : Bool := o.ending.isNone || o.k == .contrib || o.k == .retract || o.k == .tagged

/-- Whether an earlier op of the cluster is not finished with a line that these uses of an op touch (R147). -/
def State.lineBusy (s : State) (o : Op) (us : List Use) : Bool :=
  s.ops.any fun p =>
    decide (p.id < o.id) && p.clusters.any (fun c => o.clusters.elem c) && p.holdsLines &&
      (s.usesLeft p).any fun v => us.any fun u => spansMeet (useSpan (p.d.word v.ten) v) (useSpan (o.d.word u.ten) u)

/-! ### Staging (R132, R397, R398) -/

/-- The extent of an op's tensor: lowest offset and end. -/
def extentOf (us : List Use) : Nat × Nat :=
  (us.foldl (fun a u => min a u.off) (us.headD ⟨0, 0, 0, 0, false⟩).off, maxN (us.map (fun u => u.off + u.len)))

/-- Whether an address range lies in the pairing window (R398). -/
def State.inWindow (s : State) (lo hi : Nat) : Bool :=
  let b := s.obj (key 0x1304 0)
  let l := s.obj (key 0x1304 1)
  decide (l ≠ 0 ∧ b ≤ lo ∧ hi ≤ b + l)

/-- The port through which an op moves a tensor: the pairing port when its whole extent lies in the window (R398; log 67). -/
def State.portOf (s : State) (o : Op) (ten : Nat) : Nat :=
  let us := (s.uses o).filter (fun u => u.ten == ten)
  let e := extentOf us
  let a := refAddr (o.d.word ten)
  (if s.inWindow (a + e.1) (a + e.2) then 9 else 1) + opCluster o.d

/-- The memory lines of a use. -/
def useLines (ref : W64) (u : Use) : List Nat :=
  let a := refAddr ref + u.off
  if u.len = 0 then [] else (List.range ((a + u.len - 1) / 64 - a / 64 + 1)).map (· + a / 64)

/-- The lines that an op reads of a memory-space tensor, in the order of need, with the unit of each; a unit read again
by later rows is listed once. -/
def State.needSeq (s : State) (o : Op) (ten : Nat) : List (Nat × Nat) :=
  let us := (s.uses o).filter (fun u => u.ten == ten && !u.wr)
  let once := us.foldl (fun (acc : List Use) u => if acc.any (fun v => v.unit == u.unit) then acc else acc ++ [u]) []
  once.flatMap (fun u => (useLines (o.d.word ten) u).map (fun l => (u.unit, l)))

/-- The buffer key of a byte of a memory-space tensor that a unit needs, when its line is in the ring. -/
def State.ringByte (s : State) (o : Op) (ten unit addr : Nat) : Option Nat :=
  let seqs := (s.needSeq o ten).zipIdx.filter (fun e => e.1.1 == unit && e.1.2 == addr / 64)
  match s.stg.lines.find? (fun l => l.op == o.id && l.ten == ten && seqs.any (fun e => e.2 == l.seq)) with
  | none => none
  | some l => some (bufAddr l.cluster (l.stage * 2048 + l.slot * 64 + addr % 64))

/-- The buffer key of byte `off` of a tensor, for a unit of use; none while a memory line has not arrived (R107). -/
def State.byteAt (s : State) (o : Op) (ten unit off : Nat) : Option Nat :=
  let ref := o.d.word ten
  if refMem ref then s.ringByte o ten unit (refAddr ref + off)
  else some (bufAddr (opCluster o.d) (refAddr ref + off))

/-- An element of `size` bytes of a tensor. -/
def State.elemAt (s : State) (o : Op) (ten unit off size : Nat) : Option Elem :=
  match s.byteAt o ten unit off with
  | none => none
  | some a => some (if size = 1 then s.buf.elem8 a else s.buf.elem16 a)

/-- All of a list of optional values. -/
def allSome {α : Type} (l : List (Option α)) : Option (List α) :=
  if l.all Option.isSome then some (l.filterMap id) else none

/-- Lines of a ring in use or on the way for a tensor (the pool of 256 of Table 09-1). -/
def State.ringUsed (s : State) (op ten : Nat) : Nat :=
  (s.stg.lines.filter (fun l => l.op == op && l.ten == ten)).length +
    sumN ((s.stg.reads.filter (fun r => r.op == op && r.ten == ten)).map (fun r => r.left))

/-- How many lines from `i` on run upwards one by one. -/
def runLen : List (Nat × Nat) → Nat
  | [] => 0
  | [_] => 1
  | a :: b :: r => if b.2 = a.2 + 1 then 1 + runLen (b :: r) else 1

/-- The key of a port's share units in one direction (R210). -/
def unitKey (q : Nat) (wr : Bool) : Nat := 2 * q + bit wr

/-- Bytes a step of an op's reserved share of a port: 500 for each unit read from memory, 250 written or on a pairing port (R210,
R398). -/
def Op.shareBytes (o : Op) (q : Nat) (wr : Bool) : Nat :=
  max 1 (o.units.filter (fun u => u / 16 == unitKey q wr)).length * (if 9 ≤ q ∨ wr then 250 else 500)

/-- Lines of an op awaited through a port. -/
def State.awaited (s : State) (q op : Nat) : Nat :=
  sumN ((s.stg.reads.filter (fun r => r.q == q && r.op == op)).map (fun r => r.left))

/-- One read request for the next run of lines of a tensor that the ring has room for (Table 16-3 MQ: 1 to 256 lines). -/
def State.requestRun (s : State) (o : Op) (ten : Nat) : State :=
  let done := (o.req.find? (fun p => p.1 == ten)).map (fun p => p.2) |>.getD 0
  let rest := (s.needSeq o ten).drop done
  let n := min (runLen (rest.take 256)) (256 - s.ringUsed o.id ten)
  match rest with
  | [] => s
  | e :: _ =>
    if n = 0 then s
    else
      let q := s.portOf o ten
      let s1 := s.emit (.readReq q s.stg.nextTag e.2 n)
      let s2 : State := { s1 with stg := { s1.stg with
        reads := s1.stg.reads ++ [⟨q, s.stg.nextTag, o.id, ten, done, e.2, n, s.now, n + s.awaited q o.id⟩]
        nextTag := (s.stg.nextTag + 1) % 65536 } }
      s2.mapOp o.id (fun p => { p with req := (ten, done + n) :: p.req.filter (fun x => x.1 != ten) })

/-- Requests until the ring is full or nothing is left to ask for. -/
def State.requestAll (s : State) (id ten : Nat) : Nat → State
  | 0 => s
  | k + 1 => match s.op? id with
    | none => s
    | some o => if refMem (o.d.word ten) then (s.requestRun o ten).requestAll id ten k else s

/-- Ring lines leave the ring: those of a memory port return their credits on the read credit channel; a pairing port's returned when the
line was staged (Table 09-1 Memory read, Pairing read). -/
def State.freeLines (s : State) (gone : SLine → Bool) : State :=
  let out := (s.stg.lines.filter gone).filter (fun l => decide (l.q < 9))
  let s1 : State := { s with stg := { s.stg with lines := s.stg.lines.filter (fun l => !gone l) } }
  (out.map (fun l => l.q)).eraseDups.foldl (fun s q => s.giveCredits q 0x07 (out.filter (fun l => l.q == q)).length) s1

/-- Lines whose unit is finished leave the ring, and the next lines are asked for (Table 09-1 Memory read). -/
def State.settleRing (s : State) (id ten : Nat) : State :=
  match s.op? id with
  | none => s
  | some o =>
    if refMem (o.d.word ten) then
      let need := s.needSeq o ten
      (s.freeLines fun l =>
        l.op == id && l.ten == ten && s.useRead o ⟨ten, (need.getD l.seq (0, 0)).1, 0, 0, false⟩).requestAll id ten 256
    else s

/-- An op's lines and requests leave the staging state. -/
def State.dropStaging (s : State) (id : Nat) : State :=
  s.freeLines (fun l => l.op == id)

/-! ### Parity events (R249, R269) -/

/-- The units among the buffer keys of some elements that fail their parity check. -/
def State.badUnits (s : State) (keys : List Nat) : List Nat :=
  (keys.map (· / 2)).eraseDups.filter (fun u => !s.buf.parityOk u)

/-- Who reads a unit and checks its parity: the UNIT and LOC that a PARITY record names. DESIGN CHOICE: the reader, where the spec
does not say whether UNIT is the storage (0x09) or the reader (log 87). -/
structure Reader where
  unit : Nat
  loc : Nat
deriving DecidableEq, Repr

/-- The parity failure of one unit is counted and recorded (R249, Table 10-6 PARITY). -/
def State.parityEvent (s : State) (tenant : Option Nat) (r : Reader) (u : Nat) : State :=
  (s.bump (key 0x4001 0) 1).event ⟨0x001, 2, r.unit, r.loc, none, tenant, 2 * u % 2 ^ 25 / 64 * 64⟩

/-- The parity failures of a read. -/
def State.parityEvents (s : State) (tenant : Option Nat) (r : Reader) (keys : List Nat) : State :=
  (s.badUnits keys).foldl (fun s u => s.parityEvent tenant r u) s

/-! ### Writes -/

/-- Bytes of a tensor to be written: offset and value with poison. -/
structure TByte where
  off : Nat
  v : Byte
  q : Bool
deriving DecidableEq, Repr

/-- The bytes of one memory line among those written: a line write with byte enables, unit parity and poison
(Table 16-3 MW, R251). -/
def lineWrite (line : Nat) (bs : List TByte) (o : Desc) : MemWrite :=
  let here := bs.filter (fun b => b.off / 64 == line)
  let put (acc : Nat × Nat) (b : TByte) : Nat × Nat := (acc.1 ||| 2 ^ (b.off % 64), acc.2 ||| at_ b.v.toNat (8 * (b.off % 64)))
  let bd := here.foldl put (0, 0)
  let psn := (here.filter (fun b => b.q)).foldl (fun a b => a ||| 2 ^ (b.off % 64 / 2)) 0
  let par := (List.range 32).foldl (fun a i =>
    a ||| at_ (bit (parityFor (BitVec.ofNat 8 (bd.2 / 2 ^ (16 * i))) (BitVec.ofNat 8 (bd.2 / 2 ^ (16 * i + 8))) (bitOf psn i))) i) 0
  ⟨line, BitVec.ofNat 64 bd.1, BitVec.ofNat 512 bd.2, BitVec.ofNat 32 par, BitVec.ofNat 32 psn, o.prov, o.tenant,
    if o.prov then o.region else 0, o.epoch⟩

/-- The lines that memory bytes touch, in order. -/
def linesOf (bs : List TByte) : List Nat := (bs.map (fun b => b.off / 64)).eraseDups

/-- Whether the port can take the write: a credit for each line (R215); a buffer write needs none. -/
def State.canWrite (s : State) (o : Op) (ten : Nat) (bs : List TByte) : Bool :=
  let ref := o.d.word ten
  !refMem ref || (let q := s.portOf o ten
    s.up q && decide ((linesOf (bs.map (fun b => { b with off := refAddr ref + b.off }))).length ≤ (s.port q).cr))

/-- Write flits leave on a port: each costs a credit and is outstanding until the fabric accepts it (R202, R215). -/
def State.sendWrites (s : State) (q : Nat) (o : Op) (ws : List MemWrite) : State :=
  let p := s.port q
  let s1 := s.setPort q { p.spend ws.length s.portNow with fly := p.fly ++ ws.map (fun _ => ⟨some o.id, some o.d.tenant, 1, none⟩) }
  let s2 := s1.emitAll (ws.map (fun w => Out.memWrite q w))
  s2.mapOp o.id (fun p => { p with wout := p.wout + ws.length, wdue := max s.now p.wdue + ceilDiv (64 * ws.length) (p.shareBytes q true) })

/-- The bytes are written where the reference says: to the cluster buffer in one write, or to memory line by line. -/
def State.writeTensor (s : State) (o : Op) (ten : Nat) (bs : List TByte) : State :=
  let ref := o.d.word ten
  if refMem ref then
    let abs := bs.map (fun b => { b with off := refAddr ref + b.off })
    s.sendWrites (s.portOf o ten) o ((linesOf abs).map (fun l => lineWrite l abs o.d))
  else
    { s with buf := s.buf.write (bs.map (fun b => ⟨bufAddr (opCluster o.d) (refAddr ref + b.off), b.v, b.q⟩)) }

/-- The bytes of a value at an offset. -/
def tbytes (off : Nat) (bs : List Byte) (q : Bool) : List TByte :=
  (List.range bs.length).map (fun i => ⟨off + i, bs.getD i 0, q⟩)

end Sys2Proof.Machine
end

