-- ==== Sys2Proof/Machine/Complete.lean ====
section
/-! DEFINITION. Response records (R149), the completion of an op (R120, R202, R203, R260), offences and the health of units
(R273 to R278), shared by every family. -/

namespace Sys2Proof.Machine

/-- Word 0 of a response record (Table 05-11). -/
def respW0 (kind code tenant : Nat) (form ptag : Bool) (aux tag : Nat) : W64 :=
  BitVec.ofNat 64 (at_ 1 60 + at_ kind 56 + at_ code 48 + at_ tenant 44 + at_ (bit form) 43 + at_ (bit ptag) 42 +
    at_ aux 32 + tag)

/-- A completion record (Table 05-11, KIND 0x3). -/
def completion (o : Op) (status stall elapsed : Nat) : Resp :=
  ⟨respW0 3 status o.d.tenant o.form o.d.prov (if o.k = .dict then o.dstat else 0) o.d.tag,
    BitVec.ofNat 64 (at_ (stall % 2 ^ 32) 32 + elapsed % 2 ^ 32), 0⟩

/-- The largest growth of slip since acceptance over the resources that an op uses; its own wait when it uses none (R201). -/
def State.stallOf (s : State) (o : Op) : Nat := max o.own (maxN (o.res.map (fun r => s.slipOf r.1 - r.2)))

/-- Steps from acceptance to now. -/
def State.elapsed (s : State) (o : Op) : Nat := s.now - o.cAcc

/-- The status an op completes with (Table 05-13): a status forced by squash, fence or loss; FAILED; POISONED; LATE when
it delivers after DEADLINE + STALL and the power stage left its obligations meanwhile (R203); else DONE (log 49). -/
def State.statusOf (s : State) (o : Op) : Nat :=
  match o.ending with
  | some e => e
  | none =>
    if o.failed then 0x04
    else if o.poisoned then 0x01
    else if o.dflt ∧ o.deadline + s.stallOf o < s.now then 0x07
    else 0x00

/-- The unit that a poison-consumed record names: the drain of the core of TILE, or the trusted monitor, LOC 0, for a context image.
DESIGN CHOICE: R260 names neither UNIT nor LOC (log 96). -/
def consumeUnit (o : Op) : Nat := if o.k = .save then 0x21 else 0x06

/-- The poison-consumed record of an op that completes POISONED (R260, class 0x030); a DRAIN's names its core, one key a core
(R266). -/
def State.consumed (s : State) (o : Op) (status : Nat) : State :=
  if status = 0x01 then
    s.event ⟨0x030, 2, consumeUnit o, if o.k = .save then 0 else (TileRef.mk (o.d.tile / 1024 * 16) 0).handle, none, some o.d.tenant,
      at_ o.d.op 32 + o.d.tag⟩
  else s

/-- The count of ops completed POISONED or FAILED (Table 10-5). -/
def State.countBad (s : State) (o : Op) (status : Nat) : State :=
  if status = 0x01 ∨ status = 0x04 then s.bump (key (0x4100 + o.d.tenant) 1) 1 else s

/-- An entry of the op table that is no op of its own: a reroll, a completed provisional contribution, or rows to be cleared. -/
def OpK.ghost (k : OpK) : Bool := k == .reroll || k == .tagged || k == .clear

/-! ### Ops cut short (R203, R229, R237) -/

/-- Whether every enabled row of a load is written. -/
def Load.full (l : Load) : Bool := l.need.all (fun r => l.rows.elem r)

/-- Whether an op ends before it has made all its loads and added all its tokens. -/
def Op.cut (o : Op) : Bool :=
  o.chains.zipIdx.any fun c =>
    decide (o.loads.getD c.2 0 < loadCount o.d (c.2 / o.d.nchain)) ||
      (o.k != .loadw && decide (o.added.getD c.2 0 < tokenCount o.d (c.2 / o.d.nchain)))

/-- A chain without what an op that ends early leaves on it: its tokens, its retry, and its loads in the shadow, but for the
full set of a LOADW. -/
def ChainSt.without (st : ChainSt) (id : Nat) (keepFull : Bool) : ChainSt :=
  let gone (l : Load) : Bool := l.id.op == id && !(keepFull && l.full)
  let stay (x : Option Load) : Option Load := x.bind (fun l => if gone l then none else some l)
  let nxt := stay st.nxt
  { st with
    fly := st.fly.filter (fun k => k.op != id)
    held := st.held.filter (fun k => k.op != id)
    retry := st.retry.filter (fun r => r.op != id)
    pend := match stay st.pend with
      | some p => some p
      | none => nxt
    nxt := if (stay st.pend).isSome then nxt else none }

/-- Whether a load is named that the chain will never get: one of the op, neither in the array nor in the shadow. -/
def ChainSt.dangling (st : ChainSt) (id : Nat) (l : LoadId) : Bool :=
  l.op == id && st.cur != some l && !st.pend.any (fun x => x.id == l) && !st.nxt.any (fun x => x.id == l)

/-- A chain's later ops that would use a load which an op cut short never made use the set that stands there instead (log
38). -/
def State.relink (s : State) (id : Nat) (c : ChainId) : State :=
  let st := s.chain c
  let sub := match st.pend with
    | some p => some p.id
    | none => st.cur
  let fix (l : LoadId) : LoadId := if st.dangling id l then sub.getD l else l
  let named := (st.ws.map (fun w => w.load)).toList ++
    s.ops.flatMap (fun p => (p.chains.zip p.wl).filterMap (fun x => if x.1 = c then x.2 else none))
  let s1 := s.setChain c { st with
    ws := st.ws.map (fun w => { w with load := fix w.load })
    cur := if sub.isSome then st.cur else named.find? (st.dangling id) }
  { s1 with ops := s1.ops.map (fun p =>
    { p with wl := (p.chains.zip p.wl).map (fun x => if x.1 = c then x.2.map fix else x.2) }) }

/-- What an op that ends early leaves on its chains is taken away. -/
def State.cutChains (s : State) (o : Op) : State :=
  if o.cut then
    o.chains.foldl (fun s c => (s.setChain c ((s.chain c).without o.id (o.k == .loadw))).relink o.id c) s
  else s

/-- A rerolled op that is lost or has failed leaves its reroll without a verdict of its own (R285). -/
def State.tellReroll (s : State) (o : Op) (status : Nat) : State :=
  match o.reroll with
  | none => s
  | some r => if status = 0x03 ∨ status = 0x04 then s.mapOp r (fun p => { p with got := 1 }) else s

/-- An op completes: its completion record is formed, unless the work source was lost after its acceptance (R406), and it
leaves the op table (R120, R219). -/
def State.finishOp (s : State) (o : Op) (status : Nat) : State :=
  let s0 := ((((s.dropOp o.id).dropStaging o.id).cutChains o).tellReroll o status)
  if o.k.ghost then s0
  else
    let r := completion o status (s.stallOf o) (s.elapsed o)
    let s1 := (s0.consumed o status).countBad o status
    if o.id < s.adm.mute then s1 else s1.respond r

/-- Whether a DRAIN has read every row of a part that register row `r` of the tile takes: row r, and for a companion the rows of the
ring that come after it (R101, R169). -/
def rowRead (o : Op) (ci : Nat) (p : Part) (r : Nat) : Bool :=
  (List.range p.rows).all (fun i => partRow p i != r || o.rows.elem (rowUnit ci i))

/-- The rows (part, row of the tile) that a DRAIN with KEEP = 0 has not read (R154; log 44). -/
def State.unread (s : State) (o : Op) : List (Nat × Part × Nat) :=
  if (o.k = .drain ∧ o.d.keep = false) ∨ o.k = .clear then
    (s.partsOf o.d o.rd).zipIdx.flatMap fun pi => (List.range (min pi.1.rows pi.1.t.rows)).flatMap fun r =>
      if rowRead o pi.2 pi.1 r then [] else [(pi.2, pi.1, r)]
  else []

/-- The tile of a register as an op names its tiles: an engine's, or a quarter's for an op on quarters (Table 05-6). -/
def regTile (o : Op) (k : Nat) : TileRef := ⟨k / 1024, if (TileRef.ofHandle o.d.tile).q = 0 then 0 else 4 + quarterOfReg k % 4⟩

/-- One record for each tile in whose registers an op that stops leaves POISON, with the op's epoch (R259, R263, class 0x042;
log 79). -/
def State.poisonRecords (s : State) (o : Op) (ks : List Nat) : State :=
  ((ks.map (regTile o)).eraseDups).foldl (fun s t =>
    s.event ⟨0x042, 2, 0x05, t.handle, none, some o.d.tenant, at_ o.d.epoch 24⟩) s


/-! ### Owners (R357, R358) -/

/-- Whether a core's ownership is pending (R358). -/
def State.moving (s : State) (c : Nat) : Bool :=
  s.moves.any fun m => m.key == key (0x3200 + c) 0 ||
    (decide (key 0x8000 0 ≤ m.key) && (m.key / 256 - 0x8000) / 16 == c && m.key % 256 == 6)

/-- The owner of a quadrant of an engine (Table 14-6). -/
def State.quadOwner (s : State) (n q : Nat) : Nat := s.obj (key (0x8000 + n) 6) / 256 ^ (q - 4) % 256

/-- Whether a core is in the reroll pool: such a core belongs to no tenant (R284). -/
def State.pooled (s : State) (c : Nat) : Bool := bitOf (s.obj (key 0x5010 4)) c

/-- Whether a part of a core belongs to a tenant (R284, R357, R358): an engine if one is named, a quadrant, whole or not. -/
def State.ownsPart (s : State) (t core : Nat) (eng : Option Nat) (q : Nat) (whole : Bool) : Bool :=
  let owner := s.obj (key (0x3200 + core) 0)
  decide (core < s.conf.cores) && !s.moving core && !s.pooled core &&
    (owner == t || (owner == 0xFE && !whole && decide (4 ≤ q) &&
      (match eng with
      | none => false
      | some e => s.quadOwner (core * 16 + e) q == t)))

/-- Whether a tile or quarter belongs to a tenant. -/
def State.ownsTile (s : State) (t : Nat) (x : TileRef) : Bool := s.ownsPart t (coreOf x.n) (some (x.n % 16)) x.q false

/-- The tenants in debug scope: those of the grant's mask that consent (R366; log 74). -/
def State.debugScope (s : State) : Nat :=
  sumN ((List.range 16).map fun t =>
    if bitOf s.tru.dbgScope t ∧ s.tru.dbgOn ∧ s.obj (key (0x3100 + t) 8) = 1 then 2 ^ t else 0)

/-- The tenant that owns the registers of a tile: the core's, or the quadrant's on a shared core (R259, R357). -/
def State.ownerOf (s : State) (x : TileRef) : Option Nat :=
  let core := s.obj (key (0x3200 + coreOf x.n) 0)
  let owner := if core = 0xFE ∧ 4 ≤ x.q then s.quadOwner x.n x.q else core
  if owner < 16 then some owner else none

/-- Whether role M reaches a tile in debug mode (R366). -/
def State.inScope (s : State) (x : TileRef) : Bool :=
  (List.range 16).any (fun t => bitOf s.debugScope t && s.ownsTile t x)

/-! ### Health of units (R273 to R278) -/

/-- The health object of an engine or core drain (Table 11-7). -/
def healthKey : HwUnit → Nat
  | .engine n => key (0x8000 + n) 3
  | .drain c => key (0x2100 + c) 8
  | .link c => key (0x5200 + c) 0

/-- The health of an engine: 0 healthy, 1 suspect, 2 quarantine pending, 3 quarantined. -/
def State.engineHealth (s : State) (n : Nat) : Nat := s.obj (key (0x8000 + n) 3)

/-- The health of a core's drain, which stands for the core (R277). -/
def State.coreHealth (s : State) (c : Nat) : Nat := s.obj (key (0x2100 + c) 8)

/-- Whether a core is quarantined. -/
def State.coreQuarantined (s : State) (c : Nat) : Bool := bitOf (s.obj (key 0x1000 1)) c

/-- The offences of a unit within the offence window (R273). -/
def State.offences (s : State) (u : HwUnit) : Nat :=
  (s.con.offences.filter (fun e => decide (e.1 = u ∧ s.now - e.2 < s.obj (key 0x5010 3)))).length

/-- LOC of a unit in records (R292): the engine's tile handle, or the core's with ENGINE 0. -/
def unitLoc : HwUnit → Nat
  | .engine n => (TileRef.mk n 0).handle
  | .drain c => (TileRef.mk (c * 16) 0).handle
  | .link c => (TileRef.mk (c * 16) 0).handle

/-- UNIT of a unit in the records of this chapter (Table 10-7): an engine is named at its tile register, a drain and a link
as themselves (log 84). -/
def unitCode : HwUnit → Nat
  | .engine _ => 0x05
  | .drain _ => 0x06
  | .link _ => 0x08

/-- The core of a unit. -/
def unitCore : HwUnit → Nat
  | .engine n => coreOf n
  | .drain c => c
  | .link c => c

/-- Bit 39 of the quarantine records: 0 engine, 1 core (Table 11-6). -/
def coreBit : HwUnit → Nat
  | .engine _ => 0
  | _ => at_ 1 39

/-- The cores offered for work: built, not quarantined, not waiting for a test or under one, and with a lookup value in
their speed table (R188, R189, R277, R286). -/
def State.offeredMask (s : State) : Nat :=
  (List.range s.conf.cores).foldl (fun m c =>
    if !s.coreQuarantined c && s.hasPeriod c && !(s.con.deck.state != 0 && s.con.deck.core == some c) then m + 2 ^ c else m) 0

/-- The object of the cores available follows (Table 11-7). -/
def State.refreshCores (s : State) : State := s.setObj (key 0x1000 0) s.offeredMask

/-- A priority deck test of a core waits ahead of the rotation (R274, R286). -/
def State.priorityTest (s : State) (core : Nat) (rel : Option Nat) : State :=
  if s.con.deck.prio.any (fun p => p.1 == core && p.2 == rel) then s
  else { s with con := { s.con with deck := { s.con.deck with prio := s.con.deck.prio ++ [(core, rel)] } } }

/-- An ageing sweep of a unit starts (R291): its request object reads 1 until the sweep ends. -/
def State.startSweep (s : State) (u : Nat) : State :=
  let s1 := s.setObj (key (0x5200 + u) 3) 1
  { s1 with con := { s1.con with sweeps := insN s1.con.sweeps u } }

/-- Quarantine becomes pending (R277, class 0x082). -/
def State.pendQuarantine (s : State) (u : HwUnit) : State :=
  if 2 ≤ s.obj (healthKey u) then s
  else (s.setObj (healthKey u) 2).event ⟨0x082, 3, unitCode u, unitLoc u, none, none, coreBit u⟩

/-- The keys of every register of an engine's tile. -/
def engineKeys (n : Nat) : List Nat := (List.range 1024).map (fun i => n * 1024 + i)

/-- Whether a chain holds an engine: by its key and the shape of its core. -/
def State.chainHas (s : State) (k n : Nat) : Bool :=
  let dep := if k % 8 = 0 then depthOf (s.core (k / 128)).shape else 1
  k / 128 == coreOf n && decide (k / 8 % 16 ≤ n % 16) && decide (n % 16 < k / 8 % 16 + dep)

/-- The chains of a table that a condition names lose their weights: no set in force, in the array or pending (R134). -/
def emptyChains (cs : Sparse ChainSt) (f : Nat → Bool) : Sparse ChainSt := cs.filter (fun e => !f e.1)

/-- The weights of an engine become 0x0000 with poison clear and its shadow rows unwritten (R60, R84); the weight sets of its
chains end (R134). -/
def State.clearWeights (s : State) (n : Nat) : State :=
  { s with
    cells := s.cells.filter (fun p => p.1 / 1024 != n)
    shadow := s.shadow.filter (fun p => p.1 / 1024 != n)
    swr := s.swr.filter (fun k => k / 64 != n)
    chains := emptyChains s.chains (fun k => s.chainHas k n) }

/-- Whether an op uses a core: its chains, the tiles it names (those of every chain of its rolling op for a companion, R169), or the
cores that a context op covers (R361). -/
def opOnCore (o : Op) (c : Nat) : Bool :=
  o.chains.any (fun x => x.core == c) || o.held.any (fun q => q / 64 == c) ||
    (match o.k with
    | .preload => tileCore o.d == c
    | .drain => tileCore o.d == c || o.rd.any (fun r => (opChains r).any (fun x => x.core == c))
    | .clear => tileCore o.d == c || o.rd.any (fun r => (opChains r).any (fun x => x.core == c))
    | .owner => tileCore o.d == c
    | .trimmed => tileCore o.d == c
    | .ballast => tileCore o.d == c
    | .retract => xredNames o.d && tileCore o.d == c
    | _ => false)

/-! ### Ops that are lost (R154, R203) -/

/-- Some rows of a DRAIN cut short are cleared with POISON set, with a record for each tile (R154, R259). -/
def State.clearRows (s : State) (o : Op) (rows : List (Nat × Part × Nat)) : State :=
  let ks := rows.flatMap (fun x => s.partKeys x.2.1 x.2.2)
  (s.mapRegs ks (fun _ _ => LongReg.zero.mark)).poisonRecords o ks

/-- The rows finished by a DRAIN once some rows of its tiles are cleared. -/
def clearedRows (o : Op) (rows : List (Nat × Part × Nat)) : List Nat :=
  o.rows ++ rows.flatMap fun x => ((List.range x.2.1.rows).filter (fun i => partRow x.2.1 i == x.2.2)).map (rowUnit x.1)

/-- What is left of a DRAIN cut short: the rows that it has still to clear, in its place in acceptance order. -/
def Op.toClear (o : Op) : Op :=
  { o with k := .clear, started := true, stopped := false, ending := none, rolled := none, res := [], units := [], chains := [] }

/-- An entry of the op table put in its place in acceptance order. -/
def State.insertOp (s : State) (o : Op) : State :=
  { s with ops := s.ops.filter (fun p => decide (p.id < o.id)) ++ o :: s.ops.filter (fun p => decide (o.id < p.id)) }

/-- Whether two ops use one core. -/
def State.shareCore (s : State) (a b : Op) : Bool := (List.range s.conf.cores).any (fun c => opOnCore a c && opOnCore b c)

/-- A DRAIN that has left the op table before it has read every row: the rows that it has not read are cleared with POISON set, at once
or, behind earlier ops of its cores, once these have finished with them (R154). -/
def State.sweepUnread (s : State) (o : Op) : State :=
  let rows := s.unread o
  if rows = [] then s
  else if s.ops.any (fun p => decide (p.id < o.id) && s.shareCore p o) then s.insertOp o.toClear
  else s.clearRows o rows

/-- An op is lost: it completes with LOST as soon as the block knows (R203). -/
def State.loseOp (s : State) (o : Op) : State := (s.finishOp o 0x03).sweepUnread o

/-- Every outstanding op that a condition names is lost, in acceptance order. -/
def State.loseOps (s : State) (f : Op → Bool) : State :=
  (s.ops.filter f).foldl (fun s o => s.loseOp o) s

/-- The cores of which a tenant owns the whole or a quadrant (R361). -/
def State.tenantCores (s : State) (t : Nat) : List Nat :=
  (List.range s.conf.cores).filter fun c =>
    (List.range 16).any fun e => (List.range 4).any fun q => s.ownsPart t c (some e) (4 + q) false

/-- A register whose content the spec gives no value: limbs and flags are free (R278, log 3). -/
def LongReg.lost (ctr : Nat) : LongReg :=
  let f := Config.freeLimbs (2 * ctr + 1)
  LongReg.ofVal (Config.freeLimbs (2 * ctr)) (f.getLsbD 0) (f.getLsbD 1) (f.getLsbD 2) (f.getLsbD 3)

/-- The contents of a core's tiles are lost (R278): free values (log 3). -/
def State.scrambleCore (s : State) (c : Nat) : State :=
  ((List.range 16).flatMap (fun e => engineKeys (c * 16 + e))).foldl (fun s k =>
    (s.setReg k (LongReg.lost s.freeCtr)).drawFree) s

/-- Debug mode ends; the external wrapper's enable with it (R366, R409; log 74). -/
def State.endDebug (s : State) : State :=
  (({ s with tru := { s.tru with dbgOn := false, dbgScope := 0, dbgExpiry := 0 } } : State).setObj (key 0xF000 0) 0).setObj
    (key 0x1303 0) 0

/-- A reset of any class ends debug mode (R366, R410). -/
def State.leaveDebug (s : State) : State := if s.tru.dbgOn then s.endDebug else s

/-- An engine's quarantine takes effect (R277): its weights clear, it is held quiescent, its tile keeps its values. It is a
reset class of its own (Table 16-9, class 0x191; log 35), which ends debug mode (R366). -/
def State.quarEngine (s : State) (n : Nat) : State :=
  let h := (TileRef.mk n 0).handle
  (((s.leaveDebug.clearWeights n).setObj (key (0x8000 + n) 3) 3).event ⟨0x083, 3, 0x05, h, none, none, 0⟩).event
    ⟨0x191, 0, 0x05, h, none, none, at_ 4 32 + s.obj (key 0x1300 1)⟩

/-- A core's quarantine takes effect (R277); `imm` when it is immediate (R278). -/
def State.quarCore (s : State) (c : Nat) (imm : Bool) : State :=
  let s1 := (List.range 16).foldl (fun s e => s.clearWeights (c * 16 + e)) s
  let s2 := (s1.setObj (key (0x2100 + c) 8) 3).setObj (key 0x1000 1) (s.obj (key 0x1000 1) ||| 2 ^ c)
  s2.refreshCores.event ⟨0x083, 3, 0x06, (TileRef.mk (c * 16) 0).handle, none, none, at_ 1 39 + at_ (bit imm) 38⟩

/-- A unit's first offence makes it suspect, with record 0x080 and a priority test; every later one asks for a priority
test too (R274, R275). A spine link's offence starts an ageing sweep. -/
def State.suspect (s : State) (u : HwUnit) (cls : Nat) : State :=
  match u with
  | .link c => s.startSweep c
  | _ =>
    let s1 := if s.obj (healthKey u) = 0 then
        (s.setObj (healthKey u) 1).event ⟨0x080, 3, unitCode u, unitLoc u, none, none, at_ (s.offences u) 32 + at_ cls 20⟩
      else s
    s1.priorityTest (unitCore u) none

/-- The offence count and time objects of an engine (Table 11-7). -/
def State.noteOffence (s : State) (u : HwUnit) : State :=
  match u with
  | .engine n => (s.setObj (key (0x8000 + n) 4) (min 255 (s.offences u))).setObj (key (0x8000 + n) 5) s.now
  | _ => s

/-- An offence is charged to a unit (R273 to R278). -/
def State.offend (s : State) (u : HwUnit) (cls : Nat) : State :=
  let s1 : State := { s with con := { s.con with
    offences := s.con.offences ++ [(u, s.now)]
    clean := s.con.clean.filter (fun x => x != u) } }
  let s2 := s1.noteOffence u
  let c := unitCore u
  match u with
  | .link _ => s2.suspect u cls
  | _ =>
    if s2.coreHealth c = 2 then
      ((((s2.suspect u cls).loseOps (fun o => opOnCore o c)).scrambleCore c).quarCore c true)
    else if s2.obj (key 0x5010 2) ≤ s2.offences u then (s2.suspect u cls).pendQuarantine u
    else s2.suspect u cls

/-- DETAIL of a residue failure (Table 10-6): predicted and computed residues and the stage. -/
def residueDetail (p127 p255 c127 c255 stage : Nat) : Nat :=
  at_ p127 32 + at_ p255 24 + at_ c127 16 + at_ c255 8 + stage

/-- A residue failure is counted (Table 10-5). -/
def State.countResidue (s : State) : State := s.bump (key 0x4001 3) 1

/-- The term bound of a quarter in an op's place in acceptance order (log 18). -/
def State.boundOf (s : State) (o : Op) (q : Nat) : Nat :=
  match o.tbs.find? (fun e => e.1 == q) with
  | none => (s.tileQ q).tb
  | some e => e.2.1

/-- The record of a retry that cleared or failed (classes 0x031 and 0x032): the key fields of the failed check's record, and the TAG
of the op. -/
def State.retryRecord (s : State) (e : Event) (cleared : Bool) (tag : Nat) : State :=
  let x : Event := { e with detail := at_ (e.cls % 256) 32 + tag }
  if cleared then (s.bump (key 0x4001 4) 1).event { x with cls := 0x031, sev := 0 }
  else (s.bump (key 0x4001 5) 1).event { x with cls := 0x032, sev := 2 }

/-- The record of an op's retry. -/
def State.retryEvent (s : State) (o : Op) (cleared : Bool) (unit loc : Nat) (pos : Option (Nat × Nat)) (cls : Nat) : State :=
  s.retryRecord ⟨cls, 2, unit, loc, pos, some o.d.tenant, 0⟩ cleared o.d.tag

end Sys2Proof.Machine
end

