-- ==== Sys2Proof/Machine/Lease.lean ====
section
/-! DEFINITION. Where the sums of a token go, and when an op may touch a register row: leases, drains, snapshots, rerolls
and dictionary drains (R100, R101, R103, R117, R163, R168, R170, R223, R232 to R235, R283). -/

namespace Sys2Proof.Machine

/-- A register row of a tile by physical row. -/
structure RowRef where
  t : TileRef
  row : Nat
deriving DecidableEq, Repr

/-- The physical row. -/
def RowRef.phys (r : RowRef) : Nat := r.t.row0 + r.row

/-- Whether two tiles share registers (R418). -/
def tilesMeet (a b : TileRef) : Bool := a.n == b.n && (a.q == 0 || b.q == 0 || a.q == b.q)

/-- Whether two rows share registers. -/
def rowsMeet (a b : RowRef) : Bool := tilesMeet a.t b.t && a.phys == b.phys

/-- The tile row that output row `m` of an op enters on a chain (R101, R103), in the imaginary half when `imag`. -/
def destRow (o : Op) (c : ChainId) (imag : Bool) (m : Nat) : RowRef :=
  let rpt := rowsPerTile o.d.shape
  let l := if imag then o.tl2 else o.tl
  ⟨chainTile c (l.getD (if isRolling o.d then 0 else m / rpt) 0), m % rpt⟩

/-- The core of a spine set that a chain index belongs to. -/
def coreIdx (d : Desc) (ci : Nat) : Nat := ci / d.nchain

/-- Tokens of an op on its chain ci. -/
def tokTotal (o : Op) (ci : Nat) : Nat := tokenCount o.d (coreIdx o.d ci)

/-- The output rows of a token: m, and m + 1 in EL8 mode when it exists (R66, R67). -/
def tokRows (d : Desc) (t : TokSpec) : List Nat :=
  if el8Mode d ∧ t.row + 1 < d.m then [t.row, t.row + 1] else [t.row]

/-- The rows that token `idx` of chain ci enters. -/
def tokDest (o : Op) (ci idx : Nat) : List RowRef :=
  match o.chains[ci]? with
  | none => []
  | some c =>
    let t := tokSpec o.d (coreIdx o.d ci) idx
    (tokRows o.d t).map (destRow o c t.pass.imag)

/-- The key of a register sent on the spine, and of its arrival at the next core. -/
def spineKey (sc ci row col : Nat) (recv : Bool) : Nat := (((sc * 128 + ci) * 512 + row) * 32 + col) * 2 + bit recv

/-- Whether every running sum of chain ci of an op that enters output row `m` has been added. -/
def sumsIn (o : Op) (ci m : Nat) : Bool :=
  (List.range (tokTotal o ci)).all fun idx =>
    decide (idx < o.added.getD ci 0) || !(tokRows o.d (tokSpec o.d (coreIdx o.d ci) idx)).elem m

/-- Whether the spine still has to move output row `m` of chain index `i` on core `sc` of a set: arrivals into it, and its
own sends when it is no owner (R113). -/
def spinePending (o : Op) (sc i m cols : Nat) : Bool :=
  o.d.spinen != 0 && (List.range cols).any fun c =>
    (decide (sc ≠ 0) && !o.rows.elem (spineKey sc i m c true)) ||
      (decide (sc < o.d.spinen) && !o.rows.elem (spineKey sc i m c false))

/-- Whether an array op has not finished with a register row. -/
def State.arrayPending (s : State) (o : Op) (r : RowRef) : Bool :=
  (List.range o.chains.length).any fun ci =>
    (List.range (tokTotal o ci)).any fun idx =>
      (!decide (idx < o.added.getD ci 0) && (tokDest o ci idx).any (rowsMeet r)) ||
        ((tokRows o.d (tokSpec o.d (coreIdx o.d ci) idx)).any fun m =>
          (match o.chains[ci]? with
          | none => false
          | some c => rowsMeet r (destRow o c false m) &&
              spinePending o (coreIdx o.d ci) (ci % o.d.nchain) m (s.opCols o c ci)))

/-- Whether a DRAIN or PRELOAD has not finished with a register row. -/
def State.partPending (s : State) (o : Op) (r : RowRef) : Bool :=
  (s.partsOf o.d o.rd).zipIdx.any fun pi =>
    (List.range pi.1.rows).any fun i =>
      rowsMeet r ⟨pi.1.t, partRow pi.1 i⟩ && !o.rows.elem (rowUnit pi.2 i)

/-- The tiles of an XRED (R130, R306): the first of its list whose capacities cover ELEMS. -/
def State.xredTilesFrom (s : State) (d : Desc) : Nat → Nat → Nat → List TileRef
  | 0, _, _ => []
  | k + 1, i, left =>
    let t := TileRef.ofHandle d.tile
    let ti : TileRef := ⟨t.n / 16 * 16 + (t.n % 16 + nibble d.tlist i), t.q⟩
    let cap := ti.rows * s.width ti
    if left ≤ cap then [ti] else ti :: s.xredTilesFrom d k (i + 1) (left - cap)

/-- The tiles of an XRED or RETRACT. -/
def State.xredTiles (s : State) (d : Desc) : List TileRef := s.xredTilesFrom d 16 0 d.elems

/-- Whether an op has not finished with a register row. -/
def State.rowPending (s : State) (o : Op) (r : RowRef) : Bool :=
  match o.k with
  | .stream => s.arrayPending o r
  | .scan => s.arrayPending o r
  | .mpass => s.arrayPending o r
  | .reroll => s.arrayPending o r
  | .drain => s.partPending o r
  | .preload => s.partPending o r
  | .clear => s.partPending o r
  | .owner => !o.fin && (s.xredTiles o.d).any (tilesMeet r.t)
  | .trimmed => !o.fin && (s.xredTiles o.d).any (tilesMeet r.t)
  | .retract => !o.fin && xredNames o.d && (s.xredTiles o.d).any (tilesMeet r.t)
  | .save => !o.fin && r.t.quarters.any o.held.elem
  | .restore => !o.fin && r.t.quarters.any o.held.elem
  | _ => false

/-- The accumulating ops (R232). -/
def OpK.accumulates : OpK → Bool
  | .stream => true
  | .scan => true
  | .mpass => true
  | .reroll => true
  | .owner => true
  | _ => false

/-- The tiles that an array op's sums enter on one chain. -/
def chainTiles (o : Op) (c : ChainId) : List TileRef := (o.tl ++ o.tl2).map (chainTile c)

/-- The tiles of an array op as its descriptor names them. -/
def arrayTiles (o : Op) : List TileRef := o.chains.flatMap (chainTiles o)

/-- A reroll that is under way on the tiles of its original op (R283). -/
def rerollHolds (p : Op) (id : Nat) (t : TileRef) : Bool :=
  p.k == .reroll && p.verdict.isNone && decide (p.id < id) && !decide (some id = p.rolled) &&
    ((opChains (p.rd.getD p.d)).flatMap (chainTiles p)).any (tilesMeet t)

/-- Whether a snapshot that precedes an op's first write to a tile is still to be taken (R223). -/
def State.snapPending (s : State) (id : Nat) (t : TileRef) : Bool :=
  s.regions.any fun g => g.snaps.any fun n =>
    decide (n.op ≤ id) && !n.taken && !n.closed && tilesMeet t (TileRef.ofHandle n.tile)

/-- A queued dictionary drain holds later ops off its row (R170). -/
def State.drqHolds (s : State) (id : Nat) (r : RowRef) : Bool :=
  s.drq.any fun q => q.state == 1 && decide (q.at_ ≤ id) && rowsMeet r ⟨TileRef.ofHandle (q.req % 65536), fieldOf q.req 20 16⟩

/-- Whether an op may read a register row in its order (R168, R235): every op accepted before it that touches the row has
finished with it. -/
def State.rowFree (s : State) (o : Op) (r : RowRef) : Bool :=
  s.ops.all fun p =>
    decide (o.id ≤ p.id) || (p.k.accumulates && o.k.accumulates) || some p.id == o.rolled || !s.rowPending p r

/-- Whether an op may write a register row now. -/
def State.rowOpen (s : State) (o : Op) (r : RowRef) : Bool :=
  s.rowFree o r && !s.snapPending o.id r.t && !s.drqHolds o.id r && !s.ops.any (fun p => rerollHolds p o.id r.t)

/-- The ring rule of a rolling drain: output row m enters only after the companion has cleared every earlier row of the
same ring row (R101). -/
def State.ringOpen (s : State) (o : Op) (ci : Nat) (imag : Bool) (m : Nat) : Bool :=
  let rpt := rowsPerTile o.d.shape
  match o.comp[(bit imag)]? with
  | none => true
  | some c => match s.op? c with
    | none => true
    | some p => p.k == .clear || (List.range (m / rpt)).all fun j => p.rows.elem (rowUnit ci (j * rpt + m % rpt))

end Sys2Proof.Machine
end

