-- ==== Sys2Proof/Machine/Tree.lean ====
section
/-! DEFINITION. The column tree: the groups of a column's rows, the main window and the straggler lane of a group tree, and the
running sum as each group's sum enters it (spec/02_products_and_long_register.md R44 to R50). -/

namespace Sys2Proof.Machine

/-- The larger of an optional number and a number. -/
def maxOpt (a : Option Nat) (b : Nat) : Option Nat := some (max (a.getD b) b)

/-- The position of the largest finite term of a group, none when it has no finite nonzero term. -/
def topPos (ts : List Term) : Option Nat := (ts.filter (fun t => t.cls == .fin)).foldl (fun a t => maxOpt a t.pos) none

/-- The anchor limb A of a group: the limb of bit p + 15 of the finite term with the largest position, 4 when it has none (R47). -/
def anchorLimb (ts : List Term) : Nat := match topPos ts with
  | none => 4
  | some p => (p + 15) / 64

/-- The lowest limb of the main window, max(A − 4, 0) (R47). -/
def windowLo (ts : List Term) : Nat := anchorLimb ts - 4

/-- Whether a term's least significant bit lies in the main window or above, so that the main window adds it (R48). -/
def inMain (lo : Nat) (t : Term) : Bool := decide (64 * lo ≤ t.pos)

/-- The sum of the finite terms of an adder whose lowest bit is register bit `base`, in units of that bit. -/
def laneSum (base : Nat) (ts : List Term) : Int :=
  (ts.map (fun t => if t.cls = .fin then signed t.sign (t.rung * 2 ^ (t.pos - base)) else 0)).sum

/-- What a group tree holds of one token: the lowest limb of its main window, the window's five limbs, the carry-and-sign guard
above them, and the straggler lane's sum over the four limbs below, in units of the lowest of these (R47, R48). -/
structure GroupSum where
  lo : Nat
  win : BitVec 320
  guard : Int
  strag : Int
deriving DecidableEq, Repr

/-- The two adders of a group tree (R47, R48). -/
def groupSum (ts : List Term) : GroupSum :=
  let lo := windowLo ts
  let main := laneSum (64 * lo) (ts.filter (inMain lo))
  ⟨lo, BitVec.ofInt 320 main, main / 2 ^ 320, laneSum (64 * (lo - 4)) (ts.filter (fun t => !inMain lo t))⟩

/-- The merged group sum: the straggler lane's carries propagate into the main window (R47, R48). -/
def GroupSum.merged (g : GroupSum) : Int :=
  (g.guard * 2 ^ 320 + g.win.toNat) * 2 ^ (64 * g.lo) + g.strag * 2 ^ (64 * (g.lo - 4))

/-- The sum of the term residues of a group: the prediction against which the merged sum is checked, and the group-sum residues that
go on (Table 10-1). -/
def groupResidues (ts : List Term) : BitVec 7 × BitVec 8 :=
  ts.foldl (fun a t => (plusResidue 7 127 a.1 t.r127, plusResidue 8 255 a.2 t.r255)) (0, 0)

/-- A group's sum enters the running sum: its value and flags, the mask widened, and old plus group-sum residues (R44, R50, Table
10-1 block stage). -/
def RunSum.enterGroup (r : RunSum) (ts : List Term) : RunSum :=
  let v := BitVec.ofInt 576 (groupSum ts).merged
  let q := groupResidues ts
  { r with
    mask := widen r.mask v (r.n + v)
    n := r.n + v
    nan := r.nan || ts.any (fun t => t.cls == .nan)
    pinf := r.pinf || ts.any (fun t => t.cls == .pinf)
    ninf := r.ninf || ts.any (fun t => t.cls == .ninf)
    psn := r.psn || ts.any (fun t => t.psn)
    r127 := plusResidue 7 127 r.r127 q.1
    r255 := plusResidue 8 255 r.r255 q.2 }

/-- Groups of `g` consecutive rows, from the top; at most `fuel` of them. A row of an active group beyond the enabled ones presents
a zero term (R44, R45). -/
def groupsOf (g : Nat) (ts : List Term) : Nat → List (List Term)
  | 0 => []
  | k + 1 => match ts with
    | [] => []
    | t :: r =>
      let x := (t :: r).take g
      (x ++ List.replicate (g - x.length) (specialTerm .zero false)) :: groupsOf g ((t :: r).drop g) k

/-- The running sum of a column: the sums of its active groups enter one after another, from the top group down (R44). -/
def columnSum (g : Nat) (ts : List Term) : RunSum := (groupsOf g ts ts.length).foldl RunSum.enterGroup .zero

/-- The exact sum of a list of terms: values added as integers, flags and poison ORed (R37, R53). -/
def sumTerms (ts : List Term) : Incoming := ts.foldl (fun a t => a.plus (Incoming.ofTerm t)) Incoming.zero

/-- A running sum as what enters, its value as the signed number it is. -/
def RunSum.incoming (r : RunSum) : Incoming := ⟨r.n.toInt, r.nan, r.pinf, r.ninf, r.psn⟩

end Sys2Proof.Machine
end

