-- ==== Sys2Proof/Machine/Array.lean ====
section
/-! DEFINITION. The engine array at work: shadow writes and swap fronts (R70 to R73), tokens and running sums (R58 to R67,
R88 to R91), the checks of a running sum with capture and local retry (R252 to R257, R270 to R272, R280). -/

namespace Sys2Proof.Machine

/-- The place of a chain among an op's chains. -/
def chainIdx (o : Op) (c : ChainId) : Option Nat := o.chains.findIdx? (fun x => x == c)

/-- Block stages of an engine of a chain: 8, or 4 of a quadrant (R63, R86). -/
def stagesOf (c : ChainId) : Nat := if c.quarter = 0 then 8 else 4

/-- Rows of an engine of a chain. -/
def engRows (c : ChainId) : Nat := if c.quarter = 0 then 32 else 16

/-- The engine number of place `e` of a chain. -/
def chainEng (c : ChainId) (e : Nat) : Nat := c.core * 16 + c.top + e

/-- Whether an op presents tokens. -/
def OpK.tokens : OpK → Bool
  | .stream => true
  | .scan => true
  | .mpass => true
  | .reroll => true
  | _ => false

/-- Whether an op loads weights. -/
def OpK.loads : OpK → Bool
  | .loadw => true
  | k => k.tokens

/-- Whether an op has tokens left on a chain. -/
def tokensLeft (o : Op) (c : ChainId) : Bool :=
  o.k.tokens && !o.stopped && (match chainIdx o c with
    | none => false
    | some ci => decide (o.pres.getD ci 0 < tokTotal o ci))

/-- The op whose token a chain presents next: the first in acceptance order with tokens left (R97). -/
def State.tokenOp (s : State) (c : ChainId) : Option Op := s.ops.find? (fun o => tokensLeft o c)

/-- Loads an op makes on a chain. -/
def loadTotal (o : Op) (ci : Nat) : Nat := loadCount o.d (coreIdx o.d ci)

/-- Whether an op has weight loads left on a chain. -/
def loadsLeft (o : Op) (c : ChainId) : Bool :=
  o.k.loads && !o.stopped && (match chainIdx o c with
    | none => false
    | some ci => decide (o.loads.getD ci 0 < loadTotal o ci))

/-- The op that loads a chain's next weight set. -/
def State.loadOp (s : State) (c : ChainId) : Option Op := s.ops.find? (fun o => loadsLeft o c)

/-- The weight load that a token uses (R134, R180). -/
def tokenLoad (o : Op) (ci idx : Nat) : Option LoadId :=
  let t := tokSpec o.d (coreIdx o.d ci) idx
  if isRolling o.d ∧ t.load = 0 then o.wl.getD ci none else some ⟨o.id, t.load⟩

/-- The weight set of a load before any row is written (R70, R74): the chain rows it enables, none when no column is. -/
def State.freshLoad (s : State) (o : Op) (c : ChainId) (ci no : Nat) : Load :=
  let cols := s.opCols o c ci
  ⟨⟨o.id, no⟩, [], if cols = 0 then [] else List.range (enabledRows o.d (coreIdx o.d ci) no), cols, []⟩

/-- An entry of a list of counts set. -/
def bumpAt (l : List Nat) (i : Nat) : List Nat := setAt l i (l.getD i 0 + 1)

/-! ### SHADOW_ROW_WRITE (R70, R73) -/

/-- The load that a shadow row write belongs to, in the shadow now: the pending one, or the next in blocks already
swapped (R73). True says that it is the next. -/
def State.loadSlot (s : State) (o : Op) (c : ChainId) (ci r : Nat) : Option (Bool × Load) :=
  let st := s.chain c
  let no := o.loads.getD ci 0
  match st.pend with
  | none => some (false, s.freshLoad o c ci no)
  | some p =>
    if p.id = ⟨o.id, no⟩ then some (false, p)
    else if p.swapped.elem (r / engRows c * 8 + r % engRows c / 4) then
      (match st.nxt with
      | none => some (true, s.freshLoad o c ci no)
      | some q => if q.id = ⟨o.id, no⟩ then some (true, q) else none)
    else none

/-- The elements of the weights of one chain row, logical columns ascending. -/
def State.weightRow (s : State) (o : Op) (ci no r cols : Nat) : Option (List Elem) :=
  let sc := coreIdx o.d ci
  let u := loadUnit no ci (rowLine o.d r)
  allSome ((List.range cols).map fun j =>
    s.elemAt o 6 u (loadOff o.d sc no (ci % o.d.nchain) + weightOff o.d r j) (weightSize o.d))

/-- The buffer keys of the weights of one chain row. -/
def State.weightKeys (s : State) (o : Op) (ci no r cols : Nat) : List Nat :=
  let sc := coreIdx o.d ci
  let u := loadUnit no ci (rowLine o.d r)
  (List.range cols).filterMap fun j => s.byteAt o 6 u (loadOff o.d sc no (ci % o.d.nchain) + weightOff o.d r j)

/-- The code that a shadow register takes: the EL8 code in [7:0] in EL8 mode (R66), widened to EL16 by the feeder for a
mixed op (R127). -/
def shadowCode (d : Desc) (e : Elem) : Code := if d.fmt = 3 then el8To16 (e.code.setWidth 8) else e.code

/-- A cell with its parity made even over its 18 bits (R248). -/
def Cell.make (c : Code) (psn : Bool) : Cell := ⟨c, parityFor (c.setWidth 8) ((c.ushiftRight 8).setWidth 8) psn, psn⟩

/-- Whether a cell passes its parity check (R249). -/
def Cell.parityOk (c : Cell) : Bool := c.par == parityFor (c.code.setWidth 8) ((c.code.ushiftRight 8).setWidth 8) c.psn

/-- The use of the buffer line of a weight row. -/
def weightUse (o : Op) (ci no r : Nat) : Use :=
  let sc := coreIdx o.d ci
  ⟨6, loadUnit no ci (rowLine o.d r), loadOff o.d sc no (ci % o.d.nchain) + 64 * rowLine o.d r, 64, false⟩

/-- The chain row of row `row` of engine place `eng`. -/
def chainRow (c : ChainId) (eng row : Nat) : Nat := eng * engRows c + row

/-- Whether at most eight ops before an op have tokens left for a chain, as its load may run ahead of no more (R220). -/
def State.loadNear (s : State) (o : Op) (c : ChainId) : Bool :=
  decide ((s.ops.filter (fun p => decide (p.id < o.id) && tokensLeft p c)).length ≤ 8)

/-- The op, chain index and load slot of a shadow row write, when it may happen: the op has started, at most 8 ops lie
ahead (R220), the row is enabled and not written, its line is free (R147) and has arrived. -/
def State.shadowTarget (s : State) (c : ChainId) (eng row : Nat) : Option (Op × Nat × Bool × Load) :=
  match s.loadOp c with
  | none => none
  | some o => match chainIdx o c with
    | none => none
    | some ci =>
      let r := chainRow c eng row
      match s.loadSlot o c ci r with
      | none => none
      | some (nx, l) =>
        if o.started ∧ row < engRows c ∧ l.need.elem r ∧ !l.rows.elem r ∧
            s.loadNear o c ∧ !s.lineBusy o [weightUse o ci l.id.no r] ∧ (s.weightRow o ci l.id.no r l.cols).isSome
        then some (o, ci, nx, l) else none

/-- The shadow cells of one row take their codes, steered to physical columns (R70, R83). -/
def State.putShadow (s : State) (t : TileRef) (row : Nat) (es : List Code) (ps : List Bool) : State :=
  let cols := s.physCols t
  (List.range es.length).foldl (fun s j =>
    let v := Cell.make (es.getD j 0) (ps.getD j false)
    { s with shadow := sset .zero s.shadow (regKey t.n (t.row0 + row) (cols.getD j 0)) v }) s

/-- The shadow-written bits of a row (R60): both halves of an engine row, or the quadrant's half. -/
def swrKeys (t : TileRef) (row : Nat) : List Nat :=
  let k := t.n * 64 + (t.row0 + row) * 2
  if t.q = 0 then [k, k + 1] else if t.q = 4 ∨ t.q = 6 then [k] else [k + 1]

/-- The load with the row marked written. -/
def Load.wrote (l : Load) (r : Nat) : Load := { l with rows := insN l.rows r }

/-- SHADOW_ROW_WRITE: one enabled row of the chain's next weight set enters the shadow (R70). -/
def execShadowRowWrite (ch : ChainId) (eng row : Nat) (s : State) : Host.Outcome State Fault Refusal :=
  match s.shadowTarget ch eng row with
  | none => .next s
  | some (o, ci, nx, l) =>
    let r := chainRow ch eng row
    let es := (s.weightRow o ci l.id.no r l.cols).getD []
    let keys := s.weightKeys o ci l.id.no r l.cols
    let t : TileRef := ⟨chainEng ch eng, ch.quarter⟩
    let s1 := s.putShadow t row (es.map (shadowCode o.d)) (es.map (fun e => e.psn))
    let s2 : State := { s1 with swr := (swrKeys t row).foldl insN s1.swr }
    let l2 := l.wrote r
    let st := s2.chain ch
    let s3 := s2.setChain ch (if nx then { st with nxt := some l2 } else { st with pend := some l2 })
    let s4 := if l2.full then s3.mapOp o.id (fun p => { p with loads := bumpAt p.loads ci }) else s3
    .next ((s4.parityEvents (some o.d.tenant) ⟨0x07, t.handle⟩ keys).settleRing o.id 6)

/-! ### The weights that a token meets (R61, R65, R249) -/

/-- The cell at chain row r, logical column j (R61, R65). -/
def State.cellAt (s : State) (c : ChainId) (r j : Nat) : Cell :=
  let t : TileRef := ⟨chainEng c (r / engRows c), c.quarter⟩
  match (s.physCols t)[j]? with
  | none => .zero
  | some p => sget .zero s.cells (regKey t.n (t.row0 + r % engRows c) p)

/-- The stationary weights of one chain row as a token takes them, after the parity check of each cell (R249). -/
def State.rowWts (s : State) (c : ChainId) (r cols : Nat) : List Elem :=
  (List.range cols).map fun j =>
    let w := s.cellAt c r j
    ⟨w.code, w.psn || !w.parityOk⟩

/-- The parity failures of the stationary weights that a token takes in one chain row are counted and recorded, at the cell
(R249, Table 10-1 cell operand and weight use; log 87). DESIGN CHOICE: DETAIL [31:0], the buffer address of a unit that lies in the
buffer (Table 10-6), is 0 for a cell, which lies in none. -/
def State.cellParity (s : State) (tenant : Option Nat) (c : ChainId) (r cols : Nat) : State :=
  let t : TileRef := ⟨chainEng c (r / engRows c), c.quarter⟩
  (List.range cols).foldl (fun s j =>
    if (s.cellAt c r j).parityOk then s
    else (s.bump (key 0x4001 0) 1).event
      ⟨0x001, 2, 0x01, t.handle, some (t.row0 + r % engRows c, (s.physCols t).getD j 0), tenant, 0⟩) s

/-- The number of a block stage within its chain's stages: 8 for each engine. -/
def stageNo (eng blk : Nat) : Nat := eng * 8 + blk

/-- The block stage of a chain row. -/
def stageOf (c : ChainId) (r : Nat) : Nat := stageNo (r / engRows c) (r % engRows c / 4)

/-- The block stages of a chain of depth `d` from its top. -/
def chainStages (c : ChainId) (d : Nat) : List Nat :=
  (List.range d).flatMap fun e => (List.range (stagesOf c)).map fun b => stageNo e b

/-! ### SWAP_FRONT (R71 to R73) -/

/-- The set pending in the shadow, or one that enables no row and is full at once (R70). -/
def State.swapLoad (s : State) (c : ChainId) : Option Load :=
  match (s.chain c).pend with
  | some l => some l
  | none => match s.loadOp c with
    | none => none
    | some o => match chainIdx o c with
      | none => none
      | some ci =>
        let l := s.freshLoad o c ci (o.loads.getD ci 0)
        if l.need = [] ∧ o.started then some l else none

/-- Whether tokens of an older pass are still to enter the chain: tokens of earlier ops, or of the load's own op with
earlier loads (R71). -/
def State.olderTokens (s : State) (c : ChainId) (l : LoadId) : Bool :=
  s.ops.any fun o => tokensLeft o c && (match chainIdx o c with
    | none => false
    | some ci => decide (o.id < l.op) ||
        (decide (o.id = l.op) && (List.range (tokTotal o ci)).any fun idx =>
          !decide (idx < o.pres.getD ci 0) && decide ((tokSpec o.d (coreIdx o.d ci) idx).load < l.no)))

/-- Whether the first op that uses a set of a LOADW has been accepted (R71); a set that an array op loads has its user. -/
def State.loadUsed (s : State) (c : ChainId) (l : LoadId) : Bool :=
  match s.op? l.op with
  | some o => if o.k = .loadw then s.ops.any (fun p => p.k.tokens && p.wl.elem (some l) && p.chains.elem c) else true
  | none => s.ops.any (fun p => p.k.tokens && p.wl.elem (some l) && p.chains.elem c) || decide (0 < l.no)

/-- The chain rows of a block stage. -/
def blockRows (c : ChainId) (eng blk : Nat) : List Nat := (List.range 4).map (fun i => chainRow c eng (4 * blk + i))

/-- The cells of a block stage after the swap: written rows and enabled columns take the shadow, the rest 0x0000 (R71). -/
def State.swapCells (s : State) (c : ChainId) (l : Load) (eng blk : Nat) : State :=
  let t : TileRef := ⟨chainEng c eng, c.quarter⟩
  let cols := (s.physCols t).take l.cols
  (List.range 4).foldl (fun s i =>
    let row := 4 * blk + i
    let written := l.rows.elem (chainRow c eng row)
    (sideCols c.quarter).foldl (fun s p =>
      let k := regKey t.n (t.row0 + row) p
      let v := if written ∧ cols.elem p then sget .zero s.shadow k else .zero
      { s with cells := sset .zero s.cells k v }) s) s

/-- The load that a token in the array uses on its chain. -/
def State.loadOf (s : State) (c : ChainId) (k : Tok) : Option LoadId :=
  match s.op? k.op with
  | none => none
  | some o => (chainIdx o c).bind (fun ci => tokenLoad o ci k.idx)

/-- The enabled columns of a token in the array. -/
def State.tokCols (s : State) (c : ChainId) (k : Tok) : Nat :=
  match s.op? k.op with
  | none => 0
  | some o => ((chainIdx o c).map (fun ci => s.opCols o c ci)).getD 0

/-- A token of the load takes the weights of the rows of a stage that has swapped (R71, R72). -/
def State.fillTok (s : State) (c : ChainId) (l : LoadId) (rs : List Nat) (k : Tok) : Tok :=
  if s.loadOf c k = some l then
    { k with wts := rs.foldl (fun w r => setAt w r (s.rowWts c r (s.tokCols c k))) k.wts }
  else k

/-- The tokens of a load that wait at or above a stage take its weights once it has swapped (R72). -/
def State.fillToks (s : State) (c : ChainId) (l : LoadId) (rs : List Nat) : State :=
  let st := s.chain c
  let waits := (st.fly ++ st.held).filter (fun k => s.loadOf c k == some l)
  let s1 := s.setChain c { st with fly := st.fly.map (s.fillTok c l rs), held := st.held.map (s.fillTok c l rs) }
  waits.foldl (fun s k => rs.foldl (fun s r =>
    if r < k.lanes.length then s.cellParity ((s.op? k.op).map (fun o => o.d.tenant)) c r (s.tokCols c k) else s) s) s1

/-- The chain after a stage has swapped: when all stages have, the set is in the stationary registers and the next one is
pending. -/
def ChainSt.swapped (st : ChainSt) (l : Load) (eng blk total : Nat) : ChainSt :=
  let l2 := { l with swapped := insN l.swapped (eng * 8 + blk) }
  if l2.swapped.length = total then { st with cur := some l.id, pend := st.nxt, nxt := none }
  else { st with pend := some l2 }

/-- Depth of a chain from its core's shape (R94). -/
def State.chainDepth (s : State) (c : ChainId) : Nat := depthOf (s.core c.core).shape

/-- SWAP_FRONT: one block stage copies the shadow to the stationary registers (R71). -/
def execSwapFront (ch : ChainId) (eng blk : Nat) (s : State) : Host.Outcome State Fault Refusal :=
  match s.swapLoad ch with
  | none => .next s
  | some l =>
    let d := s.chainDepth ch
    if eng < d ∧ blk < stagesOf ch ∧ !l.swapped.elem (eng * 8 + blk) ∧
        (blockRows ch eng blk).all (fun r => !l.need.elem r || l.rows.elem r) ∧
        !s.olderTokens ch l.id ∧ s.loadUsed ch l.id then
      let t : TileRef := ⟨chainEng ch eng, ch.quarter⟩
      let s1 := s.swapCells ch l eng blk
      let gone := (List.range 4).flatMap (fun i => swrKeys t (4 * blk + i))
      let s2 : State := { s1 with swr := s1.swr.filter (fun k => !gone.elem k) }
      let s3 := (s2.fillToks ch l.id (blockRows ch eng blk)).mapChain ch (fun st => st.swapped l eng blk (d * stagesOf ch))
      -- a set that enables no row counts as loaded once its first stage swaps
      let s4 := if l.need = [] ∧ l.swapped = [] then
          (match s3.loadOp ch with
          | none => s3
          | some o => match chainIdx o ch with
            | none => s3
            | some ci => s3.mapOp o.id (fun p => { p with loads := bumpAt p.loads ci }))
        else s3
      .next s4
    else .next s

/-! ### TOKEN_PRESENT (R58, R61, R66, R107, R174) -/

/-- The lane of chain row r of a token: the operand code as the feeder presents it. In EL8 mode it holds two codes; the
last token of an odd M has 0x00 in [15:8] (R59, R66, R67). -/
def laneCode (d : Desc) (t : TokSpec) (e : Elem) : Code :=
  if el8Mode d then (if t.row + 1 < d.m then e.code else e.code &&& 0x00FF)
  else if d.fmt = 2 then el8To16 (e.code.setWidth 8)
  else if t.pass.neg then negCode e.code
  else e.code

/-- Enabled rows of a token (R74). -/
def tokenRows (d : Desc) (sc idx : Nat) : Nat :=
  min (kPerPass d.shape) (kEnd d sc - (tokSpec d sc idx).blk * kPerPass d.shape)

/-- The operand lanes of a token, each a unit with its parity, none while a line has not arrived (R59, R107, R248). -/
def State.tokenLanes (s : State) (o : Op) (ci idx : Nat) : Option (List Cell) :=
  let sc := coreIdx o.d ci
  let t := tokSpec o.d sc idx
  let k0 := t.blk * kPerPass o.d.shape
  allSome ((List.range (tokenRows o.d sc idx)).map fun r =>
    (s.elemAt o 5 (tokUnit sc idx) (actOff o.d t.pass.a t.row (k0 + r)) (if o.d.fmt = 2 then 1 else 2)).map
      (fun e => Cell.make (laneCode o.d t e) e.psn))

/-- The buffer keys of a token's operands. -/
def State.tokenKeys (s : State) (o : Op) (ci idx : Nat) : List Nat :=
  let sc := coreIdx o.d ci
  let t := tokSpec o.d sc idx
  let k0 := t.blk * kPerPass o.d.shape
  (List.range (tokenRows o.d sc idx)).filterMap fun r =>
    s.byteAt o 5 (tokUnit sc idx) (actOff o.d t.pass.a t.row (k0 + r))

/-- The use of the buffer by a token. -/
def tokenUse (o : Op) (ci idx : Nat) : Use :=
  let sp := tokenSpan o.d (coreIdx o.d ci) idx
  ⟨5, tokUnit (coreIdx o.d ci) idx, sp.1, sp.2, false⟩

/-- Tokens that a chain holds at most: its latency (R86, R270). -/
def flightCap (d : Desc) : Nat := if d.shape = 5 then 10 else 5 + 9 * depthOf d.shape

/-- Whether the ring rows of a token are clear (R101, R102). -/
def State.tokenRing (s : State) (o : Op) (ci idx : Nat) : Bool :=
  let t := tokSpec o.d (coreIdx o.d ci) idx
  !isRolling o.d || (tokRows o.d t).all (fun m => s.ringOpen o ci t.pass.imag m)

/-- Whether a token of a load may enter the chain: its weights are in force, or the swap front is on its way and the stages above
the one that it waits at have room, one token each (R72). -/
def State.passReady (s : State) (c : ChainId) (need : Option LoadId) : Bool :=
  let st := s.chain c
  need.isSome && (st.cur == need || st.pend.any (fun l => some l.id == need &&
    decide ((st.fly.filter (fun k => s.loadOf c k == need)).length <
      ((chainStages c (s.chainDepth c)).takeWhile (fun x => l.swapped.elem x)).length)))

/-- Whether the stationary weights of a chain row are those of a load: it is in force, or the row's stage has swapped. -/
def State.rowSwapped (s : State) (c : ChainId) (need : Option LoadId) (r : Nat) : Bool :=
  let st := s.chain c
  st.cur == need || st.pend.any (fun l => some l.id == need && l.swapped.elem (stageOf c r))

/-- The stationary weights that a token meets as it enters, row by row: none in a row that has still to swap (R72). -/
def State.tokenWts (s : State) (c : ChainId) (need : Option LoadId) (rows cols : Nat) : List (List Elem) :=
  (List.range rows).map fun r => if s.rowSwapped c need r then s.rowWts c r cols else []

/-- The token that a chain presents next, when it may enter: the op has started, the chain retries nothing, its weights are those of the
token's pass, or the front that brings them is ahead of it (R72), its operands have arrived and are not held by R147, the ring has room and
the draw ceiling admits it (R330 to R332). -/
def State.presentable (s : State) (c : ChainId) : Option (Op × Nat × Nat) :=
  match s.tokenOp c with
  | none => none
  | some o => match chainIdx o c with
    | none => none
    | some ci =>
      let idx := o.pres.getD ci 0
      let st := s.chain c
      let rows := tokenRows o.d (coreIdx o.d ci) idx
      if o.started ∧ st.held = [] ∧ st.fly.length < flightCap o.d ∧ s.passReady c (tokenLoad o ci idx) ∧
          !s.lineBusy o [tokenUse o ci idx] ∧ s.tokenRing o ci idx ∧
          s.mayEnter c.core (rows * s.opCols o c ci) ∧ (s.tokenLanes o ci idx).isSome
      then some (o, ci, idx) else none

/-- TOKEN_PRESENT: the chain's next token enters. The model keeps the lanes and weights of its pass with it, as the replay
store does (R271), and forms the products when each running sum is added (log 14). -/
def execTokenPresent (ch : ChainId) (s : State) : Host.Outcome State Fault Refusal :=
  match s.presentable ch with
  | none => .next s
  | some (o, ci, idx) =>
    let rows := tokenRows o.d (coreIdx o.d ci) idx
    let cols := s.opCols o ch ci
    let lanes := (s.tokenLanes o ci idx).getD []
    let st := s.chain ch
    let need := tokenLoad o ci idx
    let tok : Tok := ⟨o.id, idx, lanes, s.tokenWts ch need rows cols, []⟩
    let s1 := s.setChain ch { st with fly := st.fly ++ [tok] }
    let s2 := s1.mapOp o.id (fun p => { p with pres := bumpAt p.pres ci })
    let s3 := s2.opToken ch.core (rows * cols)
    let s4 := (List.range rows).foldl (fun s r =>
      if s.rowSwapped ch need r then s.cellParity (some o.d.tenant) ch r cols else s) s3
    .next ((s4.parityEvents (some o.d.tenant) ⟨0x07, (TileRef.mk (chainEng ch 0) ch.quarter).handle⟩ (s.tokenKeys o ci idx)).settleRing
      o.id 5)

/-! ### RUNNING_SUM_ADD (R37, R50, R51, R66, R90, R175) -/

/-- The EL16 code of term `j` of a lane. -/
def laneTerm (d : Desc) (j : Nat) (c : Code) : Code :=
  if el8Mode d then el8To16 (if j = 0 then c.setWidth 8 else (c.ushiftRight 8).setWidth 8) else c

/-- The EL16 code of a stationary weight. -/
def weightTerm (d : Desc) (c : Code) : Code := if el8Mode d then el8To16 (c.setWidth 8) else c

/-- The cross rule of R175: an infinite head operand against a finite or zero tail gives a zero term. -/
def crossZero (p : Pass) (a w : Code) : Bool :=
  let h := if p.a % 2 = 0 then a else w
  let t := if p.a % 2 = 0 then w else a
  p.cross && (classOf h).isInf && (classOf t == .fin || classOf t == .zero)

/-- The product term of a cell, its operand lane checked for parity (R61, R36, R175, R249). -/
def cellTerm (d : Desc) (p : Pass) (j : Nat) (a : Cell) (w : Elem) : Term :=
  let x := laneTerm d j a.code
  let y := weightTerm d w.code
  let psn := a.psn || !a.parityOk || w.psn
  if crossZero p x y then specialTerm .zero psn else product x y psn

/-- The terms of one column of a token, by chain row. -/
def colTerms (o : Op) (ci : Nat) (k : Tok) (col j : Nat) : List Term :=
  let t := tokSpec o.d (coreIdx o.d ci) k.idx
  (k.lanes.zip k.wts).map (fun lw => cellTerm o.d t.pass j lw.1 (lw.2.getD col ⟨0, false⟩))

/-- Rows of a group (Table 05-2 GS, R44). -/
def groupSize (gs : Nat) : Nat := if gs = 0 then 4 else if gs = 1 then 8 else 16

/-- A term as a candidate with its index (R88). -/
def candOfTerm (t : Term) (i : Nat) : Cand := ⟨t.cls, if t.cls = .fin then t.sign else false, t.pos, t.rung, i⟩

/-- The running candidate of a list of terms whose first index is `i` (R88 to R91). -/
def bestTerms (min : Bool) (i : Nat) (ts : List Term) : Option Cand :=
  ts.zipIdx.foldl (fun b t => Cand.best min b (some (candOfTerm t.1 (i + t.2)))) none

/-- The index of the first term of a token's column, kb + k0 (R88). -/
def candBase (o : Op) (ci : Nat) (k : Tok) : Nat := o.d.kb + (tokSpec o.d (coreIdx o.d ci) k.idx).blk * kPerPass o.d.shape

/-- The running sum, or running candidate in compare mode, of one column and term of a token. -/
def runningSum (o : Op) (ci : Nat) (k : Tok) (col j : Nat) : RunSum :=
  let ts := colTerms o ci k col j
  { columnSum (groupSize o.d.gs) ts with
    best := if o.d.op = 0x05 then bestTerms o.d.dirMin (candBase o ci k) ts else none }

/-- The oldest token in flight whose sum of a column and term is still to be added (R51, R64). -/
def oldestTok (st : ChainSt) (col j : Nat) : Option Tok := st.fly.find? (fun k => !k.done.elem (2 * col + j))

/-- The register that a sum enters. -/
def State.sumReg (s : State) (o : Op) (c : ChainId) (t : TokSpec) (col j : Nat) : Option Nat :=
  let r := destRow o c t.pass.imag (t.row + j)
  s.regAt r.t r.row col

/-- Sums of a token: enabled columns times terms; the last EL8 token of an odd M has no term 1 (R67). -/
def sumCount (o : Op) (ci : Nat) (k : Tok) (cols : Nat) : Nat :=
  cols * (tokRows o.d (tokSpec o.d (coreIdx o.d ci) k.idx)).length

/-- A sum added: it is marked on its token, and a token whose sums are all added leaves the array. -/
def ChainSt.sumDone (st : ChainSt) (k : Tok) (col j total : Nat) : ChainSt :=
  let k2 := { k with done := insN k.done (2 * col + j) }
  if k2.done.length = total then { st with fly := st.fly.filter (fun x => !(x.op == k.op && x.idx == k.idx)) }
  else { st with fly := st.fly.map (fun x => if x.op == k.op && x.idx == k.idx then k2 else x) }

/-- The sum is marked, and the op's count of added tokens moves on when the token is complete. -/
def State.markSum (s : State) (o : Op) (c : ChainId) (ci : Nat) (k : Tok) (col j : Nat) : State :=
  let total := sumCount o ci k (s.opCols o c ci)
  let s1 := s.setChain c ((s.chain c).sumDone k col j total)
  if k.done.length + 1 = total then s1.mapOp o.id (fun p => { p with added := bumpAt p.added ci }) else s1

/-! ### Checks of a running sum (R245 to R247, R252, R254, R273) -/

/-- One column of a token as its checks see it: the terms by chain row, the sums L1 + L2 of the log fields of each row, the rows of
a group, whether the engines run in compare mode, and then whether the minimum leads and the index of the first term. -/
structure SumCtx where
  ts : List Term
  logs : List Nat
  g : Nat
  cmp : Bool
  min : Bool
  base : Nat
deriving DecidableEq, Repr

/-- The column of an op's token. -/
def tokCtx (o : Op) (ci : Nat) (k : Tok) (col j : Nat) : SumCtx :=
  ⟨colTerms o ci k col j,
    (k.lanes.zip k.wts).map (fun lw =>
      logField (laneTerm o.d j lw.1.code) + logField (weightTerm o.d (lw.2.getD col ⟨0, false⟩).code)),
    groupSize o.d.gs, o.d.op == 0x05, o.d.dirMin, candBase o ci k⟩

/-- The chain row that a fault names. -/
def faultRow (c : ChainId) (f : SumFault) : Nat := chainRow c f.eng (f.prow % engRows c)

/-- The term of the faulty cell: a wrong output X of the log adder gives the term of the bit field X + 16,384, a wrong rung a wrong
magnitude; another fault leaves the term as it is (R245, R246; log 89). -/
def faultyTerm (t : Term) (sum : Nat) (f : SumFault) : Term :=
  if t.cls ≠ .fin then t
  else if f.cls = 0x010 then
    let x := (((sum : Int) + f.err) % 65536).toNat
    finTerm t.sign (x / 128) (x % 128) t.psn
  else if f.cls = 0x011 then { t with rung := (((t.rung : Int) + f.err) % 65536).toNat }
  else t

/-- The terms of a column with the faulty one in its place. -/
def SumCtx.faulty (x : SumCtx) (c : ChainId) (f : SumFault) : List Term :=
  let r := faultRow c f
  match x.ts[r]? with
  | none => x.ts
  | some t => setAt x.ts r (faultyTerm t (x.logs.getD r 0) f)

/-- The group of rows that holds the faulty row. -/
def SumCtx.group (x : SumCtx) (c : ChainId) (f : SumFault) (ts : List Term) : List Term :=
  (ts.drop (faultRow c f / x.g * x.g)).take x.g

/-- How far the running sum, or the record of the running candidate on a chain hop, is from its exact value when a fault is not seen
by its check (R262). -/
def SumCtx.shift (x : SumCtx) (c : ChainId) (f : SumFault) : Int :=
  if x.cmp then (if f.cls = 0x013 then f.err else 0)
  else (sumTerms (x.faulty c f)).v - (sumTerms x.ts).v + (if f.cls = 0x012 ∨ f.cls = 0x013 then f.err else 0)

/-- The terms of the rows that the check of a fault of class 0x013 has behind it: those down to the engine above the hop, or all of
the column (Table 10-1). -/
def SumCtx.above (_ : SumCtx) (c : ChainId) (f : SumFault) (ts : List Term) : List Term := ts.take ((f.eng + 1) * engRows c)

/-- What travels down the chain past some rows: their running sum, or the record of their running candidate (R50, R90). -/
def SumCtx.travels (x : SumCtx) (ts : List Term) : Incoming :=
  if x.cmp then ⟨((bestTerms x.min x.base ts).map (fun b => b.record.toInt)).getD 0, false, false, false, false⟩ else sumTerms ts

/-- The checked quantity of a failing check (Table 10-1): X of the log adder, the rung, the group sum, or the running
sum. -/
def SumCtx.checked (x : SumCtx) (c : ChainId) (f : SumFault) : Int :=
  let r := faultRow c f
  if f.cls = 0x010 then (x.logs.getD r 0 : Int) - 16384
  else if f.cls = 0x011 then (x.ts.getD r (specialTerm .zero false)).rung
  else if f.cls = 0x012 then (sumTerms (x.group c f x.ts)).v
  else (x.travels (x.above c f x.ts)).v

/-- The sum that a capture record shows: the computed group sum, or for class 0x013 the running sum at the check (Table 11-3). -/
def SumCtx.shown (x : SumCtx) (c : ChainId) (f : SumFault) : Incoming :=
  let ts := x.faulty c f
  let a := if f.cls = 0x013 then x.travels (x.above c f ts) else sumTerms (x.group c f ts)
  { a with v := a.v + (if f.cls = 0x012 ∨ f.cls = 0x013 then f.err else 0) }

/-- Whether a fault is seen by the check (R242, R245, R246, R254): its error is no multiple of 127 and 255; in compare mode the second
comparator of a group tree sees every error of the tree (R247; log 51). -/
def faultSeen (d : Desc) (f : SumFault) : Bool :=
  f.err % 127 != 0 || f.err % 255 != 0 || (d.op == 0x05 && f.cls == 0x012 && f.err != 0)

/-- DETAIL of a failed check (Table 10-6); in compare mode the computed residues of a tree read 0x7F and 0xFF. -/
def SumCtx.detail (x : SumCtx) (c : ChainId) (f : SumFault) : Nat :=
  let v := x.checked c f
  let stage := if f.cls = 0x013 then 0xFF else f.stage
  if x.cmp ∧ f.cls = 0x012 then residueDetail (residue v 127) (residue v 255) 0x7F 0xFF stage
  else residueDetail (residue v 127) (residue v 255) (residue (v + f.err) 127) (residue (v + f.err) 255) stage

/-- A failing check of a running sum, as its record, its offence and its capture name it: class, UNIT, the engine charged, LOC,
physical row and column, DETAIL, and the sum shown. -/
structure SumFail where
  cls : Nat
  unit : Nat
  eng : Nat
  loc : Nat
  prow : Nat
  pcol : Nat
  detail : Nat
  sum : Incoming
deriving DecidableEq, Repr

/-- The physical column of a logical column in an engine of a chain (R10, R272). -/
def State.faultCol (s : State) (c : ChainId) (n col : Nat) : Nat := (s.physCols ⟨n, c.quarter⟩).getD col 0

/-- Whether a fault of class 0x013 is met at the chain hop below its engine: the engine is not the lowest of its chain. At the
lowest, the check is that of the tile entry (Table 10-1). -/
def State.atHop (s : State) (c : ChainId) (f : SumFault) : Bool := f.cls == 0x013 && decide (f.eng + 1 < s.chainDepth c)

/-- The check that a fault fails: a cell or a tree by its engine and rows, a chain hop by the engine above it, a tile entry by the
register that the sum would enter (R263, R267, R268, R273). -/
def State.sumFault (s : State) (x : SumCtx) (c : ChainId) (col : Nat) (f : SumFault) (rk : Nat) : SumFail :=
  let tile : Bool := f.cls == 0x013 && !s.atHop c f
  let n := if tile then rk / 1024 else chainEng c f.eng
  { cls := f.cls
    unit := if f.cls = 0x010 then 1 else if f.cls = 0x011 then 2 else if f.cls = 0x012 then 3 else if tile then 5 else 4
    eng := n
    loc := (TileRef.mk n c.quarter).handle
    prow := if f.cls = 0x013 then rk / 32 % 32 else if f.cls = 0x012 then f.prow / x.g * x.g else f.prow
    pcol := if tile then rk % 32 else s.faultCol c n col
    detail := x.detail c f
    sum := x.shown c f }

/-- A running sum or candidate as it arrives with the fault that it has met on the way: in compare mode the candidate among the terms
with the faulty one. -/
def faultyRun (o : Op) (c : ChainId) (ci : Nat) (k : Tok) (col j : Nat) (fault : Option SumFault) : RunSum :=
  let run := runningSum o ci k col j
  match fault with
  | none => run
  | some f =>
    if o.d.op = 0x05 then { run with best := bestTerms o.d.dirMin (candBase o ci k) ((tokCtx o ci k col j).faulty c f) } else run

/-- The register that a running sum, shifted by an unseen fault, leaves behind; a running candidate that replaces the record is stored
shifted. -/
def sumNew (d : Desc) (r : LongReg) (run : RunSum) (shift : Int) : LongReg :=
  if d.op = 0x05 then
    let x := r.compare d.dirMin run
    if x.n = r.n then x else { x with n := x.n + BitVec.ofInt 576 shift }
  else r.addRun { run with
    n := run.n + BitVec.ofInt 576 shift
    r127 := addResidue 7 127 run.r127 shift
    r255 := addResidue 8 255 run.r255 shift }

/-- The failure of the check at the register add: sideband plus incoming residues against those of the new N (Table 10-1). -/
def addFail (c : ChainId) (new : LongReg) (run : RunSum) (rk : Nat) : SumFail :=
  let got := LongReg.residuesOf new.n
  let n := rk / 1024
  ⟨0x013, 5, n, (TileRef.mk n c.quarter).handle, rk / 32 % 32, rk % 32,
    residueDetail new.r127.toNat new.r255.toNat got.1.toNat got.2.toNat 0xFF, run.incoming⟩

/-- The check that a running sum fails, if any: one that sees the fault met on the way, or the one at the register add (Table
10-1). -/
def State.sumFails (s : State) (o : Op) (c : ChainId) (ci : Nat) (k : Tok) (col j : Nat) (fault : Option SumFault) (rk : Nat) :
    Option SumFail :=
  let x := tokCtx o ci k col j
  let run := faultyRun o c ci k col j fault
  match fault.filter (faultSeen o.d) with
  | some f => some (s.sumFault x c col f rk)
  | none =>
    let new := sumNew o.d (s.reg rk) run ((fault.map (x.shift c)).getD 0)
    if new.checks then none else some (addFail c new run rk)

/-- The event of a failed check of a running sum. -/
def SumFail.event (f : SumFail) (tenant : Option Nat) : Event :=
  ⟨f.cls, 2, f.unit, f.loc, some (f.prow, f.pcol), tenant, f.detail⟩

/-! ### Capture records (R280, R281) -/

/-- The capture conditions word (Table 11-4). -/
def State.capCond (s : State) (core mode gs : Nat) (ops : Bool) : Nat :=
  let i := s.island core
  at_ 1 60 + at_ (bit ops) 59 + at_ mode 56 + at_ gs 54 + at_ (s.obj (key (0x2100 + core) 1)) 50 +
    at_ (s.obj (key (0x2100 + core) 7)) 47 + at_ s.pwr.env 45 + at_ i.mv 33 + at_ i.tj 25

/-- The words of a trimmed long as one number, least significant first. -/
def wordsNat (ws : List W64) : Nat := ws.foldr (fun (w : W64) (a : Nat) => w.toNat + 2 ^ 64 * a) 0

/-- Codes as one number, 16 bits each. -/
def codesNat (cs : List Code) : Nat := cs.foldr (fun (c : Code) (a : Nat) => c.toNat + 65536 * a) 0

/-- What a capture record holds besides the record of the failed check: COND, TAG, TOKEN, and, with the tenant's consent, the row
operand lanes and the weights of the failing column by physical row, and the failing sum (Table 11-3). -/
structure CapData where
  cond : Nat
  tag : Nat
  tok : Nat
  lanes : List Code
  wts : List Code
  sum : List W64
deriving DecidableEq, Repr

/-- A capture record (Table 11-3) as one number. -/
def State.capRecord (s : State) (e : Event) (seq : Nat) (d : CapData) : Nat :=
  wordsNat [recW0 0 e.sev e.cls e.tenant seq, BitVec.ofNat 64 s.now, e.w2, BitVec.ofNat 64 (at_ 1 40 + e.detail)] +
    at_ d.cond 256 + at_ d.tag 320 + at_ (d.tok % 2 ^ 32) 352 + at_ (codesNat d.lanes) 384 + at_ (codesNat d.wts) 896 +
    at_ (wordsNat d.sum) 1408

/-- The next free capture slot of the ring of 32. -/
def State.freeCap (s : State) : Option Nat :=
  ((List.range 32).map (fun i => (s.con.capNext + i) % 32)).find? (fun i => !s.con.capBusy.elem i)

/-- A failed check is counted and recorded, and a capture record is written in the next slot with its event of class 0x088, or counted
in 0x5021:01 (R254, R280; log 53). REC holds the record of the check with its SEQ, the number that the next record would take when
the check only counts as a repeat (log 53). -/
def State.capture (s : State) (e : Event) (d : CapData) : State :=
  let s0 := s.countResidue.event e
  let cap (i : Nat) : Event := ⟨0x088, 0, e.unit, e.loc, e.at_, e.tenant, at_ i 32 + d.tag⟩
  match s0.freeCap with
  | none => s0.bump (key 0x5021 1) 1
  | some i =>
    let s1 : State := { s0 with con := { s0.con with
      caps := sset 0 s0.con.caps i (s0.capRecord e (s.countResidue.seqOf e) d)
      capBusy := insN s0.con.capBusy i
      capNext := (i + 1) % 32
      capSeq := s0.con.capSeq ++ [(i, (s0.bump (key 0x5021 0) 1).seqOf (cap i))] } }
    (s1.bump (key 0x5021 0) 1).event (cap i)

/-- RCLR of a capture record is set (Table 11-4): bit 58 of the word at byte 32. -/
def State.capCleared (s : State) (i : Nat) : State :=
  { s with con := { s.con with caps := sset 0 s.con.caps i (sget 0 s.con.caps i ||| 2 ^ 314) } }

/-- A value that enters a register by another way than a running sum (a trimmed long of the spine, an element of a frame): the new N is
checked against sideband plus incoming residues (R252, Table 10-1 register add). A failure is recorded and charged as class 0x013; no
token brings the value again, so that it counts as a failed retry: POISON is set and the op has failed (DEDUCED, log 107). -/
def State.addReg (s : State) (id : Option Nat) (tenant tag : Nat) (t : TileRef) (rk : Nat) (new : LongReg) : State :=
  if new.checks then s.setReg rk new
  else
    let got := LongReg.residuesOf new.n
    let e : Event := ⟨0x013, 2, 5, t.handle, some (rk / 32 % 32, rk % 32), some tenant,
      residueDetail new.r127.toNat new.r255.toNat got.1.toNat got.2.toNat 0xFF⟩
    let s1 := (s.capture e ⟨s.capCond (coreOf t.n) 0 0 false, tag, 0, [], [], []⟩).offend (.engine t.n) 0x013
    let s2 := (s1.retryRecord e false tag).setReg rk (s1.reg rk).mark
    match id with
    | none => s2
    | some i => s2.mapOp i (fun p => { p with failed := true })

/-! ### A failing and a passing sum -/

/-- The capture data of a failing running sum of an op (Table 11-3): operands only with the tenant's consent (R281), the lanes and
weights of the failing engine at their physical rows, a row that the token does not use with the weight it holds. -/
def State.capData (s : State) (o : Op) (c : ChainId) (k : Tok) (col : Nat) (f : SumFail) (rk : Nat) : CapData :=
  let ops := s.obj (key (0x3100 + o.d.tenant) 6) == 1
  let row0 := (TileRef.mk 0 c.quarter).row0
  let first := (f.eng % 16 - c.top) * engRows c
  let inEng (r : Nat) : Bool := decide (row0 ≤ r) && decide (r < row0 + engRows c)
  let lane (r : Nat) : Code := if inEng r then (k.lanes.getD (first + r - row0) .zero).code else 0
  let wt (r : Nat) : Code :=
    match (if inEng r then (k.wts[first + r - row0]?).bind (fun w => w[col]?) else none) with
    | some w => w.code
    | none => (sget .zero s.cells (regKey f.eng r f.pcol)).code
  let sum := LongReg.ofVal (BitVec.ofInt 576 f.sum.v) f.sum.nan f.sum.pinf f.sum.ninf f.sum.psn
  let mode := if o.d.op = 0x05 then 2 else if el8Mode o.d then 1 else 0
  { cond := s.capCond c.core mode o.d.gs ops
    tag := o.d.tag
    tok := k.idx
    lanes := if ops then (List.range 32).map lane else []
    wts := if ops then (List.range 32).map wt else []
    sum := if ops then trim sum (s.boundOf o (quarterOfReg rk)) else [] }

/-- A check of a running sum fails (R254, R270, R272, R273, R280). The first failure of an op starts its retry: from the failed
token on, nothing of the chain is added, and those tokens wait to be presented again; older tokens go on. A failure of an op that
has retried leaves POISON in the one register, and the op fails. -/
def State.failSum (s : State) (o : Op) (c : ChainId) (ci : Nat) (k : Tok) (col j : Nat) (f : SumFail) (rk : Nat) : State :=
  let slot := s.freeCap
  let e := f.event (some o.d.tenant)
  let s1 := s.capture e (s.capData o c k col f rk)
  if o.retried then
    let s2 := (s1.setReg rk (s1.reg rk).mark).mapOp o.id (fun p => { p with failed := true })
    let s3 := s2.mapChain c (fun st => { st with
      retry := st.retry.filter (fun r => !(r.op == o.id && r.idx == k.idx && r.col == col && r.term == j)) })
    (s3.retryEvent o false e.unit e.loc e.at_ f.cls).markSum o c ci k col j
  else
    let s2 := s1.mapOp o.id (fun p => { p with retried := true })
    let st := s2.chain c
    let older (x : Tok) : Bool := !(x.op == k.op && x.idx == k.idx)
    let s3 := s2.setChain c { st with
      fly := st.fly.takeWhile older
      held := st.fly.dropWhile older ++ st.held
      retry := st.retry ++ [⟨o.id, k.idx, col, j, f.cls, e.unit, e.loc, e.at_, slot⟩] }
    s3.offend (.engine f.eng) f.cls

/-- A retry that cleared the failure is recorded, with the key fields of the failure (R266, class 0x031), and its capture
marked. -/
def State.clearRetry (s : State) (o : Op) (c : ChainId) (k : Tok) (col j : Nat) : State :=
  let mine (r : Retry) : Bool := r.op == o.id && r.idx == k.idx && r.col == col && r.term == j
  match (s.chain c).retry.find? mine with
  | none => s
  | some r =>
    let s1 := s.setChain c { s.chain c with retry := (s.chain c).retry.filter (fun x => !mine x) }
    let s2 := match r.cap with
      | none => s1
      | some i => s1.capCleared i
    s2.retryEvent o true r.unit r.loc r.pos r.cls

/-- A running sum that passes its checks enters its register (R37, R51, R90). -/
def State.addSum (s : State) (o : Op) (c : ChainId) (ci : Nat) (k : Tok) (col j : Nat) (fault : Option SumFault) (rk : Nat) : State :=
  let shift := (fault.map ((tokCtx o ci k col j).shift c)).getD 0
  ((s.setReg rk (sumNew o.d (s.reg rk) (faultyRun o c ci k col j fault) shift)).clearRetry o c k col j).markSum o c ci k col j

/-- The row operands of a token whose parity fails in the cells of a column are counted and recorded there (R249, Table 10-1 cell
operand and weight use; log 87). -/
def State.laneParity (s : State) (o : Op) (c : ChainId) (k : Tok) (col : Nat) : State :=
  k.lanes.zipIdx.foldl (fun s l =>
    let t : TileRef := ⟨chainEng c (l.2 / engRows c), c.quarter⟩
    if l.1.parityOk then s
    else (s.bump (key 0x4001 0) 1).event
      ⟨0x001, 2, 0x01, t.handle, some (t.row0 + l.2 % engRows c, s.faultCol c t.n col), some o.d.tenant, 0⟩) s

/-- Whether the block stages of a token's pass have all swapped, so that each of its products uses the weights of that pass
(R72). -/
def State.passed (s : State) (c : ChainId) (o : Op) (ci idx : Nat) : Bool :=
  !(s.chain c).pend.any (fun l => some l.id == tokenLoad o ci idx)

/-- The token, op and register of a sum that may be added now: the oldest of its column and term (R51, R64), in its lease
order (R117, R235), its ring row clear (R101). -/
def State.addable (s : State) (c : ChainId) (col j : Nat) : Option (Op × Nat × Tok × Nat) :=
  match oldestTok (s.chain c) col j with
  | none => none
  | some k => match s.op? k.op with
    | none => none
    | some o => match chainIdx o c with
      | none => none
      | some ci =>
        let t := tokSpec o.d (coreIdx o.d ci) k.idx
        let r := destRow o c t.pass.imag (t.row + j)
        match s.sumReg o c t col j with
        | none => none
        | some rk =>
          if col < s.opCols o c ci ∧ j < (tokRows o.d t).length ∧ s.passed c o ci k.idx ∧ s.rowOpen o r ∧
              (!isRolling o.d ∨ s.ringOpen o ci t.pass.imag (t.row + j))
          then some (o, ci, k, rk) else none

/-- RUNNING_SUM_ADD: the oldest running sum of a column and term enters its register, or fails a check (R51, R254). -/
def execRunningSumAdd (ch : ChainId) (col term : Nat) (fault : Option SumFault) (s : State) :
    Host.Outcome State Fault Refusal :=
  match s.addable ch col term with
  | none => .next s
  | some (o, ci, k, rk) =>
    let s1 := if term = 0 then s.laneParity o ch k col else s
    match s1.sumFails o ch ci k col term fault rk with
    | some f => .next (s1.failSum o ch ci k col term f rk)
    | none => .next (s1.addSum o ch ci k col term fault rk)

/-- The enabled cells of a token. -/
def Tok.cells (k : Tok) (cols : Nat) : Nat := k.lanes.length * cols

/-- The parity of each weight that a token presented again meets is checked anew (R252, Table 10-1: each token). -/
def State.againParity (s : State) (c : ChainId) (k : Tok) : State :=
  let tenant := (s.op? k.op).map (fun o => o.d.tenant)
  (List.range k.lanes.length).foldl (fun s r => s.cellParity tenant c r (s.tokCols c k)) s

/-- The held tokens enter again in their order, each while the draw ceiling admits it (R270, R330 to R332). -/
def State.represent (s : State) (c : ChainId) : List Tok → State
  | [] => s
  | k :: r =>
    if s.mayEnter c.core (k.cells (s.tokCols c k)) then
      ((((s.mapChain c (fun st => { st with fly := st.fly ++ [k], held := r })).opToken c.core (k.cells (s.tokCols c k)))).againParity c k).represent
        c r
    else s

/-- LOCAL_RETRY: the feeder presents the held tokens again in their original order from the replay store (R270, R271), those that the
draw ceiling holds back at a later one (R330). -/
def execLocalRetry (ch : ChainId) (s : State) : Host.Outcome State Fault Refusal := .next (s.represent ch (s.chain ch).held)

end Sys2Proof.Machine
end

