-- ==== Sys2Proof/Machine/DrainOps.lean ====
section
/-! DEFINITION. Rows that a DRAIN converts (R152 to R169), rows that a PRELOAD writes (R139, R163), the reduction spine
(R112 to R115, R255) and the dictionary drains (R170, R171), with the failures of R419. -/

namespace Sys2Proof.Machine

/-- The part, its place and the row in it that a row command of a DRAIN or PRELOAD names: row `row` of the part of chain
`ci` for a companion, row `row` counted across the tiles otherwise (R130, R169). -/
def State.partOf (s : State) (o : Op) (row ci : Nat) : Option (Nat × Part × Nat) :=
  let ps := s.partsOf o.d o.rd
  let rpt := (TileRef.ofHandle o.d.tile).rows
  let at' := if o.rolled.isSome then (ci, row) else (row / rpt, row % rpt)
  match ps[at'.1]? with
  | none => none
  | some p => if at'.2 < p.rows ∧ (o.rolled.isSome ∨ ci = 0) then some (at'.1, p, at'.2) else none

/-- Every row of every part of an op is finished. -/
def State.partsDone (s : State) (o : Op) : Bool :=
  (s.partsOf o.d o.rd).zipIdx.all fun pi =>
    (List.range pi.1.rows).all fun i => o.rows.elem (rowUnit pi.2 i)

/-! ### DRAIN_ROW_CONVERT -/

/-- Whether row i of a companion's part has every running sum of its rolling op (R168, R169). -/
def State.rolledIn (s : State) (o : Op) (ci i : Nat) : Bool :=
  match o.rolled with
  | none => true
  | some r => match s.op? r with
    | none => true
    | some p => sumsIn p ci i

/-- One code of a fusion element. -/
def State.fuseCode (s : State) (o : Op) (unit off : Nat) : Option Elem :=
  s.elemAt o 6 unit off (if afmtOf o.d.afmt = .el8 then 1 else 2)

/-- The offset in AUX of the fusion element of logical column `j` of a row. -/
def fuseOff (o : Op) (p : Part) (i j : Nat) : Nat :=
  auxOff o.d (afmtOf o.d.afmt).size (o.d.m0 + p.row0 + i) (p.n0 + j)

/-- The fusion element of logical column `j` of a row (R157); a zero element when the DRAIN fuses nothing. -/
def State.fusion (s : State) (o : Op) (ci : Nat) (p : Part) (i j : Nat) : Option Fusion :=
  if o.d.fuse = 0 then some ⟨0, 0, false⟩
  else
    let u := fuseUnit o.d ci i
    match s.fuseCode o u (fuseOff o p i j) with
    | none => none
    | some h =>
      if afmtOf o.d.afmt = .comet then
        (match s.fuseCode o u (fuseOff o p i j + 2) with
        | none => none
        | some t => some ⟨h.code, t.code, h.psn || t.psn⟩)
      else some ⟨h.code, 0, h.psn⟩

/-- The fusion elements of a row, none while one has not arrived. -/
def State.fusionRow (s : State) (o : Op) (ci : Nat) (p : Part) (i : Nat) : Option (List Fusion) :=
  allSome ((List.range p.cols).map (s.fusion o ci p i))

/-- The buffer keys of the codes of the fusion elements of a row, both codes of a comet pair (R249). -/
def State.fusionKeys (s : State) (o : Op) (ci : Nat) (p : Part) (i : Nat) : List Nat :=
  if o.d.fuse = 0 then []
  else (List.range p.cols).flatMap fun j =>
    (if afmtOf o.d.afmt = .comet then [0, 2] else [0]).filterMap fun x => s.byteAt o 6 (fuseUnit o.d ci i) (fuseOff o p i j + x)

/-- How a DRAIN reads column `j` of a row: as the record or the sum that its quarter holds (R156, R160, R418). -/
def State.drainForm (s : State) (o : Op) (p : Part) (i j : Nat) : ReadForm :=
  ⟨fmtOf o.d.fmt, afmtOf o.d.afmt, o.d.fuse, o.d.sat, s.cmpAt o.cmpq p i j⟩

/-- The failure that a register read or conversion meets: a register whose residues do not match, which fails twice, or a fault of
the command that fails its check (Table 10-1, Table 10-2). -/
def ReadForm.failure (f : ReadForm) (r : LongReg) (g : Fusion) (faults : List ReadFault) (j : Nat) : Option ReadFault :=
  if r.checks then faults.find? (fun x => x.col == j && f.fails r g x) else some ⟨j, .read, 0, true⟩

/-- The event of a failed register read or conversion (classes 0x014 and 0x015), at the register. -/
def readEvent (tenant : Option Nat) (f : ReadForm) (t : TileRef) (rk : Nat) (r : LongReg) (g : Fusion) (x : ReadFault) : Event :=
  let read : Bool := x.pt == .read
  let d := f.detail r g x
  ⟨if read then 0x014 else 0x015, 2, if read then 0x05 else 0x06, t.handle, some (rk / 32 % 32, rk % 32), tenant,
    residueDetail d.1 d.2.1 d.2.2.1 d.2.2.2 0xFF⟩

/-- The unit that a failed read or conversion is charged to (Table 11-1). -/
def readUnit (t : TileRef) (x : ReadFault) : HwUnit := if x.pt = .read then .engine t.n else .drain (coreOf t.n)

/-- A failed read or conversion: counted and recorded, a second time when its one retry fails too, charged once, and its retry
recorded (R254, R273). -/
def State.readFailed (s : State) (e : Event) (u : HwUnit) (twice : Bool) (tag : Nat) : State :=
  let s1 := ((s.countResidue).event e).offend u e.cls
  let s2 := if twice then (s1.countResidue).event e else s1
  s2.retryRecord e (!twice) tag

/-- What a column's faults come to: the failure that its checks see, and whether an error passes unseen (R262). -/
structure ReadOutcome where
  fail : Option ReadFault
  unseen : Bool
deriving DecidableEq, Repr

/-- What the faults at a column come to. -/
def ReadForm.outcome (f : ReadForm) (r : LongReg) (g : Fusion) (faults : List ReadFault) (j : Nat) : ReadOutcome :=
  ⟨f.failure r g faults j, faults.any (fun x => x.col == j && x.err != 0 && f.meets x && !f.fails r g x)⟩

/-- Whether a column has failed its retry too. -/
def ReadOutcome.twice (x : ReadOutcome) : Bool := x.fail.any (fun y => y.twice)

/-- The element that a register gives: of no defined code, with Q = 1 after a failed retry (R419), and without it after an error that
no check sees (R262). -/
def State.readElem (s : State) (f : ReadForm) (rk : Nat) (g : Fusion) (x : ReadOutcome) : OutElem :=
  let e := drainElem f (s.reg rk) g
  if x.twice then e.failed s.freeCtr else if x.unseen then e.wrong s.freeCtr else e

/-- The bytes that one element of a DRAIN writes at DATA and at AUX (R155, R160, R165). -/
def State.elemBytes (s : State) (o : Op) (p : Part) (i j : Nat) (e : OutElem) : List TByte × List TByte :=
  let m := o.d.m0 + p.row0 + i
  let n := p.n0 + j
  let aux := if s.cmpAt o.cmpq p i j then tbytes (auxOff o.d 8 m n) (leBytes 8 e.index) e.psn
    else if o.d.sbe then tbytes (auxOff o.d 1 m n) [e.sb] false
    else []
  (tbytes (dataOff o.d m n) (e.bytes (fmtOf o.d.fmt)) e.psn, aux)

/-- One column of a row: the failure if any is handled, a free value drawn for a failed element, and the register cleared
unless KEEP (R154), or left with POISON after a failed read that keeps it (R419). -/
def State.drainReg (s : State) (o : Op) (f : ReadForm) (rk : Nat) (t : TileRef) (g : Fusion) (x : ReadOutcome) : State :=
  let s1 := match x.fail with
    | none => s
    | some y => s.readFailed (readEvent (some o.d.tenant) f t rk (s.reg rk) g y) (readUnit t y) y.twice o.d.tag
  let s2 := if x.twice then s1.mapOp o.id (fun p => { p with failed := true }) else s1
  let s3 := if x.twice || x.unseen then s2.drawFree else s2
  if o.d.keep then (if x.twice then s3.setReg rk (s3.reg rk).mark else s3)
  else s3.setReg rk .zero

/-- The columns of a row one after the other: the state and the elements to write. -/
def State.drainCols (s : State) (o : Op) (p : Part) (i : Nat) (keys : List Nat) (gs : List Fusion) (faults : List ReadFault) :
    State × List OutElem :=
  (List.range keys.length).foldl (fun (a : State × List OutElem) j =>
    let rk := keys.getD j 0
    let g := gs.getD j ⟨0, 0, false⟩
    let f := s.drainForm o p i j
    let x := f.outcome (a.1.reg rk) g faults j
    (a.1.drainReg o f rk p.t g x, a.2 ++ [a.1.readElem f rk g x])) (s, [])

/-- The bytes of all elements of a row. -/
def State.rowBytes (s : State) (o : Op) (p : Part) (i : Nat) (es : List OutElem) : List TByte × List TByte :=
  let bs := (List.range es.length).map (fun j => s.elemBytes o p i j (es.getD j ⟨0, 0, false, 0, 0⟩))
  (bs.flatMap (fun b => b.1), bs.flatMap (fun b => b.2))

/-- The shape of the bytes of a row, to know what a port must take. -/
def State.rowShape (s : State) (o : Op) (p : Part) (i : Nat) : List TByte × List TByte :=
  s.rowBytes o p i ((List.range p.cols).map (fun _ => ⟨0, 0, false, 0, 0⟩))

/-- Whether it is the turn of a row of a DRAIN: it is readable and its lines are free (R117, R147, R168, R170, R283). -/
def State.drainTurn (s : State) (o : Op) (ci : Nat) (p : Part) (i : Nat) : Bool :=
  let r : RowRef := ⟨p.t, partRow p i⟩
  o.k == .drain && o.started && !o.stopped && !o.rows.elem (rowUnit ci i) && s.rowFree o r && s.rolledIn o ci i &&
    !s.ops.any (fun q => rerollHolds q o.id r.t) && (o.d.keep || (!s.snapPending o.id r.t && !s.drqHolds o.id r)) &&
    !s.lineBusy o (drainRowUses o.d (s.cmpAt o.cmpq p i) ci p i)

/-- Whether the ports have the credits for what a row of a DRAIN writes (R215). -/
def State.drainCredit (s : State) (o : Op) (p : Part) (i : Nat) : Bool :=
  let sh := s.rowShape o p i
  s.canWrite o 5 sh.1 && s.canWrite o 6 sh.2

/-- Whether a row of a DRAIN may be converted: its turn has come, its fusion data are here, and its result can leave. -/
def State.drainReady (s : State) (o : Op) (ci : Nat) (p : Part) (i : Nat) : Bool :=
  s.drainTurn o ci p i && (s.fusionRow o ci p i).isSome && s.drainCredit o p i

/-- The core drain of a tile as the reader of a unit (R249; log 87). -/
def drainReader (t : TileRef) : Reader := ⟨0x06, t.handle⟩

/-- A row of a DRAIN is converted and written (R152, R155, R160). -/
def State.convertRow (s : State) (o : Op) (ci : Nat) (p : Part) (i : Nat) (faults : List ReadFault) : State :=
  let gs := (s.fusionRow o ci p i).getD []
  let r := s.drainCols o p i (s.partKeys p i) gs faults
  let bs := s.rowBytes o p i r.2
  let bad := (r.2.filter (fun e => e.psn)).length
  let s1 := r.1.writeTensor o 5 bs.1
  let s2 := if bs.2 = [] then s1 else s1.writeTensor o 6 bs.2
  let s3 := if bad = 0 then s2 else s2.bump (key (0x4100 + o.d.tenant) 0) bad
  let s4 := s3.mapOp o.id (fun q => { q with
    rows := q.rows ++ [rowUnit ci i], poisoned := q.poisoned || decide (bad ≠ 0) })
  (s4.parityEvents (some o.d.tenant) (drainReader p.t) (s.fusionKeys o ci p i)).settleRing o.id 6

/-- DRAIN_ROW_CONVERT: one row of a DRAIN is read, converted and written (R152). -/
def execDrainRowConvert (op row ci : Nat) (faults : List ReadFault) (s : State) : Host.Outcome State Fault Refusal :=
  match s.op? op with
  | none => .next s
  | some o => match s.partOf o row ci with
    | none => .next s
    | some (pi, p, i) => if s.drainReady o pi p i then .next (s.convertRow o pi p i faults) else .next s

/-! ### PRELOAD_ROW_WRITE (R139, R163) -/

/-- The element of row i, column j of a PRELOAD, as what enters a register (R43, R139). -/
def State.preloadElem (s : State) (o : Op) (ci : Nat) (p : Part) (i j : Nat) : Option Incoming :=
  let sz := if o.d.fmt = 4 then 4 else 2
  let m := if o.d.rowb then 0 else p.row0 + i
  let off := 64 * o.d.stride * m + sz * (p.n0 + j)
  match s.elemAt o 5 (rowUnit ci i) off 2 with
  | none => none
  | some h =>
    if o.d.fmt = 4 then
      (match s.elemAt o 5 (rowUnit ci i) (off + 2) 2 with
      | none => none
      | some t => some (Incoming.ofComet h.code t.code (h.psn || t.psn)))
    else some (Incoming.ofCode h.code h.psn)

/-- The elements of a row of a PRELOAD. -/
def State.preloadRow (s : State) (o : Op) (ci : Nat) (p : Part) (i : Nat) : Option (List Incoming) :=
  allSome ((List.range p.cols).map (s.preloadElem o ci p i))

/-- Whether a row of a PRELOAD may be written. -/
def State.preloadReady (s : State) (o : Op) (ci : Nat) (p : Part) (i : Nat) : Bool :=
  o.k == .preload && o.started && !o.stopped && !o.rows.elem (rowUnit ci i) && s.rowOpen o ⟨p.t, partRow p i⟩ &&
    !s.lineBusy o (preloadRowUses o.d ci p i) && (s.preloadRow o ci p i).isSome

/-- The buffer keys that a row of a PRELOAD reads. -/
def State.preloadKeys (s : State) (o : Op) (ci : Nat) (p : Part) (i : Nat) : List Nat :=
  (preloadRowUses o.d ci p i).flatMap fun u =>
    (List.range (u.len / 2)).filterMap (fun h => s.byteAt o 5 u.unit (u.off + 2 * h))

/-- The registers of a row take the values, flags and poison of their elements (Table 02-4 Preload). -/
def State.putPreload (s : State) (keys : List Nat) (es : List Incoming) : State :=
  (List.range es.length).foldl (fun s j =>
    s.setReg (keys.getD j 0) (LongReg.preload (es.getD j Incoming.zero))) s

/-- PRELOAD_ROW_WRITE: one row of registers is overwritten from the source tensor (R139, R163). -/
def execPreloadRowWrite (op row : Nat) (s : State) : Host.Outcome State Fault Refusal :=
  match s.op? op with
  | none => .next s
  | some o => match s.partOf o row 0 with
    | none => .next s
    | some (ci, p, i) =>
      if s.preloadReady o ci p i then
        let es := (s.preloadRow o ci p i).getD []
        let s1 := s.putPreload (s.partKeys p i) es
        let s2 := s1.mapOp o.id (fun q => { q with rows := q.rows ++ [rowUnit ci i] })
        .next ((s2.parityEvents (some o.d.tenant) (drainReader p.t) (s.preloadKeys o ci p i)).settleRing o.id 5)
      else .next s

/-! ### The reduction spine (R112 to R115, R255) -/

/-- The core that a spine link leads to: the next of the cluster's ring (R112). -/
def spineNext (c : Nat) : Nat := c / 8 * 8 + (c + 1) % 8

/-- Flits of a trimmed long. -/
def msgFlits (m : SpineMsg) : Nat := ceilDiv (8 * m.words.length) 64

/-- Flits that a link's send buffer holds: at most 64 (Table 09-1). -/
def linkFlits (l : LinkSt) : Nat := sumN (l.buf.map msgFlits)

/-- The register that column `col` of output row `row` of chain `ci` on core `sc` of a set has. -/
def State.spineReg (s : State) (o : Op) (sc ci row col : Nat) : Option (Nat × RowRef) :=
  match o.chains[sc * o.d.nchain + ci]? with
  | none => none
  | some c =>
    let r := destRow o c false row
    (s.regAt r.t r.row col).map (fun k => (k, r))

/-- Whether the registers before (row, col) of the chain have been sent: rows in order (R113), and within a row columns ascending:
DESIGN CHOICE, the spec orders only tiles and rows (log 90). -/
def spineOrder (o : Op) (sc ci row col cols : Nat) : Bool :=
  (List.range row).all (fun r => (List.range cols).all (fun c => o.rows.elem (spineKey sc ci r c false))) &&
    (List.range col).all (fun c => o.rows.elem (spineKey sc ci row c false))

/-- A register as a read without conversion delivers it, and the failure that the read meets: none for an error that no check sees,
one whose retry clears it, or one that fails twice, a stored mismatch among them, which delivers POISON (R254, R262, R419). -/
structure PlainRead where
  reg : LongReg
  fail : Option ReadFault
deriving DecidableEq, Repr

/-- A register read without conversion, with the fault of the command that names its place `j`. -/
def LongReg.read (r : LongReg) (faults : List ReadFault) (j : Nat) : PlainRead :=
  let x := faults.find? (fun f => f.col == j && f.pt == .read)
  let err := (x.map (fun f => f.err)).getD 0
  let twice := !r.checks || x.any (fun f => f.twice)
  if (r.off err).checks then ⟨r.off err, none⟩
  else ⟨if twice then r.mark else r, some ⟨j, .read, err, twice⟩⟩

/-- The trimmed long of a register from its tile quarter as it is read (R56, R418, R419). -/
def State.spineWords (s : State) (o : Op) (rk : Nat) (faults : List ReadFault) (j : Nat) : List W64 :=
  trim ((s.reg rk).read faults j).reg (s.boundOf o (quarterOfReg rk))

/-- How a read without conversion sees a register. -/
def ReadForm.plain : ReadForm := ⟨.el16, .el16, 0, false, false⟩

/-- The event of a register read without conversion that fails. -/
def State.plainEvent (s : State) (tenant : Option Nat) (t : TileRef) (rk : Nat) (err : Int) : Event :=
  readEvent tenant .plain t rk (s.reg rk) ⟨0, 0, false⟩ ⟨0, .read, err, true⟩

/-- A register read on its way to the spine, an image or a frame: a failure is recorded and charged; one whose retry fails too leaves
POISON in the register, and the op has failed (R254, R419). -/
def State.checkRead (s : State) (o : Op) (rk : Nat) (t : TileRef) (faults : List ReadFault) (j : Nat) : State :=
  match ((s.reg rk).read faults j).fail with
  | none => s
  | some y =>
    let s1 := s.readFailed (s.plainEvent (some o.d.tenant) t rk y.err) (.engine t.n) y.twice o.d.tag
    if y.twice then (s1.mapOp o.id (fun p => { p with failed := true })).setReg rk (s1.reg rk).mark else s1

/-- SPINE_SEND: a register of a non-owner core is sent as a canonical trimmed long and cleared, once its own sums and the
arrival from the preceding core are in (R113); a register whose read fails its retry keeps POISON (R419). -/
def execSpineSend (op : Reads) (sc ci row col : Nat) (s : State) : Host.Outcome State Fault Refusal :=
  match s.op? op.id with
  | none => .next s
  | some o => match o.chains[sc * o.d.nchain + ci]? with
    | none => .next s
    | some c => match s.spineReg o sc ci row col with
      | none => .next s
      | some (rk, r) =>
        let idx := sc * o.d.nchain + ci
        let cols := s.opCols o c idx
        let m : SpineMsg := ⟨op.id, sc, ci, row, col, s.spineWords o rk op.faults col, false⟩
        let l := s.link c.core
        if sc < o.d.spinen ∧ ci < o.d.nchain ∧ row < o.d.m ∧ col < cols ∧ !o.stopped ∧
            !o.rows.elem (spineKey sc ci row col false) ∧ sumsIn o idx row ∧
            (sc = 0 ∨ o.rows.elem (spineKey sc ci row col true)) ∧ spineOrder o sc ci row col cols ∧
            linkFlits l + msgFlits m ≤ 64 ∧ s.rowOpen o r
        then
          let s1 := s.checkRead o rk r.t op.faults col
          let s2 := s1.setReg rk (if ((s.reg rk).read op.faults col).fail.any (fun y => y.twice) then LongReg.zero.mark else .zero)
          let s3 := s2.setLink c.core { s2.link c.core with buf := (s2.link c.core).buf ++ [m], wire := (s2.link c.core).wire ++ [m] }
          .next (s3.mapOp op.id (fun p => { p with rows := p.rows ++ [spineKey sc ci row col false] }))
        else .next s

/-- The words of a trimmed long with an error pattern of the link on its bits. -/
def flipWords (ws : List W64) (err : Nat) : List W64 :=
  ws.zipIdx.map (fun w => w.1 ^^^ BitVec.ofNat 64 (err / 2 ^ (64 * w.2)))

/-- The message leaves the wire and its send buffer: the credit returns (Table 09-1). -/
def LinkSt.took (l : LinkSt) : LinkSt := { l with buf := l.buf.drop 1, wire := l.wire.drop 1 }

/-- An arrival is noted on its op. -/
def State.arrived (s : State) (m : SpineMsg) : State :=
  s.mapOp m.op (fun p => { p with rows := p.rows ++ [spineKey (m.sc + 1) m.ci m.row m.col true] })

/-- DETAIL of a failed spine hop (RES_SPINE): residues and the sending core. -/
def spineDetail (t : Trimmed) (core : Nat) : Nat :=
  let p := LongReg.residuesOf t.reg.n
  residueDetail t.reg.r127.toNat t.reg.r255.toNat p.1.toNat p.2.toNat (core % 256)

/-- A trimmed long that arrives is checked and added, resent, or its register poisoned (R113, R254, R255; log 50). -/
def State.spineTake (s : State) (core : Nat) (o : Op) (m : SpineMsg) (ws : List W64) (rk : Nat) : State :=
  let loc := (TileRef.mk (core * 16) 0).handle
  let l := s.link core
  match untrim ws with
  | none =>
    ((s.event ⟨0x020, 2, 0x08, loc, none, some o.d.tenant, at_ 6 32⟩).setLink core l.took).arrived m
  | some t =>
    if t.checks then
      let s1 := s.addReg (some o.id) o.d.tenant o.d.tag (regTile o rk) rk ((s.reg rk).add t.reg.incoming)
      (s1.setLink core l.took).arrived m
    else
      let s1 := (s.countResidue).event ⟨0x016, 2, 0x08, loc, none, some o.d.tenant, spineDetail t core⟩
      if m.resent then
        let s2 := (s1.setReg rk (s1.reg rk).mark).mapOp o.id (fun p => { p with failed := true })
        ((s2.retryEvent o false 0x08 loc none 0x016).setLink core (s2.link core).took).arrived m
      else
        let s2 := s1.setLink core { l with wire := l.wire.drop 1, resend := true }
        s2.offend (.link core) 0x016

/-- SPINE_RECEIVE: the oldest trimmed long on a link reaches the next core (R113). A trimmed long of an op that is gone or
stopped by a fence is discarded as a straggler (R238). -/
def execSpineReceive (core : Nat) (err : Nat) (s : State) : Host.Outcome State Fault Refusal :=
  let l := s.link core
  match l.wire with
  | [] => .next s
  | m :: _ =>
    if l.resend then .next s
    else match s.op? m.op with
      | none => .next (s.setLink core l.took)
      | some o =>
        if o.ending = some 0x06 then
          .next ((s.setLink core l.took).bump (key (0x3100 + o.d.tenant) 4) 1)
        else match s.spineReg o (m.sc + 1) m.ci m.row m.col with
          | none => .next s
          | some (rk, r) =>
            if s.rowOpen o r then
              let s1 := s.spineTake core o m (flipWords m.words err) rk
              .next (if m.resent ∧ (untrim (flipWords m.words err)).any (fun t => t.checks) then
                s1.retryEvent o true 0x08 (TileRef.mk (core * 16) 0).handle none 0x016 else s1)
            else .next s

/-- SPINE_RESEND: the sender resends its held copy once (R255). -/
def execSpineResend (core : Nat) (s : State) : Host.Outcome State Fault Refusal :=
  let l := s.link core
  match l.buf with
  | [] => .next s
  | m :: _ =>
    if l.resend then .next (s.setLink core { l with wire := { m with resent := true } :: l.wire, resend := false })
    else .next s

/-! ### DICTIONARY_DRAIN (R170, R171) -/

/-- The slot of a role (Table 06-7). -/
def roleSlot : Role → Nat
  | .m => 0
  | .h => 1
  | .t => 2

/-- Whether a dictionary drain request is within its role's reach and names a row that exists (R171). -/
def State.drainReach (s : State) (role : Role) (q : DrainSlot) : Bool :=
  let t := TileRef.ofHandle (q.req % 65536)
  let fmt := fieldOf q.req 27 24
  let reach := match role with
    | .h => s.ownsTile q.tenant t
    | .m => s.tru.dbgOn && s.inScope t
    | .t => true
  reach && decide (fmt ≤ 1) && decide (fieldOf q.req 20 16 < t.rows) && (t.q == 0 || decide (4 ≤ t.q)) &&
    decide (t.n < s.conf.engines) && !s.coreQuarantined (coreOf t.n)

/-- How a dictionary drain reads a register: no fusion, FMT and SAT of the request, and the record or the sum that its quarter held
when the request was queued (R156, R170). -/
def drqForm (q : DrainSlot) (rk : Nat) : ReadForm :=
  ⟨fmtOf (fieldOf q.req 27 24), .el16, 0, bitOf q.req 28, q.cmpq.elem (quarterOfReg rk)⟩

/-- A register read or conversion of a dictionary drain that fails: counted, recorded with the tenant of the register (R259) and TAG
0 (DESIGN CHOICE, log 100), and charged; after a failed retry the register keeps POISON (R254, R273, R419). -/
def State.dictRead (s : State) (f : ReadForm) (rk : Nat) (t : TileRef) (x : ReadOutcome) : State :=
  let s1 := match x.fail with
    | none => s
    | some y => s.readFailed (readEvent (s.ownerOf t) f t rk (s.reg rk) ⟨0, 0, false⟩ y) (readUnit t y) y.twice 0
  let s2 := if x.twice then s1.setReg rk (s1.reg rk).mark else s1
  if x.twice || x.unseen then s2.drawFree else s2

/-- The row of a dictionary drain, column by column. -/
def State.dictCols (s : State) (q : DrainSlot) (t : TileRef) (keys : List Nat) (faults : List ReadFault) : State × List OutElem :=
  (List.range keys.length).foldl (fun (a : State × List OutElem) j =>
    let rk := keys.getD j 0
    let f := drqForm q rk
    let x := f.outcome (a.1.reg rk) ⟨0, 0, false⟩ faults j
    (a.1.dictRead f rk t x, a.2 ++ [a.1.readElem f rk ⟨0, 0, false⟩ x])) (s, [])

/-- A drain slot changes. -/
def State.setDrq (s : State) (i : Nat) (q : DrainSlot) : State := { s with drq := setAt s.drq i q }

/-- DICTIONARY_DRAIN: a queued request of a role is served, once every op accepted before it has finished with the row
(R170), or refused outside its reach (R171). -/
def execDictionaryDrain (role : Role) (faults : List ReadFault) (s : State) : Host.Outcome State Fault Refusal :=
  let i := roleSlot role
  match s.drq[i]? with
  | none => .next s
  | some q =>
    if q.state ≠ 1 then .next s
    else if s.drainReach role q = false then .next (s.setDrq i { q with state := 2, codes := [], sb := [] })
    else
      let t := TileRef.ofHandle (q.req % 65536)
      let row := fieldOf q.req 20 16
      if s.ops.any (fun p => decide (p.id < q.at_) && s.rowPending p ⟨t, row⟩) then .next s
      else
        let keys := s.rowKeys t row 32
        let r := s.dictCols q t keys faults
        .next (r.1.setDrq i { q with state := 0, codes := r.2.map (fun e => e.head), sb := r.2.map (fun e => e.sb) })

end Sys2Proof.Machine
end

