-- ==== Sys2Proof/Machine/Reserved.lean ====
section
/-! DEFINITION. The kinds of descriptor and their reserved bits (spec/05_operations.md R13, R122, R123, R128, R131, Tables
05-1 to 05-10). -/

namespace Sys2Proof.Machine

/-- The ones of bits [hi:lo]. -/
def maskOf (hi lo : Nat) : Nat := (2 ^ (hi - lo + 1) - 1) * 2 ^ lo

/-- The kind of a descriptor by OP, ROLE, HIER, FMT and KIND (Tables 05-3, 05-5); none for an OP not listed. A FENCE of the
reserved kind is refused later (R417). -/
def kindOf (d : Desc) : Option OpK :=
  match d.op with
  | 0x01 => some .loadw
  | 0x02 => some .stream
  | 0x03 => some .preload
  | 0x04 => some .drain
  | 0x05 => some .scan
  | 0x06 => some .mpass
  | 0x08 => some (if d.role then .owner else if !d.hier then .contrib else if d.fmt = 6 then .trimmed else .collection)
  | 0x09 => some .retract
  | 0x10 => some (if d.kind = 1 then .fenceEpoch else if d.kind = 2 then .fenceQuiesce else .fenceOrder)
  | 0x11 => some .gate
  | 0x12 => some .commit
  | 0x13 => some .squash
  | 0x18 => some .save
  | 0x19 => some .restore
  | 0x1C => some .dict
  | 0x1F => some .ballast
  | _ => none

/-- Whether a kind is an array op (R133). -/
def OpK.array (k : OpK) : Bool := k == .loadw || k == .stream || k == .scan || k == .mpass

/-- Whether a kind is an XRED or RETRACT, a group op (R294). -/
def OpK.group : OpK → Bool
  | .owner => true
  | .contrib => true
  | .trimmed => true
  | .collection => true
  | .retract => true
  | _ => false

/-- Bits of W1 that a descriptor may set (Tables 05-2 to 05-5). WREQ and REGION apply to every op. -/
def usedW1 (k : OpK) (d : Desc) : Nat :=
  let tok := k == .stream || k == .scan || k == .mpass
  let on (b : Bool) (hi lo : Nat) : Nat := if b then maskOf hi lo else 0
  maskOf 63 26 +
    on (tok || k == .preload || k == .drain || d.op == 0x08) 25 25 +
    on (tok || k == .owner) 24 24 +
    on (k == .stream || k == .scan) 23 22 +
    on tok 21 20 +
    on (k.array || k == .preload || k == .drain || k.group) 19 16 +
    on k.array 15 13 +
    (match d.op with
    | 0x05 => maskOf 4 4
    | 0x06 => maskOf 5 4
    | 0x03 => maskOf 4 4
    | 0x04 => maskOf 7 4
    | 0x08 => maskOf 6 4
    | 0x09 => maskOf 6 4
    | 0x10 => maskOf 5 4
    | 0x11 => maskOf 5 4
    | 0x18 => maskOf 4 4
    | 0x19 => maskOf 4 4
    | 0x1C => maskOf 4 4
    | _ => 0)

/-- Bits of a tensor reference: STAGE and ADDR [47:25] are reserved in buffer space (Table 05-7). -/
def refBits (r : W64) : Nat := if refSpace r = 0 then maskOf 63 62 + maskOf 24 0 else maskOf 63 0

/-- Bits of a tile handle field at bit 0 (Table 05-6). -/
def handleBits : Nat := maskOf 15 3

/-- Bits of words 2 to 7 that a descriptor may set (Tables 05-8 to 05-10, R142 to R146). W6 is reserved for a rolling
STREAM or SCAN; a rolling MPASS loads its later groups from it (R180). AUX of a DRAIN is judged by R156 later. -/
def usedBits (k : OpK) (d : Desc) : List Nat :=
  let all := maskOf 63 0
  let n3 := maskOf 63 16 + handleBits
  match k with
  | .loadw => [all, n3, 0, 0, refBits d.w6, maskOf 47 40]
  | .stream => [all, n3, all, refBits d.w5, if isRolling d then 0 else refBits d.w6, maskOf 63 37 + maskOf 31 0]
  | .scan => [all, n3, all, refBits d.w5, if isRolling d then 0 else refBits d.w6, all]
  | .mpass => [all, n3, all, refBits d.w5, refBits d.w6, all]
  | .preload => [maskOf 63 32, n3, all, refBits d.w5, 0, maskOf 63 48]
  | .drain => [all, n3, all, refBits d.w5, refBits d.w6, maskOf 63 24 + maskOf 19 0]
  | .fenceOrder => [maskOf 63 48 + maskOf 7 0, 0, 0, 0, 0, 0]
  | .fenceEpoch => [maskOf 63 48 + maskOf 7 0, 0, 0, 0, 0, 0]
  | .fenceQuiesce => [maskOf 63 48 + maskOf 7 0, 0, 0, 0, 0, 0]
  | .gate => [maskOf 31 0, 0, 0, 0, 0, 0]
  | .commit => [0, 0, 0, 0, 0, 0]
  | .squash => [0, 0, 0, 0, 0, 0]
  | .save => [all, 0, 0, refBits d.w5, 0, 0]
  | .restore => [all, 0, 0, refBits d.w5, 0, 0]
  | .dict => [maskOf 63 40 + maskOf 15 0, refBits d.w3, all, all, all, all]
  | .ballast => [maskOf 39 0, handleBits, 0, 0, 0, 0]
  | .reroll => [0, 0, 0, 0, 0, 0]
  | _ =>
    let tiles := d.role || d.hier
    [all, all, maskOf 63 42 + (if d.role then maskOf 31 24 else 0) + (if tiles then handleBits else 0),
      if !d.role && d.hier && d.fmt == 6 then 0 else refBits d.w5, if tiles then all else 0, 0]

/-- The first word of a descriptor with a nonzero reserved bit (R13). -/
def reservedWord (k : OpK) (d : Desc) : Option Nat :=
  if (d.w1.toNat &&& usedW1 k d) ≠ d.w1.toNat then some 1
  else ((usedBits k d).zipIdx.find? (fun u => (d.word (u.2 + 2)).toNat &&& u.1 != (d.word (u.2 + 2)).toNat)).map
    (fun u => u.2 + 2)

/-! ### Where an op counts (R219, R142) -/

/-- The clusters in which an op counts; none for the control queue (R219). -/
def countsIn (conf : Conf) (k : OpK) (d : Desc) : List Nat :=
  if k.array ∨ k = .preload ∨ k = .drain ∨ k = .ballast ∨ k = .owner then [opCluster d]
  else if d.op = 0x10 then (List.range conf.clusters).filter (fun i => d.clmask == 0 || bitOf d.clmask i)
  else []

/-- Whether an order FENCE and an op of its tenant share a cluster; an op of the control queue lies in every one (R142). -/
def fenceMeets (conf : Conf) (f p : Op) : Bool :=
  let a := countsIn conf f.k f.d
  let b := countsIn conf p.k p.d
  f.d.tenant == p.d.tenant && (a == [] || b == [] || a.any (fun c => b.elem c))

end Sys2Proof.Machine
end

