-- ==== Sys2Proof/Machine/Planner.lean ====
section
/-! DEFINITION. What the admission planner's prices are made of: priced periods (R190, R191), shares (R195), release times and
forecasts (R333), the components of an array op (R197), remainders (R207), schedules of the outstanding ops and the starts that follow
from them.

Times are kept in ticks of 1/256 sidereal step, rounded up (R197, log 12); lengths in units of τ/512. -/

namespace Sys2Proof.Machine

/-! ### Priced periods -/

/-- τ_A of a core at a margin step (R190). -/
def tauAssured (tab m : Nat) : Nat := ceilDiv (tab * (40 + m)) 40

/-- Full-load dynamic power of the block at τ_env with the offsets in force, mW (R344): 16,384 cells a core. -/
def State.fullPower (s : State) (env : Nat) : Nat :=
  sumN ((List.range s.conf.cores).map fun c =>
    let v := vArr env + 10 * s.obj (key (0x2100 + c) 7)
    16384 * 170 * v * v / (562500 * tauEnv env))

/-- τ_env under a power cap (R344), rounded up to a picosecond. -/
def State.tauCap (s : State) (env capW : Nat) : Nat :=
  if capW = 0 then tauEnv env
  else max (tauEnv env) (ceilDiv (tauEnv env * s.fullPower env) (max 1 (capW * 1000 - fixedPower s.conf env)))

/-- The priced period of a core in an envelope, cap and margin step; none without a lookup value (R189, R190). -/
def State.tauAt (s : State) (c env capW m : Nat) : Option Nat :=
  (s.tauTab c env).map (fun t => max (s.tauCap env capW) (tauAssured t m))

/-- The lower of the cap in force and a pending one (R342). -/
def State.capPriced (s : State) : Nat := match s.pwr.pendCap with
  | none => s.capW
  | some p => if s.capW = 0 then p else if p = 0 then s.capW else min p s.capW

/-- The margin step a core is priced at: the larger of the one in force and the pending one (R206). -/
def State.marginPriced (s : State) (c : Nat) : Nat := max (s.obj (key (0x2100 + c) 1)) (s.obj (key (0x2100 + c) 3))

/-- τ_P of a core, pending changes included (R190, R206). -/
def State.tauP (s : State) (c : Nat) : Option Nat := s.tauAt c s.envPriced s.capPriced (s.marginPriced c)

/-- Whether every core of a list has a priced period (R204). -/
def State.priced (s : State) (cs : List Nat) : Bool := cs.all (fun c => (s.tauP c).isSome)

/-- The priced period of paths that join cores: the largest (R191). -/
def State.tauOf (s : State) (cs : List Nat) : Nat := maxN (cs.map (fun c => (s.tauP c).getD 0))

/-- A length in τ/512 as ticks, rounded up: τ/512 of `tau` ps is tau / 20,000 ticks. -/
def ticks (len tau : Nat) : Nat := ceilDiv (len * tau) 20000

/-- Picoseconds as ticks: a step is 10,000 ps. -/
def psTicks (ps : Nat) : Nat := ceilDiv (ps * 256) 10000

/-- W = ⌈t (1 + 2^-13) / 10 ns⌉ + 2 steps, of t in ticks (R196). -/
def windowOf (t : Nat) : Nat := ceilDiv (t * 8193) (256 * 8192) + 2

/-- The cores that an op uses: of its chains, or of its TILE. -/
def opCores (o : Op) : List Nat :=
  if o.chains = [] then
    (match o.k with
    | .preload => [tileCore o.d]
    | .drain => [tileCore o.d]
    | .owner => [tileCore o.d]
    | .trimmed => [tileCore o.d]
    | .retract => if xredNames o.d then [tileCore o.d] else []
    | .ballast => [tileCore o.d]
    | _ => [])
  else (o.chains.map (fun c => c.core)).eraseDups

/-- The cores on whose paths an op is priced (R191): for a DRAIN or PRELOAD those of all the tiles that it works on. -/
def State.pathCores (s : State) (o : Op) : List Nat :=
  if o.k = .drain ∨ o.k = .preload then ((s.partsOf o.d o.rd).map (fun p => coreOf p.t.n)).eraseDups else opCores o

/-! ### Shapes (R81, R94, R96) -/

/-- The shape code with a split core counted as 1×16 (R94). -/
def baseShape (shape : Nat) : Nat := if shape = 5 then 4 else shape

/-- Whether a kind works on chains in an arrangement. -/
def OpK.onChains (k : OpK) : Bool := k.array || k == .reroll

/-- The engines of an op's chains on a core. -/
def enginesOn (o : Op) (c : Nat) : List Nat :=
  ((o.chains.filter (fun x => x.core == c)).flatMap (fun x => chainEngines x (depthOf o.d.shape))).eraseDups

/-- Whether two ops need different arrangements of one engine, or different shapes of one core (R81, R96). -/
def otherShape (p o : Op) : Bool :=
  (opCores o).any fun c =>
    p.chains.any (fun x => x.core == c) && (baseShape p.d.shape != baseShape o.d.shape ||
      ((p.d.shape == 5) != (o.d.shape == 5) && (enginesOn p c).any (fun n => (enginesOn o c).elem n)))

/-- Whether an accepted op needs another arrangement of a later op's engines or another shape of its cores: such ops run in
acceptance order (R81, R96). -/
def shapesBefore (p o : Op) : Bool := decide (p.id < o.id) && p.k.onChains && o.k.onChains && otherShape p o

/-! ### The shares of a chain (R161, R195) -/

/-- Bytes that a register moves through the drain (Table 06-3): output, index or sideband, and fusion bytes. -/
def drainBytes (d : Desc) (cmp fused : Bool) : Nat :=
  (fmtOf d.fmt).size + (if cmp then 8 else 0) + (if d.sbe ∧ !cmp then 1 else 0) +
    (if d.fuse ≠ 0 ∧ fused then (afmtOf d.afmt).size else 0)

/-- The shape of a core after every op accepted on it (R96). -/
def State.planShape (s : State) (c : Nat) : Nat :=
  match (s.ops.filter (fun o => o.k.array && o.chains.any (fun x => x.core == c))).getLast? with
  | some o => o.d.shape
  | none => (s.core c).shape

/-- The arrangement of an engine after every op accepted on it: true when split (R81). -/
def State.planSplit (s : State) (n : Nat) : Bool :=
  match (s.ops.filter (fun o => o.k.array &&
      o.chains.any (fun x => (chainEngines x (depthOf o.d.shape)).elem n))).getLast? with
  | some o => o.d.shape == 5
  | none => (s.core (coreOf n)).split.elem (n % 16)

/-- The number of equal shares of a core's lanes and drain of which the chain that holds a tile has one: the chains of the
shape that the core has once the ops accepted on it have run, or 64 for a quadrant of a split engine (R195). -/
def State.tileChains (s : State) (t : TileRef) : Nat :=
  if s.planSplit t.n then 64 else chainsPerCore (baseShape (s.planShape (coreOf t.n)))

/-- The length of one register row of a part at the share of its chain, τ/512. -/
def State.rowLen (s : State) (o : Op) (p : Part) (i : Nat) : Nat :=
  let b := if o.k = .preload then (if o.d.fmt = 4 then 4 else 2)
    else drainBytes o.d (p.t.quarters.any o.cmpq.elem) (o.d.astride ≠ 0 || i == 0)
  p.cols * max 4 b * s.tileChains p.t

/-- Latency of a drain or preload, τ: 9, or 10 with fusion (R162). -/
def drainLat (o : Op) : Nat := if o.k = .drain ∧ o.d.fuse ≠ 0 then 10 else 9

/-- The chain that holds a tile, in its core's shape (R195). -/
def State.holderChain (s : State) (t : TileRef) : ChainId :=
  let d := depthOf (baseShape (s.planShape (coreOf t.n)))
  ⟨coreOf t.n, t.n % 16 / d * d, if s.planSplit t.n then t.q else 0⟩

/-- The key of the chain that holds a tile. -/
def State.holder (s : State) (t : TileRef) : Nat := chainKey (s.holderChain t)

/-! ### Release times and forecasts (R333) -/

/-- The full-load dynamic current of a core at its priced period and with its voltage offset, at V_ARR, µA (R333, R345). -/
def State.fullCurrent (s : State) (c : Nat) : Nat :=
  let v := vArr s.pwr.env + 10 * s.obj (key (0x2100 + c) 7)
  16384 * 170 * v * v * 1000000 / (562500 * max 1 ((s.tauP c).getD 1) * vArr s.pwr.env)

/-- The draw of an interval of the plan at a step: full load from its release to its end, then the taper at the rate of R331 (R333, R334). -/
def State.drawAt (s : State) (p : PlanCore) (t : Nat) : Nat := if t < p.rel then 0 else p.cur - (t - p.until_) * s.slew

/-- The planned draw at a step: the fixed draw, and that of every core (R333). -/
def State.plannedAt (s : State) (plan : List PlanCore) (t : Nat) : Nat :=
  drawOf (fixedPower s.conf s.pwr.env) s.pwr.env + sumN ((List.range s.conf.cores).map fun c =>
    maxN ((plan.filter (fun p => p.core == c)).map (fun p => s.drawAt p t)))

/-- The highest planned draw from a step to another. -/
def State.peakIn (s : State) (plan : List PlanCore) (a b : Nat) : Nat :=
  maxN ((a :: (plan.map (fun p => p.rel)).filter (fun t => decide (a ≤ t) && decide (t ≤ b))).map (s.plannedAt plan))

/-- The highest draw that the intervals of the plan hold from now on, tapers apart. -/
def State.peakAhead (s : State) : Nat := s.peakIn s.pwr.plan s.now (maxN (s.pwr.plan.map (fun p => p.rel)))

/-- F at a step to come: the level of the latest FORECAST whose lead has expired by then (R332). -/
def State.levelAt (s : State) (t : Nat) : Nat :=
  match (s.pwr.fcs.filter (fun f => decide (f.sent + f.lead ≤ t))).getLast? with
  | none => s.forecastLevel
  | some f => f.level * 100000

/-- m20 at a step to come: the least of what was metered and what is planned in the 2,000 steps up to it (R332). A planned draw is least
at the first step, or where an interval of full load has ended. -/
def State.leastAt (s : State) (plan : List PlanCore) (t : Nat) : Nat :=
  let from_ := max s.now (t - 1999)
  let falls := (plan.map (fun p => p.until_ + ceilDiv p.cur s.slew)).filter (fun x => decide (from_ ≤ x) && decide (x ≤ t))
  let ahead := (from_ :: t :: falls).map (s.plannedAt plan)
  let past := if t < s.now + 2000 then (s.pwr.im :: s.pwr.hist).take (2000 - (t - s.now)) else []
  (past ++ ahead).foldl min (s.plannedAt plan t)

/-- Whether the plan keeps R332 at a step with a further draw. -/
def State.planKeeps (s : State) (plan : List PlanCore) (extra t : Nat) : Bool :=
  decide (s.plannedAt plan t + extra ≤ max (s.levelAt t) (s.leastAt plan t) + 15000000 * s.conf.clusters)

/-- Where the ramp stands after a rise, as steps times the slew limit. -/
def rampAfter (s : State) (free rise : Nat) : Nat := max (s.now * s.slew) free + rise

/-- The release of an op's cores, with where the ramp ends, the plan that follows, and the level of a FORECAST that must be sent. -/
structure Ramp where
  release : Nat
  free : Nat
  plan : List PlanCore
  level : Option Nat
deriving DecidableEq, Repr

/-- Whether the plan can ramp a core up to full load at a step and keep it there until another: R332 holds at every step of the ramp, and
wherever the planned draw rises or another forecast counts while the core is at full load (R333). -/
def State.rampFits (s : State) (plan : List PlanCore) (rise until_ rel : Nat) : Bool :=
  let up := (List.range (ceilDiv rise s.slew)).all fun j => s.planKeeps plan (rise - j * s.slew) (rel - j)
  let turns := ((plan.map (fun p => p.rel)) ++ s.pwr.fcs.map (fun f => f.sent + f.lead)).filter
    (fun t => decide (rel < t) && decide (t ≤ until_))
  up && turns.all (s.planKeeps plan rise)

/-- The release of one core for an op of a LEVEL that would start at a step and keeps the core at full load until another (R333). A core that the
plan holds at full load at that start needs no ramp. Another is ramped behind the last ramp, at the earliest step within 2,000 at which
the plan keeps R332; where there is none, a FORECAST of the planned peak goes out and the ramp follows its lead. The core is at full load
from its release or from that start on. -/
def State.rampCore (s : State) (start until_ level : Nat) (r : Ramp) (c : Nat) : Ramp :=
  let mine := r.plan.filter (fun p => p.core == c && decide (start ≤ p.until_))
  match mine with
  | p :: _ =>
    { r with
      release := max r.release p.rel
      plan := r.plan.map (fun x => if x = p then { x with until_ := max x.until_ until_, level := level, last := 0 } else x) }
  | [] =>
    let rise := s.fullCurrent c
    let draws := r.plan ++ s.pwr.taper -- the plan prices tapers as draw too (R334)
    let full (rel : Nat) : PlanCore := ⟨c, rise, max rel start, max until_ (max rel start), level, 0⟩
    let first := rampAfter s r.free rise
    let rel0 := ceilDiv first s.slew
    let fits (rel : Nat) : Bool := s.rampFits draws rise until_ (max rel start)
    let found := if fits rel0 then some rel0
      else (List.range (s.now + 2000 - rel0)).findSome? (fun i => if fits (rel0 + i) then some (rel0 + i) else none)
    match found with
    | some rel => ⟨max r.release rel, if rel = rel0 then first else rel * s.slew, r.plan ++ [full rel], r.level⟩
    | none =>
      let free := rampAfter s (max r.free ((s.now + 2000) * s.slew)) rise
      let rel := ceilDiv free s.slew
      let here := full rel
      ⟨max r.release rel, free, r.plan ++ [here],
        some (max (r.level.getD 0) (ceilDiv (s.peakIn (draws ++ [here]) here.rel here.until_) 100000))⟩

/-- The release times of an op's cores, ascending (R333). -/
def State.ramp (s : State) (cores : List Nat) (start until_ level : Nat) : Ramp :=
  (cores.mergeSort (fun a b => decide (a ≤ b))).foldl (s.rampCore start until_ level) ⟨s.now, s.pwr.rampFree, s.pwr.plan, none⟩

/-! ### Share units of memory and pairing ports (R210) -/

/-- Picoseconds per byte of one unit: 50 GB/s read, 25 GB/s write; 25 GB/s each way on a pairing port (R210, R398). -/
def unitPs (q : Nat) (wr : Bool) : Nat := if 9 ≤ q ∨ wr then 40 else 20

/-- What an op asks of the units of one port in one direction: how many, and the bytes that they carry. -/
structure Ask where
  key : Nat
  need : Nat
  bytes : Nat
deriving DecidableEq, Repr

/-- The asks of one port and direction made into one. -/
def mergeAsks (l : List Ask) : List Ask :=
  ((l.map (fun a => a.key)).eraseDups).map fun k =>
    let mine := l.filter (fun a => a.key == k)
    ⟨k, maxN (mine.map (fun a => a.need)), sumN (mine.map (fun a => a.bytes))⟩

/-- Units granted of a key, 1 for none; a unit is numbered 16 for each key. -/
def unitsIn (us : List Nat) (k : Nat) : Nat := max 1 (us.filter (fun u => u / 16 == k)).length

/-- A transfer of bytes at the units granted of a port, in picoseconds. -/
def movePs (bytes q : Nat) (wr : Bool) (us : List Nat) : Nat := ceilDiv (bytes * unitPs q wr) (unitsIn us (unitKey q wr))

/-! ### What a descriptor names, and the terms that it adds -/

/-- The tile-list offsets of an array op's tiles: the first half, and the imaginary half of a complex kind (R130, R181). -/
def tlOf (d : Desc) : List Nat := nibbles d.tlist 0 (tileCount d)

/-- The offsets of the imaginary-part tiles. -/
def tl2Of (d : Desc) : List Nat := if isComplex d then nibbles d.tlist 8 (tileCount d) else []

/-- The chains of an op that lie in the cluster of its TILE. -/
def nearChains (d : Desc) : List ChainId := (opChains d).filter (fun c => c.core / 8 == tileCore d / 8)

/-- The tiles that a descriptor names (R130, R169, R306). -/
def State.namedTiles (s : State) (k : OpK) (d : Desc) (rolled : Option Desc) : List TileRef :=
  if k.tokens then (nearChains d).flatMap (fun c => (tlOf d ++ tl2Of d).map (chainTile c))
  else match k with
    | .preload => (s.partsOf d rolled).map (fun p => p.t)
    | .drain => (s.partsOf d rolled).map (fun p => p.t)
    | .owner => s.xredTiles d
    | .trimmed => s.xredTiles d
    | .retract => if xredNames d then s.xredTiles d else []
    | _ => []

/-- Terms per K position (R177). -/
def termsPerK (d : Desc) : Nat := if d.op ≠ 0x06 then 1 else [3, 2, 6].getD d.kind 1

/-- The terms that a sweep on a spine set brings to a tile of each core: its own slice, and the trimmed long of the core
before it (R40, R113). -/
def State.spineTerms (s : State) (d : Desc) (i off : Nat) : List (TileRef × Nat) :=
  ((List.range (d.spinen + 1)).foldl (fun (a : Nat × List (TileRef × Nat)) sc =>
    match (opChains d)[sc * d.nchain + i]? with
    | none => a
    | some c =>
      let t := chainTile c off
      let add := (sliceOf d sc).2 - (sliceOf d sc).1 + a.1
      (2 ^ texp (s.termBound t + add), a.2 ++ [(t, add)])) (0, [])).2

/-- The terms that an op adds to each tile at acceptance (R40, R306; log 55). -/
def State.termAdds (s : State) (k : OpK) (d : Desc) (rolled : Option Desc) : List (TileRef × Nat) :=
  if k.tokens then
    (if d.spinen = 0 then (s.namedTiles k d rolled).map (fun t => (t, d.k * termsPerK d))
     else (List.range d.nchain).flatMap (fun i => (tlOf d).flatMap (s.spineTerms d i)))
  else if k = .owner then
    (s.xredTiles d).map (fun t => (t, if d.fmt = 0 then d.ncon else if d.fmt = 4 then 2 * d.ncon else 0))
  else []

/-! ### Array ops (Table 08-2) -/

/-- Enabled columns of the widest chain. -/
def State.widest (s : State) (d : Desc) (chains : List ChainId) : Nat :=
  maxN (chains.zipIdx.map (fun c => s.chainCols d c.1 c.2))

/-- The period of an op's tokens with no load to hide, τ/512: 1 τ, the operand lane of R106, and for a rolling drain its
drain share (Table 04-2, R195). -/
def State.basePeriod (s : State) (d : Desc) (chains : List ChainId) (b : Nat) : Nat :=
  let c := chainsPerCore d.shape
  let lane := ceilDiv ((if d.fmt = 2 then 1 else 2) * kPerPass d.shape * c) 2
  let terms := if el8Mode d then 2 else 1
  let roll := if isRolling d then s.widest d chains * terms * max 4 b * c else 0
  max 512 (max lane roll)

/-- Tokens that the shortest weight group presents, behind which the next load hides (R104, Table 07-2). -/
def hideTokens (d : Desc) : Nat :=
  let run := if d.op ≠ 0x06 ∨ d.kind = 0 then 1 else 2
  let rows := if isRolling d then min (chunkRows d) d.m else passTokens d
  max 1 (run * rows)

/-- A weight load at the chain's share of the weight lane, 256/c B per τ, in τ/512 (R195). -/
def laneLoad (d : Desc) : Nat := setBytes d * chainsPerCore d.shape * 2

/-- Bytes of the first weight set that an array op loads on every one of its chains, those of each core of a spine set (R136, R197). -/
def firstSet (o : Op) : Nat := setBytes o.d * o.chains.length

/-- Units that hide a number of bytes behind the tokens of a weight group, 16 for no tokens (R210). -/
def hideUnits (d : Desc) (bytes per tau q : Nat) : Nat :=
  let time := hideTokens d * per * tau
  if time = 0 then 16 else ceilDiv (bytes * unitPs q false * 512) time

/-- What an array op asks of the ports of its weights and of its activations (R210). -/
def State.arrayAsks (s : State) (o : Op) (per tau : Nat) : List Ask :=
  let ask (ten hidden bytes : Nat) : List Ask :=
    let q := s.portOf o ten
    if refMem (o.d.word ten) then [⟨unitKey q false, if o.k = .loadw then 16 else hideUnits o.d hidden per tau q, bytes⟩] else []
  let w := if isRolling o.d ∧ o.k ≠ .mpass then [] else ask 6 (firstSet o) (firstSet o)
  let a := if isToken o.d then ask 5 (hideTokens o.d * 2 * kPerPass o.d.shape) (sumN ((tokenUses o.d).map (fun u => u.len))) else []
  if (w.map (fun x => x.key)) = (a.map (fun x => x.key)) then
    (w.zip a).map (fun p => ⟨p.1.key, hideUnits o.d (firstSet o + hideTokens o.d * 2 * kPerPass o.d.shape) per tau (p.1.key / 2),
      p.1.bytes + p.2.bytes⟩)
  else w ++ a

/-- No component. -/
def OpLen.zero : OpLen := ⟨0, 0, 0, 0, 0, 0, 0⟩

/-- Passes of each weight group of a kind (R173). -/
def groupRuns (d : Desc) : List Nat :=
  if d.op ≠ 0x06 then [1] else match d.kind with
    | 0 => [2, 1]
    | 1 => [2, 2]
    | _ => [4, 2, 4, 2]

/-- Tokens of a rolling MPASS on each weight load in turn: a chunk goes on with the group that the one before it ended on
(R179). -/
def chunkSegs (d : Desc) : List Nat :=
  let runs := groupRuns d
  (List.range (ceilDiv d.m (chunkRows d))).foldl (fun segs j =>
    let rows := min (chunkRows d) (d.m - j * chunkRows d)
    let mine := (if j % 2 = 0 then runs else runs.reverse).map (fun n => n * rows)
    match segs.getLast? with
    | none => mine
    | some l => segs.dropLast ++ ((l + mine.headD 0) :: mine.drop 1)) []

/-- The priced time of runs of tokens: each takes at least as long as the load of the next set that it hides (R104). -/
def runTime (base load : Nat) (runs : List Nat) : Nat := sumN (runs.map (fun n => max (n * base) load))

/-- The priced time of an op's tokens, τ/512 (Table 08-2, R104, Table 07-2): the last run hides no load, but for a rolling
MPASS that ends by loading plane 0 again (R180). -/
def tokenTime (o : Op) (base load : Nat) : Nat :=
  let d := o.d
  if isRolling d then
    (if d.op ≠ 0x06 then passTokens d * base
    else
      let segs := chunkSegs d
      if ceilDiv d.m (chunkRows d) % 2 = 1 then runTime base load segs
      else runTime base load segs.dropLast + (segs.getLast?.getD 0) * base)
  else
    let runs := (groupRuns d).map (fun n => n * passTokens d)
    let blocks := maxN ((List.range o.chains.length).map (fun ci => blocksOf d (coreIdx d ci)))
    (blocks - 1) * runTime base load runs + runTime base load runs.dropLast + (runs.getLast?.getD 0) * base

/-- Whether every register that an EL8 sweep sends on the spine has a term bound of at most 2^31 once the op's own terms are in (R40,
R114). -/
def State.smallSums (s : State) (o : Op) : Bool :=
  o.d.fmt == 1 && (s.termAdds o.k o.d none).all (fun a => decide (s.termBound a.1 + a.2 ≤ 2 ^ 31)) &&
    (arrayTiles o).all (fun x => decide (s.termBound x ≤ 2 ^ 31))

/-- The components of an array op at the units granted (Table 08-2): its activations move at their own memory share (R197). -/
def State.arrayLens (s : State) (o : Op) (b : Nat) (us : List Nat) : OpLen :=
  let d := o.d
  let cols := sumN (o.chains.zipIdx.map (fun c => if c.2 < d.nchain then s.opCols o c.1 c.2 else 0))
  let spine := d.spinen * (7 * 512 + d.m * cols * (if s.smallSums o then 24 else 80))
  { lead := 8 * 512
    load := if isRolling d then 0 else laneLoad d
    wps := if refMem d.w6 then movePs (firstSet o) (s.portOf o 6) false us else 0
    tok := 0
    post := flightCap d * 512 + spine + (min (maxN ((List.range o.chains.length).map (tokTotal o))) 512 + 5 + 9 * depthOf d.shape) * 512
    per := s.basePeriod d o.chains b
    fixed := if refMem d.w5 then psTicks (movePs (sumN ((tokenUses d).map (fun u => u.len))) (s.portOf o 5) false us) else 0 }

/-- The components of a LOADW. -/
def State.loadwLens (s : State) (o : Op) (us : List Nat) : OpLen :=
  { OpLen.zero with
    load := laneLoad o.d
    wps := if refMem o.d.w6 then movePs (firstSet o) (s.portOf o 6) false us else 0 }

/-- A weight load at a period, τ/512: the slower of the chain's lane share and the op's memory share, `wps` ps for a set (Table 08-2). -/
def loadAt (d : Desc) (wps tau : Nat) : Nat := max (laneLoad d) (ceilDiv (wps * 512) (max 1 tau))

/-! ### What remains of an array op (R206, R207) -/

/-- The largest number of tokens not yet added on one chain of an op (R207). -/
def tokensToGo (o : Op) : Nat :=
  maxN ((List.range o.chains.length).map (fun ci => tokTotal o ci - o.added.getD ci 0))

/-- The most tokens that an op presents on one chain. -/
def tokensMost (o : Op) : Nat := maxN ((List.range o.chains.length).map (fun ci => tokTotal o ci))

/-- Whether an op has presented a token. -/
def tokensBegun (o : Op) : Bool :=
  (List.range o.chains.length).any fun ci => o.chains.length != 0 && decide (0 < o.pres.getD ci 0) && decide (0 < tokTotal o ci)

/-- The rows of a load that lie in shadow blocks not yet full (R207). -/
def Load.toFill (l : Load) : Nat :=
  (l.need.filter (fun r => l.need.any (fun x => x / 4 == r / 4 && !l.rows.elem x))).length

/-- Rows of the op's first load still to fill on its chain ci, and rows that it has. -/
def State.loadLeft (s : State) (o : Op) (ci : Nat) (c : ChainId) : Nat × Nat :=
  let id : LoadId := ⟨o.id, firstLoad o.d⟩
  let rows := enabledRows o.d (coreIdx o.d ci) (firstLoad o.d)
  if firstLoad o.d < o.loads.getD ci 0 then (0, rows)
  else
    let st := s.chain c
    let found := [st.pend, st.nxt].filterMap (fun x => x.filter (fun l => l.id == id))
    match found with
    | [] => (if st.cur = some id then 0 else rows, rows)
    | l :: _ => (l.toFill, rows)

/-- A part of an amount, rounded up. -/
def share (n left total : Nat) : Nat := ceilDiv (n * left) (max 1 total)

/-- What remains of an array op at a period, in ticks: tokens whose sums have been added and shadow blocks that are full count as done;
the retry allowance stays (R207). Of an op that has done nothing it is the whole of its components. -/
def State.arrayLeft (s : State) (o : Op) (tau : Nat) : Nat :=
  let l := o.lens
  let t := tokensMost o
  let left := tokensToGo o
  let begun := tokensBegun o
  let set := loadAt o.d l.wps tau
  let fill := (o.chains.zipIdx.map (fun c => s.loadLeft o c.2 c.1)).foldl (fun a p => if a.1 * p.2 ≤ p.1 * a.2 then p else a) (0, 1)
  let load := if begun ∨ l.load = 0 then 0 else share set fill.1 fill.2
  let tok := if o.k.tokens then share (tokenTime o l.per set) left t else 0
  ticks ((if begun then 0 else l.lead) + load + tok + l.post) tau + share l.fixed left t

/-! ### Schedules -/

/-- The priced starts and finishes of the outstanding ops, and the periods that they and the paths over some cores are priced at. -/
structure Sched where
  start : Op → Nat
  fin : Op → Nat
  tau : Op → Nat
  period : List Nat → Nat

/-- A schedule from starts and finishes by op, all paths priced at one choice of periods. -/
def State.schedOf (s : State) (period : List Nat → Nat) (l : List (Nat × Nat × Nat)) : Sched :=
  let at' (o : Op) : Nat × Nat := ((l.find? (fun e => e.1 == o.id)).map (fun e => e.2)).getD (o.start, o.finish)
  ⟨fun o => (at' o).1, fun o => (at' o).2, fun o => period (s.pathCores o), period⟩

/-- The latest finish of the ops that a condition names, from now. -/
def State.lastFinish (s : State) (sch : Sched) (f : Op → Bool) : Nat :=
  (s.ops.filter f).foldl (fun a o => max a (sch.fin o)) (256 * s.now)

/-! ### When earlier ops have finished with a row -/

/-- The priced tick at which an array op has finished with a register row: its last token there and its retry (R168). -/
def arrayRowAt (sch : Sched) (p : Op) (r : RowRef) : Nat :=
  if isRolling p.d then sch.fin p
  else
    let left := (List.range p.chains.length).foldl (fun a ci =>
      match p.chains[ci]? with
      | none => a
      | some c =>
        let rows := (List.range p.d.m).filter (fun m => rowsMeet r (destRow p c false m) || rowsMeet r (destRow p c true m))
        match rows.getLast? with
        | none => a
        | some m => min a (passTokens p.d - 1 - (if el8Mode p.d then m / 2 else m))) (passTokens p.d)
    sch.fin p - ticks (left * p.lens.per) (sch.tau p)

/-- The priced tick at which a DRAIN or PRELOAD has finished with its last register row and leaves its drain share: its
latency follows (R162). -/
def Sched.readEnd (sch : Sched) (p : Op) : Nat := sch.fin p - ticks (drainLat p * 512) (sch.tau p)

/-- The priced tick at which a DRAIN or PRELOAD has finished with a register row. It works through the rows of a chain in
order, so that rows which follow are still to come (R117, R163). -/
def State.drainRowAt (s : State) (sch : Sched) (p : Op) (r : RowRef) : Nat :=
  let ps := (s.partsOf p.d p.rd).filter (fun x => s.holder x.t == s.holder r.t)
  let rows := ps.flatMap (fun x => (List.range x.rows).map (fun i => (x, i)))
  let after := rows.reverse.takeWhile (fun e => !rowsMeet r ⟨e.1.t, partRow e.1 e.2⟩)
  sch.readEnd p - ticks (sumN (after.map (fun e => s.rowLen p e.1 e.2))) (sch.tau p)

/-- The priced tick at which an earlier op has finished with a register row. -/
def State.rowAt (s : State) (sch : Sched) (p : Op) (r : RowRef) : Nat :=
  match p.k with
  | .stream => arrayRowAt sch p r
  | .scan => arrayRowAt sch p r
  | .mpass => arrayRowAt sch p r
  | .reroll => arrayRowAt sch p r
  | .drain => s.drainRowAt sch p r
  | .preload => s.drainRowAt sch p r
  | _ => sch.fin p

/-- The latest tick at which earlier ops, other than accumulating ones for an accumulating op, release a row. -/
def State.rowWait (s : State) (sch : Sched) (o : Op) (r : RowRef) : Nat :=
  maxN ((s.ops.filter (fun p => decide (p.id < o.id) && !(p.k.accumulates && o.k.accumulates) && s.rowPending p r)).map
    (fun p => s.rowAt sch p r))

/-- The tiles of an outstanding op that wait for a snapshot (R223). -/
def State.snapTiles (s : State) (o : Op) : List TileRef :=
  s.regions.flatMap (fun g => (g.snaps.filter (fun n => n.op == o.id && !n.taken && !n.closed)).map (fun n => TileRef.ofHandle n.tile))

/-- The tick at which an earlier op has finished with the drain share of a chain: the rows of a DRAIN, companion or PRELOAD, the
register reads or conversions of a group op, the snapshots before an op's start, and the restores of a SQUASH; none when it
makes no use of it (R195). -/
def State.drainEnd (s : State) (sch : Sched) (p : Op) (h : Nat) : Nat :=
  let on (ts : List TileRef) : Bool := ts.any (fun t => s.holder t == h)
  let snaps := if on (s.snapTiles p) then sch.start p else 0
  max snaps (match p.k with
    | .drain => if on ((s.partsOf p.d p.rd).map (fun x => x.t)) then sch.readEnd p else 0
    | .preload => if on ((s.partsOf p.d p.rd).map (fun x => x.t)) then sch.readEnd p else 0
    | .owner => if on (s.xredTiles p.d) then sch.fin p else 0
    | .trimmed => if on (s.xredTiles p.d) then sch.fin p else 0
    | .retract => if xredNames p.d && on (s.xredTiles p.d) then sch.fin p else 0
    | .squash => match s.region? p.d.tenant p.d.region with
      | none => 0
      | some g => if on ((g.snaps.filter (fun n => !n.closed)).map (fun n => TileRef.ofHandle n.tile)) then sch.fin p else 0
    | _ => 0)

/-- The latest priced end of earlier uses of a chain's drain share by ops that a condition names: uses by one chain follow one another in
acceptance order (R195). -/
def State.drainFree (s : State) (sch : Sched) (o : Op) (f : Op → Bool) (h : Nat) : Nat :=
  maxN ((s.ops.filter (fun p => decide (p.id < o.id) && f p)).map (fun p => s.drainEnd sch p h))

/-- The latest end of earlier uses of the drain shares of some tiles. -/
def State.drainFreeOf (s : State) (sch : Sched) (o : Op) (ts : List TileRef) : Nat :=
  maxN (((ts.map s.holder).eraseDups).map (s.drainFree sch o (fun _ => true)))

/-- The finish of the rows still to do of the parts held by one chain: rows in order, each behind its readable tick (R161, R168). A
companion's rows follow the sums of its rolling op, the last of them behind its finish. -/
def State.chainDrain (s : State) (sch : Sched) (o : Op) (start h : Nat) : Nat :=
  let tau := sch.tau o
  let mine := (s.partsOf o.d o.rd).zipIdx.filter (fun p => s.holder p.1.t == h)
  let rows (p : Part × Nat) : List Nat := (List.range p.1.rows).filter (fun i => !o.rows.elem (rowUnit p.2 i))
  let from_ := max start (s.drainFree sch o (fun _ => true) h)
  if o.rolled.isSome then
    maxN (mine.map (fun p => max (from_ + ticks (sumN ((rows p).map (s.rowLen o p.1))) tau)
      (match o.rolled.bind s.op? with
      | none => from_
      | some r => sch.fin r + ticks (s.rowLen o p.1 (p.1.rows - 1)) tau)))
  else
    mine.foldl (fun t p => (rows p).foldl (fun t i =>
      max t (s.rowWait sch o ⟨p.1.t, partRow p.1 i⟩) + ticks (s.rowLen o p.1 i) tau) t) from_

/-- The finish of the rows of a DRAIN or PRELOAD: those of each chain side by side (Table 08-2). -/
def State.rowsEnd (s : State) (sch : Sched) (o : Op) (start : Nat) : Nat :=
  maxN (start :: (((s.partsOf o.d o.rd).map (fun p => s.holder p.t)).eraseDups).map (s.chainDrain sch o start))

/-! ### Snapshots (R225) -/

/-- The price of a snapshot or its restore at the share of the chain that holds the tile, τ. -/
def State.snapLen (s : State) (t : TileRef) (clear : Bool) : Nat :=
  (if clear then 1 else if t.q = 0 then 169 else 43) * s.tileChains t

/-- Ticks of register work on tiles, one after the other on each chain's share, the chains side by side (R195, R225). -/
def State.snapTicks (s : State) (sch : Sched) (ts : List (TileRef × Bool)) : Nat :=
  maxN (((ts.map (fun t => s.holder t.1)).eraseDups).map fun h =>
    let mine := ts.filter (fun t => s.holder t.1 == h)
    ticks (sumN (mine.map (fun t => s.snapLen t.1 t.2)) * 512) (sch.period (mine.map (fun t => coreOf t.1.n))))

/-! ### Start (Table 08-2) -/

/-- The register rows an op touches. -/
def State.opRows (s : State) (o : Op) : List RowRef :=
  let whole (t : TileRef) : List RowRef := (List.range t.rows).map (fun r => ⟨t, r⟩)
  if o.k.tokens then (arrayTiles o).flatMap whole
  else match o.k with
    | .owner => (s.xredTiles o.d).flatMap whole
    | .trimmed => (s.xredTiles o.d).flatMap whole
    | .retract => if xredNames o.d then (s.xredTiles o.d).flatMap whole else []
    | _ => []

/-- The offset in ticks from an array op's start to its first sum in a row: it waits per row, not per tile (R117). -/
def enterOff (sch : Sched) (o : Op) (r : RowRef) : Nat :=
  if o.k.tokens then
    let l := o.lens
    let first := (o.chains.flatMap (fun c => (List.range (min o.d.m (32 * 16))).filter
      (fun m => rowsMeet r (destRow o c false m) || rowsMeet r (destRow o c true m)))).headD 0
    ticks (l.lead + (if l.load = 0 then 0 else loadAt o.d l.wps (sch.tau o)) + (if el8Mode o.d then first / 2 else first) * l.per) (sch.tau o)
  else 0

/-- The tick until which order FENCEs (R142) and context ops of its tenant (R361) hold an op. -/
def State.heldUntil (s : State) (sch : Sched) (o : Op) : Nat :=
  s.lastFinish sch (fun p => decide (p.id < o.id) && ((p.k == .fenceOrder && fenceMeets s.conf p o) ||
    (p.d.tenant == o.d.tenant && (p.k.context || o.k.context))))

/-- The tiles whose registers an op reads or converts through the drain before anything leaves (R195). -/
def State.groupTiles (s : State) (o : Op) : List TileRef :=
  match o.k with
  | .owner => s.xredTiles o.d
  | .trimmed => s.xredTiles o.d
  | .retract => if xredNames o.d then s.xredTiles o.d else []
  | _ => []

/-- The start of an op before release times: now, the ops ahead on its chains (R97), the rows and buffer lines it waits on
(R117, R147), order FENCEs (R142), context ops of the tenant (R361), the drain share that a group op reads through (R195), and shape
changes, which wait for the core's earlier ops (R81, R96). -/
def State.startOf (s : State) (sch : Sched) (o : Op) : Nat :=
  let chain (p : Op) : Bool := p.chains.any (fun c => o.chains.elem c)
  let lines (p : Op) : Bool := p.clusters.any (fun c => o.clusters.elem c) && p.holdsLines &&
    (s.usesLeft p).any (fun v => (s.uses o).any (fun u => spansMeet (useSpan (p.d.word v.ten) v) (useSpan (o.d.word u.ten) u)))
  let behind := s.lastFinish sch (fun p => decide (p.id < o.id) && (chain p || shapesBefore p o || lines p))
  let rows := maxN ((s.opRows o).map (fun r => s.rowWait sch o r - enterOff sch o r))
  max (max (s.heldUntil sch o) (s.drainFreeOf sch o (s.groupTiles o))) (max behind rows)

end Sys2Proof.Machine
end

