-- ==== Sys2Proof/Machine/Check.lean ====
section
/-! DEFINITION. The checks of Table 05-12 in their order (spec/05_operations.md R124 to R150, R417; spec/08 R188 to R194;
spec/09 R219 to R240; spec/12 R296, R306; spec/14 R356 to R364), each answering a reason code and the first offending word. -/

namespace Sys2Proof.Machine

/-- The reason codes in the order of Table 05-12. -/
def reasonOrder : List Nat :=
  [0x15, 0x03, 0x02, 0x01, 0x11, 0x05, 0x06, 0x09, 0x04, 0x08, 0x14, 0x07, 0x0A, 0x10, 0x12, 0x13, 0x0B, 0x0C, 0x0F, 0x0D, 0x0E]

/-- A reason with the word that AUX names. -/
abbrev Reason := Nat × Nat

/-- A condition that refuses with a reason. -/
def refuseIf (b : Bool) (code aux : Nat) : Option Reason := if b then some (code, aux) else none

/-- The least word whose condition holds (R149: the first offending word). -/
def worstWord (code : Nat) (l : List (Bool × Nat)) : Option Reason :=
  match (l.filter (fun c => c.1)).map (fun c => c.2) with
  | [] => none
  | w :: r => some (code, r.foldl min w)

/-- What is being checked: the kind, the descriptor, and for a companion the descriptor of its rolling op (R169). -/
structure Cand1 where
  k : OpK
  d : Desc
  rolled : Option Desc
deriving DecidableEq, Repr

/-! ### What a descriptor names -/

/-- A part of the array that an op touches: core, engine (none for a whole core), quarter, and whether it is an array op of
a shape other than quadrants. -/
structure Touch where
  core : Nat
  eng : Option Nat
  q : Nat
  whole : Bool
deriving DecidableEq, Repr

/-- The part of one tile. -/
def Touch.ofTile (t : TileRef) : Touch := ⟨coreOf t.n, some (t.n % 16), t.q, false⟩

/-- The engines, quarter by quarter, that belong to a tenant: what a context op covers (R361). -/
def State.tenantParts (s : State) (t : Nat) : List Touch :=
  (s.tenantCores t).flatMap fun c => (List.range 16).flatMap fun e =>
    ((List.range 4).filter (fun q => s.ownsPart t c (some e) (4 + q) false)).map fun q => ⟨c, some e, 4 + q, false⟩

/-- The parts that a descriptor touches; of a tile list that leaves the core of TILE or names nothing, those of that core,
and TILE itself (R130 refuses the rest with RANGE). -/
def State.touches (s : State) (k : OpK) (d : Desc) (rolled : Option Desc) : List Touch :=
  if k.array then
    (nearChains d).flatMap fun c => (List.range (depthOf d.shape)).map fun i => ⟨c.core, some (c.top + i), c.quarter, d.shape != 5⟩
  else if k = .ballast then [⟨tileCore d, none, 0, false⟩]
  else if k.context then s.tenantParts d.tenant
  else if k = .preload ∨ k = .drain ∨ (k.group ∧ xredNames d) then
    Touch.ofTile (TileRef.ofHandle d.tile) ::
      ((s.namedTiles k d rolled).filter (fun t => rolled.isSome || coreOf t.n == tileCore d)).map Touch.ofTile
  else []

/-! ### TENANT (R124, R356 to R358) -/

/-- Whether a part belongs to a tenant (R357). -/
def State.holds (s : State) (t : Nat) (x : Touch) : Bool := s.ownsPart t x.core x.eng x.q x.whole

/-- Whether an epoch is live for a tenant (R236). -/
def State.epochLive (s : State) (t e : Nat) : Bool :=
  decide ((e + 65536 - s.obj (key (0x3100 + t) 1)) % 65536 < 32768)

/-! ### FORMAT (R127, Table 05-4) -/

/-- Whether FMT is allowed for the op. -/
def fmtAllowed (k : OpK) (d : Desc) : Bool :=
  match k with
  | .loadw => decide (d.fmt ≤ 3)
  | .stream => decide (d.fmt ≤ 3)
  | .scan => decide (d.fmt ≤ 3)
  | .mpass => d.fmt == 0
  | .preload => d.fmt == 0 || d.fmt == 4
  | .drain => d.fmt == 0 || d.fmt == 1 || d.fmt == 4
  | k => !k.group || d.fmt == 0 || d.fmt == 4 || (d.fmt == 6 && d.hier)

/-! ### References (ALIGN, RANGE) -/

/-- The quarters in which a companion or DRAIN reads compare records: those of its rolling SCAN, or those that hold them (R156,
R418). -/
def State.cmpOf (s : State) (k : OpK) (d : Desc) (rolled : Option Desc) : List Nat :=
  let qs := (s.partsOf d rolled).flatMap s.partQuarters
  if k ≠ .drain then [] else match rolled with
  | some r => if r.op = 0x05 then qs.eraseDups else []
  | none => s.cmpQuarters qs

/-- The words that hold references of the op. W3 of a DICT whose LEN is 32 or less names nothing: R145 makes it neither a reference
nor reserved, and the model looks at its reserved bits only (DESIGN CHOICE, log 91). -/
def refWords (k : OpK) (d : Desc) (cmp : Bool) : List Nat :=
  match k with
  | .loadw => [6]
  | .stream => if isRolling d then [5] else [5, 6]
  | .scan => if isRolling d then [5] else [5, 6]
  | .mpass => [5, 6]
  | .preload => [5]
  | .drain => if d.fuse ≠ 0 ∨ d.sbe ∨ cmp then [5, 6] else [5]
  | .owner => [5]
  | .contrib => [5]
  | .collection => [5]
  | .retract => if xredNames d then [] else [5]
  | .save => [5]
  | .restore => [5]
  | .dict => if 32 < d.dlen then [3] else []
  | _ => []

/-- Whether some register that a DRAIN reads holds a compare record. -/
def State.cmpAny (s : State) (x : Cand1) : Bool := s.cmpOf x.k x.d x.rolled != []

/-- Whether a descriptor's fields give the tensor of a word an extent: a reserved SHAPE gives none (R417), nor does to DATA a LAYOUT
that Table 06-6 does not list, or WSET with comet pairs. Every other combination that R166 refuses with MODE has the extent that the
layout's formula gives, a quotient by 0 being 0 (DESIGN CHOICE, log 110). -/
def Cand1.extent (x : Cand1) (w : Nat) : Bool :=
  (x.k != .drain || w != 5 || (decide (x.d.layout ≤ 4) && !(x.d.layout == 3 && x.d.fmt == 4))) && (!x.k.array || decide (x.d.shape ≤ 5))

/-- The uses of a descriptor at one word. -/
def State.usesAt (s : State) (x : Cand1) (w : Nat) : List Use :=
  if x.extent w then (s.allUses x.k x.d x.rolled (s.cmpOf x.k x.d x.rolled)).filter (fun u => u.ten == w && u.len != 0) else []

/-- The clusters in which a descriptor's tensors lie: that of its TILE, or for a context op those in which its tenant holds a core
(R111, R361, R363; log 67). -/
def State.refClusters (s : State) (x : Cand1) : List Nat :=
  if x.k.context then ((s.tenantCores x.d.tenant).map (· / 8)).eraseDups else [opCluster x.d]

/-- The base and length of a tenant's buffer space in a cluster; none while a change of it is pending (R358, R359). -/
def State.bufSpace (s : State) (t cl : Nat) : Nat × Nat :=
  if s.moves.any (fun m => m.key / 2 == key (0x3180 + t) (2 * cl) / 2) then (0, 0)
  else (s.obj (key (0x3180 + t) (2 * cl)), s.obj (key (0x3180 + t) (2 * cl + 1)))

/-- Whether the staging ring of a memory reference lies in a tenant's space of a cluster (R132, R359). -/
def State.ringFits (s : State) (t : Nat) (ref : W64) (cl : Nat) : Bool :=
  let sp := s.bufSpace t cl
  decide (sp.1 ≤ refStage ref * 2048 ∧ refStage ref * 2048 + 16384 ≤ sp.1 + sp.2)

/-- Whether an extent in memory stays below 2^48 and does not cross an edge of the pairing window (R131, R398). -/
def State.memFits (s : State) (lo hi : Nat) : Bool :=
  let b := s.obj (key 0x1304 0)
  let l := s.obj (key 0x1304 1)
  decide (hi ≤ 2 ^ 48) && (l == 0 || decide (hi ≤ b) || decide (b + l ≤ lo) || decide (b ≤ lo ∧ hi ≤ b + l))

/-- Whether every byte that the op touches through a reference lies where it may (R131, R132, R359, R398, R417). -/
def State.refFits (s : State) (x : Cand1) (w : Nat) : Bool :=
  let ref := x.d.word w
  let us := s.usesAt x w
  let e := extentOf us
  if refSpace ref > 1 then false
  else if refMem ref then
    (s.refClusters x).all (s.ringFits x.d.tenant ref) && (us == [] || s.memFits (refAddr ref + e.1) (refAddr ref + e.2))
  else us == [] || (let sp := s.bufSpace x.d.tenant (opCluster x.d)
    decide (sp.1 ≤ refAddr ref + e.1 ∧ refAddr ref + e.2 ≤ sp.1 + sp.2 ∧ refAddr ref + e.2 ≤ 2 ^ 25))

/-- Where a use lies: its space, and its bytes. -/
def useAbs (d : Desc) (u : Use) : Nat × Nat × Nat := (refSpace (d.word u.ten), refAddr (d.word u.ten) + u.off, u.len)

/-- Whether two places overlap. -/
def placesMeet (a b : Nat × Nat × Nat) : Bool :=
  a.1 == b.1 && decide (a.2.1 < b.2.1 + b.2.2) && decide (b.2.1 < a.2.1 + a.2.2)

/-- Whether some two of a list of places overlap. -/
def anyMeet : List (Nat × Nat × Nat) → Bool
  | [] => false
  | a :: r => r.any (placesMeet a) || anyMeet r

/-- Whether two written elements of a DRAIN overlap (R167). -/
def State.drainOverlap (s : State) (x : Cand1) : Bool :=
  anyMeet (((s.usesAt x 5 ++ s.usesAt x 6).filter (fun u => u.wr)).map (useAbs x.d))

/-- Whether a WSET chain index reaches NCH (R167). -/
def State.wsetOver (s : State) (x : Cand1) : Bool :=
  x.d.layout == 3 && (s.partsOf x.d x.rolled).any fun p =>
    p.rows != 0 && p.cols != 0 &&
      (let v := if x.d.trans then x.d.m0 + p.row0 + p.rows - 1 else p.n0 + p.cols - 1
      decide (fieldOf x.d.lp 10 3 ≤ v / max 1 (fieldOf x.d.lp 16 11)))

/-! ### RANGE -/

/-- Whether a list of offsets names one tile twice. -/
def repeats (l : List Nat) : Bool := l.eraseDups.length != l.length

/-- Whether a QUARTER value is reserved (R417). -/
def quarterBad (q : Nat) : Bool := q == 1 || q == 2 || q == 3

/-- Whether the tile list of an array op breaks R103, R130 or R181. -/
def arrayListBad (d : Desc) : Bool :=
  let n := tileCount d
  let dep := depthOf d.shape
  let offs := tlOf d ++ tl2Of d
  decide (min dep (if isComplex d then 8 else 16) < n) || offs.any (fun o => decide (dep ≤ o)) || repeats offs ||
    (if isComplex d then (List.range 16).any (fun i => decide (n ≤ i % 8) && nibble d.tlist i != 0)
     else d.tlist / 16 ^ n != 0)

/-- RANGE of an array op (R130, R133, R135, R136). A SHAPE of quadrants needs a quarter handle (DEDUCED, log 16). -/
def arrayRange (k : OpK) (d : Desc) : List (Bool × Nat) :=
  let q := (TileRef.ofHandle d.tile).q
  let ok := decide (d.shape ≤ 5)
  let dep := depthOf d.shape
  [(d.k == 0 || (k != .loadw && d.m == 0), 2),
   (d.n == 0 || decide (d.n ≤ d.n0), 3),
   (quarterBad q, 3),
   (ok && (tileEng d % dep != 0 || (q != 0) != (d.shape == 5)), 3),
   (ok && k != .loadw && arrayListBad d, 4),
   (d.nchain == 0 || decide (128 < d.nchain) || (ok && chainsOver d), 7),
   (k == .stream && (if d.spinen = 0 then d.kslice != 0
      else ok && (d.kslice == 0 || d.kslice % (32 * dep) != 0 || decide (d.k ≤ d.spinen * d.kslice) ||
        decide ((d.spinen + 1) * d.kslice < d.k))), 7)]

/-- RANGE of the tile list of a PRELOAD or DRAIN (R130, R139). -/
def partRange (d : Desc) (rolled : Bool) : List (Bool × Nat) :=
  let t := TileRef.ofHandle d.tile
  let n := if rolled then 1 else ceilDiv d.m t.rows
  let offs := nibbles d.tlist 0 (min n 16)
  [(d.m == 0 || decide (16 < n), 2), (decide (d.n ≤ d.n0), 3), (quarterBad t.q, 3),
   (offs.any (fun o => decide (15 < t.n % 16 + o)) || repeats offs || d.tlist / 16 ^ n != 0, 4)]

/-- Registers that a list of tiles holds (R306). -/
def State.capacity (s : State) (ts : List TileRef) : Nat := sumN (ts.map (fun t => t.rows * s.width t))

/-- The record of a range, if one is held (R306). -/
def State.range? (s : State) (g b e : Nat) : Option Range := s.ranges.find? (fun r => r.group == g && r.bucket == b && r.eoff == e)

/-- The record that an owner op names. -/
def State.ownRange (s : State) (d : Desc) : Option Range := s.range? d.group d.bucket d.eoff

/-- Whether a held record is that of the same tiles, ELEMS and NCON (R306). -/
def State.sameRange (s : State) (d : Desc) (r : Range) : Bool :=
  r.tiles == (s.xredTiles d).map TileRef.handle && r.elems == d.elems && r.ncon == d.ncon

/-- Ledger entries free in a cluster (R312, Table 12-8). -/
def State.ledgerFree (s : State) (cl : Nat) : Nat := s.obj (key 0x6101 cl)

/-- RANGE of an XRED or RETRACT (R141, R306). -/
def State.xredRange (s : State) (k : OpK) (d : Desc) : List (Bool × Nat) :=
  if xredNames d then
    let t := TileRef.ofHandle d.tile
    let ts := s.xredTiles d
    let offs := nibbles d.tlist 0 ts.length
    [(decide (s.capacity ts < d.elems), 2), (quarterBad t.q || (k == .owner && (d.ncon == 0 || decide (64 < d.ncon))), 4),
     (offs.any (fun o => decide (15 < t.n % 16 + o)) || repeats offs || d.tlist / 16 ^ ts.length != 0, 6),
     (k == .owner && (match s.ownRange d with
      | some r => !s.sameRange d r
      | none => decide (s.ledgerFree (opCluster d) < 64 * d.ncon)), 0xFF)]
  else [(d.hier && quarterBad (TileRef.ofHandle d.tile).q, 4)]

/-- The size S_full of a tenant's image (R363, R364). -/
def State.imageFull (s : State) (t : Nat) : Nat :=
  let eng := if s.conf = .d8 then 1088 else 20544
  let cores := s.tenantCores t
  let sect (c : Nat) : Nat := 1088 + sumN ((List.range 16).map fun e =>
    let q := ((List.range 4).filter (fun q => s.holds t ⟨c, some e, 4 + q, false⟩)).length
    if q = 0 then 0 else 64 + q * eng)
  128 + sumN (cores.map sect) + (cores.map (· / 8)).eraseDups.length * s.obj (key (0x3100 + t) 7)

/-- RANGE of the descriptor's own fields. -/
def State.fieldRange (s : State) (x : Cand1) : List (Bool × Nat) :=
  let d := x.d
  if x.k.array then arrayRange x.k d
  else match x.k with
    | .preload => partRange d false
    | .drain => partRange d x.rolled.isSome
    | .ballast => [(d.dur == 0 || decide (5000 < d.dur) || d.level == 0, 2), (fieldOf d.tile 9 3 != 0, 3)]
    | .fenceOrder => [(d.kind == 0 && d.fepoch != 0, 2)]
    | .fenceEpoch => [(d.clmask != 0, 2)]
    | .dict => [(decide (256 < d.dlen), 2)]
    | .save => [(decide (d.w2.toNat < s.imageFull d.tenant), 2), (!refMem d.w5, 5),
        (((s.refClusters x).any (fun cl => decide ((s.bufSpace d.tenant cl).2 < s.obj (key (0x3100 + d.tenant) 7)))), 0xFF)]
    | .restore => [(!refMem d.w5, 5)]
    | k => if k.group then s.xredRange k d else []

/-! ### Snapshots to be reserved (R223, R224) -/

/-- Whether an op will change the registers of the tiles it names. -/
def writesTiles (k : OpK) (d : Desc) : Bool := k.tokens || k == .preload || k == .owner || (k == .drain && !d.keep)

/-- Whether a region holds a snapshot of a quarter. -/
def Region.holdsSnap (g : Region) (q : Nat) : Bool := g.snaps.any (fun n => (TileRef.ofHandle n.tile).quarters.elem q)

/-- The tile of one quarter key. -/
def quarterTile (q : Nat) : TileRef := ⟨q / 4, 4 + q % 4⟩

/-- The tiles of which a provisional op needs a snapshot: whole where no quarter has one, else quarter by quarter. -/
def newSnaps (g : Region) (ts : List TileRef) : List TileRef :=
  ts.eraseDups.flatMap fun t =>
    if t.quarters.any g.holdsSnap then (t.quarters.filter (fun q => !g.holdsSnap q)).map quarterTile else [t]

/-- Worst-case bytes of a snapshot (R224). -/
def snapBytes (t : TileRef) : Nat := if t.q = 0 then 81984 else 20544

/-- A tenant's snapshot area in a cluster, address and bytes: the top of its buffer space (R224). -/
def State.snapArea (s : State) (t cl : Nat) : Nat × Nat :=
  let sp := s.bufSpace t cl
  let n := min sp.2 (s.obj (key (0x3100 + t) 5))
  (sp.1 + sp.2 - n, n)

/-- The reservations in a tenant's snapshot area, address and bytes. -/
def State.snapUsed (s : State) (t cl : Nat) : List (Nat × Nat) :=
  (s.regions.filter (fun g => g.tenant == t)).flatMap fun g =>
    (g.snaps.filter (fun n => (TileRef.ofHandle n.tile).cluster == cl)).map (fun n => (n.addr, n.bytes))

/-- The lowest address of an area at which a number of bytes is free. -/
def firstFree (area : Nat × Nat) (used : List (Nat × Nat)) (n : Nat) : Option Nat :=
  let ends := (area.1 :: used.map (fun u => u.1 + u.2)).filter fun a =>
    decide (area.1 ≤ a ∧ a + n ≤ area.1 + area.2) && used.all (fun u => decide (a + n ≤ u.1 ∨ u.1 + u.2 ≤ a))
  match ends with
  | [] => none
  | a :: r => some (r.foldl min a)

/-- Places for snapshots of some tiles, one after the other; none when one of them cannot be reserved (R224). DESIGN CHOICE: each lies
at the lowest address that is free (log 24). -/
def State.placeSnaps (s : State) (t cl : Nat) (ts : List TileRef) : Option (List (TileRef × Nat)) :=
  ts.foldl (fun acc x => match acc with
    | none => none
    | some l => (firstFree (s.snapArea t cl) (s.snapUsed t cl ++ l.map (fun p => (p.2, snapBytes p.1))) (snapBytes x)).map
        (fun a => l ++ [(x, a)])) (some [])

/-- The snapshots that an op needs; none when it is not provisional or changes no register. -/
def State.snapsFor (s : State) (k : OpK) (d : Desc) (rolled : Option Desc) : List TileRef :=
  if d.prov ∧ writesTiles k d then
    (match s.region? d.tenant d.region with
    | none => []
    | some g => newSnaps g (s.namedTiles k d rolled))
  else []

/-- Whether the snapshots fit the tenant's area (R224). -/
def State.snapsFit (s : State) (x : Cand1) : Bool :=
  (s.placeSnaps x.d.tenant (opCluster x.d) (s.snapsFor x.k x.d x.rolled)).isSome

/-- RANGE in full (R149: AUX names the first word at fault). The fields of words 2 to 4, which stand before every reference, are looked
at first. -/
def State.checkRange (s : State) (x : Cand1) : Option Reason :=
  let fields := s.fieldRange x
  match worstWord 0x08 (fields.filter (fun c => decide (c.2 ≤ 4))) with
  | some r => some r
  | none => worstWord 0x08 (fields ++ (refWords x.k x.d (s.cmpAny x)).map (fun w => (!s.refFits x w, w)) ++
      [(x.k == .drain && (s.wsetOver x || s.drainOverlap x), 0xFF), (!s.snapsFit x, 0xFF)])

/-! ### RECONFIG, SHAPE -/

/-- The engines of a part. -/
def Touch.engines (x : Touch) : List Nat := match x.eng with
  | none => (List.range 16).map (fun e => x.core * 16 + e)
  | some e => [x.core * 16 + e]

/-- The kinds that only read the tiles they name, and run on an engine whose quarantine is pending or in effect (R277). -/
def OpK.readsOnly (k : OpK) : Bool := k == .drain || k == .save

/-- Whether a part has a pending bypass map (R84), or, for an op other than DRAIN and SAVE, a pending quarantine (R277; log 57). -/
def State.reconfig (s : State) (k : OpK) (x : Touch) : Bool :=
  x.engines.any (fun n => s.bypass n != s.obj (key (0x8000 + n) 2) || (!k.readsOnly && s.engineHealth n == 2)) ||
    (!k.readsOnly && s.coreHealth x.core == 2)

/-- Whether a suspect engine is among those of a chain. -/
def State.suspectChain (s : State) (c : ChainId) (dep : Nat) : Bool := (chainEngines c dep).any (fun n => s.engineHealth n == 1)

/-- Whether a core waits for its deck test or runs it (R286; log 57). -/
def State.testing (s : State) (c : Nat) : Bool := s.con.deck.state != 0 && s.con.deck.core == some c

/-- Whether a chain is offered, suspects apart (R78, R82, R95, R286). A core without a priced period is refused later, with WINDOW
(R204). -/
def State.chainOffered (s : State) (c : ChainId) (dep : Nat) : Bool :=
  !s.coreQuarantined c.core && !s.testing c.core &&
    (chainEngines c dep).all fun n => s.engineHealth n != 3 &&
      decide ((if c.quarter = 0 then 16 else 1) ≤ s.width ⟨n, c.quarter⟩)

/-- Whether a spine link is out of use: its sweep runs, or it is retired by its newest sweep (R291). -/
def State.linkOut (s : State) (c : Nat) : Bool := s.con.sweeps.elem c || bitOf (s.obj (key (0x5200 + c) 2)) 8

/-- Whether an op is rerolled (R283). -/
def State.rerolled (s : State) (k : OpK) (d : Desc) : Bool :=
  k.tokens && !isRolling d && d.prov && (nearChains d).any (fun c => s.suspectChain c (depthOf d.shape)) &&
    (match s.region? d.tenant d.region with
    | none => false
    | some g =>
      let qs := (s.namedTiles k d none).flatMap TileRef.quarters
      g.gkind == 1 && !qs.any (fun q => g.wrote.elem q) &&
        !s.ops.any (fun o => o.k == .owner && o.d.prov && o.d.tenant == d.tenant && o.d.region == d.region &&
          ((s.xredTiles o.d).flatMap TileRef.quarters).any (fun q => qs.elem q)))

/-- SHAPE (R133, R277, R282, R291, R417). -/
def State.checkShape (s : State) (x : Cand1) : Option Reason :=
  let d := x.d
  let dep := depthOf d.shape
  let ts := s.touches x.k d x.rolled
  if x.k.array then
    refuseIf (decide (5 < d.shape) || (nearChains d).any (fun c => !s.chainOffered c dep) ||
      ((nearChains d).any (fun c => s.suspectChain c dep) && s.obj (key 0x5010 0) == 0 && !s.rerolled x.k d) ||
      (List.range d.spinen).any (fun i => s.linkOut (tileCore d / 8 * 8 + (tileCore d + i) % 8))) 0x07 1
  else
    refuseIf (ts.any (fun t => s.coreQuarantined t.core || (x.k == .ballast && s.testing t.core) ||
      (!x.k.readsOnly && x.k != .ballast && t.engines.any (fun n => s.engineHealth n == 3)))) 0x07 0xFF

/-! ### MODE -/

/-- Whether a rolling op's weight set in force is missing on a chain, or its FMT, K, N or N0 differs: the word at fault. -/
def State.setFault (s : State) (d : Desc) (c : ChainId) : Option Nat :=
  if baseShape (s.planShape c.core) ≠ baseShape d.shape ∨
      (chainEngines c (depthOf d.shape)).any (fun n => s.planSplit n != (d.shape == 5)) then some 0xFF
  else match (s.chain c).ws with
    | none => some 0xFF
    | some w => if w.fmt ≠ d.fmt then some 1 else if w.k ≠ d.k then some 2
      else if w.n ≠ d.n ∨ w.n0 ≠ d.n0 then some 3 else none

/-- MODE of a rolling op (R134). -/
def State.rollMode (s : State) (d : Desc) : List (Bool × Nat) :=
  (d.comm, 1) :: (opChains d).filterMap (fun c => (s.setFault d c).map (fun w => (true, w)))

/-- MODE of a DRAIN (R140, R156, R159, R160, R166; log 56). -/
def drainMode (d : Desc) (cmp : Bool) : List (Bool × Nat) :=
  let fmt := fmtOf d.fmt
  [(d.fuse == 3 || (cmp && (d.fuse != 0 || fmt == .comet)), 1),
   (d.fuse == 2 && fmt == .comet, 1),
   (d.afmt == 3 || (d.fuse == 0 && d.afmt != 0) || (d.fuse == 2 && fmt != afmtOf d.afmt), 7),
   (!layoutOk d, 7),
   (cmp && (d.sbe || d.astride == 0), 7),
   (d.sbe && (d.fuse != 0 || decide (64 * d.astride < d.n - d.n0)), 7)]

/-- MODE (R134, R141, R172, R296, R417). -/
def State.checkMode (s : State) (x : Cand1) : Option Reason :=
  let d := x.d
  worstWord 0x0A (
    [(x.k.tokens && d.gs == 3, 1), ((x.k == .mpass || d.op == 0x10) && d.kind == 3, 1),
     (x.k == .retract && d.role, 1), (x.k.group && !d.role && d.excise, 1)] ++
    (if x.k.tokens ∧ isRolling d then s.rollMode d else []) ++
    (if x.k = .drain then drainMode d (s.cmpAny x) else []))

/-! ### REGION, GROUP, NOSAVE -/

/-- Whether a tenant has a region that is open or closing. -/
def State.hasRegion (s : State) (t : Nat) : Bool := s.regions.any (fun g => g.tenant == t)

/-- Whether a region is open. -/
def State.regionOpen (s : State) (t r : Nat) : Bool := match s.region? t r with
  | none => false
  | some g => !g.closing

/-- The buffer range (key and bytes) of a use of an op of a cluster: its bytes, or the whole staging ring of a memory-space tensor
(R132). -/
def usePlace (d : Desc) (cl : Nat) (u : Use) : Nat × Nat :=
  let p := useSpan (d.word u.ten) u
  (bufAddr cl p.1, p.2.1)

/-- The buffer ranges that the image of a tenant covers: the first bytes of its buffer space in each cluster where it holds a core
(R348, R361). -/
def State.imageRanges (s : State) (t : Nat) : List (Nat × Nat) :=
  (((s.tenantCores t).map (· / 8)).eraseDups).map fun cl =>
    let sp := s.bufSpace t cl
    (bufAddr cl sp.1, min sp.2 (s.obj (key (0x3100 + t) 7)))

/-- Whether a buffer range that the op reads or writes meets one that is bound to a region it does not belong to (R226). -/
def State.boundMeets (s : State) (x : Cand1) (ps : List (Nat × Nat)) : Bool :=
  ps.any fun p => s.regions.any fun g => !(x.d.prov && g.tenant == x.d.tenant && g.num == x.d.region) &&
    g.bound.any (fun b => decide (b.1 < p.1 + p.2) && decide (p.1 < b.1 + b.2))

/-- The ranges of one reference. -/
def State.refPlaces (s : State) (x : Cand1) (w : Nat) : List (Nat × Nat) :=
  (s.refClusters x).flatMap (fun cl => (s.usesAt x w).map (usePlace x.d cl))

/-- REGION (R125, R143, R226, R231, R240). -/
def State.checkRegion (s : State) (x : Cand1) : Option Reason :=
  let d := x.d
  worstWord 0x10 (
    [(match x.k with
      | .gate => (s.region? d.tenant d.region).isSome
      | .commit => !s.regionOpen d.tenant d.region
      | .squash => !s.regionOpen d.tenant d.region
      | _ => if d.prov then !s.regionOpen d.tenant d.region else d.region != 0, 1),
     ((x.k == .save || x.k == .fenceQuiesce) && s.hasRegion d.tenant, 0xFF),
     (x.k == .restore && s.boundMeets x (s.imageRanges d.tenant), 0xFF)] ++
    (refWords x.k d (s.cmpAny x)).map (fun w => (s.boundMeets x (s.refPlaces x w), w)))

/-- The slot of a group identity: a slot whose member mask is not 0 (R294). -/
def State.slotOf (s : State) (group : Nat) : Option Nat :=
  (List.range 16).find? (fun g => s.obj (key (0x6000 + g) 2) != 0 && s.obj (key (0x6000 + g) 0) == group)

/-- The route of a slot to a position: a cascade port, 0xFE for the block itself, 0xFF for none (R295). -/
def State.route (s : State) (g pp : Nat) : Nat :=
  let r := s.obj (key (0x6040 + g) pp)
  if !bitOf (s.obj (key (0x6000 + g) 2)) pp then 0xFF
  else if r = 0xFE then (if s.obj (key (0x6000 + g) 1) = pp then 0xFE else 0xFF)
  else if r < s.conf.cascades ∧ s.up (17 + r) then r else 0xFF

/-- GROUP (R141, R296). -/
def State.checkGroup (s : State) (x : Cand1) : Option Reason :=
  if x.k.group then
    refuseIf (match s.slotOf x.d.group with
      | none => true
      | some g => s.obj (key (0x6000 + g) 3) != x.d.tenant || s.route g x.d.dest == 0xFF || (s.group g).first.isNone) 0x12 4
  else none

/-- NOSAVE: a D8 tenant holds a tile that has not been drained (R144, R364). -/
def State.checkNosave (s : State) (x : Cand1) : Option Reason :=
  refuseIf (x.k == .save && s.conf == .d8 && s.tiles.any (fun q =>
    s.holds x.d.tenant ⟨q.1 / 64, some (q.1 / 4 % 16), 4 + q.1 % 4, false⟩ && (q.2.tb != 0 || q.2.mode != .free))) 0x13 0xFF

/-! ### TILEHAZ, TERMS -/

/-- The mode that an op fixes (R93, R137, R163). -/
def wantMode (k : OpK) : Option TMode :=
  match k with
  | .scan => some .compare
  | .stream => some .sums
  | .mpass => some .sums
  | .preload => some .sums
  | .owner => some .sums
  | _ => none

/-- Whether an op on a spine set has sent every register of a quarter on a core that owns nothing, so that its lease there is
released (R113). -/
def State.sentOn (s : State) (o : Op) (q : Nat) : Bool :=
  o.d.spinen != 0 && o.chains.zipIdx.all fun c =>
    let sc := coreIdx o.d c.2
    (List.range o.d.m).all fun m =>
      let r := destRow o c.1 false m
      !r.t.quarters.elem q || (decide (sc < o.d.spinen) &&
        (List.range (s.opCols o c.1 c.2)).all (fun j => o.rows.elem (spineKey sc (c.2 % o.d.nchain) m j false)))

/-- The quarters that an outstanding op names; those that a SAVE or RESTORE covers (R361). -/
def State.opHolds (s : State) (o : Op) (q : Nat) : Bool :=
  match o.k with
  | .save => o.held.elem q
  | .restore => o.held.elem q
  | .clear => ((s.namedTiles .drain o.d o.rd).flatMap TileRef.quarters).elem q
  | .stream => ((s.namedTiles .stream o.d o.rd).flatMap TileRef.quarters).elem q && !s.sentOn o q
  | .reroll => false
  | .tagged => false
  | k => ((s.namedTiles k o.d o.rd).flatMap TileRef.quarters).elem q

/-- Whether an op is serializing (R232, R233). -/
def OpK.serial : OpK → Bool
  | .preload => true
  | .drain => true
  | .save => true
  | .restore => true
  | .trimmed => true
  | .retract => true
  | .clear => true
  | _ => false

/-- The source of an accumulating op on a quarter: its chain, or none for an owner, which is its own source (R232). -/
def sourceOn (k : OpK) (d : Desc) (q : Nat) : Option ChainId :=
  if k.tokens then (opChains d).find? (fun c => (chainEngines c (depthOf d.shape)).elem (q / 4)) else none

/-- Whether an op in flight on a quarter refuses a new accumulating op (Table 09-2); a rerolled op counts as COMM = 0 until
its verdict (R283). DESIGN CHOICE: the phase of an op in flight has ended where a serializing op accepted after it is outstanding; one
that was squashed, fenced or lost before is not, and the spec does not say that its phase stays (log 111). -/
def State.clashes (s : State) (x : Cand1) (q : Nat) (o : Op) : Bool :=
  o.k.accumulates && s.opHolds o q &&
    !s.ops.any (fun p => decide (o.id < p.id) && p.k.serial && s.opHolds p q) &&
    !(x.k.tokens && o.k.tokens && sourceOn x.k x.d q == sourceOn o.k o.d q) &&
    !(x.d.comm && o.d.comm && !(o.reroll.isSome && o.verdict.isNone))

/-- Whether a quarter is in a hazard for the op (R93, R226, R234). -/
def State.quarterHaz (s : State) (x : Cand1) (q : Nat) : Bool :=
  let t := s.tileQ q
  (match t.bound with
   | none => false
   | some b => !(x.d.prov && decide (b = (x.d.tenant, x.d.region)))) ||
  (match wantMode x.k with
   | none => false
   | some m => t.mode != .free && t.mode != m) ||
  (x.k.accumulates && s.ops.any (s.clashes x q))

/-- Whether an op ends the range records of its tiles (R320). -/
def endsRanges (k : OpK) (d : Desc) : Bool := k == .preload || k == .restore || (k == .drain && !d.keep)

/-- The quarters of a range's tiles. -/
def Range.quarters (r : Range) : List Nat := r.tiles.flatMap (fun h => (TileRef.ofHandle h).quarters)

/-- Whether a range record lasts only until its owner op has delivered, since an op accepted after it ends it (R320). -/
def State.rangeOver (s : State) (r : Range) : Bool :=
  match r.op.bind s.op? with
  | none => false
  | some o => s.ops.any (fun p => decide (o.id < p.id) && endsRanges p.k p.d && r.quarters.any (s.opHolds p))

/-- Whether an owner's tiles hold the record of another range, or its own record has an op outstanding (R306). -/
def State.rangeHaz (s : State) (d : Desc) : Bool :=
  match s.ownRange d with
  | some r => (r.op.bind s.op?).isSome
  | none =>
    let qs := (s.xredTiles d).flatMap TileRef.quarters
    s.ranges.any (fun r => !s.rangeOver r && r.quarters.any (fun q => qs.elem q))

/-- TILEHAZ. A RESTORE, which covers every tile of its tenant (R361), counts as naming them for R226 (DEDUCED, log 101). -/
def State.checkHaz (s : State) (x : Cand1) : Option Reason :=
  refuseIf ((x.k == .owner && s.rangeHaz x.d) ||
    (x.k == .restore && s.tiles.any (fun e => e.2.bound.isSome && s.holds x.d.tenant ⟨e.1 / 64, some (e.1 / 4 % 16), 4 + e.1 % 4, false⟩)) ||
    ((s.namedTiles x.k x.d x.rolled).flatMap TileRef.quarters).any (s.quarterHaz x)) 0x0B 0xFF

/-- TERMS: a term bound would exceed 2^48 (R40). -/
def State.checkTerms (s : State) (x : Cand1) : Option Reason :=
  refuseIf ((s.termAdds x.k x.d x.rolled).any (fun a => decide (2 ^ 48 < s.termBound a.1 + a.2))) 0x0C 0xFF

/-! ### OUTSTANDING -/

/-- OUTSTANDING (R219): 64 ops in a cluster, 32 in the control queue. A reroll is no op of its own. -/
def State.checkCount (s : State) (x : Cand1) : Option Reason :=
  let all := (s.ops.filter (fun o => !o.k.ghost)).map (fun o => countsIn s.conf o.k o.d)
  let mine := countsIn s.conf x.k x.d
  refuseIf (if mine = [] then decide (32 ≤ (all.filter (fun l => l == [])).length)
    else mine.any (fun c => decide (64 ≤ (all.filter (fun l => l.elem c)).length))) 0x0F 0xFF

/-! ### All checks but the window -/

/-- Whether a tenant waits at a quiesce point (R240). -/
def State.quiescing (s : State) (t : Nat) : Bool := s.ops.any (fun o => o.k == .fenceQuiesce && o.d.tenant == t)

/-- CLOSED, VERSION and OPCODE, which are refused at once and never held (R126, R169). -/
def State.early (s : State) (d : Desc) : Option Reason :=
  if !s.adm.openA || s.quiescing d.tenant then some (0x15, 0xFF)
  else if d.ver ≠ 1 then some (0x03, 0)
  else if (kindOf d).isNone then some (0x02, 0)
  else none

/-- RESERVED: a reserved bit, and an AUX that a DRAIN does not use, the first word at fault (R13, R123, R149, R156). -/
def State.checkReserved (s : State) (x : Cand1) : Option Reason :=
  let w := reservedWord x.k x.d
  worstWord 0x01 [(w.isSome, w.getD 0), (x.k == .drain && x.d.w6 != 0 && x.d.fuse == 0 && !x.d.sbe && !s.cmpAny x, 6)]

/-- TENANT (R124, R356, R357). -/
def State.checkTenant (s : State) (x : Cand1) : Option Reason :=
  refuseIf (s.obj (key (0x3100 + x.d.tenant) 0) != 1 ||
    !(s.touches x.k x.d x.rolled).all (s.holds x.d.tenant)) 0x05 0

/-- ALIGN (R131). -/
def State.checkAlign (s : State) (x : Cand1) : Option Reason :=
  worstWord 0x04 ((refWords x.k x.d (s.cmpAny x)).map (fun w => (refAddr (x.d.word w) % 64 != 0, w)))

/-- The checks of Table 05-12 from CLOSED to OUTSTANDING, in order (R150). DESIGN CHOICE: AUX is the word that holds the field at fault
where one does (0 for TENANT and EPOCH, 4 for GROUP), and 0xFF where a reason names a state of the block rather than a word (CLOSED,
RECONFIG, NOSAVE, TILEHAZ, TERMS, OUTSTANDING, WINDOW, WREQ): R149 lists both and does not say when (log 112). -/
def State.check (s : State) (x : Cand1) : Option Reason :=
  [fun _ => s.early x.d, fun _ => s.checkReserved x, fun _ => s.checkTenant x,
   fun _ => refuseIf (!s.epochLive x.d.tenant x.d.epoch) 0x06 0,
   fun _ => refuseIf (!fmtAllowed x.k x.d) 0x09 1, fun _ => s.checkAlign x, fun _ => s.checkRange x,
   fun _ => refuseIf ((s.touches x.k x.d x.rolled).any (s.reconfig x.k)) 0x14 0xFF,
   fun _ => s.checkShape x, fun _ => s.checkMode x, fun _ => s.checkRegion x, fun _ => s.checkGroup x,
   fun _ => s.checkNosave x, fun _ => s.checkHaz x, fun _ => s.checkTerms x, fun _ => s.checkCount x].findSome?
    (fun (f : Unit → Option Reason) => f ())

/-- The place of a reason in Table 05-12. -/
def reasonRank (r : Reason) : Nat := reasonOrder.findIdx (fun c => c == r.1)

end Sys2Proof.Machine
end

