-- ==== Sys2Proof/Machine/Price.lean ====
section
/-! DEFINITION. The priced time of every kind of op (Table 08-2, R199, R221, R225, R228, R229, R237, R240) and of the group
ops (R300, Table 12-6), whole or what remains of it; the schedule re-priced (R206) and the promise floor (R207); share units (R210).
Choices that the spec leaves to the planner are those of log 12. -/

namespace Sys2Proof.Machine

/-! ### Elements and frames of a reduction (R304, R307) -/

/-- The tiles of an XRED in TLIST order with the number of its elements that each takes (R307). -/
def State.xredSplit (s : State) (d : Desc) : List (TileRef × Nat) :=
  ((s.xredTiles d).foldl (fun (a : Nat × List (TileRef × Nat)) t =>
    let n := min a.1 (t.rows * s.width t)
    (a.1 - n, a.2 ++ [(t, n)])) (d.elems, [])).2

/-- Frames of `n` elements from offset `e` on, at most `per` a frame: offset and count of each. -/
def framesOf (e n per : Nat) : List (Nat × Nat) :=
  (List.range (ceilDiv n per)).map (fun i => (e + i * per, min per (n - i * per)))

/-- Trimmed longs in one frame: 25 of 80 B (R304; log 17). -/
def longsPerFrame : Nat := 25

/-- The DATA frames of a contribution or retraction: offset and count of elements; a frame of trimmed longs carries
elements of one tile only (R307). -/
def State.frameList (s : State) (d : Desc) : List (Nat × Nat) :=
  if d.hier ∧ d.fmt = 6 then
    ((s.xredSplit d).foldl (fun (a : Nat × List (Nat × Nat)) t => (a.1 + t.2, a.2 ++ framesOf a.1 t.2 longsPerFrame)) (0, [])).2
  else framesOf 0 d.elems (frameElems d)

/-- Flits of a list of frames whose elements have `size` bytes: one header each, and the payload. -/
def flitsOf (fs : List (Nat × Nat)) (size : Nat) : Nat := sumN (fs.map (fun f => 1 + ceilDiv (f.2 * size) 64))

/-! ### Link rates (R300) -/

/-- Whether a cascade port is in far mode (R325). -/
def State.far (s : State) (p : Nat) : Bool := s.obj (key 0x6100 p) == 1

/-- RTT_P of the route to a position, ps; none on the loopback path (R295, R300). -/
def State.rttPs (s : State) (g pp : Nat) : Nat :=
  let r := s.route g pp
  if r = 0xFE then 0 else if s.far r then 2500000 else 250000

/-- The allotment held at a position, flits (R300, R301). -/
def State.allotment (s : State) (g pp : Nat) : Nat := s.obj (key (0x6080 + g) pp) % 32768

/-- Whether frames to a position have a priced rate. -/
def State.linkPriced (s : State) (g pp : Nat) : Bool := s.route g pp == 0xFE || s.allotment g pp != 0

/-- The time of a number of flits at the priced link rate to a position, ps; to the own position at the port class share of the cluster
buffer, 32 flits per period of the block's envelope (R110, R191, R295, R300). -/
def State.sendPs (s : State) (g pp flits : Nat) : Nat :=
  let r := s.route g pp
  if r = 0xFE then ceilDiv (flits * s.tauCap s.envPriced s.capPriced) 32
  else max (ceilDiv (flits * s.rttPs g pp) (max 1 (s.allotment g pp))) (ceilDiv (flits * 160) (if s.far r then 1 else 3))

/-! ### Group ops (Table 12-6) -/

/-- The port of an op's DATA. -/
def State.dataPort (s : State) (o : Op) : Nat := if refMem o.d.w5 then s.portOf o 5 else 1 + opCluster o.d

/-- What an op asks of the memory share of its DATA in one direction: one unit for a memory-space tensor (R210, R324; log 93). -/
def State.dataAsk (s : State) (o : Op) (wr : Bool) : List Ask := if refMem o.d.w5 then [⟨unitKey (s.dataPort o) wr, 1, 0⟩] else []

/-- The bytes of an op's elements at the units granted, in ticks. A tensor in buffer space holds none and is priced at one unit
(log 12). -/
def State.dataTicks (s : State) (o : Op) (wr : Bool) (us : List Nat) : Nat :=
  psTicks (movePs (o.d.elems * xredSize o.d) (s.dataPort o) wr us)

/-- Register reads of an XRED's tiles at `per` τ/512 a register, τ/512: those of the chains that hold them side by side, the longest
counts (R195). -/
def State.readLen (s : State) (d : Desc) (per : Nat) : Nat :=
  let ps := s.xredSplit d
  maxN (((ps.map (fun p => s.holder p.1)).eraseDups).map (fun h =>
    sumN ((ps.filter (fun p => s.holder p.1 == h)).map (fun p => p.2 * per * s.tileChains p.1))))

/-- The positions of an owner's possible collectors: the live members other than itself that it has a route to. -/
def State.collectorsOf (s : State) (g : Nat) : List Nat :=
  (s.group g).live.filter fun pp => pp != s.obj (key (0x6000 + g) 1) && s.route g pp != 0xFF

/-! ### Context images (R199) -/

/-- The clusters through whose ports the image of a context op moves: those of the parts that it covers, cluster 0 for none. -/
def Op.imageClusters (o : Op) : List Nat := if o.clusters = [] then [0] else o.clusters

/-- The port of a cluster for an image: its memory port, or its pairing port for an address in the window (R397, R398). -/
def State.imagePort (s : State) (o : Op) (cl : Nat) : Nat :=
  if s.inWindow (refAddr o.d.w5) (refAddr o.d.w5 + o.d.w2.toNat) then 9 + cl else 1 + cl

/-- The ports of an image, cluster by cluster. -/
def State.imagePorts (s : State) (o : Op) : List Nat := o.imageClusters.map (s.imagePort o)

/-- What a context op asks of its ports (log 93). -/
def State.imageAsks (s : State) (o : Op) : List Ask := (s.imagePorts o).map (fun q => ⟨unitKey q (o.k == .save), 16, 0⟩)

/-- The components of a SAVE or RESTORE: LEN at its memory share on its ports side by side (R199). -/
def State.imageLens (s : State) (o : Op) (us : List Nat) : OpLen :=
  let q := (s.imagePorts o).headD 1
  { OpLen.zero with fixed := psTicks (ceilDiv (o.d.w2.toNat * unitPs q (o.k == .save)) (max 1 us.length)) }

/-! ### Asks and components -/

/-- Whether every position that an op sends to has a priced rate: its peer, or every member that could collect from an owner (R301). -/
def State.linksPriced (s : State) (o : Op) : Bool :=
  if !o.k.group then true
  else match s.slotOf o.d.group with
    | none => false
    | some g => if o.k = .owner then o.d.hier || (s.collectorsOf g).all (s.linkPriced g) else s.linkPriced g o.d.dest

/-- What an op asks of memory and pairing ports at the period of its tokens (R210). An op without tokens has none behind which its loads
hide: 16 units for a LOADW or a context image, 1 for every other (DESIGN CHOICE, log 93). -/
def State.asksOf (s : State) (o : Op) (b : Nat) : List Ask :=
  let one (wr : Bool) (ten : Nat) : List Ask := if refMem (o.d.word ten) then [⟨unitKey (s.portOf o ten) wr, 1, 0⟩] else []
  match o.k with
  | .drain => mergeAsks (one true 5 ++ one (o.d.fuse == 0) 6)
  | .preload => one false 5
  | .owner => if o.d.hier then [] else s.dataAsk o true
  | .collection => s.dataAsk o true
  | .contrib => mergeAsks (s.dataAsk o false ++ (if o.d.prov then [] else s.dataAsk o true))
  | .retract => if xredNames o.d then [] else s.dataAsk o false
  | .save => s.imageAsks o
  | .restore => s.imageAsks o
  | k => if k.array ∨ k = .reroll then s.arrayAsks o (s.basePeriod o.d o.chains b) o.tau else []

/-- The components of an owner XRED (Table 12-6). -/
def State.ownerLens (s : State) (o : Op) (g : Nat) (us : List Nat) : OpLen :=
  let d := o.d
  let retry := s.readLen d 4 + 10 * 512
  if d.hier then { OpLen.zero with tok := s.readLen d 4, post := retry }
  else
    let send := psTicks (sumN ((s.collectorsOf g).map (fun pp => s.sendPs g pp (flitsOf (framesOf 0 d.elems (frameElems d)) (xredSize d)))))
    { OpLen.zero with tok := s.readLen d (max 4 (xredSize d)) + 9 * 512, post := retry, fixed := send + s.dataTicks o true us }

/-- The components of a contribution, trimmed-long contribution, RETRACT or collection (Table 12-6). -/
def State.contribLens (s : State) (o : Op) (g : Nat) (us : List Nat) : OpLen :=
  let d := o.d
  let trimmed := d.hier && d.fmt == 6
  let rtt := psTicks (s.rttPs g d.dest)
  if o.k = .collection then
    { OpLen.zero with fixed := psTicks (s.sendPs g d.dest 1) + 2 * rtt + s.dataTicks o true us }
  else
    let read := if trimmed then 0 else s.dataTicks o false us
    let send := psTicks (s.sendPs g d.dest (flitsOf (s.frameList d) (if trimmed then 80 else xredSize d) + 1))
    let regs := if trimmed then s.readLen d 4 else 0
    { OpLen.zero with
      tok := regs
      post := regs
      fixed := 2 * (read + send + rtt) + (if o.k = .contrib ∧ !d.prov then s.dataTicks o true us else 0) }

/-- The components of a DRAIN or PRELOAD but its rows (Table 08-2): latency, the retry allowance of one tile at the chain's share, and
its memory transfers. -/
def State.drainLens (s : State) (o : Op) (us : List Nat) : OpLen :=
  let wr := o.k == .drain
  let move (ten : Nat) (wr : Bool) : Nat :=
    if refMem (o.d.word ten) then movePs (sumN (((s.uses o).filter (fun u => u.ten == ten)).map (fun u => u.len))) (s.portOf o ten) wr us else 0
  let c := maxN ((s.partsOf o.d o.rd).map (fun p => s.tileChains p.t))
  { OpLen.zero with
    post := (drainLat o + 8 * c + 10) * 512
    fixed := psTicks (move 5 wr + (if wr then move 6 (o.d.fuse == 0) else 0)) }

/-- The components of an op at the units granted. -/
def State.lensOf (s : State) (o : Op) (b : Nat) (us : List Nat) : OpLen :=
  let group (f : Nat → OpLen) : OpLen := ((s.slotOf o.d.group).map f).getD .zero
  match o.k with
  | .loadw => s.loadwLens o us
  | .stream => s.arrayLens o b us
  | .scan => s.arrayLens o b us
  | .mpass => s.arrayLens o b us
  | .reroll => s.arrayLens o b us
  | .drain => s.drainLens o us
  | .preload => s.drainLens o us
  | .owner => group (fun g => s.ownerLens o g us)
  | .contrib => group (fun g => s.contribLens o g us)
  | .trimmed => group (fun g => s.contribLens o g us)
  | .retract => group (fun g => s.contribLens o g us)
  | .collection => group (fun g => s.contribLens o g us)
  | .save => s.imageLens o us
  | .restore => s.imageLens o us
  | _ => .zero

/-! ### FENCE, COMMIT, SQUASH (R199, R228, R229, R237, R240) -/

/-- Whether an op has still to be accepted. -/
def Op.fresh (o : Op) : Bool := o.deadline == 0

/-- The stop bound of an op that is stopped now (R229). -/
def State.stopBound (s : State) (sch : Sched) (o : Op) : Nat :=
  let lat := if o.k.array ∨ o.k = .reroll then (flightCap o.d + 1) * 512
    else if o.k = .drain ∨ o.k = .preload then
      maxN ((s.partsOf o.d o.rd).map (fun p => s.rowLen o p 0)) + (drainLat o + 1) * 512
    else 512
  min (sch.fin o) (256 * s.now + ticks lat (sch.tau o))

/-- Whether a snapshot holds the header alone (R223). -/
def Snap.clear (n : Snap) : Bool := n.tb.all (fun b => b == 0)

/-- The tiles that a region's snapshots, taken and not yet restored, restore, and whether each holds the header alone. -/
def Region.restores (g : Region) : List (TileRef × Bool) :=
  (g.snaps.filter (fun n => n.taken && !n.closed)).map (fun n => (TileRef.ofHandle n.tile, n.clear))

/-- The ops of a region. -/
def State.regionOps (s : State) (t r : Nat) : List Op :=
  s.ops.filter fun o => o.d.prov && o.d.tenant == t && o.d.region == r && !o.k.ghost

/-- The latest of some ticks, from now. -/
def State.fromNow (s : State) (l : List Nat) : Nat := l.foldl max (256 * s.now)

/-- The end of a SQUASH (R229): the stop bounds of the region's ops, then its restores, which follow one another and the earlier uses of
each chain's drain share (R195). -/
def State.squashEnd (s : State) (sch : Sched) (o : Op) : Nat :=
  match s.region? o.d.tenant o.d.region with
  | none => 256 * s.now
  | some g =>
    let mine := s.regionOps o.d.tenant o.d.region
    let base := s.fromNow (mine.map (s.stopBound sch))
    let others (p : Op) : Bool := !mine.any (fun q => q.id == p.id)
    s.fromNow (base :: ((g.restores.map (fun t => s.holder t.1)).eraseDups).map fun h =>
      max base (s.drainFree sch o others h) + s.snapTicks sch (g.restores.filter (fun t => s.holder t.1 == h)))

/-- The end of a COMMIT: the ops of its region and the rerolls placed against them, plus 1 step (R228). -/
def State.commitEnd (s : State) (sch : Sched) (d : Desc) : Nat :=
  let ids := (s.regionOps d.tenant d.region).map (fun o => o.id)
  s.lastFinish sch (fun o => ids.elem o.id || (o.k == .reroll && (o.rolled.map ids.elem).getD false)) + 256

/-- The epochs that an epoch FENCE fences: live now, and fenced once the floor is FEPOCH + 1 (R236). -/
def newlyFenced (floor fep e : Nat) : Bool :=
  decide ((e + 65536 - floor) % 65536 < 32768) && !decide ((e + 131072 - (fep + 1)) % 65536 < 32768)

/-- Whether the epoch that a FENCE names is live (R236). -/
def State.fenceLive (s : State) (d : Desc) : Bool := s.epochLive d.tenant d.fepoch

/-- The outstanding ops that an epoch FENCE newly fences. -/
def State.fencedOps (s : State) (d : Desc) : List Op :=
  if s.fenceLive d then
    s.ops.filter fun o => o.k != .tagged && o.k != .clear && o.d.tenant == d.tenant &&
      newlyFenced (s.obj (key (0x3100 + d.tenant) 1)) d.fepoch o.d.epoch
  else []

/-- The end of a FENCE (R199, R237, R240). Of the ops that an epoch FENCE waits on, those that it stops end at their stop bounds. -/
def State.fenceEnd (s : State) (sch : Sched) (o : Op) : Nat :=
  match o.k with
  | .fenceEpoch =>
    let discard := s.obj (key (0x3100 + o.d.tenant) 2) == 0
    if o.fresh then
      (if s.fenceLive o.d = false then 256 * s.now
      else s.fromNow ((s.fencedOps o.d).map (fun p => if discard then s.stopBound sch p else sch.fin p)) + 256)
    else s.fromNow ((s.ops.filter (fun p => o.waits.elem p.id)).map (fun p => if p.stopped then s.stopBound sch p else sch.fin p)) + 256
  | _ => s.lastFinish sch (fun p => decide (p.id < o.id) && !p.k.ghost && fenceMeets s.conf o p) + 256

/-! ### The whole or the remainder of every kind (R197, R199, R206, R207) -/

/-- Dictionary drains queued on tiles that an op names: one period each (R170). -/
def State.drqTicks (s : State) (sch : Sched) (ts : List TileRef) : Nat :=
  let hits := s.drq.filter (fun q => q.state == 1 && ts.any (tilesMeet (TileRef.ofHandle (q.req % 65536))))
  ticks (512 * hits.length) (sch.period (ts.map (fun t => coreOf t.n)))

/-- The end of a DICT: 10 steps behind what holds it, and for a request of a dictionary drain its wait and one-period read (R170, R199). -/
def State.dictEnd (s : State) (sch : Sched) (o : Op) : Nat :=
  let d := o.d
  let t := TileRef.ofHandle (fld d.w4 15 0)
  let r : RowRef := ⟨t, fld d.w4 20 16⟩
  let from_ := s.heldUntil sch o
  if d.flag0 ∧ d.dindex = 0xF010 ∧ d.dsub = 2 then
    ((s.ops.filter (fun p => s.rowPending p r)).map (fun p => s.rowAt sch p r)).foldl max from_ + 2560 + ticks 512 (sch.period [coreOf t.n])
  else from_ + 2560

/-- The tiles of which an op needs snapshots before it starts, and whether each holds the header alone (R223). -/
def State.snapsOf (s : State) (o : Op) : List (TileRef × Bool) :=
  if o.fresh then (if o.k = .reroll then [] else (s.snapsFor o.k o.d o.rd).map (fun t => (t, s.termBound t == 0)))
  else s.regions.flatMap fun g => (g.snaps.filter (fun n => n.op == o.id && !n.taken && !n.closed)).map (fun n => (TileRef.ofHandle n.tile, n.clear))

/-- Where the work of an op begins: now once it has started, else its start with its release time; the snapshots that it needs follow
earlier uses of their drain shares (R195, R225), and dictionary drains queued on its tiles come first (R170). -/
def State.beginOf (s : State) (sch : Sched) (o : Op) : Nat :=
  let ready := if o.started then 256 * s.now else max (s.startOf sch o) (256 * o.rel)
  let snaps := s.snapsOf o
  max ready (s.drainFreeOf sch o (snaps.map (fun t => t.1))) + s.snapTicks sch snaps + s.drqTicks sch (s.namedTiles o.k o.d o.rd)

/-- Ticks of memory and link time that a group op still needs: what its frames have not yet sent; the retry allowance stays. -/
def State.framesLeft (s : State) (o : Op) : Nat :=
  let js := s.jobs.filter (fun j => j.op == o.id && !j.ended)
  if js ≠ [] then share o.lens.fixed (sumN (js.map (fun j => j.total - j.next))) (sumN (js.map (fun j => j.total)))
  else if o.started && o.k != .owner then o.lens.fixed - o.lens.fixed / 2 else o.lens.fixed

/-- The finish of an op whose work begins at a tick, of what is still to do of it. A transfer that has begun moves at its own memory
share and ends as priced. -/
def State.endOf (s : State) (sch : Sched) (o : Op) (start : Nat) : Nat :=
  let l := o.lens
  let group := start + ticks ((if o.fin then 0 else l.tok) + l.post) (sch.tau o) + s.framesLeft o
  let fixed (len : Nat) : Nat := if o.started then max (256 * s.now) o.finish else start + len
  match o.k with
  | .loadw => start + s.arrayLeft o (sch.tau o)
  | .stream => start + s.arrayLeft o (sch.tau o)
  | .scan => start + s.arrayLeft o (sch.tau o)
  | .mpass => start + s.arrayLeft o (sch.tau o)
  | .reroll => start + s.arrayLeft o (sch.tau o)
  | .preload => s.rowsEnd sch o start + ticks l.post (sch.tau o) + l.fixed
  | .drain => s.rowsEnd sch o start + ticks l.post (sch.tau o) + l.fixed
  | .owner => group
  | .contrib => group
  | .trimmed => group
  | .retract => group
  | .collection => group
  | .save => fixed l.fixed
  | .restore => fixed l.fixed
  | .ballast => fixed (256 * o.d.dur)
  | .commit => s.commitEnd sch o.d
  | .squash => s.squashEnd sch o
  | .fenceOrder => s.fenceEnd sch o
  | .fenceEpoch => s.fenceEnd sch o
  | .fenceQuiesce => s.fenceEnd sch o
  | .dict => if o.fresh then s.dictEnd sch o else max (s.heldUntil sch o) o.finish
  | .gate => max (256 * s.now) o.finish
  | .tagged => max (256 * s.now) o.finish
  | .clear => max (256 * s.now) o.finish

/-- The starts and finishes of the remainders of the outstanding ops, oldest first, re-priced from the present state at some periods. -/
def State.replan (s : State) (period : List Nat → Nat) : List (Nat × Nat × Nat) :=
  s.ops.foldl (fun acc o =>
    let sch := s.schedOf period acc
    let start := s.beginOf sch o
    acc ++ [(o.id, start, s.endOf sch o start)]) []

/-- The schedule of the outstanding ops: as priced, or re-priced where a priced period has risen since (R206). -/
def State.sched (s : State) : Sched :=
  if s.ops.all (fun p => p.tau == 0 || decide (s.tauOf (s.pathCores p) ≤ p.tau)) then ⟨fun p => p.start, fun p => p.finish, fun p => p.tau, s.tauOf⟩
  else s.schedOf s.tauOf (s.replan s.tauOf)

/-! ### The promise floor (R207) -/

/-- Whether an op bounds the promise floor of a core: its work lies there, or the restores of its region. -/
def State.bounds (s : State) (c : Nat) (o : Op) : Bool :=
  !o.k.ghost && (opOnCore o c || (o.k == .squash && (s.region? o.d.tenant o.d.region).any (fun g => g.restores.any (fun t => coreOf t.1.n == c))))

/-- Whether every outstanding op on a core meets DEADLINE + STALL with the core at a period, with the padding of R196. -/
def State.floorMet (s : State) (c tau : Nat) : Bool :=
  let period (cs : List Nat) : Nat := maxN (cs.map (fun x => if x = c then tau else (s.tauP x).getD 0))
  let sch := s.schedOf period (s.replan period)
  s.ops.all fun o => !s.bounds c o ||
    decide ((sch.fin o - 256 * s.now) * 8193 + 256 * s.now * 8192 ≤ 256 * (o.deadline + s.stallOf o) * 8192)

/-- τ_floor of a core, ps: the largest period of 16 bits at which every op on it meets DEADLINE + STALL; 0xFFFF when none is outstanding
(R207). -/
def State.coreFloor (s : State) (c : Nat) : Nat :=
  if s.ops.any (s.bounds c) then
    ((List.range 16).map (fun i => 2 ^ (15 - i))).foldl (fun a b => if s.floorMet c (a + b) then a + b else a) 0
  else 0xFFFF

/-- The block's promise floor (R207). -/
def State.blockFloor (s : State) : Nat :=
  (List.range s.conf.cores).foldl (fun a c => min a (s.coreFloor c)) 0xFFFF

/-! ### Share units granted (R210) -/

/-- The tick until which an op holds its units: its priced finish, and the next step at least until it delivers. -/
def State.unitsUntil (s : State) (sch : Sched) (o : Op) : Nat := max (sch.fin o) (256 * (s.now + 1))

/-- The units of a port in one direction that no outstanding op holds at any time from one tick to another, each op from its priced start
to its delivery (R210). -/
def State.unitsFree (s : State) (sch : Sched) (k a b : Nat) : List Nat :=
  ((List.range 16).map (16 * k + ·)).filter fun u =>
    !s.ops.any (fun p => p.units.elem u && decide (sch.start p < b) && decide (a < s.unitsUntil sch p))

/-- The units granted to an op that starts at a tick, with its finish at the units granted: what it needs, at most what is free as long as
it runs, and at least 1 (R210). Fewer units make it run longer, so that the search only lowers their number. -/
def State.grantUnits (s : State) (sch : Sched) (asks : List Ask) (fin : List Nat → Nat → Nat) (start : Nat) : Nat → List Nat → List Nat
  | 0, us => us
  | n + 1, us =>
    let next := asks.flatMap (fun a => (s.unitsFree sch a.key start (fin us start)).take (max 1 a.need))
    if next = us then us else s.grantUnits sch asks fin start n next

/-- The earliest start from a tick on at which every ask has a unit, the start itself or the priced release of one, and the units granted
then. -/
def State.grant (s : State) (sch : Sched) (asks : List Ask) (fin : List Nat → Nat → Nat) (start : Nat) : Nat × List Nat :=
  if asks = [] then (start, [])
  else
    let held := (s.ops.filter (fun p => p.units != [])).map (s.unitsUntil sch)
    let ends := (held.filter (fun t => decide (start < t))).mergeSort (fun a b => decide (a ≤ b))
    let units (t : Nat) : List Nat := s.grantUnits sch asks fin t 64 (asks.flatMap (fun a => (s.unitsFree sch a.key t (t + 1)).take (max 1 a.need)))
    match (start :: ends).findSome? (fun t =>
      let us := units t
      if asks.all (fun a => us.any (fun u => u / 16 == a.key)) then some (t, us) else none) with
    | some r => r
    | none => (maxN (start :: ends), [])

/-! ### The price -/

/-- What pricing gives: start tick, finish tick, period, components, units, and the ramp of the cores. -/
structure Price where
  start : Nat
  finish : Nat
  tau : Nat
  lens : OpLen
  units : List Nat
  ramp : Option Ramp
deriving DecidableEq, Repr

/-- No price: nothing is taken and nothing released from `t` on. -/
def Price.none_ (t : Nat) : Price := ⟨t, t, 0, .zero, [], none⟩

/-- A price with ticks added ahead of its finish. -/
def Price.later (p : Price) (t : Nat) : Price := { p with finish := p.finish + t }

/-- Whether an op presents tokens, so that its cores are released for it (R333). -/
def OpK.releases (k : OpK) : Bool := k.tokens || k == .ballast

/-- The release of an op's cores for work that starts at a tick and presents tokens for some ticks: the cores stay at full load through
those tokens and the hold behind them, which a later release moves on (R333, R334). -/
def State.releaseRamp (s : State) (o : Op) (start tokens : Nat) : Nat → Nat → Ramp
  | 0, until_ => s.ramp (opCores o) (ceilDiv start 256) until_ (if o.k = .ballast then o.d.level else 255)
  | n + 1, until_ =>
    let r := s.ramp (opCores o) (ceilDiv start 256) until_ (if o.k = .ballast then o.d.level else 255)
    let next := ceilDiv (max start (256 * r.release) + tokens) 256 + s.holdTime
    if next ≤ until_ then r else s.releaseRamp o start tokens n next

/-- The release of an op's cores when its work could start at a tick. -/
def State.releaseAt (s : State) (sch : Sched) (o : Op) (start : Nat) : Ramp :=
  let tokens := s.endOf sch o start - ticks o.lens.post (sch.tau o) - start
  s.releaseRamp o start tokens 16 (ceilDiv (start + tokens) 256 + s.holdTime)

/-- The price of an op whose conversions by companions write `b` bytes a register: it begins behind all that it waits on, at a free unit
and once its cores are released (Table 08-2); none when a core has no priced period or a peer no priced rate (R204, R301). -/
def State.price (s : State) (o : Op) (b : Nat) : Option Price :=
  if s.priced (s.pathCores o) = false ∨ s.linksPriced o = false then none
  else
    let sch := s.sched
    let o0 := { o with tau := s.tauOf (s.pathCores o) }
    let asks := s.asksOf o0 b
    let with_ (us : List Nat) : Op := { o0 with lens := s.lensOf o0 b us, units := us }
    let most := with_ (asks.flatMap (fun a => (List.range (min 16 (max 1 a.need))).map (16 * a.key + ·)))
    let ready := s.beginOf sch most
    let first := if o.k.releases then max ready (256 * (s.releaseAt sch most ready).release) else ready
    let g := s.grant sch asks (fun us t => s.endOf sch (with_ us) t) first
    let o1 := with_ g.2
    let ramp := if o.k.releases then some (s.releaseAt sch o1 g.1) else none
    let start := max g.1 (256 * ((ramp.map (fun r => r.release)).getD 0))
    some ⟨start, s.endOf sch o1 start, o1.tau, o1.lens, g.2, ramp⟩

end Sys2Proof.Machine
end

