-- ==== Sys2Proof/Machine/Accept.lean ====
section
/-! DEFINITION. What the acceptance of an op does: its record in the op table, the planner's tile state (R40, R93, R154,
R163, R418), weight sets in force (R134), snapshots and bindings (R223 to R226), rerolls (R284), the plan and its forecast
(R333), regions (R221, R229), epoch fences (R236, R237), range records (R306, R320). -/

namespace Sys2Proof.Machine

/-! ### The op record -/

/-- The resources that an op uses, shares of ports apart (R201): chains with their lanes and drain shares, tile leases, the spine links
that it sends on, the drain shares that its rows, register reads and snapshots use, and the cascade ports to its peers. -/
def State.resOf (s : State) (k : OpK) (d : Desc) (rd : Option Desc) (chains : List ChainId) : List Res :=
  let tiles := s.namedTiles k d rd
  let drains := (if chains = [] then tiles else []) ++ s.snapsFor k d rd
  let peers := if !k.group then [] else match s.slotOf d.group with
    | none => []
    | some g => (if k = .owner then s.collectorsOf g else [d.dest]).map (s.route g)
  let lanes (c : ChainId) : List Res :=
    [Res.chain (chainKey c), Res.lane (chainKey c)] ++ (if k.tokens && isRolling d then [Res.drain (chainKey c)] else [])
  (chains.flatMap lanes ++ drains.map (fun t => Res.drain (s.holder t)) ++ (tiles.flatMap TileRef.quarters).map Res.tile ++
    (if k = .stream then ((chains.map (fun c : ChainId => c.core)).eraseDups.take d.spinen).map Res.spine else []) ++
    peers.map Res.port).eraseDups

/-- Resources with their slip counts now. -/
def State.slipped (s : State) (l : List Res) : List (Res × Nat) := l.map (fun r => (r, s.slipOf r))

/-- A new op record (R219): counts start at zero, and the chains with no enabled column have nothing to do. -/
def State.newOp (s : State) (k : OpK) (d : Desc) (form : Bool) (rolled : Option Nat) (rd : Option Desc) : Op :=
  let chains := if k.array ∨ k = .reroll then opChains d else []
  let cols (ci : Nat) (c : ChainId) : Nat := match k, rd with
    | .reroll, some r => s.chainCols r ((opChains r).getD ci c) ci
    | _, _ => s.chainCols d c ci
  let toks := chains.zipIdx.map fun c => if k = .loadw ∨ cols c.2 c.1 ≠ 0 then 0 else tokenCount d (coreIdx d c.2)
  let loads := chains.zipIdx.map fun c =>
    if cols c.2 c.1 = 0 then loadCount d (coreIdx d c.2) else if k = .loadw then 0 else firstLoad d
  { id := s.adm.nextId, k := k, d := d, form := form, cAcc := s.now, deadline := 0, start := 0, finish := 0, rel := 0, tau := 0,
    lens := .zero, units := [], chains := chains, res := s.slipped (s.resOf k d rd chains),
    tl := if k.tokens then tlOf d else [], tl2 := if k.tokens then tl2Of d else [], comp := [], rolled := rolled,
    started := false, stopped := false, pres := toks, added := toks, loads := loads,
    wl := if k.tokens ∧ isRolling d then chains.map (fun c => (s.chain c).ws.map (fun w => w.load)) else [],
    rows := [], retried := false, failed := false, poisoned := false, ending := none,
    own := 0, wout := 0, wdue := 0, sent := 0, dflt := false, fin := false, ackc := none, got := 0,
    again := false, waits := [], flr := s.obj (key (0x3100 + d.tenant) 1), reroll := none, verdict := none, dstat := 0,
    cmpq := s.cmpOf k d rd, img := [], req := [],
    rd := rd, tbs := [],
    cuts := [],
    held := if k.context then (s.tenantParts d.tenant).flatMap (fun x => x.engines.flatMap (fun n => (TileRef.mk n x.q).quarters)) else [],
    sets := if k = .save then s.chains.filterMap (fun e => e.2.ws.map (fun w => (e.1, w))) else [] }

/-- An op record with its price; the units granted are resources of their ports (R201, R210). -/
def State.pricedOp (s : State) (o : Op) (p : Price) (deadline : Nat) : Op :=
  { o with
    start := p.start, finish := p.finish, tau := p.tau, lens := p.lens, units := p.units, deadline := deadline,
    res := o.res ++ s.slipped (p.units.map .units),
    rel := (p.ramp.map (fun r => r.release)).getD 0 }

/-- The window of a price, in steps (R196). -/
def State.windowAt (s : State) (p : Price) : Nat := windowOf (p.finish - 256 * s.now)

/-! ### Whether a window can be issued (R194, R204, R339, R406) -/

/-- The memory or pairing ports that an op moves tensors through. -/
def State.opPorts (s : State) (o : Op) : List Nat :=
  if o.k.context then s.imagePorts o
  else (((s.uses o).map (fun u => u.ten)).eraseDups.filter (fun t => refMem (o.d.word t))).map (s.portOf o)

/-- Whether no window at all can be issued: the strobe is lost, an island is in excursion, the power stage is lost, or a
port that the op needs is down. -/
def State.noWindow (s : State) (o : Op) : Bool :=
  s.clk.lost || s.pwr.exc || s.pwr.lost || !s.up 25 || (s.opPorts o).any (fun q => !s.up q)

/-- The window cap (R205). -/
def State.windowCap (s : State) : Nat := s.obj (key 0x2200 1)

/-! ### Tile state (R40, R93, R154, R163, R418) -/

/-- Terms added to the term bound of each quarter of a tile. -/
def State.addTerms (s : State) (a : TileRef × Nat) : State := s.mapTile a.1 (fun q => { q with tb := q.tb + a.2 })

/-- Terms of an element that a PRELOAD writes (R40). -/
def preloadTerms (d : Desc) : Nat := if d.fmt = 4 then 2 else 1

/-- Quarters of which the parts of a DRAIN or PRELOAD cover every row in every presented column (R154). -/
def State.fullCover (s : State) (d : Desc) (rd : Option Desc) : List Nat :=
  (s.partsOf d rd).flatMap fun p =>
    p.t.quarters.filter fun q =>
      let t := quarterTile q
      let off := t.row0 - p.t.row0
      let west := (s.physCols ⟨t.n, 4⟩).length
      let last := if p.t.q ≠ 0 then s.width t else if t.q = 4 ∨ t.q = 6 then west else s.width p.t
      decide (off + 16 ≤ min p.rows p.t.rows ∧ last ≤ p.cols)

/-- The planner's tile state after an op's acceptance. A PRELOAD of a part of a quarter leaves the terms of the registers beside it (R40). -/
def State.planTiles (s : State) (k : OpK) (d : Desc) (rd : Option Desc) : State :=
  let ts := s.namedTiles k d rd
  let s1 := (s.termAdds k d rd).foldl (fun s a => s.addTerms a) s
  match k with
  | .drain => if d.keep then s1 else
      (s.fullCover d rd).foldl (fun s q => s.setTile q { s.tileQ q with tb := 0, mode := .free }) s1
  | .preload =>
    let s2 := ts.foldl (fun s t => s.mapTile t (fun q => { q with tb := max q.tb (preloadTerms d), mode := .sums })) s1
    (s.fullCover d rd).foldl (fun s q => s.setTile q { s.tileQ q with tb := preloadTerms d }) s2
  | k => match wantMode k with
    | none => s1
    | some m => ts.foldl (fun s t => s.mapTile t (fun q => if q.mode = .free then { q with mode := m } else q)) s1

/-- Range records that an op's acceptance ends: those of tiles that it overwrites or clears (R320), whose ledger entries are
freed (R312; log 62). -/
def State.endRanges (s : State) (f : Range → Bool) : State :=
  let gone := s.ranges.filter f
  let s1 : State := { s with ranges := s.ranges.filter (fun r => !f r) }
  gone.foldl (fun s r =>
    let k := key 0x6101 (TileRef.ofHandle (r.tiles.headD 0)).cluster
    s.setObj k (min 65536 (s.obj k + 64 * r.ncon))) s1

/-- Whether a range lies on one of some tiles. -/
def Range.onTiles (r : Range) (ts : List TileRef) : Bool := r.tiles.any (fun h => ts.any (tilesMeet (TileRef.ofHandle h)))

/-- A PRELOAD, KEEP = 0 DRAIN or RESTORE ends the range records of its tiles, those with an outstanding owner op once that op
has delivered (R320). -/
def State.planRanges (s : State) (o : Op) : State :=
  if endsRanges o.k o.d then
    s.endRanges (fun r => (r.op.bind s.op?).isNone && r.quarters.any (s.opHolds o))
  else s

/-! ### Weight sets in force (R134, R180) -/

/-- The chains of a core whose arrangement an op changes lose their weight sets in force (R134). -/
def State.regroup (s : State) (c : Nat) (o : Op) : State :=
  let mine (k : Nat) : Bool := k / 128 == c
  if baseShape (s.planShape c) ≠ baseShape o.d.shape then
    { s with chains := s.chains.filterMap (fun e =>
      if mine e.1 then (let v := { e.2 with ws := none }; if v = ChainSt.zero then none else some (e.1, v)) else some e) }
  else
    let flips := (List.range 16).filter fun e =>
      o.chains.any (fun x => (chainEngines x (depthOf o.d.shape)).elem (c * 16 + e)) &&
        s.planSplit (c * 16 + e) != (o.d.shape == 5)
    { s with chains := s.chains.filterMap (fun e =>
      if mine e.1 && flips.elem (e.1 / 8 % 16) then
        (let v := { e.2 with ws := none }; if v = ChainSt.zero then none else some (e.1, v)) else some e) }

/-- The weight sets in force after an op: a LOADW's, none after a K sweep, the last load of a rolling MPASS. -/
def State.planSets (s : State) (o : Op) : State :=
  if o.k.loads then
    let cores := (o.chains.map (fun c => c.core)).eraseDups
    let s1 := cores.foldl (fun s c => s.regroup c o) s
    o.chains.zipIdx.foldl (fun s c =>
      let st := s.chain c.1
      if o.k = .loadw then
        s.setChain c.1 { st with ws := some ⟨⟨o.id, 0⟩, o.d.fmt, o.d.k, o.d.n, o.d.n0⟩ }
      else if isRolling o.d then
        (if o.k = .mpass then
          s.setChain c.1 { st with ws := st.ws.map (fun w => { w with load := ⟨o.id, loadTotal o c.2 - 1⟩ }) }
        else s)
      else s.setChain c.1 { st with ws := none }) s1
  else s

/-! ### Regions (R221 to R227) -/

/-- The reservation of a snapshot with the tile state just before its op (R223, R224). -/
def State.reserve (s : State) (id : Nat) (t : TileRef) (addr : Nat) : Snap :=
  ⟨t.handle, id, addr, snapBytes t, t.quarters.map (fun q => (s.tileQ q).tb), t.quarters.map (fun q => (s.tileQ q).mode), false, false⟩

/-- The buffer ranges that an op writes, the staging rings of its memory-space tensors among them, to be bound (R132, R226). -/
def State.boundSpans (s : State) (o : Op) : List (Nat × Nat) :=
  (((s.uses o).filter (fun u => (u.wr || refMem (o.d.word u.ten)) && u.len != 0)).map (usePlace o.d (opCluster o.d))).eraseDups

/-- A provisional op joins its region: snapshots, bound tiles (those of the snapshots, and the source tiles of a trimmed-long
contribution, R233) and ranges, tiles written. -/
def State.joinRegion (s : State) (o : Op) : State :=
  if o.d.prov then
    let t := o.d.tenant
    let r := o.d.region
    let need := (s.placeSnaps t (opCluster o.d) (s.snapsFor o.k o.d o.rd)).getD []
    let sources := if o.k = .trimmed then s.xredTiles o.d else []
    let qs := if writesTiles o.k o.d then (s.namedTiles o.k o.d o.rd).flatMap TileRef.quarters else []
    let spans := s.boundSpans o
    let s1 := s.mapRegion t r (fun g => { g with
      snaps := g.snaps ++ need.map (fun n => s.reserve o.id n.1 n.2)
      bound := g.bound ++ spans
      wrote := qs.foldl insN g.wrote })
    (need.map (fun n => n.1) ++ sources).foldl (fun s x => s.mapTile x (fun q => { q with bound := some (t, r) })) s1
  else s

/-- The tiles of a region are unbound. -/
def State.unbindTiles (s : State) (t r : Nat) : State :=
  s.tiles.foldl (fun s e =>
    if e.2.bound = some (t, r) then s.setTile e.1 { s.tileQ e.1 with bound := none } else s) s

/-- An op of a region stops (R229 steps 1 to 3, R237): it presents, converts and writes nothing further, and completes with
a status once its tokens have landed. -/
def stopOp (status : Nat) (o : Op) : Op := { o with stopped := true, ending := some status }

/-- A quarter's term bound and mode are set back. -/
def State.putQuarter (s : State) (q : Nat × Nat × TMode) : State := s.setTile q.1 { s.tileQ q.1 with tb := q.2.1, mode := q.2.2 }

/-- The quarters of a snapshot with the term bound and mode that it holds for each. -/
def Snap.saved (n : Snap) : List (Nat × Nat × TMode) := (TileRef.ofHandle n.tile).quarters.zip (n.tb.zip n.mode)

/-- A region is squashed from now on (R229): its ops and their rerolls stop; snapshots not taken are cancelled, and the planner's tile
state that they hold stands again, since the region has not written their tiles (R225). -/
def State.squashRegion (s : State) (t r : Nat) : State :=
  let ids := (s.ops.filter (fun o => o.d.prov && o.d.tenant == t && o.d.region == r && o.k != .tagged && o.k != .clear)).map (fun o => o.id)
  let undone := ((s.region? t r).map (fun g => g.snaps.filter (fun n => !n.taken && !n.closed))).getD []
  let s0 := (undone.flatMap Snap.saved).foldl State.putQuarter s
  let s1 : State := { s0 with ops := s0.ops.map (fun o => if ids.elem o.id then stopOp 0x02 o else o) }
  s1.mapRegion t r (fun g => { g with
    closing := true
    squash := true
    snaps := g.snaps.map (fun n => if n.taken then n else { n with closed := true }) })

/-! ### Rerolls (R284) -/

/-- The descriptor of a reroll with TILE moved. -/
def movedTo (d : Desc) (t : TileRef) : Desc := { d with w3 := BitVec.ofNat 64 (d.w3.toNat / 65536 * 65536 + t.handle) }

/-- Whether the chains of a moved op can take the reroll: pool cores, no suspect or quarantined engine, none about to be quarantined or
remapped, and at least the presented width of the op's own chain (R284; log 65). -/
def State.rerollFits (s : State) (d d2 : Desc) : Bool :=
  let dep := depthOf d.shape
  !chainsOver d2 && (opChains d2).zipIdx.all fun c =>
    bitOf (s.obj (key 0x5010 4)) c.1.core && s.chainOffered c.1 dep && decide (s.coreHealth c.1.core < 2) &&
      (chainEngines c.1 dep).all (fun n => s.engineHealth n == 0 && s.bypass n == s.obj (key (0x8000 + n) 2)) &&
      decide (s.chainWidth ((opChains d).getD c.2 c.1) dep ≤ s.chainWidth c.1 dep)

/-- The places on which the reroll of an op fits: the chains of its shape in its cluster, ascending (R284; log 65). -/
def State.rerollPlaces (s : State) (d : Desc) : List Desc :=
  let dep := depthOf d.shape
  let quarters := if d.shape = 5 then [4, 5, 6, 7] else [0]
  let tiles := (List.range 8).flatMap fun i => (List.range (16 / dep)).flatMap fun e => quarters.map fun q =>
    TileRef.mk ((opCluster d * 8 + i) * 16 + e * dep) q
  (tiles.map (movedTo d)).filter (s.rerollFits d)

/-- The steps that a reroll adds to an op's own time: its snapshot restores and the compare, at the figures of R225, on the
widest chain. -/
def State.rerollTicks (s : State) (o : Op) : Nat :=
  2 * s.snapTicks s.sched ((arrayTiles o).map (fun t => (t, false)))

/-! ### Group ops and fences -/

/-- The range record that an owner op declares or resumes (R306, R320), with its ledger reservation (R312). -/
def State.declareRange (s : State) (o : Op) : State :=
  let d := o.d
  match s.ownRange d with
  | some _ => { s with ranges := s.ranges.map (fun r =>
      if r.group == d.group && r.bucket == d.bucket && r.eoff == d.eoff then
        { r with
          op := some o.id, colls := [], badSum := false, ccrc := [], last := s.now, hier := d.hier, excise := d.excise, fmt := d.fmt }
        else r) }
  | none =>
    let k := key 0x6101 (opCluster d)
    let g := (s.slotOf d.group).getD 0
    let r : Range := ⟨g, d.group, d.bucket, d.eoff, d.elems, d.ncon, d.fmt, d.hier, d.excise, d.tenant,
      (s.xredTiles d).map TileRef.handle, List.replicate d.ncon .zero, [], some o.id, s.now, false, []⟩
    let s1 := s.setObj k (s.obj k - 64 * d.ncon)
    { s1 with ranges := s1.ranges ++ [r] }

/-- The outstanding ops of a tenant note that a fence under discard, or a REVOKE, has fenced epochs: what arrives with one of them is a
straggler for each of them, whatever policy counts later (R237, R238). -/
def State.cutOps (s : State) (t floor fep : Nat) : State :=
  { s with ops := s.ops.map (fun p => if p.d.tenant = t then { p with cuts := p.cuts ++ [(floor, fep)] } else p) }

/-- An epoch FENCE takes hold (R236, R237): the floor rises; under discard the ops of the epochs it fences stop. The FENCE
waits for those ops. -/
def State.takeFence (s : State) (o : Op) : State :=
  let ids := ((s.fencedOps o.d).map (fun p => p.id)).filter (fun i => i != o.id)
  let t := o.d.tenant
  let s1 := s.mapOp o.id (fun p => { p with waits := ids })
  if s.fenceLive o.d then
    let s2 := s1.setObj (key (0x3100 + t) 1) ((o.d.fepoch + 1) % 65536)
    if s.obj (key (0x3100 + t) 2) = 0 then
      let s3 : State := { s2 with ops := s2.ops.map (fun p => if ids.elem p.id then stopOp 0x06 p else p) }
      s3.cutOps t (s.obj (key (0x3100 + t) 1)) o.d.fepoch
    else s2
  else s1

/-! ### The plan (R332, R333) -/

/-- A FORECAST message (Table 13-3). -/
def forecastWord (level lead : Nat) : W64 :=
  BitVec.ofNat 64 (at_ 1 60 + at_ 2 56 + at_ (min level 65535) 40 + at_ (min lead 65535) 24)

/-- The plan takes an op's ramp, with the FORECAST that R332 requires. -/
def State.takeRamp (s : State) (r : Ramp) : State :=
  let s1 : State := { s with pwr := { s.pwr with
    rampFree := r.free, plan := r.plan, taper := s.pwr.taper.filter (fun p => s.drawAt p s.now != 0) } }
  match r.level with
  | none => s1
  | some l =>
    let s2 := s1.emit (.power (forecastWord l 2000))
    { s2 with pwr := { s2.pwr with fcs := s2.pwr.fcs ++ [⟨l, s.now, 2000⟩] } }

/-! ### Acceptance -/

/-- What acceptance does beyond the op table, by kind. -/
def State.acceptKind (s : State) (o : Op) : State :=
  let d := o.d
  match o.k with
  | .gate => { s with regions := s.regions ++ [⟨d.tenant, d.region, d.kind, d.ttl, s.now, none, false, false, [], [], [], []⟩] }
  | .commit => s.mapRegion d.tenant d.region (fun g => { g with closing := true, closer := some o.id })
  | .squash => (s.mapRegion d.tenant d.region (fun g => { g with closer := some o.id })).squashRegion d.tenant d.region
  | .fenceEpoch => s.takeFence o
  | .owner => s.declareRange o
  | _ => s

/-- The quarters whose registers an op will send or save as trimmed longs, with their term bound and mode in acceptance
order (log 18). -/
def State.trimBounds (s : State) (o : Op) : List (Nat × Nat × TMode) :=
  let at' (q : Nat) : Nat × Nat × TMode := (q, (s.tileQ q).tb, (s.tileQ q).mode)
  if o.k = .save then (s.tiles.map (fun e => e.1)).map at'
  else if o.k = .trimmed ∨ o.k = .retract ∨ (o.k = .stream ∧ o.d.spinen ≠ 0) then
    let ts := if o.k = .stream then arrayTiles o else s.namedTiles o.k o.d none
    (ts.flatMap TileRef.quarters).eraseDups.map at'
  else []

/-- An op of an acceptance number joins the op table with all that its acceptance does but its response. -/
def State.enterOp (s : State) (o : Op) (p : Price) : State :=
  let s1 : State := { s with adm := { s.adm with nextId := s.adm.nextId + 1 } }
  let s2 := (s1.joinRegion o).planTiles o.k o.d o.rd
  let s3 := (s2.planRanges o).planSets o
  let s4 : State := { s3 with ops := s3.ops ++ [{ o with tbs := s2.trimBounds o }] }
  let s5 := match p.ramp with
    | none => s4
    | some r => s4.takeRamp r
  s5.acceptKind o

/-- What planning one op gives: its record, its price, its window and the state in which it has been entered. -/
structure Plan where
  op : Op
  price : Price
  window : Nat
  after : State
deriving DecidableEq, Repr

/-- A reroll planned behind its op at one place; none when its window would exceed the cap (R284). -/
def State.planReroll (s : State) (o : Op) (d2 : Desc) (b : Nat) : Option State :=
  let r := s.newOp .reroll d2 false (some o.id) (some o.d)
  match s.price r b with
  | none => none
  | some p =>
    let p2 := p.later (s.rerollTicks o)
    if s.windowCap < s.windowAt p2 then none else some (s.enterOp (s.pricedOp r p2 (s.now + s.windowAt p2)) p2)

/-- An op planned; none when no window can be issued (R204). A rerolled op has its reroll placed behind it at the first place where its
window is within the cap, and needs one (R284). -/
def State.plan (s : State) (k : OpK) (d : Desc) (form : Bool) (rolled : Option Nat) (rd : Option Desc) (b : Nat) : Option Plan :=
  let o := s.newOp k d form rolled rd
  if s.noWindow o then none
  else (s.price o b).bind fun p =>
    let w := s.windowAt p
    let o1 := s.pricedOp o p (s.now + w)
    if s.rerolled k d then
      let o2 := { o1 with reroll := some (o.id + 1) }
      let s1 := s.enterOp o2 p
      ((s.rerollPlaces d).findSome? (fun d2 => s1.planReroll o2 d2 b)).map (fun after => ⟨o2, p, w, after⟩)
    else some ⟨o1, p, w, s.enterOp o1 p⟩

/-- Whether a window satisfies R204. -/
def State.windowOk (s : State) (d : Desc) (w : Nat) : Bool := decide (w ≤ s.windowCap) && (d.wreq == 0 || decide (w ≤ d.wreq))

/-- The admission response of an accepted op (Table 05-11). -/
def acceptance (d : Desc) (deadline credits : Nat) : Resp :=
  ⟨respW0 1 0 d.tenant false d.prov 0 d.tag, BitVec.ofNat 64 deadline, credits⟩

/-- Whether a descriptor is a provisional op: PROV of a STREAM, SCAN, MPASS, PRELOAD, DRAIN or XRED (R222). -/
def provOp (d : Desc) : Bool := d.prov && [0x02, 0x03, 0x04, 0x05, 0x06, 0x08].elem d.op

/-- The admission response of a refused descriptor (Table 05-11), with the provisional tag of a provisional op (R222). -/
def refusal (d : Desc) (r : Reason) (offer credits : Nat) : Resp :=
  ⟨respW0 2 r.1 d.tenant false (provOp d) r.2 d.tag, BitVec.ofNat 64 offer, credits⟩

end Sys2Proof.Machine
end

