-- ==== Sys2Proof/Machine/Frames.lean ====
section
/-! DEFINITION. Cascade frames (R302 to R305): the header of Table 12-2, CRC-32C, the encodings of elements, the checksum of
a contribution (R310), and how a frame leaves the block under its credits (R215, R295, R300). -/

namespace Sys2Proof

/-- VER of a frame (Table 12-2). -/
def Frame.ver (f : Frame) : Nat := fld f.w0 63 60
/-- FTYPE (Table 12-3). -/
def Frame.ftype (f : Frame) : Nat := fld f.w0 59 56
/-- TENANT (Table 12-2). -/
def Frame.tenant (f : Frame) : Nat := fld f.w0 55 52
/-- PROV (Table 12-2). -/
def Frame.prov (f : Frame) : Bool := bitOf f.w0.toNat 51
/-- REGION (Table 12-2). -/
def Frame.region (f : Frame) : Nat := fld f.w0 50 45
/-- NEG (Table 12-2). -/
def Frame.neg (f : Frame) : Bool := bitOf f.w0.toNat 44
/-- SRC (Table 12-2). -/
def Frame.src (f : Frame) : Nat := fld f.w0 43 38
/-- DST (Table 12-2). -/
def Frame.dst (f : Frame) : Nat := fld f.w0 37 32
/-- GROUP (Table 12-2). -/
def Frame.group (f : Frame) : Nat := fld f.w0 31 16
/-- EPOCH (Table 12-2). -/
def Frame.epoch (f : Frame) : Nat := fld f.w0 15 0
/-- BUCKET (Table 12-2). -/
def Frame.bucket (f : Frame) : Nat := fld f.w1 63 32
/-- REOFF (Table 12-2). -/
def Frame.reoff (f : Frame) : Nat := fld f.w1 31 0
/-- RELEMS (Table 12-2). -/
def Frame.relems (f : Frame) : Nat := fld f.w2 63 32
/-- CID (Table 12-2). -/
def Frame.cid (f : Frame) : Nat := fld f.w2 31 0
/-- FEOFF (Table 12-2). -/
def Frame.feoff (f : Frame) : Nat := fld f.w3 63 32
/-- NEL (Table 12-2). -/
def Frame.nel (f : Frame) : Nat := fld f.w3 31 21
/-- NFLIT (Table 12-2). -/
def Frame.nflit (f : Frame) : Nat := fld f.w3 20 15
/-- EFMT (Table 12-2). -/
def Frame.efmt (f : Frame) : Nat := fld f.w3 14 13
/-- WIDTH (Table 12-2). -/
def Frame.width (f : Frame) : Nat := fld f.w3 12 7
/-- FSEQ (Table 12-2). -/
def Frame.fseq (f : Frame) : Nat := fld f.w4 63 32
/-- CTL (Table 12-3). -/
def Frame.ctl (f : Frame) : Nat := fld f.w4 31 0
/-- CS (Table 12-2). -/
def Frame.cs (f : Frame) : Nat := fld f.w5 60 0
/-- MASK (Table 12-2). -/
def Frame.mask (f : Frame) : Nat := f.w6.toNat
/-- CRC (Table 12-2). -/
def Frame.crc (f : Frame) : Nat := fld f.w7 63 32
/-- TERM (Table 12-2). -/
def Frame.term (f : Frame) : Nat := fld f.w7 31 0

end Sys2Proof

namespace Sys2Proof.Machine

/-! ### The frame's CRC (R302) -/

/-- The bytes that the CRC covers: the header with its CRC field zero, then each payload flit and its 4 sideband bytes. -/
def frameBytes (f : Frame) : List Byte :=
  [f.w0, f.w1, f.w2, f.w3, f.w4, f.w5, f.w6, BitVec.ofNat 64 (f.w7.toNat % 2 ^ 32)].flatMap (fun w => leBytes 8 w.toNat) ++
    f.payload.flatMap (fun p => leBytes 64 p.data.toNat ++ leBytes 4 p.psn.toNat)

/-- Whether a frame's CRC holds. -/
def frameOk (f : Frame) : Bool := crc32c (frameBytes f) == f.crc

/-- A frame with its CRC filled in. -/
def Frame.seal (f : Frame) : Frame :=
  { f with w7 := BitVec.ofNat 64 (f.w7.toNat % 2 ^ 32 + at_ (crc32c (frameBytes f)) 32) }

/-- Flits of a frame: the header and the payload. -/
def frameFlits (f : Frame) : Nat := 1 + f.payload.length

/-! ### Headers -/

/-- The fields of a frame to be sent; fields not given are 0. -/
structure Hdr where
  ftype : Nat
  tenant : Nat := 0
  prov : Bool := false
  region : Nat := 0
  neg : Bool := false
  src : Nat
  dst : Nat
  group : Nat
  epoch : Nat := 0
  bucket : Nat := 0
  reoff : Nat := 0
  relems : Nat := 0
  cid : Nat := 0
  feoff : Nat := 0
  nel : Nat := 0
  efmt : Nat := 0
  width : Nat := 0
  fseq : Nat := 0
  ctl : Nat := 0
  cs : Nat := 0
  mask : Nat := 0
  term : Nat := 0
deriving DecidableEq, Repr

/-- The frame of a header and payload flits (Table 12-2). -/
def Hdr.frame (h : Hdr) (payload : List Flit) : Frame :=
  Frame.seal
    ⟨BitVec.ofNat 64 (at_ 1 60 + at_ h.ftype 56 + at_ h.tenant 52 + at_ (bit h.prov) 51 + at_ h.region 45 + at_ (bit h.neg) 44 +
        at_ h.src 38 + at_ h.dst 32 + at_ h.group 16 + h.epoch),
      BitVec.ofNat 64 (at_ h.bucket 32 + h.reoff), BitVec.ofNat 64 (at_ h.relems 32 + h.cid),
      BitVec.ofNat 64 (at_ h.feoff 32 + at_ h.nel 21 + at_ payload.length 15 + at_ h.efmt 13 + at_ h.width 7),
      BitVec.ofNat 64 (at_ h.fseq 32 + h.ctl), BitVec.ofNat 64 h.cs, BitVec.ofNat 64 h.mask, BitVec.ofNat 64 h.term, payload⟩

/-- EFMT of a descriptor's elements: EL16, comet pairs, trimmed longs (Table 12-2). -/
def efmtOf (d : Desc) : Nat := if d.fmt = 4 then 1 else if d.fmt = 6 then 2 else 0

/-- The header fields that name a contribution's range (R305). -/
def rangeHdr (ftype src dst : Nat) (d : Desc) : Hdr :=
  { ftype := ftype, tenant := d.tenant, prov := d.prov, region := if d.prov then d.region else 0, src := src, dst := dst,
    group := d.group, epoch := d.epoch, bucket := d.bucket, reoff := d.eoff, relems := d.elems, cid := d.cid }

/-! ### Elements (R304, R310) -/

/-- An element of a frame: what enters a register, and the terms that it brings (R309). -/
structure Elt where
  inc : Incoming
  terms : Nat
deriving DecidableEq, Repr

/-- Whether an element is special or poisoned: it enters the ledger only (R309). -/
def Elt.special (e : Elt) : Bool := e.inc.nan || e.inc.pinf || e.inc.ninf || e.inc.psn

/-- The flag bits of a ledger entry: NAN 1, PINF 2, NINF 4, POISON 8 (R312). -/
def Elt.flags (e : Elt) : Nat := bit e.inc.nan + 2 * bit e.inc.pinf + 4 * bit e.inc.ninf + 8 * bit e.inc.psn

/-- P = 2^61 − 1 (R310). -/
def csMod : Nat := 2 ^ 61 - 1

/-- The checksum share of elements from offset `feoff` on (R310). -/
def csOf (reoff feoff : Nat) (es : List Elt) : Nat :=
  (es.zipIdx.foldl (fun a e =>
    if e.1.special then a else (a + (reoff + feoff + e.2 + 1) * residue e.1.inc.v csMod) % csMod) 0)

/-- −CS mod P (R310). -/
def csNeg (cs : Nat) : Nat := (csMod - cs % csMod) % csMod

/-- The unit `i` of a payload: its code and poison. -/
def payUnit (p : List Flit) (i : Nat) : Code × Bool :=
  match p[i / 32]? with
  | none => (0, false)
  | some f => (f.data.extractLsb' (16 * (i % 32)) 16, f.psn.getLsbD (i % 32))

/-- The words of a payload. -/
def payWords (p : List Flit) : List W64 :=
  p.flatMap (fun f => (List.range 8).map (fun i => f.data.extractLsb' (64 * i) 64))

/-- `n` trimmed longs read from words; none when one is malformed (R55). -/
def readLongs : Nat → List W64 → Option (List Trimmed)
  | 0, _ => some []
  | _, [] => none
  | n + 1, h :: r =>
    match untrim (h :: r.take (trimCount h)) with
    | none => none
    | some t => match readLongs n (r.drop (trimCount h)) with
      | none => none
      | some l => some (t :: l)

/-- Whether every well-formed trimmed long of a frame matches its residues (R252 Table 10-1, R254). -/
def frameSound (f : Frame) : Bool :=
  f.efmt != 2 || (match readLongs f.nel (payWords f.payload) with
  | none => true
  | some l => l.all (fun t => t.checks))

/-- The elements of a frame (R304); none when a trimmed long is malformed. -/
def frameElts (f : Frame) : Option (List Elt) :=
  if f.efmt = 2 then
    (readLongs f.nel (payWords f.payload)).map (fun l => l.map (fun t =>
      ⟨t.reg.incoming, 2 ^ t.te⟩))
  else if f.efmt = 1 then
    some ((List.range f.nel).map fun i =>
      let h := payUnit f.payload (2 * i)
      let t := payUnit f.payload (2 * i + 1)
      ⟨Incoming.ofComet h.1 t.1 (h.2 || t.2), 2⟩)
  else some ((List.range f.nel).map fun i => let c := payUnit f.payload i; ⟨Incoming.ofCode c.1 c.2, 1⟩)

/-- Units as payload flits, with their poison. -/
def packUnits (us : List Elem) : List Flit :=
  (List.range (ceilDiv us.length 32)).map fun i =>
    let here := (us.drop (32 * i)).take 32
    ⟨BitVec.ofNat 512 (here.foldr (fun (u : Elem) (a : Nat) => u.code.toNat + 65536 * a) 0),
      BitVec.ofNat 32 (here.foldr (fun (u : Elem) (a : Nat) => bit u.psn + 2 * a) 0)⟩

/-- Words as payload flits, padded with zeros; trimmed longs carry no sideband poison (R304). -/
def packWords (ws : List W64) : List Flit :=
  (List.range (ceilDiv ws.length 8)).map fun i =>
    ⟨BitVec.ofNat 512 (((ws.drop (8 * i)).take 8).foldr (fun (w : W64) (a : Nat) => w.toNat + 2 ^ 64 * a) 0), 0⟩

/-! ### Sending (R215, R295, R300) -/

/-- The block's position in a group slot. -/
def State.posOf (s : State) (g : Nat) : Nat := s.obj (key (0x6000 + g) 1)

/-- Flits in use at a position change (R301). -/
def GroupSt.use (v : GroupSt) (pp n : Nat) : GroupSt := { v with used := sset 0 v.used pp (sget 0 v.used pp + n) }

/-- Flits at a position are returned. -/
def GroupSt.unuse (v : GroupSt) (pp n : Nat) : GroupSt := { v with used := sset 0 v.used pp (sget 0 v.used pp - n) }

/-- A frame leaves on a cascade port: its flits cost credits and are in flight until they return. -/
def State.launch (s : State) (q : Nat) (fl : Flight) (f : Frame) : State :=
  let p := s.port q
  let s1 := (s.setPort q { p.spend fl.n s.portNow with fly := p.fly ++ [fl] }).emit (.frame q f)
  let s2 := match fl.peer with
    | none => s1
    | some x => s1.setGroup x.1 ((s1.group x.1).use x.2 fl.n)
  match fl.op with
  | none => s2
  | some id => s2.mapOp id (fun o => { o with wout := o.wout + fl.n })

/-- Whether a frame is one of the election, of the allotments, or a revoke notice: these leave on the port's credits alone, since they
come before an allotment or belong to no group op (R239, R298, R300; log 104). -/
def control (f : Frame) : Bool := f.ftype == 8 || decide (0xA ≤ f.ftype)

/-- Whether a frame's flits fit the port's credits and, unless it is a control frame, the allotment at its position (R215, R300). -/
def State.fitsPort (s : State) (q : Nat) (fl : Flight) (f : Frame) : Bool :=
  decide (fl.n ≤ (s.port q).cr) && (control f || (match fl.peer with
    | none => true
    | some x => decide (sget 0 (s.group x.1).used x.2 + fl.n ≤ s.allotment x.1 x.2)))

/-- Whether a frame waits at a port for the same position. -/
def waitsFor (w : List (Flight × Frame)) (peer : Option (Nat × Nat)) : Bool := w.any (fun x => x.1.peer == peer)

/-- A frame on a cascade port, or behind others for its position that wait there for credits. -/
def State.sendOn (s : State) (q : Nat) (op tenant : Option Nat) (at' : Option (Nat × Nat)) (f : Frame) : State :=
  let p := s.port q
  let fl : Flight := ⟨op, tenant, frameFlits f, at'⟩
  if !waitsFor p.wait at' && s.fitsPort q fl f then s.launch q fl f
  else s.setPort q { p with wait := p.wait ++ [(fl, f)] }

/-- A frame to a position: on the loopback path, by its cascade port, or behind others that wait there for credits; to a position
without a route it is dropped (R295). -/
def State.sendFrame (s : State) (g pp : Nat) (op tenant : Option Nat) (f : Frame) : State :=
  let r := s.route g pp
  if r = 0xFE then { s with loop := s.loop ++ [f] }
  else if r = 0xFF then s
  else s.sendOn (17 + r) op tenant (some (g, pp)) f

/-- The first waiting frame that may leave: none for its position stands before it. -/
def State.nextWaiting (s : State) (q : Nat) : List (Flight × Frame) → List (Flight × Frame) → Option (Flight × Frame)
  | _, [] => none
  | before, x :: r => if !waitsFor before x.1.peer && s.fitsPort q x.1 x.2 then some x else s.nextWaiting q (before ++ [x]) r

/-- Waiting frames leave, in order for each position, while credits last. -/
def State.flushPort (s : State) (q : Nat) : Nat → State
  | 0 => s
  | k + 1 => match s.nextWaiting q [] (s.port q).wait with
    | none => s
    | some x => ((s.setPort q { s.port q with wait := (s.port q).wait.erase x }).launch q x.1 x.2).flushPort q k

/-- Whether a frame of a job may leave now: its route is up, its flits fit the port's credits and the allotment at its
position (R300). -/
def State.maySend (s : State) (g pp n : Nat) : Bool :=
  let r := s.route g pp
  r == 0xFE || (r != 0xFF && !waitsFor (s.port (17 + r)).wait (some (g, pp)) && decide (n ≤ (s.port (17 + r)).cr) &&
    decide (sget 0 (s.group g).used pp + n ≤ s.allotment g pp))

/-- Flits of the receive pool of a cascade port (Table 09-1). -/
def State.poolSize (s : State) (q : Nat) : Nat := if s.far (q - 17) then 16384 else 4096

/-- Whether a frame fits the receive pool of its cascade port beside the frames that wait there (R218); one that waits there does. -/
def State.poolRoom (s : State) (q : Nat) (f : Frame) : Bool :=
  (s.port q).rx.elem f || decide (sumN ((s.port q).rx.map frameFlits) + frameFlits f ≤ s.poolSize q)

/-- A frame that cannot be taken yet waits in the receive pool of its port: its credit does not go back (R215; log 102). On the loopback
path it stays where it is. -/
def State.holdFrame (s : State) (q : Nat) (f : Frame) : State :=
  if q = 0xFE ∨ (s.port q).rx.elem f then s else s.setPort q { s.port q with rx := (s.port q).rx ++ [f] }

/-- Whether two frames belong to one stream of a sender on a range. -/
def sameStream (a b : Frame) : Bool :=
  a.src == b.src && a.group == b.group && a.bucket == b.bucket && a.reoff == b.reoff && a.cid == b.cid

/-- Whether an earlier frame of a frame's stream still waits in the receive pool: frames are taken in the order sent (R295). -/
def State.behind (s : State) (q : Nat) (f : Frame) : Bool := q != 0xFE && ((s.port q).rx.takeWhile (fun x => x != f)).any (sameStream f)

/-- A received frame is taken: its credit returns to its sender (Table 09-1), or it leaves the loopback path. -/
def State.returnCredit (s : State) (q : Nat) (f : Frame) : State :=
  if q = 0xFE then { s with loop := s.loop.drop 1 }
  else (s.setPort q { s.port q with rx := (s.port q).rx.erase f }).giveCredits q 0x0D (frameFlits f)

/-- A new send job. -/
def State.addJob (s : State) (op : Nat) (k : JobK) (g dest total : Nat) : State :=
  { s with jobs := s.jobs ++ [⟨s.nextJob, op, k, g, dest, 0, total, [], false, false⟩], nextJob := s.nextJob + 1 }

/-- A job changes. -/
def State.mapJob (s : State) (id : Nat) (f : Job → Job) : State :=
  { s with jobs := s.jobs.map (fun j => if j.id == id then f j else j) }

/-- Jobs leave. -/
def State.dropJobs (s : State) (f : Job → Bool) : State := { s with jobs := s.jobs.filter (fun j => !f j) }

/-- The lines of an op's source are read from memory again from a frame on (R305, R316). -/
def State.rereads (s : State) (id frame : Nat) : State :=
  match s.op? id with
  | none => s
  | some o =>
    if refMem o.d.w5 then
      let first := (s.needSeq o 5).findIdx (fun e => decide (frame ≤ e.1))
      let s1 := s.dropStaging id
      (s1.mapOp id (fun p => { p with req := (5, first) :: p.req.filter (fun x => x.1 != 5) })).requestAll id 5 256
    else s

end Sys2Proof.Machine
end

