-- ==== Sys2Proof/Machine/Reduce.lean ====
section
/-! DEFINITION. The owner's side of exact reduction (R306 to R323): slots and their states, elements added and withdrawn,
checksums, the ledger, completion, results, aborts. -/

namespace Sys2Proof.Machine

/-! ### Records and answers -/

/-- An event of the cascade classes: UNIT 0x12, LOC the port of the route to a position (R326). -/
def State.cascadeEvent (s : State) (cls sev g pp : Nat) (tenant : Option Nat) (detail : Nat) : State :=
  let r := s.obj (key (0x6040 + g) pp)
  s.event ⟨cls, sev, 0x12, if r < 8 then portLoc (17 + r) else 0, none, tenant, detail⟩

/-- DETAIL of NAN_CONTRIB, EXCISED and CHECKSUM (Table 12-7). -/
def slotDetail (pos slot elem bucket : Nat) : Nat := at_ pos 34 + at_ (slot % 64) 28 + at_ (elem % 2 ^ 14) 14 + bucket % 2 ^ 14

/-- The range record that a frame names. -/
def State.frameRange (s : State) (f : Frame) : Option Range := s.range? f.group f.bucket f.reoff

/-- The range of an identity changes. -/
def State.mapRange (s : State) (r : Range) (f : Range → Range) : State :=
  { s with ranges := s.ranges.map (fun x => if x.group == r.group && x.bucket == r.bucket && x.eoff == r.eoff then f x else x) }

/-- A slot of a range changes. -/
def State.mapSlot (s : State) (r : Range) (i : Nat) (f : Slot → Slot) : State :=
  s.mapRange r (fun x => { x with slots := setAt x.slots i (f (x.slots.getD i .zero)) })

/-- The range as it stands now. -/
def State.rangeNow (s : State) (r : Range) : Range := (s.range? r.group r.bucket r.eoff).getD r

/-- The outstanding owner op of a range (R306, R320). -/
def State.rangeOp (s : State) (r : Range) : Option Op := r.op.bind s.op?

/-- The epoch that an owner's frames carry: its op's, or that of the frame it answers. -/
def State.ownerEpoch (s : State) (r : Option Range) (f : Frame) : Nat :=
  match r.bind s.rangeOp with
  | none => f.epoch
  | some o => o.d.epoch

/-- A frame that answers another on its range (log 60). -/
def State.replyHdr (s : State) (g ftype : Nat) (f : Frame) (ctl : Nat) : Hdr :=
  { ftype := ftype, tenant := f.tenant, src := s.posOf g, dst := f.src, group := f.group,
    epoch := s.ownerEpoch (s.frameRange f) f, bucket := f.bucket, reoff := f.reoff, relems := f.relems, cid := f.cid, ctl := ctl }

/-- The owner answers with an ACK (Table 12-5). -/
def State.ack (s : State) (g : Nat) (f : Frame) (code aframes : Nat) : State :=
  s.sendFrame g f.src ((s.frameRange f).bind (fun r => r.op)) (some f.tenant)
    ((s.replyHdr g 3 f (at_ code 24 + aframes % 2 ^ 24)).frame [])

/-- An ACK that fails its contribution, with its record (class 0x104). -/
def State.ackFail (s : State) (g : Nat) (f : Frame) (code aframes : Nat) : State :=
  (s.ack g f code aframes).cascadeEvent 0x104 2 g f.src (some f.tenant) (at_ f.src 34 + at_ code 26 + f.cid / 64)

/-! ### Registers of a range (R307) -/

/-- The tile, row and column of an element among tiles. -/
def State.placeIn (s : State) : List TileRef → Nat → Option (TileRef × Nat × Nat)
  | [], _ => none
  | t :: r, k =>
    let w := s.width t
    if k < t.rows * w then some (t, k / max 1 w, k % max 1 w) else s.placeIn r (k - t.rows * w)

/-- The place of an element of a range. -/
def State.rangePlace (s : State) (r : Range) (k : Nat) : Option (TileRef × Nat × Nat) :=
  if r.elems ≤ k then none else s.placeIn (r.tiles.map TileRef.ofHandle) k

/-- The register of an element of a range. -/
def State.rangeReg (s : State) (r : Range) (k : Nat) : Option Nat :=
  match s.rangePlace r k with
  | none => none
  | some p => s.regAt p.1 p.2.1 p.2.2

/-- The registers of a whole range, by element. -/
def State.rangeRegs (s : State) (r : Range) : List Nat := (List.range r.elems).filterMap (s.rangeReg r)

/-- The key of a register row, as an owner op notes the rows that it has entered. -/
def rowMark (rk : Nat) : Nat := rk / 32

/-- An element enters its register, or leaves it, when it is finite (R309); the new N is checked (R252). -/
def State.enterElt (s : State) (r : Range) (k : Nat) (neg : Bool) (e : Elt) : State :=
  match s.rangePlace r k with
  | none => s
  | some p => match s.regAt p.1 p.2.1 p.2.2 with
    | none => s
    | some rk =>
      if e.special then s
      else s.addReg r.op r.tenant (((s.rangeOp r).map (fun o => o.d.tag)).getD 0) p.1 rk
        ((s.reg rk).add { e.inc with v := if neg then -e.inc.v else e.inc.v })

/-- The elements of a frame enter their registers. -/
def State.enterElts (s : State) (r : Range) (feoff : Nat) (neg : Bool) (es : List Elt) : State :=
  es.zipIdx.foldl (fun s e => s.enterElt r (feoff + e.2) neg e.1) s

/-- The most terms that a stream has brought to any one register of each quarter, with those of a frame: each of its elements enters
another register, so that R40 bounds a quarter by the largest (R309, R418; log 55). -/
def State.eltTerms (s : State) (r : Range) (had : Sparse Nat) (feoff : Nat) (es : List Elt) : Sparse Nat :=
  es.zipIdx.foldl (fun a e => match s.rangeReg r (feoff + e.2) with
    | none => a
    | some rk => sset 0 a (quarterOfReg rk) (max (sget 0 a (quarterOfReg rk)) e.1.terms)) had

/-- The terms by which the bound of each quarter grows when a stream's terms grow. -/
def grown (had now : Sparse Nat) : List (Nat × Nat) := now.map (fun e => (e.1, e.2 - sget 0 had e.1))

/-- Whether terms would raise a bound above 2^48. -/
def State.termsOver (s : State) (ts : List (Nat × Nat)) : Bool := ts.any (fun e => decide (2 ^ 48 < (s.tileQ e.1).tb + e.2))

/-- A snapshot not yet taken holds the terms that arrive before it is taken (R223). -/
def Snap.raise (n : Snap) (q k : Nat) : Snap :=
  if n.taken || n.closed then n
  else { n with tb := ((TileRef.ofHandle n.tile).quarters.zip n.tb).map (fun e => if e.1 = q then e.2 + k else e.2) }

/-- Terms are added to the bound of a quarter. -/
def State.raiseQuarter (s : State) (q k : Nat) : State :=
  let s1 := s.setTile q { s.tileQ q with tb := (s.tileQ q).tb + k }
  { s1 with regions := s1.regions.map (fun g => { g with snaps := g.snaps.map (fun n => n.raise q k) }) }

/-- Terms are added to the bounds of their quarters. -/
def State.takeTerms (s : State) (ts : List (Nat × Nat)) : State := ts.foldl (fun s e => s.raiseQuarter e.1 e.2) s

/-- The owner op notes the rows entered (R237). -/
def State.noteRows (s : State) (r : Range) (feoff n : Nat) : State :=
  match r.op with
  | none => s
  | some id =>
    let ks := ((List.range n).filterMap (fun i => s.rangeReg r (feoff + i))).map rowMark
    s.mapOp id (fun o => { o with rows := ks.foldl insN o.rows })

/-- Flags and poison set in a register by ledger bits (R312). -/
def LongReg.flagged (r : LongReg) (b : Nat) : LongReg :=
  { r with nan := r.nan || bitOf b 0, pinf := r.pinf || bitOf b 1, ninf := r.ninf || bitOf b 2, poison := r.poison || bitOf b 3 }

/-- The four flags set to ledger bits. -/
def LongReg.reflag (r : LongReg) (b : Nat) : LongReg :=
  { r with nan := bitOf b 0, pinf := bitOf b 1, ninf := bitOf b 2, poison := bitOf b 3 }

/-- Poison in every register of a range (R316). -/
def State.poisonRange (s : State) (r : Range) : State := s.mapRegs (s.rangeRegs r) (fun _ v => v.mark)

/-! ### Completion (R311, R313) -/

/-- Whether every slot of a range is FINAL or EXCISED. -/
def Range.complete (r : Range) : Bool := r.slots.all (fun x => x.st == .final || x.st == .excised)

/-- The checksum that the registers of a range give (R311). -/
def State.rangeSum (s : State) (r : Range) : Nat :=
  (List.range r.elems).foldl (fun a k => match s.rangeReg r k with
    | none => a
    | some rk => (a + (r.eoff + k + 1) * residue (s.reg rk).val csMod) % csMod) 0

/-- The sum of the checksums of the FINAL slots. -/
def Range.slotSum (r : Range) : Nat := sumN ((r.slots.filter (fun x => x.st == .final)).map (fun x => x.csum)) % csMod

/-- Whether an outstanding op of this block collects the results of a range (R314). -/
def collects (o : Op) (group bucket eoff : Nat) : Bool :=
  ((o.k == .contrib && !o.d.prov) || o.k == .collection) && !o.stopped && o.d.group == group && o.d.bucket == bucket && o.d.eoff == eoff

/-- A complete range is checked, and its owner op may then deliver (R311, R313). A failing sum fails the owner op and the
collectors of this block, and poisons every result (log 61). -/
def State.checkComplete (s : State) (r0 : Range) : State :=
  let r := s.rangeNow r0
  match s.rangeOp r with
  | none => s
  | some o =>
    if r.complete && o.started && !o.fin && o.ending.isNone then
      if s.rangeSum r = r.slotSum then s.mapOp o.id (fun p => { p with fin := true })
      else
        let s1 := s.mapRange r (fun x => { x with badSum := true })
        let s2 : State := { s1 with ops := s1.ops.map (fun p =>
          if p.id = o.id then { p with fin := true, failed := true }
          else if collects p r.group r.bucket r.eoff then { p with failed := true } else p) }
        s2.cascadeEvent 0x102 2 r.g (s.posOf r.g) (some r.tenant) (slotDetail 0 0x3F 0 r.bucket)
    else s

/-- An outstanding owner op is incomplete again: a slot has been emptied (R319). -/
def State.reopen (s : State) (r : Range) : State :=
  match r.op with
  | none => s
  | some id => (s.mapOp id (fun o => { o with fin := false, got := 0 })).dropJobs (fun j => j.op == id && j.k == .results)

/-! ### Slot ends -/

/-- A slot becomes FINAL: its ledger entries enter the flags of their registers (R312), a NaN is recorded once (R321). -/
def State.finalSlot (s : State) (r : Range) (i : Nat) : State :=
  let sl := (s.rangeNow r).slots.getD i .zero
  let s1 := sl.ledger.foldl (fun s e => match s.rangeReg r e.1 with
    | none => s
    | some rk => s.setReg rk ((s.reg rk).flagged e.2)) s
  let s2 := (s1.mapSlot r i (fun x => { x with st := .final, csum := x.cs, prov := none, crc := 0 })).bump (key 0x6110 0) 1
  match sl.ledger.find? (fun e => bitOf e.2 0) with
  | none => s2
  | some e =>
    if sl.nanRec then s2
    else (s2.mapSlot r i (fun x => { x with nanRec := true })).cascadeEvent 0x100 2 r.g sl.src (some r.tenant)
      (slotDetail sl.src i e.1 r.bucket)

/-- The contribution of a slot is refused with a code: a code that takes elements back awaits a withdrawal, otherwise the
slot is as it was (Table 12-5) and the rest of the contribution is discarded (R308). -/
def State.reject (s : State) (r : Range) (i : Nat) (f : Frame) (code : Nat) : State :=
  let sl := (s.rangeNow r).slots.getD i .zero
  let takes := code == 2 || code == 3 || code == 4 || code == 0x0A || sl.nf != 0
  let s1 := if code = 9 then s.mapSlot r i (fun x => { x with src := f.src, cid := f.cid, drop := true })
    else if takes then s.mapSlot r i (fun x => { x with st := .receiving, src := f.src, cid := f.cid, await := some code, crc := 0, drop := false })
    else s.mapSlot r i (fun x => { Slot.zero with used := x.used, again := x.again, src := f.src, cid := f.cid, drop := true })
  if code = 2 ∨ (code = 4 ∧ sl.again = false) then s1.ack r.g f code sl.nf else s1.ackFail r.g f code sl.nf

/-- A withdrawal that fails poisons the range, and the owner op completes FAILED as it stands, with poison in every result (R316; log
61). -/
def State.withdrawFails (s : State) (r : Range) (i : Nat) (f : Frame) (code : Nat) : State :=
  let s1 := (s.poisonRange r).mapSlot r i (fun x => { Slot.zero with used := true, again := x.again })
  let s2 := match s.rangeOp r with
    | none => s1
    | some o => s1.mapOp o.id (fun p => { p with failed := true, fin := true })
  s2.ackFail r.g f code 0

/-! ### DATA (R308, R309) -/

/-- The four streams that reach a slot: a contribution, a withdrawal of one, a retraction, and the return of a failed
retraction. -/
inductive Stream where
  | contrib
  | withdraw
  | retract
  | undo
  | none
deriving DecidableEq, Repr

/-- The stream that a frame belongs to, by NEG, the slot's state and its sender (R316 to R318; log 64). -/
def streamOf (sl : Slot) (f : Frame) : Stream :=
  let mine := sl.src == f.src && sl.cid == f.cid
  if f.neg then
    (if mine && (sl.await.isSome || (sl.st == .held && f.prov)) then .withdraw
     else if sl.st = .final && (sl.wd.isNone || mine) && !sl.undo then .retract
     else .none)
  else if sl.undo && mine then .undo
  else .contrib

/-- The frame number that a slot expects next. -/
def Slot.expects (sl : Slot) (st : Stream) : Nat := match st, sl.wd with
  | .contrib, _ => sl.nf
  | _, none => 0
  | _, some w => w.1

/-- A frame that fails its CRC or is out of sequence: the first asks for a resend, a second fails the stream (R305). -/
def State.frameFault (s : State) (r : Range) (i : Nat) (f : Frame) : State :=
  let sl := r.slots.getD i .zero
  let st := streamOf sl f
  let at' := sl.expects st
  if sl.drop ∧ (sl.crc = 0 ∨ f.fseq ≠ at') then s
  else if sl.crc = 0 then
    let s1 := s.mapSlot r i (fun x => { x with
      crc := 1, drop := true, src := if x.st = .empty then f.src else x.src, cid := if x.st = .empty then f.cid else x.cid })
    let s2 := s1.sendFrame r.g f.src r.op (some f.tenant) ((s.replyHdr r.g 4 f at').frame [])
    (s2.bump (key 0x6110 3) 1).cascadeEvent 0x103 1 r.g f.src (some f.tenant) (at_ f.src 34 + at')
  else match st with
    | .contrib => s.reject r i f 3
    | .withdraw => s.withdrawFails r i f 3
    | .retract => (s.mapSlot r i (fun x => { x with undo := true, wd := none, nf := at', crc := 0 })).ackFail r.g f 3 at'
    | .undo => s.withdrawFails r i f 3
    | .none => s

/-- The formats that an owner accepts: trimmed longs, and its own FMT (R306, R308). -/
def Range.takes (r : Range) (efmt : Nat) : Bool := efmt == 2 || (efmt == 0 && r.fmt == 0) || (efmt == 1 && r.fmt == 4)

/-- Whether a frame's trimmed longs have the width of every tile that receives one of them (R307). -/
def State.widthOk (s : State) (r : Range) (f : Frame) : Bool :=
  f.efmt != 2 || (List.range f.nel).all fun i => match s.rangePlace r (f.feoff + i) with
    | none => true
    | some p => s.width p.1 == f.width

/-- The record of a malformed trimmed long (class 0x020): the path code is that of the cascade pools (Table 09-1; log 60). -/
def State.formatEvent (s : State) (r : Range) (f : Frame) : State :=
  let rt := s.route r.g f.src
  s.cascadeEvent 0x020 2 r.g f.src (some r.tenant) (at_ (if rt < 8 ∧ s.far rt then 11 else 10) 32)

/-- A DATA frame of a contribution in its place is added, or refuses the contribution (R308, R309, R312). -/
def State.takeData (s : State) (r : Range) (i : Nat) (f : Frame) : State :=
  let sl := r.slots.getD i .zero
  match frameElts f with
  | none => (s.formatEvent r f).reject r i f 7
  | some es =>
    if !r.takes f.efmt || decide (f.relems ≠ r.elems) then s.reject r i f 7
    else if !s.widthOk r f then s.reject r i f 9
    else
      let led := (es.zipIdx.filter (fun e => e.1.special && decide (f.feoff + e.2 < r.elems))).map (fun e => (f.feoff + e.2, e.1.flags))
      let had := if sl.nf = 0 then [] else sl.tq
      let tq := if f.efmt = 2 ∨ sl.used then s.eltTerms r had f.feoff es else []
      let ts := grown had tq
      if 64 < sl.ledger.length + led.length then s.reject r i f 0x0A
      else if s.termsOver ts then s.reject r i f 8
      else
        let s1 := ((s.takeTerms ts).enterElts r f.feoff false es).noteRows r f.feoff es.length
        s1.mapSlot r i (fun x => { x with
          st := .receiving
          src := f.src
          cid := f.cid
          prov := if f.prov then some (f.tenant, f.region, f.epoch) else none
          nf := x.nf + 1
          cs := (x.cs + csOf r.eoff f.feoff (es.take (r.elems - f.feoff))) % csMod
          ledger := x.ledger ++ led
          tq := tq
          drop := false })

/-- A frame that takes back cannot be added: a retraction is refused with the code and taken back itself; a withdrawal fails (R309,
R316, R318). -/
def State.undoRefused (s : State) (r : Range) (i : Nat) (f : Frame) (code : Nat) : State :=
  let st := streamOf (r.slots.getD i .zero) f
  let n := (r.slots.getD i .zero).expects st
  if st = .retract then
    (s.mapSlot r i (fun x => { x with undo := decide (n ≠ 0), wd := none, nf := if n = 0 then x.nf else n, drop := true })).ackFail r.g f code n
  else s.withdrawFails r i f code

/-- A DATA frame of a withdrawal, a retraction or its return is subtracted or added back (R309, R316, R318). -/
def State.undoData (s : State) (r : Range) (i : Nat) (f : Frame) : State :=
  let sl := r.slots.getD i .zero
  match frameElts f with
  | none => (s.formatEvent r f).undoRefused r i f 7
  | some es =>
    let w := sl.wd.getD (0, 0)
    let had := if w.1 = 0 then [] else sl.tq
    let tq := s.eltTerms r had f.feoff es
    if s.termsOver (grown had tq) then s.undoRefused r i f 8
    else
      let cs := csOf r.eoff f.feoff (es.take (r.elems - f.feoff))
      (((s.takeTerms (grown had tq)).enterElts r f.feoff f.neg es).noteRows r f.feoff es.length).mapSlot r i (fun x => { x with
        wd := some (w.1 + 1, (w.2 + (if f.neg then csNeg cs else cs)) % csMod)
        src := f.src
        cid := f.cid
        tq := tq
        drop := false })

/-- A DATA frame on a range that is held. A frame in which a trimmed long fails its residue check adds nothing and is treated
as one that failed its CRC (R254). -/
def State.slotData (s0 : State) (r : Range) (i : Nat) (f : Frame) : State :=
  let s := if frameSound f then s0 else s0.countResidue
  let sl := r.slots.getD i .zero
  let st := streamOf sl f
  let fits := decide (f.fseq = sl.expects st) && frameSound f
  match st with
  | .contrib =>
    if sl.await.isSome ∧ sl.src = f.src ∧ sl.cid = f.cid then s
    else if sl.st = .empty then
      (if fits then s.takeData r i f
      else if sl.drop && sl.src == f.src && sl.cid == f.cid && f.fseq != 0 then s
      else s.frameFault r i f)
    else if sl.st = .receiving ∧ sl.src = f.src ∧ sl.cid = f.cid then
      (if fits then s.takeData r i f else s.frameFault r i f)
    else if f.fseq = 0 then s.ackFail r.g f 5 0
    else s
  | .none => if f.fseq = 0 then s.ackFail r.g f 6 0 else s
  | _ => if fits then s.undoData r i f else s.frameFault r i f

/-! ### END (R311, R316, R318, R321) -/

/-- The END of a contribution: the checksum is compared, then the excise policy, then the slot is HELD or FINAL. -/
def State.endContrib (s : State) (r : Range) (i : Nat) (f : Frame) : State :=
  let sl := r.slots.getD i .zero
  if sl.cs ≠ f.cs then
    let s1 := (s.reject r i f 4).mapSlot r i (fun x => { x with again := true })
    s1.cascadeEvent 0x102 2 r.g f.src (some r.tenant) (slotDetail 0 i 0 r.bucket)
  else if r.excise && sl.ledger.any (fun e => bitOf e.2 0) then s.reject r i f 2
  else
    let s1 := if bitOf f.ctl 31 then s.mapRange r (fun x => { x with colls := insN x.colls f.src }) else s
    if f.prov then
      (s1.mapSlot r i (fun x => { x with
        st := .held, prov := some (f.tenant, f.region, f.epoch), src := f.src, cid := f.cid, crc := 0 })).ack r.g f 1 sl.nf
    else
      let s2 := (s1.mapSlot r i (fun x => { x with src := f.src, cid := f.cid })).finalSlot r i
      (s2.ack r.g f 0 sl.nf).checkComplete r

/-- The END of a withdrawal: what was taken back must be what the slot held. -/
def State.endWithdraw (s : State) (r : Range) (i : Nat) (f : Frame) : State :=
  let sl := r.slots.getD i .zero
  let w := sl.wd.getD (0, 0)
  if w.1 = sl.nf ∧ w.2 = f.cs ∧ (w.2 + sl.cs) % csMod = 0 then
    let ex := sl.await == some 2
    let s1 := s.mapSlot r i (fun x => { Slot.zero with
      st := if ex then .excised else .empty, used := true, again := x.again, src := x.src })
    let s2 := (s1.bump (key 0x6110 1) 1).ack r.g f 0x0B w.1
    if ex then
      let bad := (sl.ledger.find? (fun e => bitOf e.2 0)).map (fun e => e.1)
      let s3 := (s2.bump (key 0x6110 2) 1).cascadeEvent 0x101 2 r.g sl.src (some r.tenant) (slotDetail sl.src i (bad.getD 0) r.bucket)
      s3.checkComplete r
    else s2
  else s.withdrawFails r i f 4

/-- The flag rebuild of R312: each register of the entries taken back gets the OR of the entries that remain in FINAL
slots. -/
def State.rebuildFlags (s : State) (r : Range) (i : Nat) (led : List (Nat × Nat)) : State :=
  let rest := (r.slots.zipIdx.filter (fun x => x.2 != i && x.1.st == .final)).flatMap (fun x => x.1.ledger)
  led.foldl (fun s e => match s.rangeReg r e.1 with
    | none => s
    | some rk => s.setReg rk ((s.reg rk).reflag ((rest.filter (fun x => x.1 == e.1)).foldl (fun a x => a ||| x.2) 0))) s

/-- The END of a retraction: checked against the slot's recorded checksum (R318). -/
def State.endRetract (s : State) (r : Range) (i : Nat) (f : Frame) : State :=
  let sl := r.slots.getD i .zero
  let w := sl.wd.getD (0, 0)
  if w.2 = f.cs ∧ (w.2 + sl.csum) % csMod = 0 then
    let s1 := (s.rebuildFlags r i sl.ledger).mapSlot r i (fun x => { Slot.zero with used := true, again := x.again })
    (((s1.reopen r).ack r.g f 0x0C w.1)).cascadeEvent 0x105 0 r.g f.src (some r.tenant) (at_ f.src 34 + at_ i 28)
  else
    (s.mapSlot r i (fun x => { x with undo := true, wd := none, nf := w.1 })).ackFail r.g f 4 w.1

/-- The END of a retraction's own withdrawal: the slot is FINAL as before. -/
def State.endUndo (s : State) (r : Range) (i : Nat) (f : Frame) : State :=
  let sl := r.slots.getD i .zero
  let w := sl.wd.getD (0, 0)
  if w.1 = sl.nf ∧ w.2 = f.cs then
    (s.mapSlot r i (fun x => { x with undo := false, wd := none, crc := 0 })).ack r.g f 0x0B w.1
  else s.withdrawFails r i f 4

/-- An END frame on a range that is held. One that comes out of its place, to an EMPTY slot too, is treated as a CRC failure (R305). -/
def State.slotEnd (s : State) (r : Range) (i : Nat) (f : Frame) : State :=
  let sl := r.slots.getD i .zero
  let st := streamOf sl f
  if sl.drop ∧ f.fseq ≠ sl.expects st then s
  else match st with
    | .contrib =>
      if sl.await.isSome then s
      else if (sl.st = .receiving ∧ sl.src = f.src ∧ sl.cid = f.cid) ∨ (sl.st = .empty ∧ r.elems = 0) then
        (if f.fseq = sl.nf then (s.mapSlot r i (fun x => { x with drop := false })).endContrib r i f else s.frameFault r i f)
      else if sl.st = .empty ∧ f.fseq ≠ sl.nf then s.frameFault r i f
      else s
    | .withdraw => if f.fseq = sl.expects st then s.endWithdraw r i f else s.frameFault r i f
    | .retract => if f.fseq = sl.expects st then s.endRetract r i f else s.frameFault r i f
    | .undo => if f.fseq = sl.expects st then s.endUndo r i f else s.frameFault r i f
    | .none => s

/-! ### Loss, timeout, abort (R322) -/

/-- The owner aborts a range: ABORT to every collector and every source of a non-final slot, the record ends, its ledger
entries are freed, and its op is lost. -/
def State.abortRange (s : State) (r : Range) (reason : Nat) : State :=
  let srcs := (r.slots.filter (fun x => x.st == .receiving || x.st == .held)).map (fun x => x.src)
  let ep := ((s.rangeOp r).map (fun o => o.d.epoch)).getD 0
  let s1 := (srcs ++ r.colls).eraseDups.foldl (fun s pp =>
    s.sendFrame r.g pp r.op (some r.tenant)
      (({ ftype := 9, tenant := r.tenant, src := s.posOf r.g, dst := pp, group := r.group, epoch := ep, bucket := r.bucket,
          reoff := r.eoff, relems := r.elems, ctl := reason } : Hdr).frame [])) s
  s1.endRanges (fun x => x.group == r.group && x.bucket == r.bucket && x.eoff == r.eoff)

/-- The abort of an outstanding range with the loss of its op and its record (class 0x10B). -/
def State.loseRange (s : State) (r : Range) (reason : Nat) : State :=
  let s1 := s.abortRange r reason
  let s2 := match s.rangeOp r with
    | none => s1
    | some o => (s1.dropJobs (fun j => j.op == o.id)).loseOp o
  s2.cascadeEvent 0x10B 2 r.g (s.posOf r.g) (some r.tenant) (at_ reason 32 + r.bucket)

/-- A position of a group is lost (R322): ranges that hold its unfinished slots abort, ops that depend on it are lost, and it
is dropped from every result set. -/
def State.losePosition (s : State) (g pp : Nat) : State :=
  let s1 : State := { s with ranges := s.ranges.map (fun r => if r.g = g then { r with colls := delN r.colls pp } else r) }
  let s2 := s1.dropJobs (fun j => j.g == g && j.dest == pp && j.k == .results)
  let hit := s2.ranges.filter (fun r => r.g == g && (s2.rangeOp r).isSome &&
    r.slots.any (fun x => (x.st == .receiving || x.st == .held) && x.src == pp))
  let s3 := hit.foldl (fun s r => s.loseRange r 1) s2
  let dest (o : Op) : Bool := (o.k == .contrib || o.k == .trimmed || o.k == .collection || o.k == .retract || o.k == .tagged) &&
    o.d.dest == pp && s.slotOf o.d.group == some g
  let s4 := s3.dropJobs (fun j => j.g == g && j.dest == pp)
  s4.loseOps dest

/-! ### Arrival of frames (R303) -/

/-- What every frame meets first: its credit returns, and it is discarded with a bad CRC or an unknown group. The loopback
path has no CRC (R295). -/
def State.frameSlot (s : State) (q : Nat) (f : Frame) : Option Nat :=
  if f.ver ≠ 1 ∨ (q ≠ 0xFE ∧ frameOk f = false) then none else s.slotOf f.group

/-- Whether a frame can arrive now: on a cascade port that is up and has room for it, or as the first frame on the loopback path (R218,
R295). -/
def State.hears (s : State) (q : Nat) (f : Frame) : Bool :=
  if q = 0xFE then s.loop.head? == some f else decide (17 ≤ q) && decide (q ≤ 24) && s.up q && s.poolRoom q f

/-- Whether an epoch was live when an op was accepted and has not been fenced under discard since (R236, R238). -/
def liveFor (o : Op) (e : Nat) : Bool :=
  decide ((e + 65536 - o.flr) % 65536 < 32768) && !o.cuts.any (fun c => newlyFenced c.1 c.2 e)

/-- Whether a frame is a straggler that is discarded (R238): its epoch is fenced for its tenant, and it does not belong to an
owner op accepted before the fence when that was under the complete policy (R237). -/
def State.straggler (s : State) (f : Frame) : Bool :=
  !s.epochLive f.tenant f.epoch &&
    !((s.frameRange f).bind s.rangeOp).any (fun o => liveFor o f.epoch)

/-- A straggler is counted. -/
def State.countStraggler (s : State) (f : Frame) : State := s.bump (key (0x3100 + f.tenant) 4) 1

/-- A cascade port index that does not exist (R394). -/
def State.noPort (s : State) (q : Nat) : Bool := q != 0xFE && !portBuilt s.conf q

/-- The slot of a contribution's frame in its range (log 60). -/
def Range.slotIdx (r : Range) (f : Frame) : Option Nat := if f.cid % 64 < r.slots.length then some (f.cid % 64) else none

/-- The range notes that a frame has come. -/
def State.touchRange (s : State) (r : Range) : State := s.mapRange r (fun x => { x with last := s.now })

/-- Whether the elements of a DATA frame must wait: a row that one of them enters is not open to the range's owner op, behind a DRAIN,
PRELOAD, snapshot or dictionary drain that stands before it (R163, R168, R170, R223, R235). The frame then stays in its receive pool
(log 102). -/
def State.dataWaits (s : State) (f : Frame) : Bool :=
  match s.frameRange f with
  | none => false
  | some r => match s.rangeOp r with
    | none => false
    | some o =>
      let rows := (List.range f.nel).filterMap (fun i => (s.rangePlace r (f.feoff + i)).map (fun p => (⟨p.1, p.2.1⟩ : RowRef)))
      rows.eraseDups.any (fun x => !s.rowOpen o x)

/-- What a DATA frame does at the owner. A CID whose slot is not below NCON (R306) is answered FORMAT, a code that the spec does not name for
it (DESIGN CHOICE, log 113). -/
def State.dataIn (s : State) (g : Nat) (f : Frame) : State :=
  if s.straggler f then s.countStraggler f
  else match s.frameRange f with
    | none => if f.fseq = 0 then s.ackFail g f 6 0 else s
    | some r =>
      let s1 := s.touchRange r
      match r.slotIdx f with
      | none => if f.fseq = 0 then s1.ackFail g f 7 0 else s1
      | some i => s1.slotData r i f

/-- What an END frame does at the owner. -/
def State.endIn (s : State) (g : Nat) (f : Frame) : State :=
  if s.straggler f then s.countStraggler f
  else match s.frameRange f with
    | none => if f.relems = 0 ∨ f.fseq = 0 then s.ackFail g f 6 0 else s
    | some r =>
      let s1 := s.touchRange r
      match r.slotIdx f with
      | none => s1
      | some i => s1.slotEnd r i f

/-- A DATA or END frame with a bad CRC asks for its resend (R305). -/
def State.badCrc (s : State) (f : Frame) : State :=
  match s.frameRange f with
  | none => s
  | some r => match r.slotIdx f with
    | none => s
    | some i => s.frameFault r i f

/-- The RESULT frames of a range: offset and count of elements (R304, R313). -/
def resultFrames (r : Range) : List (Nat × Nat) := framesOf 0 r.elems (if r.fmt = 4 then 512 else 1024)

/-- What a COLLECT frame does: its sender becomes a collector, or is answered NORANGE when no owner op is outstanding
(R313). -/
def State.collectIn (s : State) (g : Nat) (f : Frame) : State :=
  if s.straggler f then s.countStraggler f
  else match s.frameRange f with
    | none => s.ackFail g f 6 0
    | some r => match s.rangeOp r with
      | none => s.ackFail g f 6 0
      | some o =>
        let s1 := ((s.touchRange r).mapRange r (fun x => { x with colls := insN x.colls f.src })).ack g f 0 0
        if o.got ≠ 0 then s1.addJob o.id .results g f.src (resultFrames r).length else s1

/-- A COLLECT frame with a bad CRC asks for its resend once; a second is answered ACK CRC (R305). -/
def State.collectBad (s : State) (f : Frame) : State :=
  match s.frameRange f with
  | none => s
  | some r =>
    if r.ccrc.elem f.src then (s.mapRange r (fun x => { x with ccrc := delN x.ccrc f.src })).ackFail r.g f 3 0
    else
      let s1 := s.mapRange r (fun x => { x with ccrc := insN x.ccrc f.src })
      let s2 := s1.sendFrame r.g f.src r.op (some f.tenant) ((s.replyHdr r.g 4 f 0).frame [])
      (s2.bump (key 0x6110 3) 1).cascadeEvent 0x103 1 r.g f.src (some f.tenant) (at_ f.src 34)

/-- The HELD slots that a commit notice names become FINAL (R317). The notice of a fenced epoch is a straggler but for the slots of owner ops
that the fence let run (R238). -/
def State.commitIn (s : State) (g : Nat) (f : Frame) : State :=
  let hits (r : Range) : List (Slot × Nat) :=
    r.slots.zipIdx.filter (fun x => x.1.st == .held && x.1.src == f.src && x.1.prov == some (f.tenant, f.region, f.epoch))
  let mine := s.ranges.filter (fun r => r.g == g && hits r != [] &&
    (s.epochLive f.tenant f.epoch || (s.rangeOp r).any (fun o => liveFor o f.epoch)))
  if mine = [] ∧ s.epochLive f.tenant f.epoch = false then s.countStraggler f
  else mine.foldl (fun s r => ((hits r).foldl (fun s x => s.finalSlot r x.2) s).checkComplete r) s

/-- RANGE_TIMEOUT: an outstanding range that no frame has reached for its timeout is aborted (R322). -/
def execRangeTimeout (group bucket eoff : Nat) (s : State) : Host.Outcome State Fault Refusal :=
  match s.range? group bucket eoff with
  | none => .next s
  | some r =>
    if (s.rangeOp r).isSome ∧ !r.complete ∧ s.obj (key (0x6000 + r.g) 7) ≤ s.now - r.last then .next (s.loseRange r 2) else .next s

end Sys2Proof.Machine
end

