-- ==== Sys2Proof/Machine/Contribute.lean ====
section
/-! DEFINITION. The contributor's side of exact reduction (R302, R304, R305, R310, R313 to R318, R322, R323): frames read
from their source and sent, the owner's answers, withdrawals, results written, aborts, squashes and fences of group ops. -/

namespace Sys2Proof.Machine

/-! ### Frames of a send job (R302, R304, R310) -/

/-- Whether a job subtracts: a withdrawal and a retraction (R316, R318); a retraction's own withdrawal adds back. -/
def JobK.neg : JobK → Bool
  | .withdraw => true
  | .retract => true
  | _ => false

/-- Whether a job takes back what its op sent. -/
def JobK.undoes : JobK → Bool
  | .withdraw => true
  | .unretract => true
  | _ => false

/-- The places of the elements of a frame in the source tiles of a trimmed-long contribution (R307). -/
def State.longPlaces (s : State) (d : Desc) (off n : Nat) : List (TileRef × Nat × Nat) :=
  (List.range n).filterMap (fun i => s.placeIn (s.xredTiles d) (off + i))

/-- The registers at places. -/
def State.placeRegs (s : State) (ps : List (TileRef × Nat × Nat)) : List (TileRef × Nat) :=
  ps.filterMap (fun p => (s.regAt p.1 p.2.1 p.2.2).map (fun k => (p.1, k)))

/-- The 16-bit units of a frame's source elements; none while a memory line has not arrived. -/
def State.sourceUnits (s : State) (o : Op) (frame off n : Nat) : Option (List Elem) :=
  let sz := xredSize o.d
  allSome ((List.range (n * sz / 2)).map (fun i => s.elemAt o 5 frame (off * sz + 2 * i) 2))

/-- The buffer keys of a frame's source. -/
def State.sourceKeys (s : State) (o : Op) (frame off n : Nat) : List Nat :=
  let sz := xredSize o.d
  (List.range (n * sz / 2)).filterMap (fun i => s.byteAt o 5 frame (off * sz + 2 * i))

/-- The header of a job's DATA frame. -/
def State.jobHdr (s : State) (o : Op) (j : Job) (off n width : Nat) : Hdr :=
  { rangeHdr 1 (s.posOf j.g) j.dest o.d with
    neg := j.k.neg, feoff := off, nel := n, efmt := efmtOf o.d, width := width, fseq := j.next }

/-- The next DATA frame of a job from its source, its register reads with their faults by element; none while the source cannot be read,
behind the registers or buffer lines of earlier ops, a reroll under way, or a memory line that has not arrived (R147, R233, R254, R283,
R304, R305). -/
def State.dataFrame (s : State) (o : Op) (j : Job) (faults : List ReadFault) : Option Frame :=
  match (s.frameList o.d)[j.next]? with
  | none => none
  | some (off, n) =>
    if xredNames o.d then
      let ps := s.longPlaces o.d off n
      if ps.all (fun p => s.rowFree o ⟨p.1, p.2.1⟩ && !s.ops.any (fun q => rerollHolds q o.id p.1)) then
        let w := (ps.map (fun p => s.width p.1)).headD 0
        some ((s.jobHdr o j off n w).frame (packWords ((s.placeRegs ps).zipIdx.flatMap (fun k => s.spineWords o k.1.2 faults k.2))))
      else none
    else if s.lineBusy o ((xredUses o.d false).drop j.next |>.take 1) then none
    else (s.sourceUnits o j.next off n).map (fun us => (s.jobHdr o j off n 0).frame (packUnits us))

/-- The END frame of a job (R310): a contribution that collects asks for its results (R314). -/
def State.endFrame (s : State) (o : Op) (j : Job) : Frame :=
  let cs := sumN j.cs % csMod
  Hdr.frame { rangeHdr 2 (s.posOf j.g) j.dest o.d with
    neg := j.k.neg
    fseq := j.next
    ctl := if j.k = .contrib ∧ o.k = .contrib ∧ !o.d.prov then 2 ^ 31 else 0
    cs := if j.k.neg then csNeg cs else cs } []

/-- Flits `i` of a RESULT frame from the converted image that the owner op keeps: data at 64 × frame + flit, poison 32
places on. -/
def resultFlits (img : List (Nat × BitVec 512)) (frame n : Nat) : List Flit :=
  let at' (k : Nat) : BitVec 512 := ((img.find? (fun e => e.1 == k)).map (fun e => e.2)).getD 0
  (List.range n).map (fun i => ⟨at' (64 * frame + i), (at' (64 * frame + 32 + i)).setWidth 32⟩)

/-- A RESULT frame of an owner op (R313). -/
def State.resultFrame (s : State) (o : Op) (j : Job) : Option Frame :=
  match (framesOf 0 o.d.elems (frameElems o.d))[j.next]? with
  | none => none
  | some (off, n) =>
    some (Hdr.frame { rangeHdr 5 (s.posOf j.g) j.dest o.d with
      prov := false, region := 0, feoff := off, nel := n, efmt := efmtOf o.d, fseq := j.next }
      (resultFlits o.img j.next (ceilDiv (n * xredSize o.d) 64)))

/-- The next frame of a job. -/
def State.nextFrame (s : State) (o : Op) (j : Job) (faults : List ReadFault) : Option Frame :=
  match j.k with
  | .collect => some ((rangeHdr 6 (s.posOf j.g) j.dest o.d).frame [])
  | .results => s.resultFrame o j
  | _ => if j.next < j.total then s.dataFrame o j faults else some (s.endFrame o j)

/-- The checksum share of a frame (R310). -/
def frameShare (f : Frame) : Nat := csOf f.reoff f.feoff ((frameElts f).getD [])

/-- A job after a frame has gone: an END, a COLLECT and the last RESULT end it. -/
def Job.sent (j : Job) (f : Frame) : Job :=
  if f.ftype = 1 then { j with next := j.next + 1, cs := j.cs ++ [frameShare f] }
  else if f.ftype = 5 then { j with next := j.next + 1, ended := decide (j.total ≤ j.next + 1) }
  else { j with ended := true }

/-- LOC of the cascade port that reaches a position (R263). -/
def State.routeLoc (s : State) (g pp : Nat) : Nat := if s.route g pp < 8 then portLoc (17 + s.route g pp) else 0

/-- What reading a frame's source leaves behind: parity failures, register reads that fail, ring lines that may leave. -/
def State.afterRead (s : State) (o : Op) (j : Job) (f : Frame) (faults : List ReadFault) : State :=
  if f.ftype ≠ 1 then s
  else if xredNames o.d then
    (s.placeRegs (s.longPlaces o.d f.feoff f.nel)).zipIdx.foldl (fun s k => s.checkRead o k.1.2 k.1.1 faults k.2) s
  else (s.parityEvents (some o.d.tenant) ⟨0x12, s.routeLoc j.g j.dest⟩ (s.sourceKeys o j.next f.feoff f.nel)).settleRing o.id 5

/-- Whether an XRED may still send frames: it has not been answered for good, or waits on its region (R305, R316, R317). -/
def State.maySendMore (s : State) (p : Op) : Bool :=
  p.k == .tagged || !(p.fin || p.ackc == some 0) || s.jobs.any (fun j => j.op == p.id && !j.ended)

/-- Whether a retraction must wait: its frames follow every frame of earlier XREDs on its range and CID (R318). -/
def State.retractWaits (s : State) (o : Op) : Bool :=
  o.k == .retract && s.ops.any fun p =>
    decide (p.id < o.id) && (p.k.group && p.k != .owner || p.k == .tagged) && p.d.group == o.d.group && p.d.bucket == o.d.bucket &&
      p.d.eoff == o.d.eoff &&
      p.d.cid == o.d.cid && s.maySendMore p

/-- FRAME_SEND: the next frame of a send job leaves, once its source is readable and the port's credits and the allotment
allow it (R300, R302, R304); its last frame ends the job. -/
def execFrameSend (job : Reads) (s : State) : Host.Outcome State Fault Refusal :=
  match s.jobs.find? (fun j => j.id == job.id) with
  | none => .next s
  | some j =>
    if j.ended then .next s
    else match s.op? j.op with
      | none => .next s
      | some o => match if s.retractWaits o then none else s.nextFrame o j job.faults with
        | none => .next s
        | some f =>
          if s.maySend j.g j.dest (frameFlits f) then
            let s1 := (s.sendFrame j.g j.dest (some o.id) (some o.d.tenant) f).mapJob j.id (fun x => x.sent f)
            .next ((s1.mapOp o.id (fun p => { p with sent := s.now })).afterRead o j f job.faults)
          else .next s

/-! ### The end of a region (R229) -/

/-- Whether an op, or a completed contribution, belongs to a region. -/
def inRegion (t r : Nat) (o : Op) : Bool := o.d.prov && o.d.tenant == t && o.d.region == r

/-- A squashed region closes once its ops have completed, its snapshots are restored and its contributions withdrawn: tiles
and ranges are unbound, and the op that closes it completes (R229, R231). -/
def State.closeRegion (s : State) (g : Region) : State :=
  if g.squash && !s.ops.any (inRegion g.tenant g.num) && g.snaps.all (fun n => n.closed) then
    let s1 := s.unbindTiles g.tenant g.num
    let s2 : State := { s1 with regions := s1.regions.filter (fun x => !(x.tenant == g.tenant && x.num == g.num)) }
    match g.closer.bind s2.op? with
    | none => s2
    | some o => s2.finishOp o (s2.statusOf o)
  else s

/-- Every region that can close does. -/
def State.closeRegions (s : State) : State := s.regions.foldl (fun s g => s.closeRegion g) s

/-! ### The owner's answers (Table 12-5, R316) -/

/-- Whether an op is a contributor's side of a range: it waits for the owner's answers. -/
def OpK.sends : OpK → Bool
  | .contrib => true
  | .trimmed => true
  | .collection => true
  | .retract => true
  | .tagged => true
  | _ => false

/-- Whether an op names the range that a frame names, at the frame's sender. -/
def names (o : Op) (f : Frame) : Bool :=
  o.k.sends && o.d.group == f.group && o.d.bucket == f.bucket && o.d.eoff == f.reoff && o.d.dest == f.src

/-- Whether an op has a job that takes back. -/
def State.undoing (s : State) (id : Nat) : Bool := s.jobs.any (fun j => j.op == id && j.k.undoes)

/-- Whether an op waits for an ACK. -/
def State.awaitsAck (s : State) (o : Op) : Bool :=
  s.undoing o.id || (o.ackc.isNone && s.jobs.any (fun j => j.op == o.id && (decide (0 < j.next) || j.ended)))

/-- The op that an ACK answers: the oldest that waits for one on its range and CID (log 20). -/
def State.ackedOp (s : State) (f : Frame) : Option Op :=
  s.ops.find? (fun o => names o f && o.d.cid == f.cid && s.awaitsAck o)

/-- An op fails (Table 12-5). -/
def State.failOp (s : State) (id : Nat) : State := s.mapOp id (fun o => { o with failed := true, fin := true })

/-- An op is at its end. -/
def State.endOp (s : State) (id : Nat) : State := s.mapOp id (fun o => { o with fin := true })

/-- An op sends again what it must take back: the first frames of its source, read anew (R316; log 63). -/
def State.takeBack (s : State) (o : Op) (g n : Nat) (k : JobK) : State :=
  (s.addJob o.id k g o.d.dest (min n (s.frameList o.d).length)).rereads o.id 0

/-- An op is excised: it completes EXCISED unless it is squashed (Table 12-5). -/
def exciseOp (o : Op) : Op := { o with fin := true, ending := if o.ending.isNone then some 0x05 else o.ending }

/-- The answer to a withdrawal or to a retraction's return (Table 12-5 WITHDRAWN and what precedes it). -/
def State.undone (s : State) (o : Op) (g code : Nat) : State :=
  if o.k = .tagged then s.dropOp o.id
  else if code ≠ 0x0B then s.failOp o.id
  else if o.ending = some 0x02 ∨ o.ackc = some 1 then s.endOp o.id
  else if o.ackc = some 2 then s.mapOp o.id exciseOp
  else if o.ackc = some 4 ∧ !o.again ∧ o.k ≠ .retract then
    ((s.mapOp o.id (fun p => { p with ackc := none, again := true })).addJob o.id .contrib g o.d.dest (s.frameList o.d).length).rereads
      o.id 0
  else s.failOp o.id

/-- Whether a code makes a contributor withdraw (Table 12-5). -/
def withdrawsOn (code n : Nat) : Bool := code == 2 || code == 3 || code == 4 || code == 0x0A || ((code == 7 || code == 8) && n != 0)

/-- The first answer to an op (Table 12-5). A collection has sent no element and takes none back (R314). -/
def State.answered (s : State) (o : Op) (g code n : Nat) : State :=
  let s1 := s.mapOp o.id (fun p => { p with ackc := some code })
  if o.k = .collection then (if code = 0 then s1 else s1.failOp o.id)
  else if withdrawsOn code n then s1.takeBack o g n (if o.k = .retract then .unretract else .withdraw)
  else if code = 0 ∧ o.k ≠ .retract then (if o.k = .trimmed then s1.endOp o.id else s1)
  else if code = 1 ∧ o.k ≠ .retract then
    (if o.ending = some 0x02 then s1.takeBack o g n .withdraw
    else s1.mapOp o.id (fun p => { p with fin := true, got := n }))
  else if code = 0x0C ∧ o.k = .retract then s1.endOp o.id
  else s1.failOp o.id

/-- Whether a frame that answers one of this block's ops is a straggler (R238; log 45). -/
def State.strayBack (s : State) (f : Frame) : Bool :=
  !s.epochLive f.tenant f.epoch &&
    !s.ops.any (fun o => (names o f || collects o f.group f.bucket f.reoff) && liveFor o f.epoch)

/-- What an ACK frame does. -/
def State.ackIn (s : State) (g : Nat) (f : Frame) : State :=
  if s.strayBack f then s.countStraggler f
  else match s.ackedOp f with
    | none => s
    | some o =>
      let code := f.ctl / 2 ^ 24
      let s1 := s.dropJobs (fun j => j.op == o.id && j.k != .results)
      if s.undoing o.id then s1.undone o g code else s1.answered o g code (f.ctl % 2 ^ 24)

/-! ### RESEND (R305) -/

/-- Whether a job is the one that a RESEND frame asks to go back. -/
def State.resendsTo (s : State) (g : Nat) (f : Frame) (j : Job) : Bool :=
  j.g == g && j.dest == f.src && !j.resent && decide (f.ctl ≤ j.next) && (s.op? j.op).any (fun o =>
    o.d.group == f.group && o.d.bucket == f.bucket && o.d.eoff == f.reoff && (j.k == .results || o.d.cid == f.cid))

/-- The job that a RESEND frame is for: a contributor's first, else the results of a range. -/
def State.resendJob (s : State) (g : Nat) (f : Frame) : Option Job :=
  let js := s.jobs.filter (s.resendsTo g f)
  match js.find? (fun j => j.k != .results) with
  | some j => some j
  | none => js.head?

/-- What a RESEND frame does: the job goes on from the frame named, at most once. -/
def State.resendIn (s : State) (g : Nat) (f : Frame) : State :=
  if s.strayBack f ∧ s.straggler f then s.countStraggler f
  else match s.resendJob g f with
    | none => s
    | some j =>
      let s1 := s.mapJob j.id (fun x => { x with next := f.ctl, cs := x.cs.take f.ctl, resent := true, ended := false })
      if j.k = .results then s1 else s1.rereads j.op f.ctl

/-! ### RESULT (R314) -/

/-- The frames of results that an op has written without a gap. -/
def leading (o : Op) : Nat := ((List.range (o.rows.length + 1)).find? (fun i => !o.rows.elem i)).getD 0

/-- The ops that a RESULT frame is written for (R314). -/
def State.resultOps (s : State) (f : Frame) : List Op :=
  s.ops.filter (fun o => collects o f.group f.bucket f.reoff && o.started && !o.fin)

/-- The bytes that a RESULT frame writes at an op's DATA. -/
def resultBytes (o : Op) (f : Frame) : List TByte :=
  let sz := if f.efmt = 1 then 4 else 2
  let us := (List.range (f.nel * sz / 2)).map (fun i => (2 * i + f.feoff * sz, payUnit f.payload i))
  (us.filter (fun u => decide (u.1 < o.d.elems * sz))).flatMap (fun u => tbytes u.1 (leBytes 2 u.2.1.toNat) u.2.2)

/-- Elements of a RESULT frame that carry poison. -/
def resultPoison (f : Frame) : Nat :=
  if f.efmt = 1 then ((List.range f.nel).filter (fun i => (payUnit f.payload (2 * i)).2 || (payUnit f.payload (2 * i + 1)).2)).length
  else ((List.range f.nel).filter (fun i => (payUnit f.payload i).2)).length

/-- A RESULT frame is written for one op; none when its port has no credit for the lines, or an earlier op is not finished with a line
of them (R147). -/
def State.takeResult (s : State) (o : Op) (f : Frame) : Option State :=
  let bs := resultBytes o f
  let bad := resultPoison f
  if s.canWrite o 5 bs && !s.lineBusy o ((xredUses o.d true).drop f.fseq |>.take 1) then
    let s1 := (s.writeTensor o 5 bs).mapOp o.id (fun p => { p with
      rows := insN p.rows f.fseq, poisoned := p.poisoned || decide (bad ≠ 0) })
    some (if bad = 0 then s1 else s1.bump (key (0x4100 + o.d.tenant) 0) bad)
  else none

/-- A RESULT frame is written for several ops, in acceptance order. -/
def State.takeResults (s : State) (f : Frame) : List Op → Option State
  | [] => some s
  | o :: r => match s.takeResult o f with
    | none => none
    | some s1 => s1.takeResults f r

/-- A RESULT frame with a bad CRC or out of sequence: the collector asks once for a resend; a second bad CRC in its place
fails the ops that wait for it (R305; log 21). -/
def State.resultFault (s : State) (g : Nat) (f : Frame) (os : List Op) (bad : Bool) : State :=
  match os with
  | [] => s
  | o :: _ =>
    let n := (os.map leading).foldl min (leading o)
    if os.all (fun p => p.retried) then
      (if bad ∧ f.fseq = n then os.foldl (fun s p => s.failOp p.id) s else s)
    else
      let s1 := os.foldl (fun s p => s.mapOp p.id (fun x => { x with retried := true })) s
      let s2 := s1.sendFrame g f.src (some o.id) (some f.tenant) ((s.replyHdr g 4 f n).frame [])
      (s2.bump (key 0x6110 3) 1).cascadeEvent 0x103 1 g f.src (some f.tenant) (at_ f.src 34 + n)

/-- A RESULT frame that no op waits for is discarded and counted (R314, class 0x106). -/
def State.strayResult (s : State) (g : Nat) (f : Frame) : State :=
  (s.bump (key 0x6110 4) 1).cascadeEvent 0x106 0 g f.src (some f.tenant) (at_ f.src 34)

/-! ### ABORT and REVOKE (R322, R323) -/

/-- Frames of the newly fenced epochs of a tenant that wait for credits do not leave any more (R239). -/
def State.dropWaiting (s : State) (t floor fep : Nat) : State :=
  (List.range 8).foldl (fun s p =>
    let q := 17 + p
    let v := s.port q
    s.setPort q { v with wait := v.wait.filter (fun x => !(x.2.tenant == t && !control x.2 && newlyFenced floor fep x.2.epoch)) }) s

/-- Group ops that a fence has stopped, and completed contributions of their epochs, send nothing further; an owner op among them aborts
its range (R237, R239, R323). -/
def State.fenceSends (s : State) : State :=
  let ids := (s.ops.filter (fun o => o.ending == some 0x06 || (o.k == .tagged && !liveFor o o.d.epoch))).map (fun o => o.id)
  let s1 := s.dropJobs (fun j => ids.elem j.op)
  let rs := s1.ranges.filter (fun r => r.op.any ids.elem)
  rs.foldl (fun s r => s.abortRange r 3) s1

/-- The revoke notices of an epoch FENCE under discard, on every cascade port that is up (R239): one for each member that a
group of the tenant reaches over the port, else one that names the tenant's lowest group slot, or group 0 (log 39, 81). -/
def State.sendRevokes (s : State) (t epoch : Nat) : State :=
  let floor := s.obj (key (0x3100 + t) 1)
  let slots := (List.range 16).filter (fun g => s.obj (key (0x6000 + g) 2) != 0 && s.obj (key (0x6000 + g) 3) == t)
  let notice (group src dst : Nat) : Frame :=
    Hdr.frame { ftype := 8, tenant := t, src := src, dst := dst, group := group, epoch := epoch, ctl := floor } []
  ((List.range 8).filter (fun p => s.up (17 + p))).foldl (fun s p =>
    let ends := slots.flatMap (fun g =>
      ((List.range 64).filter (fun pp => pp != s.posOf g && s.route g pp == p)).map (fun pp => (g, pp)))
    let id (g : Nat) : Nat := s.obj (key (0x6000 + g) 0)
    if ends = [] then
      s.sendOn (17 + p) none (some t) none (match slots.head? with
        | some g => notice (id g) (s.posOf g) 0
        | none => notice 0 0 0)
    else ends.foldl (fun s e => s.sendFrame e.1 e.2 none (some t) (notice (id e.1) (s.posOf e.1) e.2)) s) s

/-! ### Squash of group ops (R229, R317) -/

/-- One contribution of a squashed region: held contributions are withdrawn, one in flight ends its frames at once, one that
has sent nothing is over; of an epoch that a fence has revoked nothing is sent any more (R239). -/
def State.squashOne (s : State) (o : Op) : State :=
  match s.slotOf o.d.group with
  | none => s.endOp o.id
  | some g =>
    if o.k = .tagged ∧ liveFor o o.d.epoch = false then s.dropOp o.id
    else if s.undoing o.id then s
    else if o.ackc = some 1 then (s.mapOp o.id (fun p => { p with fin := false })).takeBack o g o.got .withdraw
    else match s.jobs.find? (fun j => j.op == o.id && j.k == .contrib) with
      | none => s.endOp o.id
      | some j =>
        if j.ended then s
        else if j.next = 0 then (s.dropJobs (fun x => x.id == j.id)).endOp o.id
        else s.mapJob j.id (fun x => { x with total := x.next })

/-- A provisional owner op of a squashed region: its tile is restored, so that its range ends, and contributors are told
(log 19). -/
def State.squashOwner (s : State) (o : Op) : State :=
  ((s.ranges.filter (fun r => r.op == some o.id)).foldl (fun s r => s.abortRange r 1) s).endOp o.id

/-- What a squash does to the group ops of its region (R229 step 6, R317). -/
def State.squashSends (s : State) (t r : Nat) : State :=
  (s.ops.filter (inRegion t r)).foldl (fun s o =>
    match o.k with
    | .contrib => s.squashOne o
    | .trimmed => s.squashOne o
    | .tagged => s.squashOne o
    | .owner => s.squashOwner o
    | .collection => (s.dropJobs (fun j => j.op == o.id)).endOp o.id
    | .retract => (s.dropJobs (fun j => j.op == o.id)).endOp o.id
    | _ => s) s

end Sys2Proof.Machine
end

