-- ==== Sys2Proof/Machine/Group.lean ====
section
/-! DEFINITION. Cascade groups (R294, R298 to R301, R405): live masks, the election of a first player, allotments of the
receive pools, and the loss of a member. -/

namespace Sys2Proof.Machine

/-! ### Membership -/

/-- The configured member mask of a slot; 0 for a slot that is not used (Table 12-8). -/
def State.memberMask (s : State) (g : Nat) : Nat := s.obj (key (0x6000 + g) 2)

/-- The group tenant of a slot. -/
def State.groupTenant (s : State) (g : Nat) : Nat := s.obj (key (0x6000 + g) 3)

/-- The live positions of a slot: its own always, and those heard by beacon (R298). -/
def State.liveSet (s : State) (g : Nat) : List Nat := insN (s.group g).live (s.posOf g)

/-- The live mask as an object or a frame carries it; 0 while the slot is not configured. -/
def State.liveMask (s : State) (g : Nat) : Nat :=
  if s.memberMask g = 0 then 0 else (s.liveSet g).foldl (fun a p => a ||| 2 ^ p) 0

/-- The lowest live position. -/
def State.lowestLive (s : State) (g : Nat) : Nat := (s.liveSet g).headD 0

/-- Configured members. -/
def State.members (s : State) (g : Nat) : Nat := ((List.range 64).filter (fun p => bitOf (s.memberMask g) p)).length

/-- A group slot changes. -/
def State.mapGroup (s : State) (g : Nat) (f : GroupSt → GroupSt) : State := s.setGroup g (f (s.group g))

/-- Whether start-up has reached the election (Table 16-10 step 6). -/
def State.elects (s : State) : Bool := decide (6 ≤ s.boot.step)

/-! ### Control frames -/

/-- A frame of the election to a position (log 59). -/
def State.sendControl (s : State) (g pp ftype ctl mask term : Nat) (payload : List Flit) : State :=
  let h : Hdr := { ftype := ftype
                   tenant := s.groupTenant g
                   src := s.posOf g
                   dst := pp
                   group := s.obj (key (0x6000 + g) 0)
                   ctl := ctl
                   mask := mask
                   term := term }
  s.sendFrame g pp none (some (s.groupTenant g)) (h.frame payload)

/-- The route table of a slot as a CLAIMREPLY carries it: bit 6 marks a port in far mode (Table 12-3). -/
def State.routeTable (s : State) (g : Nat) : List Byte :=
  (List.range 64).map fun pp =>
    let r := s.obj (key (0x6040 + g) pp)
    BitVec.ofNat 8 (if r < 8 ∧ s.far r then r + 64 else r)

/-- A flit of bytes. -/
def byteFlit (bs : List Byte) : Flit := ⟨BitVec.ofNat 512 (ofLe bs), 0⟩

/-- A CLAIMREPLY: agreement when its receiver is the lowest live position, and the confirmation of a reduction (R298, R301;
log 22). -/
def State.sendReply (s : State) (g pp term : Nat) (agree confirm : Bool) : State :=
  s.sendControl g pp 0xB (at_ (bit agree) 31 + at_ (bit confirm) 30 + s.lowestLive g % 64) 0 term [byteFlit (s.routeTable g)]

/-- An unasked CLAIMREPLY to the first player (R300, R301). -/
def State.replyFirst (s : State) (g : Nat) (confirm : Bool) : State :=
  match (s.group g).first with
  | none => s
  | some p => if p = s.posOf g then s else s.sendReply g p (s.group g).term (p == s.lowestLive g) confirm

/-! ### Allotments (R300, R301) -/

/-- The group ops outstanding on a slot. -/
def State.groupOps (s : State) (g : Nat) : List Nat :=
  (s.ops.filter (fun o => o.k.group && s.slotOf o.d.group == some g)).map (fun o => o.id)

/-- A member that is its own first player confirms its reductions, any other in a CLAIMREPLY, once the ops priced at the old
values have delivered (R301). -/
def State.confirmNow (s : State) (g : Nat) : State :=
  match (s.group g).confirm with
  | none => s
  | some ids =>
    if s.ops.any (fun o => ids.elem o.id && o.k.group) then s
    else
      let s1 := s.mapGroup g (fun v => { v with confirm := none })
      let me := s.posOf g
      if (s.group g).first = some me then s1.mapGroup g (fun v => { v with decs := v.decs.filter (fun d => d.2 != me) })
      else s1.replyFirst g true

/-- The positions whose allotment an op was priced at: its DEST, or those that an owner sends results to (Table 12-6). -/
def State.pricedAt (s : State) (g : Nat) (o : Op) : List Nat :=
  if o.k ≠ .owner then [o.d.dest] else if o.d.hier then [] else s.collectorsOf g

/-- The group ops of a slot that were priced at an allotment which a table reduces (R301). -/
def State.pricedOld (s : State) (g : Nat) (es : List Nat) : List Nat :=
  (s.ops.filter (fun o => o.k.group && s.slotOf o.d.group == some g && (s.pricedAt g o).any (fun pp => bitOf (es.getD pp 0) 15))).map
    (fun o => o.id)

/-- An allotment table arrives: in force at once (R301). -/
def State.takeAllot (s : State) (g : Nat) (es : List Nat) : State :=
  let s0 := es.zipIdx.foldl (fun s e => s.setObj (key (0x6080 + g) e.2) e.1) s
  let s1 := (List.range 8).foldl (fun s p => s.flushPort (17 + p) (s.port (17 + p)).wait.length) s0
  if es.any (fun e => bitOf e 15) then
    let ids := s.pricedOld g es
    (s1.mapGroup g (fun v => { v with confirm := some ((v.confirm.getD []) ++ ids) })).confirmNow g
  else s1

/-- The byte of a route table. -/
def tabByte (tabs : List (Nat × List Byte)) (r m : Nat) : Nat :=
  match tabs.find? (fun t => t.1 == r) with
  | none => 0xFF
  | some t => (t.2.getD m 0xFF).toNat

/-- Whether a byte of a route table is a cascade port. -/
def isPortByte (b : Nat) : Bool := decide (b < 8) || (decide (64 ≤ b) && decide (b < 72))

/-- The flits that sender m gets at receiver r, once r's table is held: an equal share of the pool of the port through which r is
routed, by its mode, among the live members that are routed through it (R295, R300). -/
def shareAt (tabs : List (Nat × List Byte)) (live : List Nat) (r m : Nat) : Nat :=
  let b := tabByte tabs r m
  if live.elem r ∧ live.elem m ∧ m ≠ r ∧ isPortByte b then
    (if 64 ≤ b then 16384 else 4096) / (live.filter (fun x => x != r && tabByte tabs r x == b)).length
  else 0

/-- The flits granted to sender m at receiver r. -/
def GroupSt.grant (v : GroupSt) (r m : Nat) : Nat :=
  match v.grants.find? (fun e => e.1 == r && e.2.1 == m) with
  | none => 0
  | some e => e.2.2

/-- A grant changes. -/
def GroupSt.setGrant (v : GroupSt) (r m n : Nat) : GroupSt :=
  { v with grants := (if n = 0 then [] else [(r, m, n)]) ++ v.grants.filter (fun e => !(e.1 == r && e.2.1 == m)) }

/-- One grant goes to its target: a reduction at once, marked DEC when both are live; a raise only when no reduction at the
receiver awaits its confirmation (R301). The list notes the senders that must be told (log 66). -/
def allotOne (live : List Nat) (a : GroupSt × List Nat) (rm : Nat × Nat) : GroupSt × List Nat :=
  let n := shareAt a.1.tabs live rm.1 rm.2
  let old := a.1.grant rm.1 rm.2
  if n < old then
    let v := a.1.setGrant rm.1 rm.2 n
    (if live.elem rm.1 then { v with decs := v.decs ++ [(rm.1, rm.2)] } else v, insN a.2 rm.2)
  else if old < n ∧ !a.1.decs.any (fun d => d.1 == rm.1) then (a.1.setGrant rm.1 rm.2 n, insN a.2 rm.2)
  else a

/-- The entries of an ALLOT frame for sender m, the ones that it reduces marked DEC (R301, Table 12-3). -/
def GroupSt.entries (v : GroupSt) (m : Nat) (down : List (Nat × Nat)) : List Nat :=
  (List.range 64).map (fun r => at_ (bit (down.elem (r, m) && v.decs.elem (r, m))) 15 + v.grant r m)

/-- The two flits of an ALLOT frame. -/
def allotFlits (es : List Nat) : List Flit := packUnits (es.map (fun e => ⟨BitVec.ofNat 16 e, false⟩))

/-- The first player divides the receive pools again and tells every sender whose allotments change (R300): reductions
first, then raises. -/
def State.allot (s : State) (g : Nat) : State :=
  let me := s.posOf g
  if (s.group g).first ≠ some me then s
  else
    let live := s.liveSet g
    let v0 := s.group g
    let v1 := { v0 with tabs := (me, s.routeTable g) :: v0.tabs.filter (fun t => t.1 != me) }
    let pairs := live.flatMap (fun m => (live ++ v1.grants.map (fun e => e.1)).eraseDups.map (fun r => (r, m)))
    let down := pairs.filter (fun p => decide (shareAt v1.tabs live p.1 p.2 < v1.grant p.1 p.2))
    let a1 := down.foldl (allotOne live) (v1, [])
    let a2 := pairs.foldl (allotOne live) a1
    let s1 := s.setGroup g a2.1
    a2.2.foldl (fun s m =>
      if m = me then s.takeAllot g (a2.1.entries m down)
      else s.sendControl g m 0xD 0 0 v0.term (allotFlits (a2.1.entries m down))) s1

/-! ### Election (R298, R299) -/

/-- A first player is recorded (class 0x109). -/
def State.recordFirst (s : State) (g p term : Nat) : State :=
  (s.mapGroup g (fun v => { v with first := some p, term := term, claim := none, grants := [], decs := [] })).cascadeEvent
    0x109 0 g p (some (s.groupTenant g)) (at_ p 34 + term)

/-- A claim succeeds once more than half of the configured members agree (R298). -/
def State.checkClaim (s : State) (g : Nat) : State :=
  match (s.group g).claim with
  | none => s
  | some c =>
    if s.members g < 2 * c.agree.length then
      let me := s.posOf g
      let s1 := s.recordFirst g me c.term
      let s2 := ((s1.liveSet g).filter (fun p => p != me)).foldl (fun s p => s.sendControl g p 0xC 0 (s.liveMask g) c.term []) s1
      s2.allot g
    else s

/-- A member without a first player whose position is the lowest live one claims (R298 step 1). -/
def State.elect (s : State) (g : Nat) : State :=
  let me := s.posOf g
  let v := s.group g
  if !s.elects ∨ s.memberMask g = 0 ∨ v.first.isSome ∨ v.claim.isSome ∨ s.lowestLive g ≠ me then s
  else
    let t := (v.term + 1) % 2 ^ 32
    let s1 := s.mapGroup g (fun v => { v with claim := some ⟨t, s.now, [me]⟩, tabs := [] })
    let s2 := ((s1.liveSet g).filter (fun p => p != me)).foldl (fun s p => s.sendControl g p 0xA 0 (s.liveMask g) t []) s1
    s2.checkClaim g

/-- The bytes of a payload. -/
def payBytes (p : List Flit) (n : Nat) : List Byte := (p.flatMap (fun f => leBytes 64 f.data.toNat)).take n

/-- A route table is kept. -/
def GroupSt.keepTab (v : GroupSt) (p : Nat) (bs : List Byte) : GroupSt :=
  { v with tabs := (p, bs) :: v.tabs.filter (fun t => t.1 != p) }

/-- CLAIM_RETRY: 20 µs after a claim that has not succeeded, it has failed; it is repeated while the member is still the
lowest live position without a first player (R298 step 4). -/
def execClaimRetry (g : Nat) (s : State) : Host.Outcome State Fault Refusal :=
  match (s.group g).claim with
  | none => .next (if g < 16 then s.elect g else s)
  | some c =>
    if c.since + 2000 ≤ s.now then .next ((s.mapGroup g (fun v => { v with claim := none })).elect g) else .next s

/-! ### Loss of a member (R299, R301, R322, R405) -/

/-- The first player of a slot is lost: the slot is headless (R299, class 0x10A). -/
def State.headless (s : State) (g pp : Nat) : State :=
  if (s.group g).first = some pp then
    (s.mapGroup g (fun v => { v with first := none, confirm := none })).cascadeEvent 0x10A 3 g pp (some (s.groupTenant g)) 0
  else s

/-- Flits that belong to no op any more. -/
def Flight.orphan (fl : Flight) : Flight := { fl with op := none, tenant := none }

/-- What has been sent to a position that is lost holds no op any longer, and what waits for it is dropped; its credits stay owed
(R240). -/
def State.forgetPeer (s : State) (g pp : Nat) : State :=
  (List.range 8).foldl (fun s p =>
    let q := 17 + p
    let mine := (s.port q).fly.filter (fun fl => fl.peer == some (g, pp))
    let s1 := mine.foldl (fun s fl => match fl.op with
      | none => s
      | some id => s.mapOp id (fun o => { o with wout := o.wout - fl.n })) s
    s1.setPort q { s1.port q with
      fly := (s1.port q).fly.map (fun fl => if fl.peer == some (g, pp) then fl.orphan else fl)
      wait := (s1.port q).wait.filter (fun x => x.1.peer != some (g, pp)) }) s

/-- A member leaves the live mask, with the handling of its loss (R405; class 0x108). -/
def State.loseMember (s : State) (g pp : Nat) : State :=
  let s1 := s.cascadeEvent 0x108 3 g pp (some (s.groupTenant g)) (at_ pp 34)
  let s2 := s1.mapGroup g (fun v => { v with
    live := delN v.live pp
    heard := v.heard.filter (fun h => h.1 != pp)
    tabs := v.tabs.filter (fun t => t.1 != pp)
    grants := v.grants.filter (fun e => e.2.1 != pp)
    decs := v.decs.filter (fun d => d.2 != pp && d.1 != pp)
    used := v.used.filter (fun u => u.1 != pp) })
  (((((s2.forgetPeer g pp).losePosition g pp).closeRegions).headless g pp).allot g).elect g

/-- MEMBER_LOST: a member whose beacons have been missing for the loss bound leaves the live mask (R405). -/
def execMemberLost (g pos : Nat) (s : State) : Host.Outcome State Fault Refusal :=
  match (s.group g).heard.find? (fun h => h.1 == pos) with
  | none => .next s
  | some h => if h.2 + s.obj (key 0x1302 3) ≤ s.portNow then .next (s.loseMember g pos) else .next s

/-! ### Beacons (R405) -/

/-- A BEACON link word (Table 16-6). -/
def beaconWord (src group : Nat) : W64 := BitVec.ofNat 64 (at_ 1 60 + at_ 3 56 + at_ src 50 + at_ group 34)

/-- The beacons that leave on a port, in group slot order. -/
def State.beaconsOn (s : State) (p : Nat) : List Out :=
  ((List.range 16).filter (fun g => (List.range 64).any (fun pp => s.route g pp == p))).map
    (fun g => .link (17 + p) (beaconWord (s.posOf g) (s.obj (key (0x6000 + g) 0))))

/-- BEACON_PERIOD: one BEACON for each group slot routed through each cascade port that is up; reductions whose ops have
delivered are confirmed (R301, R405; log 23). -/
def execBeaconPeriod (s : State) : Host.Outcome State Fault Refusal :=
  let s1 := s.emitAll (((List.range s.conf.cascades).filter (fun p => s.up (17 + p))).flatMap s.beaconsOn)
  .next ((List.range 16).foldl (fun s g => s.confirmNow g) s1)

/-- A BEACON is heard: its sender is in the live mask of its group (R405). -/
def State.hearBeacon (s : State) (src group : Nat) : State :=
  match s.slotOf group with
  | none => s
  | some g =>
    if !bitOf (s.memberMask g) src ∨ src = s.posOf g then s
    else
      let s1 := s.mapGroup g (fun v => { v with
        live := insN v.live src
        heard := (src, s.portNow) :: v.heard.filter (fun h => h.1 != src) })
      if (s.group g).live.elem src then s1 else s1.elect g

end Sys2Proof.Machine
end

