-- ==== Sys2Proof/Machine/Regions.lean ====
section
/-! DEFINITION. Provisional regions while they run and close (R221 to R231): snapshots taken and restored, commits, expiry,
and the verdicts of rerolls (R283 to R285). -/

namespace Sys2Proof.Machine

/-! ### Squashes (R229) -/

/-- A region is squashed now, with its group ops and whatever can end at once. -/
def State.squashNow (s : State) (t r : Nat) : State := ((s.squashRegion t r).squashSends t r).closeRegions

/-! ### SNAPSHOT_TAKE (R223, R224, R419) -/

/-- A snapshot of a region changes. -/
def State.mapSnap (s : State) (t r tile : Nat) (f : Snap → Snap) : State :=
  s.mapRegion t r (fun g => { g with snaps := g.snaps.map (fun n => if n.tile == tile && !n.closed then f n else n) })

/-- The open snapshot of a region on a tile. -/
def Region.snapOf (g : Region) (tile : Nat) : Option Snap := g.snaps.find? (fun n => n.tile == tile && !n.closed)

/-- Whether every op accepted before a snapshot's op has finished with the tile. -/
def State.snapReady (s : State) (n : Snap) : Bool :=
  let t := TileRef.ofHandle n.tile
  !n.taken && s.ops.all (fun p => decide (n.op ≤ p.id) || (List.range t.rows).all (fun r => !s.rowPending p ⟨t, r⟩))

/-- The presented registers of a tile: row, column and key. -/
def State.tilePlaces (s : State) (t : TileRef) : List (Nat × Nat × Nat) :=
  (List.range t.rows).flatMap fun r => (List.range (s.width t)).filterMap fun c => (s.regAt t r c).map (fun k => (r, c, k))

/-- The code of a mode in a header: the tile free, sums, compare records (Table 14-5). -/
def modeCode : TMode → Nat
  | .free => 0
  | .sums => 1
  | .compare => 2

/-- Words as bytes. -/
def wordBytes (ws : List Nat) : List Byte := ws.flatMap (leBytes 8)

/-- The buffer key of a snapshot. -/
def Snap.at_ (n : Snap) : Nat := bufAddr (TileRef.ofHandle n.tile).cluster n.addr

/-- The header of a snapshot: a word for each quarter with its mode in [63:62] and its term bound below, and a word with the presented
width (R223). DESIGN CHOICE: the layout (log 24). -/
def Snap.header (n : Snap) (width : Nat) : List Byte :=
  let quarter (i : Nat) : Nat := match n.saved.find? (fun e => e.1 % 4 == i) with
    | none => 0
    | some e => e.2.1 + modeCode e.2.2 * 2 ^ 62
  wordBytes ((List.range 4).map quarter ++ [width, 0, 0, 0])

/-- The term bound that a snapshot holds for the quarter of a register. -/
def Snap.boundAt (n : Snap) (rk : Nat) : Nat :=
  match n.saved.find? (fun e => e.1 == quarterOfReg rk) with
  | none => 0
  | some e => e.2.1

/-- Bytes written into a cluster buffer, none of them poisoned. -/
def State.putBuf (s : State) (a : Nat) (bs : List Byte) : State :=
  { s with buf := s.buf.write (bs.zipIdx.map (fun b => ⟨a + b.2, b.1, false⟩)) }

/-- One register read of a snapshot: the trimmed long read. A read that fails its check is recorded and made once more; when that fails
too, the register and the long keep POISON and the op has failed (R254, R419). -/
def State.snapRead (s : State) (n : Snap) (t : TileRef) (bad : List RegFault) (p : Nat × Nat × Nat) : State × List W64 :=
  let rk := p.2.2
  let r := s.reg rk
  let x := bad.find? (fun b => b.row == p.1 && b.col == p.2.1)
  let err := (x.map (fun b => b.err)).getD 0
  let words (v : LongReg) : List W64 := trim v (n.boundAt rk)
  if (r.off err).checks then (s, words (r.off err))
  else
    let o := s.op? n.op
    let twice := (x.map (fun b => b.twice)).getD true || !r.checks
    let s1 := s.readFailed (s.plainEvent (o.map (fun o => o.d.tenant)) t rk err) (.engine t.n) twice ((o.map (fun o => o.d.tag)).getD 0)
    if twice then ((s1.mapOp n.op (fun p => { p with failed := true })).setReg rk (s1.reg rk).mark, words (s1.reg rk).mark)
    else (s1, words r)

/-- A snapshot is taken: the header alone of a clear tile, else the header and every presented register; its reservation shrinks to the
bytes written (R223, R224). -/
def State.takeSnap (s : State) (t r : Nat) (n : Snap) (bad : List RegFault) : State :=
  let tile := TileRef.ofHandle n.tile
  let a := (if n.clear then [] else s.tilePlaces tile).foldl (fun (a : State × List W64) p =>
    let x := a.1.snapRead n tile bad p
    (x.1, a.2 ++ x.2)) (s, [])
  let bs := n.header (s.width tile) ++ wordBytes (a.2.map (fun w => w.toNat))
  (a.1.putBuf n.at_ bs).mapSnap t r n.tile (fun x => { x with taken := true, bytes := bs.length })

/-- SNAPSHOT_TAKE: a reserved snapshot is taken before its op's first write to the tile (R223). -/
def execSnapshotTake (tenant region : Nat) (tile : BitVec 16) (bad : List RegFault) (s : State) : Host.Outcome State Fault Refusal :=
  match (s.region? tenant region).bind (fun g => g.snapOf tile.toNat) with
  | none => .next s
  | some n => if s.snapReady n then .next (s.takeSnap tenant region n bad) else .next s

/-! ### SNAPSHOT_RESTORE (R229, R254) -/

/-- Whether nothing of a region is still on its way into a tile: tokens in the array, trimmed longs on the spine or held for a resend. -/
def State.regionLanded (s : State) (t r : Nat) : Bool :=
  let ids := (s.ops.filter (inRegion t r)).map (fun o => o.id)
  s.chains.all (fun c => c.2.fly.all (fun k => !ids.elem k.op) && c.2.held.all (fun k => !ids.elem k.op)) &&
    s.spine.all (fun l => (l.2.wire ++ l.2.buf).all (fun m => !ids.elem m.op))

/-- A trimmed long as it is read back, and whether one of its units carries poison. -/
structure Stored where
  words : List W64
  psn : Bool
deriving DecidableEq, Repr

/-- Words of a buffer from a key on, with their poison (R249). -/
def State.bufWords (s : State) (a n : Nat) : List (W64 × Bool) :=
  (List.range n).map fun i =>
    let us := (List.range 4).map (fun j => s.buf.elem16 (a + 8 * i + 2 * j))
    (BitVec.ofNat 64 (us.foldr (fun (u : Elem) (v : Nat) => u.code.toNat + 65536 * v) 0), us.any (fun u => u.psn))

/-- Trimmed longs one after the other: a header and the limb words that it announces (R54). -/
def storedLongs : Nat → List (W64 × Bool) → List Stored
  | 0, _ => []
  | _, [] => []
  | k + 1, h :: r =>
    let mine := h :: r.take (trimCount h.1)
    ⟨mine.map (fun w => w.1), mine.any (fun w => w.2)⟩ :: storedLongs k (r.drop (trimCount h.1))

/-- A restore that fails the residue check is counted and recorded (class 0x017, R267): the residues that came with the long, and those
of its limbs. -/
def State.badRestore (s : State) (tenant : Nat) (t : TileRef) (rk : Nat) (x : LongReg) : State :=
  let p := LongReg.residuesOf x.n
  (s.countResidue).event ⟨0x017, 2, 0x05, t.handle, some (rk / 32 % 32, rk % 32), some tenant,
    residueDetail x.r127.toNat x.r255.toNat p.1.toNat p.2.toNat 0xFF⟩

/-- A saved register comes back, with the residues generated from its limbs (R252). One that is not well-formed is discarded, recorded
as a format error of its path, and changes no register (R55; log 60). One that fails its residue check leaves POISON, as does one with a
poisoned unit (R254, Table 10-2). -/
def State.restoreReg (s : State) (tenant path : Nat) (t : TileRef) (rk : Nat) (x : Option LongReg) (psn : Bool) : State :=
  match x with
  | none => s.event ⟨0x020, 2, 0x05, t.handle, none, some tenant, at_ path 32⟩
  | some v =>
    let r := LongReg.ofVal v.n v.nan v.pinf v.ninf (v.poison || psn)
    if v.checks then s.setReg rk r else (s.badRestore tenant t rk v).setReg rk r.mark

/-- A trimmed long of a snapshot restored into a register, with an error met on the way. -/
def State.restoreLong (s : State) (tenant path : Nat) (t : TileRef) (rk : Nat) (x : Stored) (err : Int) : State :=
  s.restoreReg tenant path t rk ((untrim x.words).map (fun l => l.reg.off err)) x.psn

/-- The parity failures of the bytes of a snapshot that its restore reads (R249). -/
def State.snapParity (s : State) (tenant : Nat) (n : Snap) : State :=
  let core := (TileRef.mk (coreOf (TileRef.ofHandle n.tile).n * 16) 0).handle
  s.parityEvents (some tenant) ⟨0x06, core⟩ ((List.range n.bytes).map (· + n.at_))

/-- Every register of a tile gets its saved content, or is cleared where the snapshot is the header alone; the tile gets its term bound
and mode (R229, Table 02-4 Restore). -/
def State.restoreSnap (s : State) (tenant : Nat) (n : Snap) (bad : List RegFault) : State :=
  let t := TileRef.ofHandle n.tile
  let ps := s.tilePlaces t
  let err (p : Nat × Nat × Nat) : Int := ((bad.find? (fun b => b.row == p.1 && b.col == p.2.1)).map (fun b => b.err)).getD 0
  let s1 := if n.clear then s.mapRegs (ps.map (fun p => p.2.2)) (fun _ _ => .zero)
    else (ps.zip (storedLongs ps.length (s.bufWords (n.at_ + 64) ((n.bytes - 64) / 8)))).foldl
      (fun s e => s.restoreLong tenant 0xFF t e.1.2.2 e.2 (err e.1)) (s.snapParity tenant n)
  n.saved.foldl State.putQuarter s1

/-- Whether a trimmed-long contribution of a region may still have to be withdrawn from the tile of a snapshot: the withdrawal reads the
values that were sent, which the restore would replace (R233; log 63). -/
def State.withdrawing (s : State) (t r : Nat) (n : Snap) : Bool :=
  s.ops.any fun o => inRegion t r o && o.k.sends && xredNames o.d && (s.xredTiles o.d).any (tilesMeet (TileRef.ofHandle n.tile))

/-- SNAPSHOT_RESTORE: a squashed region's snapshot is restored once nothing of the region is on its way (R229 step 4). -/
def execSnapshotRestore (tenant region : Nat) (tile : BitVec 16) (bad : List RegFault) (s : State) :
    Host.Outcome State Fault Refusal :=
  match s.region? tenant region with
  | none => .next s
  | some g => match g.snapOf tile.toNat with
    | none => .next s
    | some n =>
      if n.taken && g.squash && s.regionLanded tenant region && !s.withdrawing tenant region n then
        .next (((s.restoreSnap tenant n bad).mapSnap tenant region n.tile (fun x => { x with closed := true })).closeRegions)
      else .next s

/-! ### COMMIT_TAKES_EFFECT (R228, R317) -/

/-- The commit notices of a region: one for each owner and epoch that received a tagged contribution (R228, R317), but none of an epoch that
a fence has revoked (R239). -/
def State.commitNotices (s : State) (t r : Nat) : State :=
  let tagged := s.ops.filter (fun o => o.k == .tagged && inRegion t r o && liveFor o o.d.epoch)
  let owners := (tagged.map (fun o => (o.d.group, o.d.dest, o.d.epoch))).eraseDups
  owners.foldl (fun s w => match s.slotOf w.1 with
    | none => s
    | some g =>
      let h : Hdr := { ftype := 7
                       tenant := t
                       prov := true
                       region := r
                       src := s.posOf g
                       dst := w.2.1
                       group := w.1
                       epoch := w.2.2 }
      s.sendFrame g w.2.1 none (some t) (h.frame [])) s

/-- A COMMIT that takes effect: snapshots freed, tiles and ranges unbound, notices sent, DONE (R228). -/
def State.commitRegion (s : State) (g : Region) (o : Op) : State :=
  let s1 := s.commitNotices g.tenant g.num
  let s2 : State := { s1 with ops := s1.ops.filter (fun p => !(p.k == .tagged && inRegion g.tenant g.num p)) }
  let s3 := s2.unbindTiles g.tenant g.num
  let s4 : State := { s3 with regions := s3.regions.filter (fun x => !(x.tenant == g.tenant && x.num == g.num)) }
  s4.finishOp o (s4.statusOf o)

/-- COMMIT_TAKES_EFFECT: once every op of the region has delivered and every reroll has its verdict, the COMMIT takes
effect, or turns into a SQUASH after a failing verdict (R228). -/
def execCommitTakesEffect (tenant region : Nat) (s : State) : Host.Outcome State Fault Refusal :=
  match s.region? tenant region with
  | none => .next s
  | some g => match g.closer.bind s.op? with
    | none => .next s
    | some o =>
      if o.k ≠ .commit ∨ g.squash ∨ s.regionOps tenant region ≠ [] ∨
          s.ops.any (fun p => p.k == .reroll && inRegion tenant region p) then .next s
      else if g.verdicts.any (fun v => v != 0) then
        .next ((s.mapOp o.id (fun p => { p with ending := some 0x02 })).squashNow tenant region)
      else .next (s.commitRegion g o)

/-- REGION_TTL_EXPIRY: an open region whose TTL has run out is squashed, with its record (R230, class 0x041). -/
def execRegionTtlExpiry (tenant region : Nat) (s : State) : Host.Outcome State Fault Refusal :=
  match s.region? tenant region with
  | none => .next s
  | some g =>
    if g.closing = false ∧ g.ttl ≠ 0 ∧ g.cGate + g.ttl ≤ s.now then
      .next ((s.event ⟨0x041, 0, 0x20, 0, none, some tenant, at_ region 34⟩).squashNow tenant region)
    else .next s

/-! ### REROLL_VERDICT (R284, R285) -/

/-- The pairs of registers that a reroll compares: of each enabled register of the original op and of its scratch tile. -/
def State.rerollPairs (s : State) (r : Op) (d : Desc) : List (Nat × Nat) :=
  let tiles := (r.tl ++ r.tl2).eraseDups
  (opChains d).zipIdx.flatMap fun c =>
    let c2 := r.chains.getD c.2 c.1
    tiles.flatMap fun off => (List.range (rowsPerTile d.shape)).flatMap fun row =>
      (List.range (s.chainCols d c.1 c.2)).filterMap fun col =>
        match s.regAt (chainTile c.1 off) row col, s.regAt (chainTile c2 off) row col with
        | some a, some b => some (a, b)
        | _, _ => none

/-- The tiles of a reroll are cleared, and their planner state with them (R284 step 4). -/
def State.clearScratch (s : State) (r : Op) : State :=
  (arrayTiles r).foldl (fun s t => (s.mapRegs (s.tileKeys t) (fun _ _ => .zero)).mapTile t (fun _ => .zero)) s

/-- The record and the effects of a verdict: 0 pass, 1 mismatch, 2 inconclusive (R285). -/
def State.giveVerdict (s : State) (r : Op) (d : Desc) (v diff : Nat) : State :=
  let cls := [0x090, 0x091, 0x092].getD v 0x092
  let sev := [0, 3, 2].getD v 2
  let loc := d.tile % 65536
  let s1 := s.event ⟨cls, sev, 0x05, loc, none, some d.tenant, (if v = 1 then at_ (min 255 diff) 32 else 0) + d.tag⟩
  let s2 := if v = 1 then
      (((opChains d).flatMap (fun c => chainEngines c (depthOf d.shape))).filter (fun n => s.engineHealth n == 1)).foldl
        (fun s n => s.offend (.engine n) 0x091) s1
    else s1
  let s3 := (s2.clearScratch r).mapRegion d.tenant d.region (fun g => { g with verdicts := g.verdicts ++ [v] })
  match r.rolled with
  | none => s3.dropOp r.id
  | some o => (s3.mapOp o (fun p => { p with verdict := some v })).dropOp r.id

/-- REROLL_VERDICT: once the rerolled op and its reroll have delivered every sum, the pairs of registers are compared (R284,
R285). A pair that differs because the original op failed a check has no verdict of its own and counts as inconclusive
(log 48). -/
def execRerollVerdict (op : Nat) (s : State) : Host.Outcome State Fault Refusal :=
  match s.ops.find? (fun r => r.k == .reroll && r.rolled == some op) with
  | none => .next s
  | some r => match r.rd with
    | none => .next s
    | some d =>
      let here := s.op? op
      let landed (o : Op) : Bool := (List.range o.chains.length).all (fun ci => decide (tokTotal o ci ≤ o.added.getD ci 0) ||
        s.opCols o (o.chains.getD ci ⟨0, 0, 0⟩) ci == 0)
      if r.started && !r.stopped && landed r && (here.map landed).getD true then
        let diff := ((s.rerollPairs r d).filter (fun p => s.reg p.1 != s.reg p.2)).length
        let failed := r.failed || r.got != 0 || (here.map (fun o => o.failed)).getD false
        .next ((s.giveVerdict r d (if r.failed then 2 else if diff = 0 then 0 else if failed then 2 else 1) diff).closeRegions)
      else .next s

/-- The longs of a region's snapshots by register. -/
def State.snapLongs (s : State) (g : Region) : List (Nat × Stored) :=
  (g.snaps.filter (fun n => n.taken && !n.clear)).flatMap fun n =>
    let ks := (s.tilePlaces (TileRef.ofHandle n.tile)).map (fun p => p.2.2)
    ks.zip (storedLongs ks.length (s.bufWords (n.at_ + 64) ((n.bytes - 64) / 8)))

/-- A reroll that starts restores the region's snapshots into its scratch tiles (R284 step 1), the parity of what it reads checked (R249). -/
def State.seedReroll (s : State) (r : Op) (d : Desc) : State :=
  let tiles := (r.tl ++ r.tl2).eraseDups
  let longs := ((s.region? d.tenant d.region).map s.snapLongs).getD []
  let read := ((s.region? d.tenant d.region).map (fun g => g.snaps.filter (fun n => n.taken && !n.clear &&
    ((opChains d).flatMap (fun c => tiles.map (chainTile c))).any (tilesMeet (TileRef.ofHandle n.tile))))).getD []
  (opChains d).zipIdx.foldl (fun s c =>
    let c2 := r.chains.getD c.2 c.1
    tiles.foldl (fun s off =>
      let t := chainTile c.1 off
      let t2 := chainTile c2 off
      let s1 := s.mapRegs (s.tileKeys t2) (fun _ _ => .zero)
      (s.tilePlaces t).foldl (fun s p => match s.regAt t2 p.1 p.2.1, longs.find? (fun e => e.1 == p.2.2) with
        | some k, some e => s.restoreLong d.tenant 0xFF t2 k e.2 0
        | _, _ => s) s1) s) (read.foldl (fun s n => s.snapParity d.tenant n) s)

/-- Whether the snapshots that a reroll restores have been taken (R284). -/
def State.rerollReady (s : State) (r : Op) (d : Desc) : Bool :=
  let ts := (opChains d).flatMap (fun c => (r.tl ++ r.tl2).map (chainTile c))
  match s.region? d.tenant d.region with
  | none => false
  | some g => g.snaps.all (fun n => !ts.any (fun t => tilesMeet t (TileRef.ofHandle n.tile)) || n.taken)

end Sys2Proof.Machine
end

