-- ==== Sys2Proof/Machine/Power.lean ====
section
/-! DEFINITION. The power port and the envelopes (spec/13_power_and_envelopes.md): reports, step-ups and step-downs, caps,
excursions, forecasts, ballast. A status is a code of Table 15-5. -/

namespace Sys2Proof.Machine

/-! ### Statuses of the writes of this chapter (Table 15-5) -/

/-- OK. -/
def stOk : Nat := 0x00
/-- RANGE. -/
def stRange : Nat := 0x07
/-- BUSY. -/
def stBusy : Nat := 0x0C

/-! ### Messages -/

/-- A message on the power port; none leaves while the port is down (R402). -/
def State.sendPower (s : State) (type body : Nat) : State :=
  if s.up 25 then s.emit (.power (BitVec.ofNat 64 (at_ 1 60 + at_ type 56 + body))) else s

/-- ENVREQ (Table 13-3; log 47). -/
def State.sendEnvReq (s : State) (env : Nat) : State := s.sendPower 3 (at_ env 54 + at_ (s.capW % 4096) 42)

/-- GRANT (Table 13-3). -/
def State.sendGrant (s : State) (env cap : Nat) : State := s.sendPower 5 (at_ env 54 + at_ (cap % 4096) 42)

/-- VOFS (Table 13-3). -/
def State.sendVofs (s : State) (core ofs : Nat) : State := s.sendPower 6 (at_ core 50 + at_ ofs 47)

/-- The power record changes. -/
def State.mapPwr (s : State) (f : Power → Power) : State := { s with pwr := f s.pwr }

/-- The event of a message that R337 discards (class 0x184). -/
def State.badMessage (s : State) (w : Nat) : State :=
  s.event ⟨0x184, 2, 0x14, portLoc 25, none, none, at_ 0x0E 32 + w / 2 ^ 32⟩

/-- Whether R337 discards a message from the stage: another VER, a TYPE that is reserved or not the stage's, a nonzero
reserved bit, or a reserved code of RAIL, ENV, the TYPE refused, or a core that is not built (log 27). -/
def badWord (conf : Conf) (w : W64) : Bool :=
  let t := fld w 59 56
  fld w 63 60 != 1 ||
    (if t = 1 then fld w 25 0 != 0 || fld w 29 28 == 3 || fld w 27 26 == 3 || decide (conf.cores ≤ fld w 55 50)
    else if t = 4 then fld w 40 0 != 0 || fld w 55 54 == 3
    else if t = 7 then fld w 45 0 != 0 || !((fld w 55 52 == 3 && fld w 51 46 == 0) || fld w 55 52 == 6)
    else true)

/-- BAD_MESSAGE: a message that R337 discards is recorded. -/
def execBadMessage (w : W64) (s : State) : Host.Outcome State Fault Refusal :=
  if s.up 25 ∧ badWord s.conf w then .next (s.badMessage w.toNat) else .next s

/-! ### Voltage offsets (R345) -/

/-- The voltage offset that a core has or has been asked to have: one asked for counts until it is in force (R345). -/
def State.offsetAhead (s : State) (c : Nat) : Nat :=
  max (s.obj (key (0x2100 + c) 7)) (((s.pwr.ofs.find? (fun o => o.1 == c)).map (fun o => o.2)).getD 0)

/-- The dynamic power that the offsets add in an envelope with one core's offset set, in mW (R345). -/
def State.offsetPower (s : State) (env core ofs : Nat) : Nat :=
  let v := vArr env
  sumN ((List.range s.conf.cores).map fun c =>
    let o := if c = core then ofs else s.offsetAhead c
    let u := v + 10 * o
    16384 * 170 * (u * u - v * v) / (562500 * tauEnv env))

/-- The full-load power of the block without offsets, mW (Table 13-1). -/
def State.plainPower (s : State) (env : Nat) : Nat :=
  fixedPower s.conf env + s.conf.cores * (16384 * 170 * vArr env * vArr env / (562500 * tauEnv env))

/-- Whether an offset fits between the full-load power and the ceiling, both in power at V_ARR (R345). -/
def State.offsetFits (s : State) (env core ofs : Nat) : Bool :=
  let ceil := if s.capW = 0 then ceilPower s.conf env else min (ceilPower s.conf env) (s.capW * 1000)
  decide (s.plainPower env + s.offsetPower env core ofs ≤ ceil)

/-- The record of a remedy (R276, class 0x081): a voltage offset or a margin step of a core. -/
def State.remedyEvent (s : State) (c margin v : Nat) : State :=
  s.event ⟨0x081, 3, 0x06, unitLoc (.drain c), none, none, at_ margin 39 + at_ v 35⟩

/-- The margin step that a core has or is to have. -/
def State.marginNow (s : State) (c : Nat) : Nat := max (s.obj (key (0x2100 + c) 1)) (s.obj (key (0x2100 + c) 3))

/-- The units of a core that take offences: its engines and its drain (R273). -/
def coreUnits (c : Nat) : List HwUnit := (List.range 16).map (fun e => HwUnit.engine (c * 16 + e)) ++ [.drain c]

/-- The highest offence count among a core's units. -/
def State.worst (s : State) (c : Nat) : Nat := maxN ((coreUnits c).map s.offences)

/-- No remedy step is left: the units with the highest count become pending (R275). -/
def State.noRemedy (s : State) (c : Nat) : State :=
  ((coreUnits c).filter (fun u => s.offences u == s.worst c && s.worst c != 0)).foldl (fun s u => s.pendQuarantine u) s

/-- The next margin step of a core becomes pending (R276), or no step is left (R275). -/
def State.nextMargin (s : State) (c : Nat) : State :=
  let m := s.marginNow c
  if m < 15 then (s.setObj (key (0x2100 + c) 3) (m + 1)).remedyEvent c 1 (m + 1) else s.noRemedy c

/-- A core's offset, in force or asked for, is dropped. -/
def State.dropOffset (s : State) (c : Nat) : State :=
  (s.mapPwr (fun p => { p with ofs := p.ofs.filter (fun x => x.1 != c) })).setObj (key (0x2100 + c) 7) 0

/-- Offsets, in force or asked for, that an envelope about to take effect does not admit are dropped and replaced by margin steps (R345). -/
def State.readmitOffsets (s : State) (env : Nat) : State :=
  (List.range s.conf.cores).foldl (fun s c =>
    let o := s.offsetAhead c
    if o ≠ 0 ∧ s.offsetFits env c o = false then (s.dropOffset c).nextMargin c else s) s

/-! ### Envelope changes (R340 to R343) -/

/-- The envelope object notifies when the envelope in force changes (R386). -/
def State.setEnv (s : State) (env : Nat) : State :=
  let s1 := s.readmitOffsets env
  let s2 := (s1.mapPwr (fun p => { p with env := env, metEnv := env, lastChange := s.now, changed := true })).refreshCores
  if s.pwr.env = env then s2 else s2.notify (key 0x2000 1)

/-- The dwell of the cooling class (R340). -/
def State.dwell (s : State) : Nat := [3000000000, 1000000000, 6000000000].getD (s.obj (key 0x2000 0)) 3000000000

/-- Whether the dwell since the last change has not elapsed (R341). -/
def State.dwells (s : State) : Bool := s.pwr.changed && decide (s.now < s.pwr.lastChange + s.dwell)

/-- Whether a change of the envelope or the cap is pending or granted. -/
def Power.pending (p : Power) : Bool := p.pendEnv.isSome || p.pendCap.isSome || p.granted.isSome

/-- A step-up is requested: ENVREQ (R341). -/
def State.stepUp (s : State) (env : Nat) : State :=
  (s.mapPwr (fun p => { p with up := some (env, s.now) })).sendEnvReq env

/-- A step-up is abandoned (class 0x18B): after a DENY, for a step-down or cap, or without a settled report (R341). -/
def State.abandonUp (s : State) (deny down : Bool) : State :=
  match s.pwr.up with
  | none => s
  | some (t, _) =>
    let s1 := s.mapPwr (fun p => { p with up := none, metEnv := p.env })
    let s2 := if down then s1.sendEnvReq s1.pwr.env else s1
    s2.event ⟨0x18B, 0, 0x14, portLoc 25, none, none, at_ t 38 + at_ (bit deny) 37 + at_ (bit down) 36⟩

/-- A step-down or a lower cap becomes pending, or merges into the pending one (R342). -/
def State.pendDown (s : State) (env cap : Option Nat) (stage : Bool) : State :=
  let s1 := s.abandonUp false true
  (s1.mapPwr (fun p => { p with
    pendEnv := match env with
      | none => p.pendEnv
      | some e => some (min e (p.pendEnv.getD e))
    pendCap := match cap with
      | none => p.pendCap
      | some c => some c
    byStage := p.byStage || stage
    firstReq := if stage then some (p.firstReq.getD s.now) else p.firstReq })).refreshCores

/-- The lowest envelope already in force, pending or granted. -/
def State.envTarget (s : State) : Nat := min (s.pwr.env) (min (s.pwr.pendEnv.getD 3) (s.pwr.granted.getD 3))

/-- The range of a power cap in W (R344): from the fixed draw and a tenth of the full dynamic power to the ceiling. -/
def State.capRange (s : State) : Nat × Nat :=
  let e := s.pwr.env
  (ceilDiv (fixedPower s.conf e + ceilDiv (s.fullPower e) 10) 1000, ceilPower s.conf e / 1000)

/-- Whether a cap is lower than the one in force and any pending. -/
def State.capLowers (s : State) (cap : Nat) : Bool := cap != 0 && (s.capPriced == 0 || decide (cap < s.capPriced))

/-- A write of the envelope request (R341, R342). -/
def State.requestEnv (s : State) (v : Nat) : State × Nat :=
  if 2 < v then (s, stRange)
  else if v < s.pwr.env then (if v < s.envTarget then s.pendDown (some v) none false else s, stOk)
  else if v = s.pwr.env then (s, stOk)
  else if s.pwr.pending ∨ s.pwr.up.isSome ∨ s.obj (key 0x2000 0) < v ∨ s.dwells then (s, stBusy)
  else (s.stepUp v, stOk)

/-- A write of the cooling class (R340). -/
def State.setCooling (s : State) (v : Nat) : State × Nat :=
  if 2 < v then (s, stRange)
  else
    let s1 := s.setObj (key 0x2000 0) v
    if v < s1.envTarget then (s1.pendDown (some v) none false, stOk)
    else if s1.pwr.up.any (fun u => decide (v < u.1)) then (s1.abandonUp false true, stOk)
    else (s1, stOk)

/-- A write of the power cap (R344; log 47). -/
def State.requestCap (s : State) (v : Nat) : State × Nat :=
  let r := s.capRange
  if v ≠ 0 ∧ (v < r.1 ∨ r.2 < v) then (s, stRange)
  else if s.capLowers v then (s.pendDown none (some v) false, stOk)
  else if v = s.capPriced then (s, stOk)
  else if s.pwr.pending ∨ s.dwells then (s, stBusy)
  else (s.setObj (key 0x2000 3) v, stOk)

/-- A margin step in force, written towards the floor: a speeding change (R209, R214). A pending step that equals the one
in force follows it (log 47). -/
def State.forceMargin (s : State) (c v : Nat) : State × Nat :=
  let old := s.obj (key (0x2100 + c) 1)
  if v < s.mfloor c ∨ old < v then (s, stRange)
  else
    let p := s.obj (key (0x2100 + c) 3)
    let s1 := s.setObj (key (0x2100 + c) 1) v
    (s1.setObj (key (0x2100 + c) 3) (if p = old then v else p), stOk)

/-- A pending margin step: a larger one than the step in force is a slowing change (R206); a smaller one, down to the floor,
is a speeding change and in force with the write (R209, R279). -/
def State.pendMargin (s : State) (c v : Nat) : State × Nat :=
  if 15 < v ∨ v < s.mfloor c then (s, stRange)
  else
    let s1 := s.setObj (key (0x2100 + c) 3) v
    (if v < s.obj (key (0x2100 + c) 1) then s1.setObj (key (0x2100 + c) 1) v else s1, stOk)

/-! ### VT (R339) -/

/-- Whether a report says that the rail has settled for an envelope. -/
def Island.settled (i : Island) (env : Nat) : Bool := i.rail == 1 && i.env == env && i.mv != 0

/-- The band and the junction limit that judge a report of a core's island (R339): lowest and highest mV, °C. A stage that
has been lost returns to envelope A (R406; log 42). An island that reports settled for the granted envelope is judged by that
envelope while the others are still on their way (DEDUCED, log 105). -/
def State.bandOf (s : State) (c : Nat) (settled : Bool) : Nat × Nat × Nat :=
  let o := 10 * s.obj (key (0x2100 + c) 7)
  let e := if s.pwr.lost then 0 else s.pwr.env
  match s.pwr.up, s.pwr.granted with
  | some (t, _), _ => (vArr e - 20 + o, vArr t + 20 + o, tjMax e)
  | none, some g => (vArr g - 20 + o, (if settled then vArr g else vArr e) + 20 + o, tjMax g)
  | none, none => (vArr e - 20 + o, vArr e + 20 + o, tjMax e)

/-- Whether every island reports RAIL settled for an envelope. -/
def State.allSettled (s : State) (env : Nat) : Bool := (List.range s.conf.cores).all (fun c => (s.island c).settled env)

/-- Whether every island lies in the band of an envelope and at or below its junction limit (R341). -/
def State.allWithin (s : State) (env : Nat) : Bool :=
  (List.range s.conf.cores).all fun c =>
    let i := s.island c
    let o := 10 * s.obj (key (0x2100 + c) 7)
    decide (vArr env - 20 + o ≤ i.mv) && decide (i.mv ≤ vArr env + 20 + o) && decide (i.tj ≤ tjMax env)

/-- A report is kept, with the time since which the island lies outside its band; a report inside it ends the island's excursion. The wide
band of a GRANT ends for an island with its first settled report (R339). -/
def State.report (s : State) (c mv tj rail env : Nat) : State :=
  let old := s.island c
  let new : Island := ⟨mv, tj, rail, env, s.portNow, none, false⟩
  let met := s.pwr.met.elem c || s.pwr.granted.any new.settled
  let b := s.bandOf c met
  let out := decide (mv < b.1) || decide (b.2.1 < mv) || decide (b.2.2 < tj)
  let i := if out then { new with outSince := some (old.outSince.getD s.now), exc := old.exc } else new
  s.mapPwr (fun p => { p with
    islands := sset .zero p.islands c i, met := if met then insN p.met c else p.met, excLast := if out then s.now else p.excLast })

/-- A voltage offset is in force once its island reports settled, if it still fits (R345). -/
def State.settleOffset (s : State) (c rail : Nat) : State :=
  match s.pwr.ofs.find? (fun o => o.1 == c) with
  | none => s
  | some o =>
    if rail ≠ 1 then s
    else if s.offsetFits s.pwr.env c o.2 then
      (s.mapPwr (fun p => { p with ofs := p.ofs.filter (fun x => x.1 != c) })).setObj (key (0x2100 + c) 7) o.2
    else (s.dropOffset c).nextMargin c

/-- The start-up envelope, limited by the cooling class, is requested (R340). -/
def State.startEnvelope (s : State) : State :=
  let t := min (s.obj (key 0x2000 5)) (s.obj (key 0x2000 0))
  if s.pwr.env < t ∧ s.pwr.up.isNone then s.stepUp t else s

/-- The offsets that were asked for and are not in force are asked for again: a remedy persists across every reset (R276). -/
def State.askAgain (s : State) : State := s.pwr.ofs.foldl (fun s o => s.sendVofs o.1 o.2) s

/-- The stage is back: every island settled for envelope A reopens admission (R406); the envelope changes only from another one. -/
def State.stageBack (s : State) : State :=
  if s.allSettled 0 then
    let s1 := s.mapPwr (fun p => { p with lost := false })
    let s2 := (if s1.pwr.env = 0 then s1.refreshCores else s1.setEnv 0).askAgain
    if s2.boot.step = 8 then s2.startEnvelope else s2
  else s

/-- A step-up or a granted step-down that every island now reports takes effect (R341, R342). -/
def State.settleEnv (s : State) : State :=
  match s.pwr.up, s.pwr.granted with
  | some (t, _), _ =>
    if s.allSettled t ∧ s.allWithin t then (s.mapPwr (fun p => { p with up := none })).setEnv t else s
  | none, some g =>
    if s.allSettled g then
      let moreEnv := (s.pwr.pendEnv.map (fun e => decide (e < g))).getD false
      let moreCap := s.pwr.pendCap.isSome && s.pwr.pendCap != s.pwr.grantCap
      let s1 := s.mapPwr (fun p => { p with
        granted := none
        grantCap := none
        met := []
        pendEnv := if moreEnv then p.pendEnv else none
        pendCap := if moreCap then p.pendCap else none
        byStage := p.byStage && (moreEnv || moreCap)
        firstReq := if moreEnv || moreCap then p.firstReq else none })
      match s.pwr.grantCap with
      | none => s1.setEnv g
      | some c => (s1.setObj (key 0x2000 3) c).setEnv g
    else s
  | none, none => s

/-- VT: an island's report (R339). -/
def State.takeVt (s : State) (c mv tj rail env : Nat) : State :=
  let s1 := (s.report c mv tj rail env).settleOffset c rail
  if s1.pwr.lost then s1.stageBack
  else
    let s2 := match s1.pwr.up with
      | some (t, _) => if env = t then s1.mapPwr (fun p => { p with metEnv := t }) else s1
      | none => s1
    s2.settleEnv

/-- The word of a VT (Table 13-3). -/
def vtWord (c mv tj rail env : Nat) : W64 :=
  BitVec.ofNat 64 (at_ 1 60 + at_ 1 56 + at_ c 50 + at_ mv 38 + at_ tj 30 + at_ rail 28 + at_ env 26)

/-- The power stage has left its obligations: the ops outstanding may be late (R203). -/
def State.stageDefaults (s : State) : State := { s with ops := s.ops.map (fun o => { o with dflt := true }) }

/-- The excursion of an island is recorded, and admission closed. -/
def State.beginExcursion (s : State) (core : Nat) : State :=
  s.mapPwr (fun p => { p with exc := true, islands := sset .zero p.islands core { s.island core with exc := true } })

/-- EXCURSION: an island outside its band or above its junction limit for more than 200 steps closes admission (R339,
class 0x18A). -/
def execExcursion (core : Nat) (s : State) : Host.Outcome State Fault Refusal :=
  let i := s.island core
  match i.outSince with
  | none => .next s
  | some t =>
    if 200 < s.now - t ∧ i.exc = false then
      .next ((s.stageDefaults.beginExcursion core).event
        ⟨0x18A, 3, 0x14, portLoc 25, none, none, at_ core 34 + at_ i.mv 22 + at_ i.tj 14⟩)
    else .next s

/-- EXCURSION_END: 10,000 steps after the last report outside the band, admission reopens (R339). -/
def execExcursionEnd (s : State) : Host.Outcome State Fault Refusal :=
  if s.pwr.exc ∧ s.pwr.excLast + 10000 ≤ s.now then .next (s.mapPwr (fun p => { p with exc := false })) else .next s

/-! ### STEPDN, DENY, timeouts (R341 to R343) -/

/-- A step-down that the stage forces is in force at once (R343). -/
def State.forceDown (s : State) (env cap : Nat) : State :=
  let e := min s.pwr.env (min (s.pwr.pendEnv.getD 3) env)
  let c := if s.capLowers cap then cap else s.capPriced
  let s1 := s.mapPwr (fun p => { p with
    pendEnv := none, pendCap := none, granted := none, grantCap := none, met := [], byStage := false, firstReq := none })
  let s2 := if c ≠ s1.capW then s1.setObj (key 0x2000 3) c else s1
  if e ≠ s2.pwr.env then s2.setEnv e else s2

/-- Whether the forced step-down limit has run out for a pending change of the stage that is not granted (R343). -/
def State.forceDue (s : State) : Bool :=
  (s.pwr.pendEnv.isSome || s.pwr.pendCap.isSome) && s.pwr.granted.isNone &&
    (match s.pwr.firstReq with
    | none => false
    | some t => decide (t + s.obj (key 0x2000 6) ≤ s.now))

/-- STEPDN, its CAP taken at the nearer end of the range (R342 to R344). -/
def State.takeStepdn (s : State) (env cap : Nat) (force : Bool) : State :=
  let r := s.capRange
  let c := if cap = 0 then 0 else max r.1 (min r.2 cap)
  let lowEnv := decide (env < s.envTarget)
  let lowCap := s.capLowers c
  if force && s.forceDue then s.stageDefaults.forceDown env c
  else if lowEnv || lowCap then s.pendDown (if lowEnv then some env else none) (if lowCap then some c else none) true
  else if s.pwr.pending then s.mapPwr (fun p => { p with byStage := true, firstReq := some (p.firstReq.getD s.now) })
  else s

/-- STEPDN (R342). -/
def execStepdn (env : BitVec 2) (cap : BitVec 12) (force : Bool) (s : State) : Host.Outcome State Fault Refusal :=
  let w : W64 := BitVec.ofNat 64 (at_ 1 60 + at_ 4 56 + at_ env.toNat 54 + at_ cap.toNat 42 + at_ (bit force) 41)
  if !s.up 25 then .next s
  else if badWord s.conf w then .next (s.badMessage w.toNat)
  else .next (s.takeStepdn env.toNat cap.toNat force)

/-- DENY: a step-up is abandoned, or a voltage offset gives way to the next margin step (R341, R345). -/
def execDeny (type : BitVec 4) (core : BitVec 6) (s : State) : Host.Outcome State Fault Refusal :=
  let w : W64 := BitVec.ofNat 64 (at_ 1 60 + at_ 7 56 + at_ type.toNat 52 + at_ core.toNat 46)
  if !s.up 25 then .next s
  else if badWord s.conf w then .next (s.badMessage w.toNat)
  else if type.toNat = 3 then .next (s.abandonUp true false)
  else if s.pwr.ofs.any (fun o => o.1 == core.toNat) then
    .next ((s.mapPwr (fun p => { p with ofs := p.ofs.filter (fun x => x.1 != core.toNat) })).nextMargin core.toNat)
  else .next s

/-- STEP_UP_TIMEOUT: a step-up without a settled report for 100,000,000 steps is abandoned (R341). -/
def execStepUpTimeout (s : State) : Host.Outcome State Fault Refusal :=
  match s.pwr.up with
  | none => .next s
  | some (_, t) => if t + 100000000 ≤ s.now then .next (s.abandonUp false false) else .next s

/-! ### The promise floor (R208) -/

/-- Whether a core's priced period, pending changes included, is within its floor. -/
def State.withinFloor (s : State) (c : Nat) : Bool :=
  match s.tauP c with
  | none => true
  | some t => decide (t ≤ s.coreFloor c)

/-- Pending margin steps that the floor admits come into force (R208). -/
def State.grantMargins (s : State) : State :=
  (List.range s.conf.cores).foldl (fun s c =>
    let m := s.obj (key (0x2100 + c) 3)
    if s.obj (key (0x2100 + c) 1) < m ∧ s.withinFloor c then s.setObj (key (0x2100 + c) 1) m else s) s

/-- A pending step-down or cap that every core's floor admits is granted. A cap alone is in force with the GRANT; beside a lower
envelope it waits for the settled reports, until which the old ceiling applies (R208, R342). -/
def State.grantDown (s : State) : State :=
  if (s.pwr.pendEnv.isSome || s.pwr.pendCap.isSome) && s.pwr.granted.isNone && (List.range s.conf.cores).all s.withinFloor then
    let c := s.capPriced
    match s.pwr.pendEnv with
    | some e => (s.mapPwr (fun p => { p with granted := some e, grantCap := p.pendCap.map (fun _ => c), met := [] })).sendGrant e c
    | none =>
      let s1 := s.mapPwr (fun p => { p with pendCap := none, byStage := false, firstReq := none })
      (if c ≠ s1.capW then s1.setObj (key 0x2000 3) c else s1).sendGrant s.pwr.env c
  else s

/-- PROMISE_FLOOR_EVALUATION: pending slowing changes that the promise floor admits are granted (R208). -/
def execPromiseFloorEvaluation (s : State) : Host.Outcome State Fault Refusal := .next (s.grantMargins.grantDown)

/-! ### Forecasts and ballast (R332 to R335) -/

/-- FORECAST_LEAD_EXPIRY: the oldest forecast whose lead has run out gives the level (R332). -/
def execForecastLeadExpiry (s : State) : Host.Outcome State Fault Refusal :=
  match s.pwr.fcs.find? (fun f => decide (f.sent + f.lead ≤ s.now)) with
  | none => .next s
  | some f => .next (s.mapPwr (fun p => { p with fLevel := f.level * 100000, fcs := p.fcs.filter (fun x => x != f) }))

/-- Whether an op that presents tokens on a core is under way there. -/
def State.coreBusy (s : State) (core : Nat) : Bool :=
  s.ops.any (fun o => o.started && o.chains.any (fun c => c.core == core && tokensLeft o c))

/-- Whether the hold of an interval of the plan has ended (R334). -/
def State.holdOver (s : State) (p : PlanCore) : Bool := !s.coreBusy p.core && decide (s.holdEnd p ≤ s.now)

/-- The intervals of a core whose hold has ended leave the plan; it prices their tapers as draw (R334). -/
def State.endHold (s : State) (ended : PlanCore → Bool) : State :=
  s.mapPwr (fun p => { p with
    plan := p.plan.filter (fun x => !ended x)
    taper := p.taper.filter (fun x => s.drawAt x s.now != 0) ++ (p.plan.filter ended).map (fun x => { x with until_ := s.now }) })

/-- BALLAST_HOLD_EXPIRY: a core's hold ends; its draw tapers, and the lower level is forecast without lead: the highest that the plan still
holds, the cores that are being ramped or will be among it (R333, R334). -/
def execBallastHoldExpiry (core : Nat) (s : State) : Host.Outcome State Fault Refusal :=
  let ended (p : PlanCore) : Bool := p.core == core && s.holdOver p
  if s.pwr.plan.any ended then
    let s1 := s.endHold ended
    let level := ceilDiv s1.peakAhead 100000
    let s2 := s1.sendPower 2 (at_ (min level 65535) 40)
    .next (s2.mapPwr (fun p => { p with fLevel := if p.fLevel = 0 then 0 else min p.fLevel (level * 100000) }))
  else .next s

/-- The BALLAST op that runs on a core now: for DUR steps from its priced start (R336). -/
def State.ballastOp (s : State) (core : Nat) : Option Op :=
  s.ops.find? (fun o => o.k == .ballast && o.started && !o.stopped && tileCore o.d == core &&
    decide (o.start ≤ 256 * s.now) && decide (256 * s.now < o.finish))

/-- Whether an interval of the plan is being ramped: the core rises at the rate of R331 up to its release time (R333). -/
def State.ramping (s : State) (p : PlanCore) : Bool := decide (s.now < p.rel) && decide (p.rel ≤ s.now + ceilDiv p.cur s.slew)

/-- Whether an interval of the plan is held: its core is released and its hold has not ended (R334). -/
def State.holding (s : State) (p : PlanCore) : Bool := decide (p.rel ≤ s.now) && !s.holdOver p

/-- The LEVEL at which a core runs ballast: that of its BALLAST op, full load on a ramp, that of the last op in a hold (R334, R336);
none when it runs none. -/
def State.ballastLevel (s : State) (core : Nat) : Option Nat :=
  match s.ballastOp core with
  | some o => some o.d.level
  | none =>
    let mine := s.pwr.plan.filter (fun p => p.core == core)
    if mine.any s.ramping then some 255 else (mine.find? s.holding).map (fun p => p.level)

/-- Rows that a ballast token of a LEVEL enables in one engine or quadrant (R336). -/
def ballastRows (level : Nat) (c : ChainId) : Nat := ceilDiv (engRows c * level) 255

/-- Cells that a ballast token enables on a chain (R336). -/
def State.ballastCells (s : State) (c : ChainId) (level : Nat) : Nat :=
  sumN ((chainEngines c (s.chainDepth c)).map (fun n => ballastRows level c * s.width ⟨n, c.quarter⟩))

/-- Whether a chain has no quarantined engine, lies in no quarantined core and is offered for work: the others are held quiescent (R82, R95,
R277). -/
def State.chainLive (s : State) (c : ChainId) : Bool :=
  !s.coreQuarantined c.core && (chainEngines c (s.chainDepth c)).all (fun n => s.engineHealth n != 3) &&
    s.chainOffered c (s.chainDepth c)

/-- Whether a chain exists in its core's shape. -/
def State.chainExists (s : State) (c : ChainId) : Bool :=
  let k := s.core c.core
  decide (c.core < s.conf.cores) && decide (c.top < 16) &&
    (if c.quarter = 0 then c.top % depthOf k.shape == 0 else decide (4 ≤ c.quarter) && decide (c.quarter ≤ 7) && k.split.elem c.top)

/-- The rows of each engine of a chain that a ballast token of a LEVEL enables. -/
def ballastLanes (c : ChainId) (dep level : Nat) : List Nat :=
  (List.range dep).flatMap fun e => (List.range (ballastRows level c)).map (chainRow c e)

/-- One column of a ballast token as its checks see it: the fixed lanes against the stationary weights, in groups of 4 (R335; log 88);
a row that is not enabled adds a zero term. -/
def State.ballastCtx (s : State) (c : ChainId) (level col : Nat) : SumCtx :=
  let rows := List.range (s.chainDepth c * engRows c)
  let on := ballastLanes c (s.chainDepth c) level
  let w (r : Nat) : Elem := ((s.rowWts c r (col + 1))[col]?).getD ⟨0, false⟩
  ⟨rows.map (fun r => if on.elem r then product (Config.ballastLane r) (w r).code (w r).psn else specialTerm .zero false),
    rows.map (fun r => logField (Config.ballastLane r) + logField (w r).code), 4, false, false, 0⟩

/-- The capture data of a ballast token's failure: no op, so no TAG, token index or consent (R280, R281). -/
def State.ballastCap (s : State) (c : ChainId) : CapData := ⟨s.capCond c.core 0 0 false, 0, 0, [], [], []⟩

/-- A check that a ballast token fails in a column: counted, recorded, captured and charged, with no retry and no poison (R335); its
running sum is discarded at the tile entry of the lowest engine. -/
def State.ballastFault (s : State) (c : ChainId) (level col : Nat) (f : SumFault) : State :=
  if f.err % 127 = 0 ∧ f.err % 255 = 0 then s
  else
    let low : TileRef := ⟨chainEng c (s.chainDepth c - 1), c.quarter⟩
    let sf := s.sumFault (s.ballastCtx c level col) c col f ((s.regAt low 0 col).getD 0)
    (s.capture (sf.event none) (s.ballastCap c)).offend (.engine sf.eng) sf.cls

/-- The parity of the stationary weights that a ballast token uses is checked as for any token (R335, R249). -/
def State.ballastParity (s : State) (c : ChainId) (level : Nat) : State :=
  (ballastLanes c (s.chainDepth c) level).foldl (fun s r =>
    s.cellParity none c r (s.width ⟨chainEng c (r / engRows c), c.quarter⟩)) s

/-- A ballast token enters, and meets a fault in a column. -/
def State.enterBallast (s : State) (c : ChainId) (level : Nat) (fault : Option (Nat × SumFault)) : State :=
  let s1 := (s.enter c.core (s.ballastCells c level)).ballastParity c level
  match fault with
  | none => s1
  | some f => s1.ballastFault c level f.1 f.2

/-- BALLAST_TOKEN: a ballast token enters a chain that has no op token ready, none held for a retry either (R270), where its core runs
ballast (R335), or with every row while the draw tapers (R334; log 52). -/
def execBallastToken (ch : ChainId) (fault : Option (Nat × SumFault)) (s : State) : Host.Outcome State Fault Refusal :=
  if s.chainExists ch ∧ (s.presentable ch).isNone ∧ (s.chain ch).held = [] ∧ !s.pwr.lost ∧ s.chainLive ch then
    match s.ballastLevel ch.core with
    | some level => if s.mayEnter ch.core (s.ballastCells ch level) then .next (s.enterBallast ch level fault) else .next s
    | none => if s.tapers ch.core (s.ballastCells ch 255) then .next (s.enterBallast ch 255 fault) else .next s
  else .next s

/-! ### Loss of the power stage (R406) -/

/-- A COMMIT that is lost leaves its region open again (log 26). -/
def State.reopenRegions (s : State) : State :=
  { s with regions := s.regions.map (fun g =>
    if !g.squash && (g.closer.map (fun id => (s.op? id).isNone)).getD false then { g with closing := false, closer := none } else g) }

/-- Ops that a loss takes with it, and what becomes of their regions. -/
def State.loseAll (s : State) (f : Op → Bool) : State := ((s.loseOps f).reopenRegions).closeRegions

/-- The power stage is lost: every outstanding op is LOST, and nothing that the stage was asked or has reported counts
(Table 16-7) but the remedies asked for, which persist (R276). -/
def State.losePower (s : State) : State :=
  (s.loseAll (fun _ => true)).mapPwr (fun p => { p with
    lost := true
    exc := false
    up := none
    pendEnv := none
    pendCap := none
    granted := none
    grantCap := none
    byStage := false
    firstReq := none
    metEnv := p.env
    islands := []
    fcs := []
    met := []
    plan := []
    taper := [] })

end Sys2Proof.Machine
end

