-- ==== Sys2Proof/Machine/Ports.lean ====
section
/-! DEFINITION. Ports (spec/16_ports_and_startup.md R394 to R408): live lines, the capability exchange, faults, quarantine,
loss of a partner, credits, the strobe. -/

namespace Sys2Proof.Machine

/-! ### Kinds of port (Table 16-1) -/

/-- PKIND of a port: 1 work, 2 memory, 3 pairing, 4 and 5 cascade, 6 power, 0 for the others (Table 16-6). -/
def State.pkind (s : State) (q : Nat) : Nat :=
  if q = 0 then 1 else if q ≤ 8 then 2 else if q ≤ 16 then 3
  else if q ≤ 24 then (if s.far (q - 17) then 5 else 4) else if q = 25 then 6 else 0

/-- Flits that the block can receive on a port (Table 09-1). -/
def State.ownPool (s : State) (q : Nat) : Nat := [0, 128, 256, 512, 4096, 16384, 0].getD (s.pkind q) 0

/-- The least pool a partner may advertise (Table 09-1, R216). -/
def State.leastPool (s : State) (q : Nat) : Nat := [0, 32, 1024, 512, 4096, 16384, 0].getD (s.pkind q) 0

/-- The credit channel on which the block returns credits of a port (Table 16-2); 0 for none. -/
def State.creditChan (s : State) (q : Nat) : Nat := [0, 0x02, 0x07, 0x07, 0x0D, 0x0D, 0].getD (s.pkind q) 0

/-- The row of Table 09-1 of what a partner sends on a port, from 0. -/
def State.pathRow (s : State) (q : Nat) : Nat := [0, 0, 7, 9, 10, 11, 0].getD (s.pkind q) 0

/-- An event of a port (R413). -/
def State.portEvent (s : State) (q cls sev detail : Nat) : State := s.event ⟨cls, sev, portUnit q, portLoc q, none, none, detail⟩

/-- Whether a port time has run out (R408). -/
def State.timeUp (s : State) (since bound : Nat) : Bool := decide (since + bound ≤ s.portNow)

/-! ### Link words (R403, Table 16-6) -/

/-- A CAP or CAPSEL word. -/
def capWord (ltype pkind majMax majMin minor feat pool : Nat) : W64 :=
  BitVec.ofNat 64 (at_ 1 60 + at_ ltype 56 + at_ pkind 52 + at_ majMax 48 + at_ majMin 44 + at_ minor 36 + at_ feat 28 + pool)

/-- A DOWN word. -/
def downWord (reason : Nat) : W64 := BitVec.ofNat 64 (at_ 1 60 + at_ 4 56 + at_ reason 48)

/-- Whether a link word is a racing fault: another VER, a reserved LTYPE, a nonzero reserved bit (R403). -/
def linkBad (w : W64) : Bool :=
  let t := fld w 59 56
  fld w 63 60 != 1 ||
    (if t = 1 ∨ t = 2 then fld w 27 24 != 0 else if t = 3 then fld w 33 0 != 0 else if t = 4 then fld w 47 0 != 0 else true)

/-! ### Loss of a partner (R406, Table 16-7) -/

/-- The flits in flight on a port and the frames in its receive pool are discarded: ops no longer wait for them (R218, R401, R410). -/
def State.dropFlights (s : State) (q : Nat) : State :=
  let p := s.port q
  let s1 := p.fly.foldl (fun s f =>
    let s1 := match f.op with
      | none => s
      | some id => s.mapOp id (fun o => { o with wout := o.wout - f.n })
    match f.peer with
    | none => s1
    | some x => s1.setGroup x.1 ((s1.group x.1).unuse x.2 f.n)) s
  s1.setPort q { s1.port q with fly := [], wait := [], rx := [], cr := 0 }

/-- The work source is lost: nothing is admitted, and no op accepted before sends a completion record. -/
def State.loseWork (s : State) : State :=
  { s with adm := { s.adm with wdCredits := 0, respCr := 0, wait := [], held := [], mute := s.adm.nextId } }

/-- The fabric or sparse block of a port is lost: its ops are LOST and its rings emptied. -/
def State.loseMemory (s : State) (q : Nat) : State :=
  let s1 : State := { s with stg := { s.stg with
    lines := s.stg.lines.filter (fun l => l.q != q)
    reads := s.stg.reads.filter (fun r => r.q != q) } }
  s1.loseAll (fun o => (s.opPorts o).elem q)

/-- The positions of a slot that are routed through a cascade port, whatever its state. -/
def State.routedBy (s : State) (g p : Nat) : List Nat :=
  (List.range 64).filter (fun pp => bitOf (s.memberMask g) pp && s.obj (key (0x6040 + g) pp) == p)

/-- The peers of a cascade port are lost (R405). -/
def State.losePeers (s : State) (p : Nat) : State :=
  (List.range 16).foldl (fun s g => (s.routedBy g p).foldl (fun s pp =>
    if (s.group g).live.elem pp then s.loseMember g pp else s.losePosition g pp) s) s

/-- What the loss of a port's partner does. -/
def State.partnerLost (s : State) (q : Nat) : State :=
  if q = 0 then s.loseWork
  else if q ≤ 16 then s.loseMemory q
  else if q ≤ 24 then (s.losePeers (q - 17)).closeRegions
  else if q = 25 then s.losePower
  else s

/-! ### Down, quarantine, reset (R401, R410) -/

/-- A port leaves the exchange or the up state: DOWN while LIVE_O is high when `word` says that it can complete, then the
outputs are clamped, the event is recorded, and the partner is lost if the port was up (R401, R402, class 0x182). -/
def State.portDown (s : State) (q st reason : Nat) (word : Bool) : State :=
  let p := s.port q
  let s1 := if word ∧ p.liveO ∧ p.liveI then s.emit (.link q (downWord reason)) else s
  let s2 := if p.liveO then s1.emit (.live q false) else s1
  let s3 := s2.dropFlights q
  let s4 := s3.setPort q { s3.port q with
    st := st, liveO := false, capIn := none, selOut := none, selIn := none, since := s.portNow, agreed := 0, feat := 0,
    reason := reason }
  let s5 := s4.portEvent q 0x182 3 (at_ reason 32)
  if p.st = 2 then s5.partnerLost q else s5

/-- One hour in steps (R401). -/
def quarantineHour : Nat := 360000000000

/-- A port is quarantined, or held down at the fourth time within an hour (R401, class 0x183); `word` when DOWN can complete. -/
def State.quarantinePort (s : State) (q : Nat) (word : Bool) : State :=
  let p := s.port q
  let ts := p.qtimes.filter (fun t => decide (s.portNow < t + quarantineHour)) ++ [s.portNow]
  let held := decide (4 ≤ ts.length)
  let s1 := s.setPort q { p with qtimes := ts, qcount := min (2 ^ 32 - 1) (p.qcount + 1) }
  let s2 := s1.portDown q (if held then 4 else 3) 5 word
  if held then s2.portEvent q 0x183 3 (at_ ts.length 32) else s2

/-- Whether DOWN can complete within the silence bound after a fault: LKO itself is neither held nor unanswered (R401; log 29). -/
def downCompletes (chan kind : Nat) : Bool := !(chan == 0x10 && (kind == 7 || kind == 8))

/-- A handshake fault (R400, R401, class 0x180): racing and stuck faults quarantine the port, silence brings it down. The REASON of a
silence fault is 0 (log 29). -/
def State.portFault (s : State) (q chan kind : Nat) : State :=
  let s1 := s.portEvent q 0x180 3 (at_ chan 32 + at_ kind 28)
  if kind ≤ 7 then s1.quarantinePort q (downCompletes chan kind) else s1.portDown q 0 0 (downCompletes chan kind)

/-- A credit overrun (R218, class 0x040): the flit is discarded and counted, the port quarantined. -/
def State.overrun (s : State) (q : Nat) : State :=
  (((s.bump (key 0x1200 0) 1).portEvent q 0x040 2 (at_ (s.pathRow q) 32)).quarantinePort q true)

/-- Whether the serializer of a cascade port is retired by its newest sweep, so that the port is not offered (R291). -/
def State.retired (s : State) (q : Nat) : Bool := decide (17 ≤ q) && decide (q ≤ 24) && bitOf (s.obj (key (0x5240 + (q - 17)) 2)) 8

/-- Whether start-up has reached the exchange of a port (Table 16-10): the power port from step 2, the management port once
every island has settled, the others from step 6. -/
def State.mayExchange (s : State) (q : Nat) : Bool :=
  s.pwrGood && s.clk.lost == false && !s.retired q &&
    (if q = 25 then decide (2 ≤ s.boot.step) else if q = 26 then decide (3 ≤ s.boot.step) else decide (6 ≤ s.boot.step))

/-- The block's CAP (R404). -/
def State.ownCap (s : State) (q : Nat) : W64 := capWord 1 (s.pkind q) 1 1 0 0 (s.ownPool q)

/-- Both live lines are high: the exchange begins, or the management port is up, its link established with them (R404; log 30). -/
def State.beginExchange (s : State) (q : Nat) : State :=
  let p := s.port q
  if q = 26 then (s.setPort q { p with st := 2, since := s.portNow, agreed := 256 }).portEvent q 0x181 0 (at_ 1 36)
  else (s.setPort q { p with st := 1, since := s.portNow, capIn := none, selOut := none, selIn := none }).emit (.link q (s.ownCap q))

/-- A port raises LIVE_O, which ends its down state, and sends CAP once LIVE_I is high too (R402, R404). -/
def State.bringPort (s : State) (q : Nat) : State :=
  let p := s.port q
  let s1 := (s.setPort q { p with st := 1, liveO := true, cr := 0, pool := 0, since := s.portNow }).emit (.live q true)
  if p.liveI then s1.beginExchange q else s1

/-- A port reset (R410, class 0x191): its pools and flits in flight are cleared, queued responses of the work port
discarded (R406), debug mode ends (R366), and the port exchanges again. -/
def State.resetPort (s : State) (q : Nat) : State :=
  let s1 := if (s.port q).st = 1 ∨ (s.port q).st = 2 then s.portDown q 0 7 true else s
  let s2 := if q = 0 then { s1 with adm := { s1.adm with respQ := [] } } else s1
  let s3 := s2.leaveDebug.portEvent q 0x191 0 (at_ 3 32 + s2.obj (key 0x1300 1))
  if s3.mayExchange q then s3.bringPort q else s3.setPort q { s3.port q with st := 0 }

/-- QUARANTINE_HOLD_EXPIRY: after the hold a quarantined port takes a port reset, and a port whose exchange failed tries
again (R401, R404). -/
def execQuarantineHoldExpiry (q : Nat) (s : State) : Host.Outcome State Fault Refusal :=
  if !portBuilt s.conf q then .fault .absentUnit
  else
    let p := s.port q
    if (p.st = 3 ∨ p.st = 0) ∧ s.mayExchange q ∧ s.timeUp p.since (s.obj (key 0x1302 0)) then .next (s.resetPort q)
    else .next s

/-! ### Live lines (R402, R404, R410) -/

/-- LIVE_RISE: the partner is present; a port that waits for it exchanges, a down port takes a port reset first (R404, R410). -/
def execLiveRise (q : Nat) (s : State) : Host.Outcome State Fault Refusal :=
  if !portBuilt s.conf q ∨ 26 < q then .fault .absentUnit
  else
    let p := s.port q
    if p.liveI then .next s
    else
      let s1 := s.setPort q { p with liveI := true }
      if p.st = 1 then .next (s1.beginExchange q)
      else if p.st = 0 ∧ s.mayExchange q then .next (s1.resetPort q)
      else .next s1

/-- LIVE_LOSS: the partner is gone, which is silence of kind 0x9 on a port that is exchanging or up; the fault names the
link channel (R400; log 29). -/
def execLiveLoss (q : Nat) (s : State) : Host.Outcome State Fault Refusal :=
  if !portBuilt s.conf q ∨ 26 < q then .fault .absentUnit
  else
    let p := s.port q
    if p.liveI = false then .next s
    else
      let s1 := s.setPort q { p with liveI := false }
      if p.st = 1 ∨ p.st = 2 then .next (s1.portFault q 0x11 9) else .next s1

/-! ### The exchange (R404) -/

/-- An exchange that fails: the port goes down with a REASON. -/
def State.failPort (s : State) (q reason : Nat) : State := s.portDown q 0 reason true

/-- The agreement on a partner's CAP: the REASON of a failure, or the CAPSEL to send (R404, R216). -/
def State.agreement (s : State) (q : Nat) (w : W64) : Nat × W64 :=
  let pk := fld w 55 52
  let mx := fld w 51 48
  let mn := fld w 47 44
  let m := min 1 mx
  if m < max 1 mn then (1, 0)
  else if pk ≠ s.pkind q then (2, 0)
  else if fld w 23 0 < s.leastPool q then (3, 0)
  else
    let minor := if mx = 1 then min 0 (fld w 43 36) else if mx = m then fld w 43 36 else 0
    (0, capWord 2 pk m m minor (0 &&& fld w 35 28) (s.ownPool q))

/-- Both CAPSELs are here: the port is up when they agree on everything but each side's POOL (log 30), and each receiver
returns the credits it advertised (class 0x181). With unequal ones it stays in the exchange. -/
def State.checkSel (s : State) (q : Nat) : State :=
  let p := s.port q
  match p.selOut, p.selIn with
  | some a, some b =>
    if a.toNat / 2 ^ 24 = b.toNat / 2 ^ 24 then
      let s1 := s.setPort q { p with st := 2, since := s.portNow, agreed := fld a 51 48 * 256 + fld a 43 36, feat := fld a 35 28 }
      let s2 := s1.portEvent q 0x181 0 (at_ (fld a 51 48) 36 + at_ (fld a 43 36) 28 + at_ (fld a 35 28) 20)
      let s3 := if q = 0 then { s2 with adm := { s2.adm with wdCredits := s2.ownPool 0 } } else s2
      if s3.creditChan q = 0 then s3 else s3.giveCredits q (s3.creditChan q) (s3.ownPool q)
    else s
  | _, _ => s

/-- A partner's CAP while exchanging. -/
def State.takeCap (s : State) (q : Nat) (w : W64) : State :=
  let a := s.agreement q w
  if a.1 ≠ 0 then s.failPort q a.1
  else
    let s1 := (s.setPort q { s.port q with capIn := some w, pool := fld w 23 0, selOut := some a.2 }).emit (.link q a.2)
    s1.checkSel q

/-- The shared shell of the link words: ignored unless LIVE_I is high and the port is exchanging or up; a malformed word is
a racing fault of kind 0x5 on LKI (R402, R403). -/
def State.onLink (s : State) (q : Nat) (w : W64) (ltype : Nat) (body : State → State) : Host.Outcome State Fault Refusal :=
  if !portBuilt s.conf q ∨ 25 < q then .fault .absentUnit
  else
    let p := s.port q
    if p.liveI = false ∨ ¬(p.st = 1 ∨ p.st = 2) then .next s
    else if linkBad w then .next (s.portFault q 0x11 5)
    else if fld w 59 56 ≠ ltype then .next s
    else .next (body s)

/-- CAP (R404). -/
def execCap (q : Nat) (w : W64) (s : State) : Host.Outcome State Fault Refusal :=
  s.onLink q w 1 (fun s => if (s.port q).st = 1 ∧ (s.port q).capIn.isNone then s.takeCap q w else s)

/-- BEACON (R405). -/
def execBeacon (q : Nat) (w : W64) (s : State) : Host.Outcome State Fault Refusal :=
  s.onLink q w 3 (fun s => if 17 ≤ q ∧ q ≤ 24 ∧ s.up q then s.hearBeacon (fld w 55 50) (fld w 49 34) else s)

/-- DOWN: the partner goes down; its REASON is recorded, and it is lost (R401, R406). -/
def execDown (q : Nat) (w : W64) (s : State) : Host.Outcome State Fault Refusal :=
  s.onLink q w 4 (fun s => s.portDown q 0 (fld w 55 48) false)

/-- EXCHANGE_TIMEOUT: a port that is not up 100,000 steps after both live lines were high goes down (R404). -/
def execExchangeTimeout (q : Nat) (s : State) : Host.Outcome State Fault Refusal :=
  if !portBuilt s.conf q then .fault .absentUnit
  else if (s.port q).st = 1 ∧ (s.port q).liveI ∧ s.timeUp (s.port q).since (s.obj (key 0x1302 4)) then .next (s.failPort q 4)
  else .next s

/-! ### Faults (R400, R401) -/

/-- Whether the phase checker watches a port: exchanging or up, with LIVE_I high (R400, R402). -/
def State.watched (s : State) (q : Nat) : Bool := decide (q ≤ 25) && (s.port q).liveI && ((s.port q).st == 1 || (s.port q).st == 2)

/-- RACING_FAULT: kinds 0x1 to 0x5 quarantine the port (R401). -/
def execRacingFault (q chan kind : Nat) (s : State) : Host.Outcome State Fault Refusal :=
  if !portBuilt s.conf q then .fault .absentUnit
  else if s.watched q ∧ 1 ≤ kind ∧ kind ≤ 5 then .next (s.portFault q chan kind) else .next s

/-- The last beacon heard from a member that a cascade port serves; the time the port came up while there is none. -/
def State.lastBeacon (s : State) (q : Nat) : Nat :=
  maxN ((s.port q).since :: (List.range 16).flatMap (fun g =>
    (s.group g).heard.filterMap (fun h => if (s.routedBy g (q - 17)).elem h.1 then some h.2 else none)))

/-- Whether a required message is missing on a port for the silence bound: the VT of an island on the power port; on a cascade port a
beacon, due every beacon period while a group slot has a route there (Table 16-5 kind 0xA, R405; log 114). -/
def State.messageMissing (s : State) (q : Nat) : Bool :=
  if q = 25 then (List.range s.conf.cores).any (fun c => s.timeUp (max (s.island c).last (s.port 25).since) (s.obj (key 0x1302 1)))
  else decide (17 ≤ q) && decide (q ≤ 24) && (List.range 16).any (fun g => s.routedBy g (q - 17) != []) &&
    s.timeUp (s.lastBeacon q) (s.obj (key 0x1302 2) + s.obj (key 0x1302 1))

/-- SILENCE_BOUND_EXPIRY: kinds 0x6 and 0x7 quarantine the port, 0x8 and 0xA bring it down (R400, R401). -/
def execSilenceBoundExpiry (q chan kind : Nat) (s : State) : Host.Outcome State Fault Refusal :=
  if !portBuilt s.conf q then .fault .absentUnit
  else if s.watched q ∧ (kind = 6 ∨ kind = 7 ∨ kind = 8 ∨ (kind = 0xA ∧ s.messageMissing q)) then .next (s.portFault q chan kind)
  else .next s

/-- CREDIT_BOUND_EXPIRY: a partner that returns no credit for the credit bound while flits are out and no credit is left is silent, but
for the response channel of the work port (R400 kind 0xB). -/
def execCreditBoundExpiry (q chan : Nat) (s : State) : Host.Outcome State Fault Refusal :=
  if !portBuilt s.conf q then .fault .absentUnit
  else if 1 ≤ q ∧ q ≤ 24 ∧ s.up q ∧ (s.port q).cr = 0 ∧ (s.port q).fly ≠ [] ∧ s.timeUp (s.port q).dry (s.obj (key 0x1302 5)) then .next (s.portFault q chan 0xB)
  else .next s

/-! ### Credits (R215) -/

/-- The flits that leave flight when `n` are returned, oldest first: what stays, and what has left. -/
def popFlights : List Flight → Nat → List Flight × List Flight
  | [], _ => ([], [])
  | f :: r, n =>
    let part : Flight := { f with n := min f.n n }
    let rest := popFlights r (n - part.n)
    if n = 0 then (f :: r, [])
    else if n < f.n then ({ f with n := f.n - n } :: r, [part])
    else (rest.1, part :: rest.2)

/-- Returned flits are taken off their ops and positions. -/
def State.landFlights (s : State) (fs : List Flight) : State :=
  fs.foldl (fun s f =>
    let s1 := match f.op with
      | none => s
      | some id => s.mapOp id (fun o => { o with wout := o.wout - f.n })
    match f.peer with
    | none => s1
    | some x => s1.setGroup x.1 ((s1.group x.1).unuse x.2 f.n)) s

/-- The credit channel on which a partner returns the block's credits (Table 16-2). -/
def State.backChan (s : State) (q : Nat) : Nat := [0, 0x04, 0x09, 0x09, 0x0B, 0x0B, 0].getD (s.pkind q) 0

/-- Credits come: up to the partner's pool they are the first grant of the exchange, beyond it they return flits in flight
(R215, R404); frames that waited for credits leave (log 41). -/
def State.takeCredits (s : State) (q n : Nat) : State :=
  let p := s.port q
  let out := sumN (p.fly.map (fun f => f.n))
  let first := min n (p.pool - (p.cr + out))
  let x := popFlights p.fly (n - first)
  let back := sumN (x.2.map (fun f => f.n))
  let s1 := s.setPort q { p with cr := p.cr + first + back, fly := x.1 }
  (s1.landFlights x.2).flushPort q (p.wait.length + 1)

/-- CREDIT_RETURN: `n` flits come back on a credit channel (R215). -/
def execCreditReturn (q chan : Nat) (n : BitVec 8) (s : State) : Host.Outcome State Fault Refusal :=
  if !portBuilt s.conf q then .fault .absentUnit
  else if 1 ≤ q ∧ q ≤ 24 ∧ s.up q ∧ chan = s.backChan q then .next (s.takeCredits q n.toNat) else .next s

/-! ### The strobe (R194, R408) -/

/-- STROBE_LOST (class 0x188; log 5). -/
def execStrobeLost (s : State) : Host.Outcome State Fault Refusal :=
  if s.clk.lost then .next s
  else .next (({ s with clk := { s.clk with lost := true } }).portEvent 27 0x188 3 0)

end Sys2Proof.Machine
end

