-- ==== Sys2Proof/Machine/Admission.lean ====
section
/-! DEFINITION. Descriptors as they arrive on the work port (R118 to R126, R169, R181, R204, R212, R217, R218): held, paired,
checked, priced, and accepted or refused with their admission responses. -/

namespace Sys2Proof.Machine

/-! ### Reasons -/

/-- The kind that a descriptor is checked as; `early` refuses the one that has none. -/
def kindFor (d : Desc) : OpK := (kindOf d).getD .loadw

/-- MODE, as R169 gives it. -/
def modeReason : Reason := (0x0A, 0xFF)

/-- ALTPAIR, naming the word of ALT and ALTF. -/
def altReason : Reason := (0x11, 1)

/-- The earlier of two reasons in Table 05-12. -/
def firstOf (a b : Reason) : Reason := if reasonRank a < reasonRank b then a else b

/-- The first reason that applies to a descriptor on its own terms, with ALTPAIR when its pairing fails (log 54). -/
def State.ownReason (s : State) (d : Desc) (rolled : Option Desc) (unpaired : Bool) : Option Reason :=
  let r := s.check ⟨if rolled.isSome then .drain else kindFor d, d, rolled⟩
  if unpaired then some ((r.map (firstOf altReason)).getD altReason) else r

/-- A descriptor is refused: nothing else changes (R121). -/
def State.refuse (s : State) (d : Desc) (r : Reason) (credits : Nat) : State := s.respond (refusal d r 0 credits)

/-- A descriptor that fails to stand in its place in a group: its own first reason, or MODE (R169). -/
def State.refuseOwn (s : State) (d : Desc) (rolled : Option Desc) : State :=
  s.refuse d ((s.ownReason d rolled (rolled.isNone && d.altf)).getD modeReason) 1

/-! ### Groups (R126, R169, R181) -/

/-- Whether a descriptor takes an alternative form (R126, Table 05-2). -/
def takesAlt (d : Desc) : Bool := d.alt && !d.altf && (d.op == 0x02 || d.op == 0x05)

/-- The companions that a rolling op is held for; a reserved SHAPE makes no rolling op (R169, R181). -/
def companions (d : Desc) : Nat := if isRolling d && decide (d.shape ≤ 5) then (if isComplex d then 2 else 1) else 0

/-- Whether a descriptor is the alternative form of the first (R126). -/
def altPairs (a b : Desc) : Bool :=
  b.altf && !b.alt && b.fmt == 1 && a.op == b.op && a.tenant == b.tenant && a.epoch == b.epoch && a.tag == b.tag &&
    a.region == b.region && a.prov == b.prov && a.comm == b.comm && a.shape == b.shape && a.tile == b.tile &&
    a.tlist == b.tlist && a.m == b.m && a.k == b.k && a.n == b.n && a.n0 == b.n0

/-- Whether a descriptor is companion `i` of a rolling op (R169, R181). -/
def isCompanion (r d : Desc) (i : Nat) : Bool :=
  let t := (chainTile (chainAt r (tileCore r) 0) (nibble r.tlist (8 * i))).handle
  d.op == 0x04 && d.tenant == r.tenant && d.epoch == r.epoch && d.prov == r.prov && d.region == r.region &&
    d.tile == t && d.tlist == 0 && d.m == r.m && d.n == r.n && d.n0 == r.n0 && !d.keep

/-- A state in which an op has been entered without a price, for the checks of what follows it in its group. -/
def State.trial (s : State) (k : OpK) (d : Desc) (rolled : Option Nat) (rd : Option Desc) : State :=
  s.enterOp (s.newOp k d false rolled rd) (.none_ (256 * s.now))

/-- What the checks say of each companion, with the rolling op and the companions before it entered (log 54). -/
def State.compReasons (s : State) (id : Nat) (lead : Desc) : List Desc → List (Option Reason)
  | [] => []
  | c :: r => match s.check ⟨.drain, c, some lead⟩ with
    | none => none :: (s.trial .drain c (some id) (some lead)).compReasons id lead r
    | some x => some x :: s.compReasons id lead r

/-- A group refused: the rolling op with one reason, each companion with its own or MODE (R169). -/
def State.refuseGroup (s : State) (lead : Desc) (r : Reason) (credits : Nat) (comps : List (Desc × Option Reason)) : State :=
  comps.foldl (fun s c => s.refuse c.1 (c.2.getD modeReason) 1) (s.refuse lead r credits)

/-! ### Windows (R204, R212) -/

/-- A window within the cap. -/
def State.within (s : State) (p : Option Plan) : Option Nat := p.bind (fun x => if x.window ≤ s.windowCap then some x.window else none)

/-- Whether a plan's window satisfies R204. -/
def State.planOk (s : State) (d : Desc) (p : Option Plan) : Bool := (p.map (fun x => s.windowOk d x.window)).getD false

/-- The form that is accepted or whose window is offered: the primary when its window will do or there is no other, else
the alternative when its window will do, else the one with the shorter window within the cap (R212). -/
def State.chooseForm (s : State) (k : OpK) (lead : Desc) (alt : Option Desc) (b : Nat) : Desc × Option Plan :=
  let p := s.plan k lead false none none b
  match alt with
  | none => (lead, p)
  | some a =>
    if s.planOk lead p then (lead, p)
    else
      let q := s.plan k a true none none b
      if s.planOk a q then (a, q)
      else match s.within p, s.within q with
        | none, _ => (a, q)
        | some _, none => (lead, p)
        | some x, some y => if y < x then (a, q) else (lead, p)

/-- The plans of the companions, each behind what comes before it. -/
def planComps (id : Nat) (run : Desc) : Option State → List Desc → List (Desc × Option Plan)
  | _, [] => []
  | none, c :: r => (c, none) :: planComps id run none r
  | some s, c :: r =>
    let p := s.plan .drain c false (some id) (some run) 0
    (c, p) :: planComps id run (p.map (fun x => x.after)) r

/-- What acceptance sends and ends at once: a GATE has delivered (R221), a SQUASH acts on the group ops of its region
(R229), an epoch FENCE under discard on those it fences, with its notices (R237, R239). -/
def State.afterAccept (s : State) (k : OpK) (d : Desc) (id : Nat) (discard : Option Nat) : State :=
  match k with
  | .gate => match s.op? id with
    | none => s
    | some o => s.finishOp o (s.statusOf o)
  | .squash => (s.squashSends d.tenant d.region).closeRegions
  | .fenceEpoch => match discard with
    | none => s
    | some floor => ((s.dropWaiting d.tenant floor d.fepoch).sendRevokes d.tenant d.fepoch).fenceSends
  | _ => s

/-- The floor before an epoch FENCE that will fence its epoch under discard. -/
def State.discards (s : State) (d : Desc) : Option Nat :=
  if s.fenceLive d && s.obj (key (0x3100 + d.tenant) 2) == 0 then some (s.obj (key (0x3100 + d.tenant) 1)) else none

/-- A group accepted: the ops are entered, linked to each other, and answered in their order (R169). -/
def State.acceptGroup (s : State) (k : OpK) (lead : Desc) (credits : Nat) (p : Plan) (cs : List Plan) : State :=
  let s1 := ((cs.getLast?).getD p).after
  let s2 := s1.mapOp p.op.id (fun o => { o with comp := cs.map (fun c => c.op.id) })
  let s3 := s2.respond (acceptance lead p.op.deadline credits)
  let s4 := cs.foldl (fun s c => s.respond (acceptance c.op.d c.op.deadline 1)) s3
  s4.afterAccept k lead p.op.id (s.discards lead)

/-- A group refused for its windows: WINDOW when one of them has none within the cap, else WREQ; each OFFER is its own
(log 58). -/
def State.refuseWindows (s : State) (ws : List (Desc × Nat × Option Nat)) : State :=
  let none_ := ws.any (fun w => w.2.2.isNone)
  ws.foldl (fun s w => s.respond (refusal w.1 (if none_ then (0x0D, 0xFF) else (0x0E, 1)) (w.2.2.getD 0) w.2.1)) s

/-- The first reason of an op and its alternative form before any window (R212). -/
def State.formReason (s : State) (k : OpK) (lead : Desc) (alt : Option Desc) : Option Reason :=
  match s.check ⟨k, lead, none⟩ with
  | some r => some r
  | none => alt.bind (fun a => s.check ⟨k, a, none⟩)

/-- What is wrong with an op and its alternative form; an alternative form that follows no primary is held with its companions as any
rolling op is, and refused then (R126, R169). -/
def State.leadReason (s : State) (k : OpK) (lead : Desc) (alt : Option Desc) : Option Reason :=
  if lead.altf then some ((s.ownReason lead none true).getD altReason) else s.formReason k lead alt

/-- Bytes that a companion moves for a register, for the token period; with ASTRIDE = 0 only its first row has fusion bytes (R161,
R195). -/
def compBytes (lead c : Desc) : Nat := drainBytes c (lead.op == 0x05) (c.astride != 0)

/-- An op with its alternative form and companions is admitted together (R126, R169, R204, R212). -/
def State.admitGroup (s : State) (lead : Desc) (alt : Option Desc) (comps : List Desc) : State :=
  let k := kindFor lead
  let credits := if alt.isSome then 2 else 1
  match s.leadReason k lead alt with
  | some r =>
    let rs := comps.map (fun c => s.ownReason c (some lead) false)
    let r2 := if rs.any (fun x => x.isSome) then firstOf modeReason r else r
    s.refuseGroup lead r2 credits (comps.zip rs)
  | none =>
    let rs := (s.trial k lead none none).compReasons s.adm.nextId lead comps
    if rs.any (fun x => x.isSome) then s.refuseGroup lead modeReason credits (comps.zip rs)
    else
      let f := s.chooseForm k lead alt (maxN (comps.map (compBytes lead)))
      let cs := planComps s.adm.nextId f.1 (f.2.map (fun x => x.after)) comps
      match f.2, allSome (cs.map (fun c => c.2)) with
      | some p, some ps =>
        if s.planOk f.1 f.2 && cs.all (fun c => s.planOk c.1 c.2) then s.acceptGroup k lead credits p ps
        else s.refuseWindows ((lead, credits, s.within f.2) :: cs.map (fun c => (c.1, 1, s.within c.2)))
      | _, _ => s.refuseWindows ((lead, credits, s.within f.2) :: cs.map (fun c => (c.1, 1, s.within c.2)))

/-! ### Arrival (R118, R119, R217, R218) -/

/-- A descriptor on its own terms, with nothing held before it. -/
def State.startDesc (s : State) (d : Desc) : State :=
  match s.early d with
  | some r => s.refuse d r 1
  | none =>
    if d.altf ∧ companions d = 0 then s.refuse d ((s.ownReason d none true).getD altReason) 1
    else if takesAlt d || companions d != 0 then { s with adm := { s.adm with held := [d] } }
    else s.admitGroup d none []

/-- Nothing is held any more. -/
def State.unhold (s : State) : State := { s with adm := { s.adm with held := [] } }

/-- The descriptor that follows a held one is no alternative form of it (R126, R169). -/
def State.noAlt (s : State) (lead d : Desc) : State :=
  let s1 := s.unhold.refuse lead ((s.ownReason lead none true).getD altReason) 1
  if companions lead = 0 then s1.startDesc d else s1.refuseOwn d none

/-- A companion is missing: everything held is refused, and so is what came in its place (R169). -/
def State.noCompanion (s : State) (lead : Desc) (alt : Option Desc) (comps : List Desc) (d : Desc) : State :=
  let own := s.leadReason (kindFor lead) lead alt
  let s1 := s.unhold.refuse lead ((own.map (firstOf modeReason)).getD modeReason) (if alt.isSome then 2 else 1)
  (comps.foldl (fun s c => s.refuseOwn c (some lead)) s1).refuseOwn d none

/-- A descriptor that follows held ones. -/
def State.nextDesc (s : State) (held : List Desc) (d : Desc) : State :=
  match held with
  | [] => s.startDesc d
  | lead :: rest =>
    if takesAlt lead ∧ rest = [] then
      (if altPairs lead d then
        (if companions lead = 0 then s.unhold.admitGroup lead (some d) []
        else { s with adm := { s.adm with held := held ++ [d] } })
      else s.noAlt lead d)
    else
      let alt := if takesAlt lead then rest.head? else none
      let comps := if takesAlt lead then rest.drop 1 else rest
      if isCompanion lead d comps.length then
        (if comps.length + 1 = companions lead then s.unhold.admitGroup lead alt (comps ++ [d])
        else { s with adm := { s.adm with held := held ++ [d] } })
      else s.noCompanion lead alt comps d

/-- Whether the response queue is full (R217). -/
def State.respFull (s : State) : Bool := decide (1024 ≤ s.adm.respQ.length)

/-- A descriptor arrives on the work port: it costs a credit, without which it is an overrun (R118, R218); it waits while the
response queue is full or others wait before it (R217). -/
def State.receive (s : State) (d : Desc) : State :=
  if s.up 0 = false then s
  else if s.adm.wdCredits = 0 then s.overrun 0
  else
    let s1 : State := { s with adm := { s.adm with wdCredits := s.adm.wdCredits - 1 } }
    if s.adm.wait ≠ [] ∨ s.respFull then { s1 with adm := { s1.adm with wait := s1.adm.wait ++ [d] } }
    else s1.nextDesc s1.adm.held d

/-- Waiting descriptors are admitted in their order while the response queue has room (R217). -/
def State.admitWaiting (s : State) : Nat → State
  | 0 => s
  | k + 1 => match s.adm.wait with
    | [] => s
    | d :: r =>
      if s.respFull then s
      else
        let s1 : State := { s with adm := { s.adm with wait := r } }
        (s1.nextDesc s1.adm.held d).admitWaiting k

/-- RESPONSE_CREDIT: the source has consumed response flits; queued records leave, and what waited for room is admitted
(R217). No more credits are held than the source's pool (log 41). -/
def execResponseCredit (n : BitVec 8) (s : State) : Host.Outcome State Fault Refusal :=
  if s.up 0 then
    let s1 : State := { s with adm := { s.adm with respCr := min (s.port 0).pool (s.adm.respCr + n.toNat) } }
    .next ((s1.drainResp (s1.adm.respQ.length + 1)).admitWaiting s1.adm.wait.length)
  else .next s

/-! ### The descriptor rows -/

/-- LOADW (R70, R134). -/
def execLoadw (d : Desc) (s : State) : Host.Outcome State Fault Refusal :=
  if kindOf d = some .loadw then .next (s.receive d) else .next s

/-- STREAM (R134). -/
def execStream (d : Desc) (s : State) : Host.Outcome State Fault Refusal :=
  if kindOf d = some .stream then .next (s.receive d) else .next s

/-- PRELOAD (R139). -/
def execPreload (d : Desc) (s : State) : Host.Outcome State Fault Refusal :=
  if kindOf d = some .preload then .next (s.receive d) else .next s

/-- DRAIN (R140). -/
def execDrain (d : Desc) (s : State) : Host.Outcome State Fault Refusal :=
  if kindOf d = some .drain then .next (s.receive d) else .next s

/-- SCAN (R137). -/
def execScan (d : Desc) (s : State) : Host.Outcome State Fault Refusal :=
  if kindOf d = some .scan then .next (s.receive d) else .next s

/-- MPASS (R172). -/
def execMpass (d : Desc) (s : State) : Host.Outcome State Fault Refusal :=
  if kindOf d = some .mpass then .next (s.receive d) else .next s

/-- OWNER_XRED (R306). -/
def execOwnerXred (d : Desc) (s : State) : Host.Outcome State Fault Refusal :=
  if kindOf d = some .owner then .next (s.receive d) else .next s

/-- CONTRIBUTION (R314). -/
def execContribution (d : Desc) (s : State) : Host.Outcome State Fault Refusal :=
  if kindOf d = some .contrib then .next (s.receive d) else .next s

/-- TRIMMED_LONG_CONTRIBUTION (R233, R307). -/
def execTrimmedLongContribution (d : Desc) (s : State) : Host.Outcome State Fault Refusal :=
  if kindOf d = some .trimmed then .next (s.receive d) else .next s

/-- COLLECTION (R313, R314). -/
def execCollection (d : Desc) (s : State) : Host.Outcome State Fault Refusal :=
  if kindOf d = some .collection then .next (s.receive d) else .next s

/-- RETRACT (R318). -/
def execRetract (d : Desc) (s : State) : Host.Outcome State Fault Refusal :=
  if kindOf d = some .retract then .next (s.receive d) else .next s

/-- FENCE_ORDER (R142). -/
def execFenceOrder (d : Desc) (s : State) : Host.Outcome State Fault Refusal :=
  if kindOf d = some .fenceOrder then .next (s.receive d) else .next s

/-- FENCE_EPOCH (R236, R237). -/
def execFenceEpoch (d : Desc) (s : State) : Host.Outcome State Fault Refusal :=
  if kindOf d = some .fenceEpoch then .next (s.receive d) else .next s

/-- FENCE_QUIESCE (R240). -/
def execFenceQuiesce (d : Desc) (s : State) : Host.Outcome State Fault Refusal :=
  if kindOf d = some .fenceQuiesce then .next (s.receive d) else .next s

/-- GATE (R221). -/
def execGate (d : Desc) (s : State) : Host.Outcome State Fault Refusal :=
  if kindOf d = some .gate then .next (s.receive d) else .next s

/-- COMMIT (R228). -/
def execCommit (d : Desc) (s : State) : Host.Outcome State Fault Refusal :=
  if kindOf d = some .commit then .next (s.receive d) else .next s

/-- SQUASH (R229). -/
def execSquash (d : Desc) (s : State) : Host.Outcome State Fault Refusal :=
  if kindOf d = some .squash then .next (s.receive d) else .next s

/-- SAVE (R361). -/
def execSave (d : Desc) (s : State) : Host.Outcome State Fault Refusal :=
  if kindOf d = some .save then .next (s.receive d) else .next s

/-- RESTORE (R365). -/
def execRestore (d : Desc) (s : State) : Host.Outcome State Fault Refusal :=
  if kindOf d = some .restore then .next (s.receive d) else .next s

/-- DICT_READ (R145). -/
def execDictRead (d : Desc) (s : State) : Host.Outcome State Fault Refusal :=
  if kindOf d = some .dict ∧ d.flag0 = false then .next (s.receive d) else .next s

/-- DICT_WRITE (R145, R384). -/
def execDictWrite (d : Desc) (s : State) : Host.Outcome State Fault Refusal :=
  if kindOf d = some .dict ∧ d.flag0 = true then .next (s.receive d) else .next s

/-- BALLAST (R336). -/
def execBallast (d : Desc) (s : State) : Host.Outcome State Fault Refusal :=
  if kindOf d = some .ballast then .next (s.receive d) else .next s

/-- UNLISTED_OP_DESCRIPTOR: an OP that Table 05-3 does not list (R150). -/
def execUnlistedOpDescriptor (d : Desc) (s : State) : Host.Outcome State Fault Refusal :=
  if kindOf d = none then .next (s.receive d) else .next s

end Sys2Proof.Machine
end

