-- ==== Sys2Proof/Machine/Start.lean ====
section
/-! DEFINITION. The start of an accepted op (Table 08-2 Start; R81, R96, R142, R147, R333, R361) and the lines that a memory or
sparse block returns (R132, R250, R397). -/

namespace Sys2Proof.Machine

/-! ### Arrangements (R77, R81, R94, R96) -/

/-- Whether an engine is arranged as an op needs it. -/
def State.engineSet (s : State) (o : Op) (n : Nat) : Bool :=
  (s.core (coreOf n)).shape == baseShape o.d.shape && (s.core (coreOf n)).split.elem (n % 16) == (o.d.shape == 5)

/-- The engines of a core that must be regrouped for an op: all of them for a change of shape, else those to be split or
joined. -/
def State.toArrange (s : State) (o : Op) (c : Nat) : List Nat :=
  if (s.core c).shape ≠ baseShape o.d.shape then (List.range 16).map (fun e => c * 16 + e)
  else (enginesOn o c).filter (fun n => !s.engineSet o n)

/-- Whether an engine has no token in it and no weight set pending in its shadow, for an op of the table or for none (R81). -/
def State.engineEmpty (s : State) (n : Nat) : Bool :=
  s.chains.all fun e => !s.chainHas e.1 n || e.2.fly == [] && e.2.held == [] && e.2.pend.isNone && e.2.nxt.isNone

/-- Whether an earlier accepted op needs another arrangement of an op's engines or another shape of its cores: such ops run in
acceptance order (R81, R96). -/
def State.shapeWaits (s : State) (o : Op) : Bool := s.ops.any (fun p => shapesBefore p o)

/-- The core before another in ring order (R112). -/
def spinePrev (c : Nat) : Nat := c / 8 * 8 + (c + 7) % 8

/-- Whether no spine transfer from or into a core is in flight (R96). -/
def State.spineQuiet (s : State) (c : Nat) : Bool := (s.link c).wire == [] && (s.link (spinePrev c)).wire == []

/-- Whether a core is, or may now be, arranged for an op: the engines to regroup are idle, and a core that changes shape has no spine
transfer in flight (R81, R96). -/
def State.canArrange (s : State) (o : Op) (c : Nat) : Bool :=
  (s.toArrange o c).all s.engineEmpty && (decide ((s.core c).shape = baseShape o.d.shape) || s.spineQuiet c)

/-- A core takes the shape of an op, and its chains' engines their arrangement. -/
def State.arrange (s : State) (o : Op) (c : Nat) : State :=
  let old := if (s.core c).shape = baseShape o.d.shape then (s.core c).split else []
  let split := (enginesOn o c).foldl (fun l n => putN l (n % 16) (o.d.shape == 5)) old
  s.setCore c ⟨baseShape o.d.shape, split⟩

/-! ### OP_START -/

/-- Whether an earlier op of the tenant holds an op off: an order FENCE that it meets (R142), or a context op on either side
(R361). -/
def State.ordered (s : State) (o : Op) : Bool :=
  s.ops.any fun p => decide (p.id < o.id) && !p.k.ghost && p.d.tenant == o.d.tenant &&
    (p.k == .fenceOrder && fenceMeets s.conf p o || p.k.context || o.k.context)

/-- The descriptor words of the tensors that an op reads through a staging ring. -/
def State.ringTensors (s : State) (o : Op) : List Nat :=
  (((s.uses o).filter (fun u => !u.wr && refMem (o.d.word u.ten))).map (fun u => u.ten)).eraseDups

/-- Whether the tiles of a reroll are free and its snapshots taken (R284). -/
def State.rerollOpen (s : State) (o : Op) : Bool :=
  match o.k, o.rd with
  | .reroll, some d => s.rerollReady o d && (arrayTiles o).all (fun t => (List.range t.rows).all (fun r =>
      s.ops.all (fun p => decide (o.id ≤ p.id) || !s.rowPending p ⟨t, r⟩)))
  | _, _ => true

/-- Whether the share units of an op are free: none is held by an outstanding op that was placed on it before (R210, R415). -/
def State.unitsOpen (s : State) (o : Op) : Bool :=
  s.ops.all (fun p => p.id == o.id || p.k.ghost || decide (o.start ≤ p.start) || p.units.all (fun u => !o.units.elem u))

/-- Whether an accepted op may start: its release time has come (R333; a BALLAST its priced start, R336), nothing of its tenant
holds it off, its share units are free (R210), its cores can take its arrangement, and its staging rings are free (R147). -/
def State.canStart (s : State) (o : Op) : Bool :=
  !o.started && !o.stopped && decide (o.rel ≤ s.now) && (o.k != .ballast || decide (o.start ≤ 256 * s.now)) &&
    !s.ordered o && s.unitsOpen o && (!o.k.onChains || !s.shapeWaits o && (opCores o).all (s.canArrange o)) && s.rerollOpen o &&
    (s.ringTensors o).all (fun t => !s.lineBusy o [⟨t, 0, 0, 1, false⟩])

/-! ### The lines of an image (R111, R365) -/

/-- Lines of an image that have been read, the first ones of it. -/
def Op.imgLines (o : Op) : Nat := (o.img.filter (fun e => decide (e.1 < 2 ^ 32))).length

/-- A number of 4 or 8 bytes at an aligned offset of the image that an op has read; 0 where it has not read so far. -/
def Op.imgWord (o : Op) (off bytes : Nat) : Nat :=
  match o.img.find? (fun e => e.1 == off / 64) with
  | none => 0
  | some e => e.2.toNat / 2 ^ (8 * (off % 64)) % 2 ^ (8 * bytes)

/-- Walks over core sections and saved buffers to the one that holds position `pos`: the rank of its cluster, and its end, none for a
section whose header has not been read. Sections are listed with the rank of their cluster. -/
def imgSegment (o : Op) (pos ranks : Nat) : Nat → List Nat → Nat × Option Nat
  | off, [] =>
    let b := o.imgWord 56 8
    if b = 0 then (0, none) else (min (ranks - 1) ((pos - off) / b), some (off + b * ((pos - off) / b + 1)))
  | off, k :: r =>
    if pos < off + 64 then (k, none)
    else
      let end_ := off + o.imgWord (off + 8) 4
      if pos < end_ then (k, some end_) else imgSegment o pos ranks end_ r

/-- The next lines of an image to ask for: the rank of the cluster whose port reads them, and how many. The header of the image comes
through the first; of a section whose header is still to come, one line. -/
def Op.imgNext (o : Op) : Nat × Nat :=
  let i := o.imgLines
  if i < 2 then (0, 2 - i)
  else
    let src := (List.range 64).filter (fun c => bitOf (o.imgWord 32 8) c)
    let cls := (src.map (· / 8)).eraseDups
    let x := imgSegment o (64 * i) cls.length 128 (src.map (fun c => (cls.findIdx? (· == c / 8)).getD 0))
    (x.1, match x.2 with
      | none => 1
      | some e => min 256 (ceilDiv (e - 64 * i) 64))

/-- The next lines of a RESTORE's image are asked for once the ones before have come: each core section and each cluster's saved bytes
through the port of the cluster that they are for, clusters taken by rank (R111, R365, R398). -/
def State.requestImage (s : State) (id : Nat) : State :=
  match s.op? id with
  | none => s
  | some o =>
    let i := o.imgLines
    let total := ceilDiv o.d.w2.toNat 64
    if total ≤ i ∨ s.stg.reads.any (fun r => r.op == id) then s
    else
      let x := o.imgNext
      let n := min x.2 (total - i)
      let qs := s.imagePorts o
      let q := qs.getD x.1 (qs.headD 1)
      let line := refAddr o.d.w5 / 64 + i
      let s1 := s.emit (.readReq q s.stg.nextTag line n)
      { s1 with stg := { s1.stg with
        reads := s1.stg.reads ++ [⟨q, s.stg.nextTag, id, 5, i, line, n, s.now, n⟩]
        nextTag := (s.stg.nextTag + 1) % 65536 } }

/-- The send jobs and checks of a group op that starts (R304, R306, R313, R318, R320). -/
def State.startGroup (s : State) (o : Op) : State :=
  match s.slotOf o.d.group with
  | none => s
  | some g =>
    let n := (s.frameList o.d).length
    match o.k with
    | .contrib => s.addJob o.id .contrib g o.d.dest n
    | .trimmed => s.addJob o.id .contrib g o.d.dest n
    | .retract => s.addJob o.id .retract g o.d.dest n
    | .collection => s.addJob o.id .collect g o.d.dest 1
    | .owner => match s.ownRange o.d with
      | none => s
      | some r => s.checkComplete r
    | _ => s

/-- An op starts. -/
def State.startOp (s : State) (o : Op) : State :=
  let s1 := s.mapOp o.id (fun p => { p with started := true })
  let s2 := if o.k.onChains then (opCores o).foldl (fun s c => s.arrange o c) s1 else s1
  let s3 := match o.k, o.rd with
    | .reroll, some d => s2.seedReroll o d
    | _, _ => s2
  let s4 := if o.k = .restore then s3.requestImage o.id else (s.ringTensors o).foldl (fun s t => s.requestAll o.id t 256) s3
  if o.k.group then s4.startGroup o else s4

/-- OP_START (R197, Table 08-2; log 1). -/
def execOpStart (op : Nat) (s : State) : Host.Outcome State Fault Refusal :=
  match s.op? op with
  | none => .next s
  | some o => if s.canStart o then .next (s.startOp o) else .next s

/-! ### MEMORY_READ_LINES (R250, R397) -/

/-- The bytes of a line from its buffer key on; an uncorrectable line takes Q = 1 in every unit. -/
def lineBytes (a : Nat) (l : ReadLine) : List WByte :=
  (List.range 64).map (fun i => ⟨a + i, (l.data.ushiftRight (8 * i)).setWidth 8, decide (2 ≤ l.ecc.toNat)⟩)

/-- The slot of an op's ring that an arriving line takes: the lowest free one, the model's choice as R132 names none. Data on
their way out pass through the ring without changing its bytes, the model's choice too (log 116). -/
def State.freeSlot (s : State) (op ten : Nat) : Nat :=
  ((List.range 256).find? (fun i => !s.stg.lines.any (fun l => l.op == op && l.ten == ten && l.slot == i))).getD 0

/-- The event of a line that the fabric corrected or could not correct (R250, classes 0x002 and 0x003). -/
def State.eccEvent (s : State) (q : Nat) (tenant : Option Nat) (line : Nat) (ecc : Nat) : State :=
  let e (cls sev : Nat) : Event := ⟨cls, sev, portUnit q, portLoc q, none, tenant, line / 4⟩
  if ecc = 0 then s
  else if ecc = 1 then (s.bump (key 0x4001 1) 1).event (e 0x002 1)
  else (s.bump (key 0x4001 2) 1).event (e 0x003 2)

/-- One line of a request for an op: into its staging ring, or for a RESTORE into the image that it reads (2^32 + line
marks one that the fabric could not correct). -/
def State.landLine (s : State) (o : Op) (r : ReadReq) (l : ReadLine) : State :=
  if o.k = .restore then
    let i := r.line - refAddr o.d.w5 / 64
    (s.mapOp o.id (fun p => { p with
      img := p.img ++ [(i, l.data)] ++ (if 2 ≤ l.ecc.toNat then [(2 ^ 32 + i, 0)] else []) })).giveCredits r.q 0x07 1
  else
    let cl := opCluster o.d
    let slot := s.freeSlot o.id r.ten
    let stage := refStage (o.d.word r.ten)
    let s1 : State := { s with
      buf := s.buf.write (lineBytes (bufAddr cl (stage * 2048 + slot * 64)) l)
      stg := { s.stg with lines := s.stg.lines ++ [⟨o.id, r.ten, r.seq, cl, stage, slot, r.line, r.q⟩] } }
    if 9 ≤ r.q then s1.giveCredits r.q 0x07 1 else s1

/-- A request after its next line has come. -/
def State.advanceRead (s : State) (r : ReadReq) : State :=
  { s with stg := { s.stg with reads := s.stg.reads.filterMap (fun x =>
    if x.q == r.q && x.tag == r.tag then
      (if x.left ≤ 1 then none else some { x with seq := x.seq + 1, line := x.line + 1, left := x.left - 1 })
    else some x) } }

/-- One line of a request arrives; the line of an op that is gone is dropped and its credit returns. -/
def State.takeLine (s : State) (q tag : Nat) (l : ReadLine) : State :=
  match s.stg.reads.find? (fun r => r.q == q && r.tag == tag) with
  | none => s
  | some r =>
    let o := s.op? r.op
    let s1 := (s.eccEvent q (o.map (fun p => p.d.tenant)) r.line l.ecc.toNat).advanceRead r
    match o with
    | none => s1.giveCredits q 0x07 1
    | some p => s1.landLine p r l

/-- MEMORY_READ_LINES: lines of an outstanding request land in order; lines that nothing asked for had no credit and are an
overrun (R218). -/
def execMemoryReadLines (q tag : Nat) (lines : List ReadLine) (s : State) : Host.Outcome State Fault Refusal :=
  if !portBuilt s.conf q ∨ q = 0 ∨ 16 < q then .fault .absentUnit
  else if s.up q = false ∨ lines = [] then .next s
  else match s.stg.reads.find? (fun r => r.q == q && r.tag == tag) with
    | none => .next (s.overrun q)
    | some r =>
      if r.left < lines.length then .next (s.overrun q)
      else
        let s1 := lines.foldl (fun s l => s.takeLine q tag l) s
        if (s.op? r.op).any (fun o => o.k == .restore) then .next (s1.requestImage r.op) else .next s1

end Sys2Proof.Machine
end

