-- ==== Sys2Proof/Machine/Contain.lean ====
section
/-! DEFINITION. Containment (spec/11_containment_and_test_deck.md R273 to R279, R286, R287, R291 to R293; R84): the deck
rotation, core tests and what they lead to, remedies, quarantine, release, bypass maps and ageing sweeps. -/

namespace Sys2Proof.Machine

/-! ### Units -/

/-- Whether a unit exists. -/
def unitBuilt (conf : Conf) : HwUnit → Bool
  | .engine n => decide (n < conf.engines)
  | .drain c => decide (c < conf.cores)
  | .link c => decide (c < conf.cores)

/-- The offences of a unit are forgotten. -/
def State.forgive (s : State) (u : HwUnit) : State :=
  let s1 : State := { s with con := { s.con with offences := s.con.offences.filter (fun e => e.1 != u) } }
  match u with
  | .engine n => s1.setObj (key (0x8000 + n) 4) 0
  | _ => s1

/-- Whether an engine's pending bypass map differs from the one in force (R84). -/
def State.mapPending (s : State) : HwUnit → Bool
  | .engine n => s.bypass n != s.obj (key (0x8000 + n) 2)
  | _ => false

/-- A suspect unit with no offence left, whose core has passed a test since its last one, is healthy again (R276); an engine stays
suspect until its pending bypass map is in force (R275). -/
def State.heal (s : State) (u : HwUnit) : State :=
  if s.obj (healthKey u) = 1 ∧ s.offences u = 0 ∧ s.con.clean.elem u ∧ !s.mapPending u then
    (({ s with con := { s.con with clean := s.con.clean.filter (fun x => x != u) } } : State)).setObj (healthKey u) 0
  else s

/-! ### Remedies (R275, R276) -/

/-- The voltage offset that a core has or has asked for, in 10 mV. -/
def State.offsetNow (s : State) (c : Nat) : Nat :=
  match s.pwr.ofs.find? (fun o => o.1 == c) with
  | some o => o.2
  | none => s.obj (key (0x2100 + c) 7)

/-- A voltage offset is asked for, with its VOFS (R276, R345). -/
def State.askOffset (s : State) (c o : Nat) : State :=
  (s.mapPwr (fun p => { p with ofs := p.ofs.filter (fun x => x.1 != c) ++ [(c, o)] })).sendVofs c o

/-- A raise of the offset, or the next margin step where it does not fit. -/
def State.raiseOffset (s : State) (c o : Nat) : State :=
  if o ≤ s.offsetNow c then s
  else if s.offsetFits s.pwr.env c o then (s.askOffset c o).remedyEvent c 0 o
  else s.nextMargin c

/-- The next step of Table 11-2 for a core, by the highest offence count among its units. -/
def State.remedy (s : State) (c : Nat) : State :=
  let k := s.worst c
  if k = 0 then s
  else if s.obj (key 0x5010 1) = 0 then (if k ≤ 5 then s.raiseOffset c k else s.nextMargin c)
  else if s.marginNow c < 15 then s.nextMargin c
  else if s.offsetNow c < 5 ∧ s.offsetFits s.pwr.env c (s.offsetNow c + 1) then s.raiseOffset c (s.offsetNow c + 1)
  else s.noRemedy c

/-! ### Bypass maps (R82, R84) -/

/-- The trusted monitor writes a pending bypass map (class 0x085). -/
def State.pendMap (s : State) (n v : Nat) : State :=
  (s.setObj (key (0x8000 + n) 2) v).event ⟨0x085, 3, 0x05, unitLoc (.engine n), none, none, v⟩

/-- Whether an outstanding op uses an engine or its tile. -/
def State.usesEngine (s : State) (n : Nat) (o : Op) : Bool :=
  (o.k == .ballast && tileCore o.d == coreOf n) || o.chains.any (fun c => (chainEngines c (depthOf o.d.shape)).elem n) ||
    (!o.k.ghost && (s.namedTiles o.k o.d o.rd).any (fun t => t.n == n)) || (o.k.context && o.held.any (fun q => q / 4 == n))

/-- Whether an engine's bypass map may change: the engine is idle under R81, no lease holds its tile, no quarter is bound (R84). -/
def State.mapFree (s : State) (n : Nat) : Bool :=
  s.engineEmpty n && !s.ops.any (s.usesEngine n) && (TileRef.mk n 0).quarters.all (fun q => (s.tileQ q).bound.isNone)

/-- Whether a pending map may be applied (R84). -/
def State.mapReady (s : State) (n : Nat) : Bool := s.mapPending (.engine n) && s.mapFree n

/-- The registers and planner state of an engine's tile are cleared; range records on it end. -/
def State.clearTile (s : State) (n : Nat) : State :=
  let s1 := s.endRanges (fun r => r.onTiles [⟨n, 0⟩])
  { s1 with
    regs := s1.regs.filter (fun e => e.1 / 1024 != n)
    tiles := s1.tiles.filter (fun e => e.1 / 4 != n) }

/-- A bypass map comes into force (R84); an engine that was suspect for the column alone is healthy (R275). -/
def State.setMap (s : State) (n v : Nat) : State :=
  let s1 := ((s.clearWeights n).clearTile n).setObj (key (0x8000 + n) 1) v
  if s1.engineHealth n = 1 ∧ s1.offences (.engine n) = 0 then s1.setObj (key (0x8000 + n) 3) 0 else s1

/-- A pending bypass map comes into force. -/
def State.applyMap (s : State) (n : Nat) : State := s.setMap n (s.obj (key (0x8000 + n) 2))

/-- A write of the map in force by the trusted monitor (R85): it changes when the engine is idle, with what R84 clears, and the pending
map follows; else the write is BUSY. DESIGN CHOICE: R85 gives the right and no more (log 73). -/
def State.forceMap (s : State) (n v : Nat) : State × Nat :=
  if s.mapFree n = false then (s, stBusy)
  else ((s.setObj (key (0x8000 + n) 2) v).setMap n v, stOk)

/-- BYPASS_MAP_APPLY (R84). -/
def execBypassMapApply (n : Nat) (s : State) : Host.Outcome State Fault Refusal :=
  if s.conf.engines ≤ n then .fault .absentUnit
  else if s.mapReady n then .next (s.applyMap n) else .next s

/-! ### The deck (R274, R275, R286, R287) -/

/-- A test of a core is pending: the core is not offered. -/
def State.pendTest (s : State) (c : Nat) (rel : Option Nat) (byPrio : Bool) : State :=
  ({ s with con := { s.con with deck := { s.con.deck with state := 1, core := some c, rel := rel, byPrio := byPrio } } } : State).refreshCores

/-- The next core of the rotation: the next one offered, in ascending order. -/
def State.nextInRotation (s : State) : Option Nat :=
  ((List.range s.conf.cores).map (fun i => (s.con.deck.next + i) % s.conf.cores)).find? (bitOf s.offeredMask)

/-- A rotation test starts. -/
def State.rotate (s : State) : State :=
  match s.nextInRotation with
  | none => s
  | some c =>
    let s1 : State := { s with con := { s.con with deck := { s.con.deck with next := (c + 1) % s.conf.cores, last := s.now } } }
    s1.pendTest c none false

/-- DECK_ROTATION: a priority or release test goes ahead; otherwise one test starts each deck cycle period divided by the
cores built, unless the rotation is paused. A quarantined core is tested only on release (R286). -/
def execDeckRotation (s : State) : Host.Outcome State Fault Refusal :=
  if s.boot.step ≠ 8 ∨ s.con.deck.state ≠ 0 then .next s
  else
    let prio := s.con.deck.prio.filter (fun p => p.2.isSome || !s.coreQuarantined p.1)
    let s1 : State := { s with con := { s.con with deck := { s.con.deck with prio := prio.drop 1 } } }
    match prio with
    | p :: _ => .next (s1.pendTest p.1 p.2 p.2.isNone)
    | [] =>
      if s.obj (key 0x5000 4) = 0 ∧ s.con.deck.last + s.obj (key 0x5000 0) / s.conf.cores ≤ s.now then .next s1.rotate else .next s1

/-- The object that holds the version in force of an image kind (Tables 11-7, 14-6). -/
def verKey (kind : Nat) : Nat :=
  if kind = 1 then key 0x5000 1 else if kind = 2 then key 0x7000 0 else if kind = 3 then key 0x7000 1 else key 0x7000 3

/-- The image of a kind in the slot that is not in force. -/
def State.otherSlot (s : State) (kind : Nat) : Option Image := s.tru.images.find? (fun i => i.kind == kind && !i.inForce)

/-- The image of a kind in force; none stands for the image of production (log 6). -/
def State.slotInForce (s : State) (kind : Nat) : Option Image := s.tru.images.find? (fun i => i.kind == kind && i.inForce)

/-- The images of a kind change places, the production image being listed without bytes, and the version object follows. -/
def State.switchSlot (s : State) (kind : Nat) : State :=
  match s.otherSlot kind with
  | none => s
  | some o =>
    let base : List Image := if (s.slotInForce kind).isSome then [] else [⟨kind, s.obj (verKey kind), [], true⟩]
    ({ s with tru := { s.tru with
      images := (base ++ s.tru.images).map (fun i => if i.kind = kind then { i with inForce := !i.inForce } else i) } } : State).setObj
      (verKey kind) o.dver

/-- A newer image of a kind, accepted since, takes effect. -/
def State.takeNewer (s : State) (kind : Nat) : State :=
  match s.otherSlot kind with
  | none => s
  | some o => if s.obj (verKey kind) < o.dver then s.switchSlot kind else s

/-- CORE_TEST_START: once every op accepted on the core has delivered, the deck is applied (R286), the newest one accepted
(R290). -/
def execCoreTestStart (core : Nat) (s : State) : Host.Outcome State Fault Refusal :=
  if s.conf.cores ≤ core then .fault .absentUnit
  else if s.con.deck.state = 1 ∧ s.con.deck.core = some core ∧ s.ops.any (fun o => opOnCore o core) = false then
    let s1 := s.takeNewer 1
    .next { s1 with con := { s1.con with deck := { s1.con.deck with state := 2 } } }
  else .next s

/-- Rows that a failing transparent pattern touched get POISON in every register (R287). -/
def State.poisonRows (s : State) (core : Nat) (rows : List (Nat × Nat)) : State :=
  rows.foldl (fun s r => s.mapRegs (s.rowKeys ⟨core * 16 + r.1, 0⟩ r.2 32) (fun _ v => v.mark)) s

/-- The unit that a failing test is localized to: of a column, its engine. -/
def scopeUnit (core : Nat) : DeckScope → HwUnit
  | .column e _ => .engine (core * 16 + e)
  | .engine e => .engine (core * 16 + e)
  | .core => .drain core

/-- The code of a scope (Table 11-6 DECK_FAIL). -/
def scopeCode : DeckScope → Nat
  | .column _ _ => 0
  | .engine _ => 1
  | .core => 2

/-- The record of a failing test (class 0x0A1). -/
def State.failEvent (s : State) (core : Nat) (f : DeckFail) : State :=
  let u := scopeUnit core f.scope
  s.event ⟨0x0A1, 3, unitCode u, unitLoc u, none, none, at_ (scopeCode f.scope) 32 + f.pattern % 2 ^ 32⟩

/-- The record of a passing test (class 0x0A0; log 46). -/
def State.passEvent (s : State) (core : Nat) : State :=
  s.event ⟨0x0A0, 0, 0x06, unitLoc (.drain core), none, none, s.obj (key 0x5000 1)⟩

/-- A failing test charges an offence to the unit that it localizes (R273); a first offence makes it suspect and asks for a priority
test (R274). -/
def State.chargeDeck (s : State) (u : HwUnit) : State :=
  let s1 : State := { s with con := { s.con with
    offences := s.con.offences ++ [(u, s.now)]
    clean := s.con.clean.filter (fun x => x != u) } }
  let s2 := s1.noteOffence u
  if s2.obj (healthKey u) = 0 then
    ((s2.setObj (healthKey u) 1).event ⟨0x080, 3, unitCode u, unitLoc u, none, none, at_ (s2.offences u) 32 + at_ 0x0A1 20⟩).priorityTest
      (unitCore u) none
  else s2

/-- What a failing test leads to (R275): a pending bypass map for one physical column, otherwise a pending quarantine, or the
immediate one of a core that is pending already (R278). DESIGN CHOICE: a column failure whose offence reaches the quarantine threshold
takes the bypass map, which clears the count (log 98). -/
def State.deckFails (s : State) (core : Nat) (f : DeckFail) : State :=
  let u := scopeUnit core f.scope
  let wasPending := s.coreHealth core == 2
  let s1 := (((s.poisonRows core f.rows).failEvent core f).chargeDeck u)
  if wasPending then ((s1.loseOps (fun o => opOnCore o core)).scrambleCore core).quarCore core true
  else match f.scope with
    | .column e col =>
      let n := core * 16 + e
      (s1.pendMap n (s1.obj (key (0x8000 + n) 2) ||| 2 ^ (col % 32))).forgive u
    | _ => s1.pendQuarantine u

/-- A passing test is recorded; every suspect unit of the core has passed one since its last offence, and those without offences are
healthy again (R276). -/
def State.testPassed (s : State) (core : Nat) : State :=
  let us := coreUnits core
  let s1 := s.passEvent core
  let s2 : State := { s1 with con := { s1.con with
    clean := s1.con.clean.filter (fun u => !us.elem u) ++ us.filter (fun u => s1.obj (healthKey u) == 1) } }
  us.foldl (fun s u => s.heal u) s2

/-- What a passing test of the rotation leads to: after an offence the next remedy step (R275). -/
def State.deckPasses (s : State) (core : Nat) (byPrio : Bool) : State :=
  let s1 := s.testPassed core
  if byPrio ∧ (coreUnits core).any (fun u => s1.obj (healthKey u) == 1) then s1.remedy core else s1

/-- The unit of a release address (R293): an engine number, or 0x8000 + c for a core. -/
def relUnit (a : Nat) : HwUnit := if a < 0x8000 then .engine a else .drain (a - 0x8000)

/-- The record of a release (class 0x084). -/
def State.releaseEvent (s : State) (u : HwUnit) (ok : Bool) : State :=
  s.event ⟨0x084, 0, unitCode u, unitLoc u, none, none, coreBit u + at_ (bit ok) 38⟩

/-- A unit is released (R279): healthy, its offences forgotten, the offset and margin of its core on their way back to 0 and
MFLOOR; the lower margin step is a speeding change and in force at once (R209). -/
def State.release (s : State) (u : HwUnit) : State :=
  let c := unitCore u
  let s1 := (s.forgive u).setObj (healthKey u) 0
  let s2 := match u with
    | .drain d => (s1.setObj (key 0x1000 1) ((s1.obj (key 0x1000 1)) - (if bitOf (s1.obj (key 0x1000 1)) d then 2 ^ d else 0)))
    | _ => s1
  let s3 := if s2.offsetNow c = 0 then s2 else s2.askOffset c 0
  let m := s3.mfloor c
  (((s3.setObj (key (0x2100 + c) 3) m).setObj (key (0x2100 + c) 1) m).refreshCores).releaseEvent u true

/-- What a failing release test leads to: the released unit stays quarantined (R279); the unit that it localizes is charged, and one that
is not quarantined is dealt with as after any failing test (R273, R275). -/
def State.releaseFails (s : State) (core : Nat) (f : DeckFail) (u : HwUnit) : State :=
  let x := scopeUnit core f.scope
  let s1 := if s.obj (healthKey x) = 3 then ((s.poisonRows core f.rows).failEvent core f).chargeDeck x else s.deckFails core f
  s1.releaseEvent u false

/-- CORE_TEST_END: the core is offered again, and the result acted on (R275, R279, R286). The test's duration is the
wrapper's: the command's word is taken for it (log 68). -/
def execCoreTestEnd (core : Nat) (res : Option DeckFail) (s : State) : Host.Outcome State Fault Refusal :=
  if s.conf.cores ≤ core then .fault .absentUnit
  else if s.con.deck.state = 2 ∧ s.con.deck.core = some core then
    let d := s.con.deck
    let s1 := ({ s with con := { s.con with deck := { d with state := 0, core := none, rel := none, byPrio := false } } } : State).refreshCores
    match d.rel, res with
    | some a, none => .next ((s1.testPassed core).release (relUnit a))
    | some a, some f => .next (s1.releaseFails core f (relUnit a))
    | none, none => .next (s1.deckPasses core d.byPrio)
    | none, some f => .next (s1.deckFails core f)
  else .next s

/-- A release request (R279, R293): the full deck on the unit's core, ahead of the rotation. -/
def State.requestRelease (s : State) (v : Nat) : State × Nat :=
  if unitBuilt s.conf (relUnit v) then ((s.setObj (key 0x5000 6) v).priorityTest (unitCore (relUnit v)) (some v), stOk)
  else (s, stRange)

/-! ### Quarantine and decay (R276, R277) -/

/-- QUARANTINE: a pending quarantine takes effect once every op accepted on the unit's chains has delivered; ops other than
DRAIN and SAVE that name its tile have too (R277). -/
def execQuarantine (u : HwUnit) (s : State) : Host.Outcome State Fault Refusal :=
  if unitBuilt s.conf u = false then .fault .absentUnit
  else if s.obj (healthKey u) ≠ 2 then .next s
  else match u with
    | .engine n =>
      if s.ops.any (fun o => o.k != .drain && o.k != .save && s.usesEngine n o) then .next s else .next (s.quarEngine n)
    | .drain c => if s.ops.any (fun o => opOnCore o c) then .next s else .next (s.quarCore c false)
    | .link _ => .next s

/-- OFFENCE_DECAY: the unit's offences outside the window no longer count (R273, R276). -/
def execOffenceDecay (u : HwUnit) (s : State) : Host.Outcome State Fault Refusal :=
  if unitBuilt s.conf u = false then .fault .absentUnit
  else
    let s1 : State := { s with con := { s.con with
      offences := s.con.offences.filter (fun e => e.1 != u || decide (s.now - e.2 < s.obj (key 0x5010 3))) } }
    let s2 := match u with
      | .engine n => s1.setObj (key (0x8000 + n) 4) (min 255 (s1.offences u))
      | _ => s1
    match u with
    | .link _ => .next s2
    | _ => .next (s2.heal u)

/-! ### Ageing sweeps (R291) -/

/-- A sweep request (R291): a serializer's cascade port must be down. -/
def State.requestSweep (s : State) (u v : Nat) : State × Nat :=
  let st := (s.port (17 + (u - 64))).st
  if v = 0 then (s, stOk)
  else if 64 ≤ u ∧ u < 72 ∧ (st = 1 ∨ st = 2) then (s, stBusy)
  else (s.startSweep u, stOk)

/-- Whether a sweep's unit is out of use: no spine set outstanding crosses the link; the serializer's port is down. -/
def State.outOfUse (s : State) (u : Nat) : Bool :=
  if u < 64 then
    (s.link u).wire == [] && !s.ops.any (fun o => (List.range o.d.spinen).any (fun i => tileCore o.d / 8 * 8 + (tileCore o.d + i) % 8 == u))
  else if u < 72 then (s.port (17 + (u - 64))).st != 1 && (s.port (17 + (u - 64))).st != 2
  else true

/-- An entry of the sweep history (Table 11-7). -/
def sweepEntry (now f set_ : Nat) (passed retired : Bool) : Nat :=
  now / 1024 * 1024 + at_ (bit passed) 9 + at_ (bit retired) 8 + at_ f 4 + set_

/-- The unit code of an ageing unit. -/
def ageingUnit (u : Nat) : Nat := if u < 64 then 0x08 else if u < 72 then 0x12 else 0x16

/-- AGEING_SWEEP: the sweep ends with the first failing setting, if any (R291, class 0x0B0). A retired unit holds setting
15 (log 69). -/
def execAgeingSweep (u : Nat) (f : Option (BitVec 4)) (s : State) : Host.Outcome State Fault Refusal :=
  if ageingBuilt s.conf u = false then .fault .absentUnit
  else if s.con.sweeps.elem u ∧ s.outOfUse u then
    let g := s.obj (key (0x5200 + u) 1)
    let want := match f with
      | none => g
      | some x => x.toNat + 1 + g
    let retired := decide (15 < want)
    let set_ := min 15 want
    let fv := (f.map (fun x => x.toNat)).getD 0
    let s1 : State := { s with con := { s.con with sweeps := delN s.con.sweeps u } }
    let s2 := ((s1.setObj (key (0x5200 + u) 0) set_).setObj (key (0x5200 + u) 3) 0).setObj (key (0x5200 + u) 2)
      ((s.obj (key (0x5200 + u) 2) * 2 ^ 64 + sweepEntry s.now fv set_ f.isNone retired) % 2 ^ 512)
    .next (s2.event ⟨0x0B0, 0, ageingUnit u, 0, none, none,
      at_ u 32 + at_ fv 28 + at_ (bit f.isNone) 27 + at_ set_ 23 + at_ (bit retired) 22⟩)
  else .next s

end Sys2Proof.Machine
end

