-- ==== Sys2Proof/Machine/Crypto.lean ====
section
/-! DEFINITION. SHA-384 and ECDSA P-384, which R289 and R350 to R352 name and do not define: PRESUMED (log 31) to be the
functions of FIPS 180-4 and FIPS 186-4 under those names. -/

namespace Sys2Proof.Machine

/-! ### SHA-384 -/

/-- The integer root of order `n` of a number below 2^(n * fuel), bit by bit from the highest. -/
def intRoot (n x : Nat) : Nat → Nat
  | 0 => 0
  | k + 1 =>
    let r := 2 * intRoot n (x / 2 ^ n) k
    if (r + 1) ^ n ≤ x then r + 1 else r

/-- The first 64 bits of the fraction of the root of order `n` of a number below 2^(n * 6). -/
def rootFraction (n x : Nat) : BitVec 64 := BitVec.ofNat 64 (intRoot n (x * 2 ^ (64 * n)) 70)

/-- Prime numbers up to 409, the first 80. -/
def shaPrimes : List Nat :=
  (List.range 410).filter (fun p => decide (2 ≤ p) && (List.range p).all (fun d => decide (d < 2) || p % d != 0))

/-- The round constants of SHA-384: fractions of the cube roots of the first 80 primes. -/
def shaK : List (BitVec 64) := shaPrimes.map (rootFraction 3)

/-- The initial hash value of SHA-384: fractions of the square roots of the ninth to sixteenth primes. -/
def shaInit : List (BitVec 64) := ((shaPrimes.drop 8).take 8).map (rootFraction 2)

/-- A big-endian number of bytes. -/
def ofBe (bs : List Byte) : Nat := bs.foldl (fun a b => 256 * a + b.toNat) 0

/-- The bytes of a number, most significant first. -/
def beBytes (n v : Nat) : List Byte := (leBytes n v).reverse

/-- The 64-bit words of a block, big-endian. -/
def shaWords (bs : List Byte) : Nat → List (BitVec 64)
  | 0 => []
  | k + 1 => BitVec.ofNat 64 (ofBe (bs.take 8)) :: shaWords (bs.drop 8) k

/-- The padding of a message: a one bit, zeros, and its length in bits. -/
def shaPad (bs : List Byte) : List Byte :=
  bs ++ [0x80] ++ List.replicate ((128 - (bs.length + 17) % 128) % 128) 0 ++ beBytes 16 (8 * bs.length)

/-- A word rotated right. -/
def rotr (x : BitVec 64) (n : Nat) : BitVec 64 := (x.ushiftRight n) ||| (x.shiftLeft (64 - n))

/-- The message schedule from its newest word on, newest first. -/
def shaExtend (ws : List (BitVec 64)) : Nat → List (BitVec 64)
  | 0 => ws
  | k + 1 =>
    let g (i : Nat) : BitVec 64 := ws.getD (i - 1) 0
    let s0 := rotr (g 15) 1 ^^^ rotr (g 15) 8 ^^^ (g 15).ushiftRight 7
    let s1 := rotr (g 2) 19 ^^^ rotr (g 2) 61 ^^^ (g 2).ushiftRight 6
    shaExtend ((g 16 + s0 + g 7 + s1) :: ws) k

/-- The eight working variables. -/
structure ShaVars where
  a : BitVec 64
  b : BitVec 64
  c : BitVec 64
  d : BitVec 64
  e : BitVec 64
  f : BitVec 64
  g : BitVec 64
  h : BitVec 64
deriving DecidableEq, Repr

/-- One round with a constant and a schedule word. -/
def shaRound (v : ShaVars) (kw : BitVec 64 × BitVec 64) : ShaVars :=
  let s1 := rotr v.e 14 ^^^ rotr v.e 18 ^^^ rotr v.e 41
  let ch := (v.e &&& v.f) ^^^ (~~~v.e &&& v.g)
  let t1 := v.h + s1 + ch + kw.1 + kw.2
  let s0 := rotr v.a 28 ^^^ rotr v.a 34 ^^^ rotr v.a 39
  let maj := (v.a &&& v.b) ^^^ (v.a &&& v.c) ^^^ (v.b &&& v.c)
  ⟨t1 + (s0 + maj), v.a, v.b, v.c, v.d + t1, v.e, v.f, v.g⟩

/-- The variables from a list of eight words. -/
def shaVarsOf (l : List (BitVec 64)) : ShaVars :=
  ⟨l.getD 0 0, l.getD 1 0, l.getD 2 0, l.getD 3 0, l.getD 4 0, l.getD 5 0, l.getD 6 0, l.getD 7 0⟩

/-- The variables as a list. -/
def shaList (v : ShaVars) : List (BitVec 64) := [v.a, v.b, v.c, v.d, v.e, v.f, v.g, v.h]

/-- The hash value after one block. -/
def shaBlock (h : List (BitVec 64)) (bs : List Byte) : List (BitVec 64) :=
  let ws := (shaExtend (shaWords bs 16).reverse 64).reverse
  let v := (shaK.zip ws).foldl shaRound (shaVarsOf h)
  (h.zip (shaList v)).map (fun p => p.1 + p.2)

/-- The hash value after some blocks. -/
def shaBlocks (h : List (BitVec 64)) (bs : List Byte) : Nat → List (BitVec 64)
  | 0 => h
  | k + 1 => shaBlocks (shaBlock h (bs.take 128)) (bs.drop 128) k

/-- The SHA-384 digest of a message, 48 bytes. -/
def sha384 (bs : List Byte) : List Byte :=
  let p := shaPad bs
  ((shaBlocks shaInit p (p.length / 128)).take 6).flatMap (fun w => beBytes 8 w.toNat)

/-! ### The curve P-384 -/

/-- The prime of the field. -/
def pPrime : Nat := 2 ^ 384 - 2 ^ 128 - 2 ^ 96 + 2 ^ 32 - 1

/-- The order of the base point. -/
def pOrder : Nat := 0xffffffffffffffffffffffffffffffffffffffffffffffffc7634d81f4372ddf581a0db248b0a77aecec196accc52973

/-- The coefficient b of the curve. -/
def pCoef : Nat := 0xb3312fa7e23ee7e4988e056be3f82d19181d9c6efe8141120314088f5013875ac656398d8a2ed19d2a85c8edd3ec2aef

/-- The base point. -/
def pBase : Nat × Nat :=
  (0xaa87ca22be8b05378eb1c71ef320ad746e1d3b628ba79b9859f741e082542a385502f25dbf55296c3a545e3872760ab7,
   0x3617de4a96262c6f5d9e98bf9292dc29f8f41dbd289a147ce9da3113b5f0b8c00a60b1ce1d7e819d7a431d7c90ea0e5f)

/-- x to the power e modulo m, e below 2^fuel. -/
def powMod (x e m : Nat) : Nat → Nat
  | 0 => 1 % m
  | k + 1 =>
    let r := powMod (x * x % m) (e / 2) m k
    if e % 2 = 1 then x * r % m else r

/-- The inverse modulo a prime. -/
def invMod (x m : Nat) : Nat := powMod (x % m) (m - 2) m 384

/-- The slope of the chord of two points, or of the tangent at one. -/
def slope (a b : Nat × Nat) : Nat :=
  if a.1 = b.1 then (3 * a.1 * a.1 + (pPrime - 3)) * invMod (2 * a.2) pPrime % pPrime
  else (b.2 + (pPrime - a.2)) * invMod (b.1 + (pPrime - a.1)) pPrime % pPrime

/-- Addition of points; none is the point at infinity. -/
def ecAdd (p q : Option (Nat × Nat)) : Option (Nat × Nat) :=
  p.elim q fun a => q.elim p fun b =>
    let l := slope a b
    let x := (l * l + (pPrime - a.1) + (pPrime - b.1)) % pPrime
    if a.1 = b.1 ∧ (a.2 + b.2) % pPrime = 0 then none
    else some (x, (l * (a.1 + (pPrime - x)) + (pPrime - a.2)) % pPrime)

/-- A multiple of a point, the factor below 2^fuel. -/
def ecMul (p : Option (Nat × Nat)) (n : Nat) : Nat → Option (Nat × Nat)
  | 0 => none
  | k + 1 =>
    let r := ecMul (ecAdd p p) (n / 2) k
    if n % 2 = 1 then ecAdd p r else r

/-- Whether a pair is a point of the curve. -/
def onCurve (q : Nat × Nat) : Bool :=
  decide (q.1 < pPrime) && decide (q.2 < pPrime) &&
    (q.2 * q.2) % pPrime == (q.1 * q.1 * q.1 + (pPrime - 3) * q.1 + pCoef) % pPrime

/-- A public key of 96 bytes: X, then Y, big-endian (R350). -/
def keyOf (bs : List Byte) : Nat × Nat := (ofBe (bs.take 48), ofBe ((bs.drop 48).take 48))

/-- Whether a 96-byte signature, r then s, over the SHA-384 of a message verifies under a key. -/
def ecdsaOk (key : Nat × Nat) (msg sig : List Byte) : Bool :=
  let r := ofBe (sig.take 48)
  let s := ofBe ((sig.drop 48).take 48)
  let e := ofBe (sha384 msg)
  if sig.length ≠ 96 ∨ onCurve key = false ∨ r = 0 ∨ pOrder ≤ r ∨ s = 0 ∨ pOrder ≤ s then false
  else
    let w := invMod s pOrder
    match ecAdd (ecMul (some pBase) (e * w % pOrder) 384) (ecMul (some key) (r * w % pOrder) 384) with
    | none => false
    | some p => p.1 % pOrder == r

end Sys2Proof.Machine
end

