-- ==== Sys2Proof/Machine/Trust.lean ====
section
/-! DEFINITION. Firmware trust and tenancy (spec/14_trust_and_context.md R347 to R360, R366; R289, R290, R373): images and
their transfer, the general firmware, debug mode, tenants, owners and buffer ranges. A status is a code of Table 15-5. -/

namespace Sys2Proof.Machine

/-! ### Images (R289, R351) -/

/-- Word `i` of an image's header. -/
def imgWord (bs : List Byte) (i : Nat) : W64 := BitVec.ofNat 64 (ofLe ((bs.drop (8 * i)).take 8))

/-- KIND of an image. -/
def imgKind (bs : List Byte) : Nat := fld (imgWord bs 0) 59 56
/-- DVER of an image. -/
def imgVer (bs : List Byte) : Nat := fld (imgWord bs 0) 31 0
/-- BLEN of an image. -/
def imgLen (bs : List Byte) : Nat := fld (imgWord bs 1) 63 32
/-- The body of an image. -/
def imgBody (bs : List Byte) : List Byte := (bs.drop 72).take (imgLen bs)
/-- The signature of an image: its last 96 bytes. -/
def imgSig (bs : List Byte) : List Byte := bs.drop (bs.length - 96)

/-- Body limits (Table 14-2, Table 11-5). -/
def imgLimit (kind : Nat) : Nat := [0, 16777216, 65536, 4194304, 4096, 32].getD kind 0

/-- Whether VER is 1 and every reserved bit 0 (R289, R351, R352). A deck image whose ODUR is over 190 (Table 11-5) fails here too, the
model's choice of its status (log 32). -/
def imgFormat (bs : List Byte) : Bool :=
  fld (imgWord bs 0) 63 60 == 1 && fld (imgWord bs 0) 55 32 == 0 &&
    (if imgKind bs = 1 then fld (imgWord bs 2) 31 3 == 0 && decide (fld (imgWord bs 2) 47 32 ≤ 190)
    else fld (imgWord bs 1) 31 0 == 0 && fld (imgWord bs 2) 63 3 == 0)

/-- Whether the CFG bit of the configuration is set. -/
def imgServes (conf : Conf) (bs : List Byte) : Bool :=
  bitOf (fld (imgWord bs 2) 2 0) (match conf with
    | .d2 => 0
    | .d4 => 1
    | .d8 => 2)

/-- Whether lengths and the body digest hold. -/
def imgWhole (bs : List Byte) : Bool :=
  decide (imgLen bs ≤ imgLimit (imgKind bs)) && bs.length == 168 + imgLen bs && sha384 (imgBody bs) == (bs.drop 24).take 48

/-- An entry of a key manifest: role and public key (R350). -/
structure ManKey where
  role : Nat
  pub : Nat × Nat
deriving DecidableEq, Repr

/-- The entries of a manifest body after the root key. -/
def manEntries (body : List Byte) : List ManKey :=
  (List.range ((body.length - 96) / 104)).map fun i =>
    let e := (body.drop (96 + 104 * i)).take 104
    ⟨ofLe (e.take 8) / 2 ^ 56, keyOf (e.drop 8)⟩

/-- Whether the signature verifies under a key of a role of a manifest. -/
def signedBy (man : List ManKey) (role : Nat) (bs : List Byte) : Bool :=
  man.any (fun k => k.role == role && ecdsaOk k.pub (bs.take 72) (imgSig bs))

/-- The role that signs a kind (Table 14-2). -/
def signRole (kind : Nat) : Nat := if kind = 1 then 2 else if kind = 5 then 3 else 1

/-- Whether a manifest is signed by the root key that it carries and the ROM digest names (R350). -/
def State.rootSigned (s : State) (bs : List Byte) : Bool :=
  let root := (imgBody bs).take 96
  ofBe (sha384 root) == s.tru.romKey && ecdsaOk (keyOf root) (bs.take 72) (imgSig bs)

/-- The keys of the manifest in force, once it verifies (R350, R354); none where none is listed. -/
def State.manKeys (s : State) : List ManKey := match s.slotInForce 4 with
  | none => []
  | some i => if s.rootSigned i.bytes then manEntries (imgBody i.bytes) else []

/-- Whether an image verifies as it stands in flash, under some manifest keys; one of production does (R354, log 6). -/
def imgVerifies (man : List ManKey) (i : Image) : Bool :=
  i.bytes == [] || (signedBy man (signRole i.kind) i.bytes && imgFormat i.bytes && imgWhole i.bytes)

/-- Whether the GFW and deck images in force verify under a new manifest (R352). -/
def State.manServes (s : State) (bs : List Byte) : Bool :=
  (s.tru.images.filter (fun i => i.inForce && (i.kind == 1 || i.kind == 3))).all (imgVerifies (manEntries (imgBody bs)))

/-- Whether the signature of a transferred image verifies (R350, R352). -/
def State.signed (s : State) (bs : List Byte) : Bool :=
  if imgKind bs = 4 then s.rootSigned bs && s.manServes bs else signedBy s.manKeys (signRole (imgKind bs)) bs

/-- The version that a new image must exceed. -/
def State.leastVer (s : State) (kind : Nat) : Nat := if kind = 5 then s.tru.lastGrant else s.obj (verKey kind)

/-- The status of a transferred image (R290, R352); a debug grant for another block or a time past has 0x05 or 0x02
(DESIGN CHOICE, log 32). -/
def State.judge (s : State) (bs : List Byte) : Nat :=
  let b := imgBody bs
  if bs.length < 168 ∨ bs.length ≠ s.tru.xTotal then 4
  else if imgKind bs ≠ s.tru.xKind ∨ imgKind bs = 0 ∨ 5 < imgKind bs then 3
  else if s.signed bs = false then 1
  else if imgFormat bs = false then 3
  else if imgServes s.conf bs = false then 5
  else if imgWhole bs = false ∨ (imgKind bs = 5 ∧ imgLen bs < 32) then 4
  else if imgVer bs ≤ s.leastVer (imgKind bs) then 2
  else if imgKind bs ≠ 5 then 0
  else if ofLe ((b.drop 26).take 6) ≠ 0 then 3
  else if ofLe (b.take 16) ≠ s.obj (key 0x0004 0) then 5
  else if ofLe ((b.drop 16).take 8) ≤ s.now then 2
  else 0

/-! ### Transfer (R355) -/

/-- A write of the transfer object: kind and total length, any unfinished transfer discarded. -/
def State.openTransfer (s : State) (v : Nat) : State × Nat :=
  (({ s with tru := { s.tru with xKind := v / 2 ^ 60, xTotal := v % 2 ^ 32, xBytes := [], xOpen := true } } : State).setObj
    (key 0x7010 0) v, stOk)

/-- A chunk: its offset follows on the bytes received, and the total holds it. -/
def State.takeChunk (s : State) (bs : List Byte) : State × Nat :=
  let x := s.tru
  let dat := bs.drop 8
  if x.xOpen = false ∨ ofLe (bs.take 8) ≠ x.xBytes.length ∨ x.xTotal < x.xBytes.length + dat.length then (s, stRange)
  else ({ s with tru := { x with xBytes := x.xBytes ++ dat } }, stOk)

/-- Debug mode begins under a grant (R366). -/
def State.startDebug (s : State) (bs : List Byte) : State :=
  let b := imgBody bs
  ({ s with tru := { s.tru with
    dbgOn := true
    dbgScope := ofLe ((b.drop 24).take 2)
    dbgExpiry := ofLe ((b.drop 16).take 8)
    lastGrant := imgVer bs } } : State).setObj (key 0xF000 0) 1

/-- An accepted image goes to the slot that is not in force; a debug grant acts at once. -/
def State.storeImage (s : State) (bs : List Byte) : State :=
  if imgKind bs = 5 then s.startDebug bs
  else { s with tru := { s.tru with
    images := s.tru.images.filter (fun i => !(i.kind == imgKind bs && !i.inForce)) ++ [⟨imgKind bs, imgVer bs, bs, false⟩] } }

/-- The outcome of a deck image is kept and recorded (R290, class 0x0A2). -/
def State.deckOutcome (s : State) (status ver : Nat) : State :=
  (s.setObj (key 0x5000 5) status).event ⟨0x0A2, 0, 0x21, 0, none, none, at_ status 32 + ver⟩

/-- A write of the verify object: TMON verifies the image transferred and stores the outcome (R352, R355). -/
def State.verifyTransfer (s : State) (v : Nat) : State × Nat :=
  if v = 0 then (s, stOk)
  else if s.tru.xOpen = false then (s, stRange)
  else
    let bs := s.tru.xBytes
    let st := s.judge bs
    let s1 : State := { s with tru := { s.tru with xOpen := false, xBytes := [], xStatus := st } }
    let s2 := if st = 0 then s1.storeImage bs else s1
    (if s.tru.xKind = 1 then s2.deckOutcome st (imgVer bs) else s2, stOk)

/-! ### The general firmware (R349, R353, R354) -/

/-- Whether the GFW image of a slot verifies. -/
def State.gfwOk (s : State) (i : Option Image) : Bool := match i with
  | none => true
  | some x => imgVerifies s.manKeys x

/-- Admission opens where nothing holds it closed: start-up has ended, GFW serves, no activation or warm reset is under
way. -/
def State.reopenAdm (s : State) : State :=
  if s.boot.step = 8 ∧ s.tru.gfwDown = false ∧ s.tru.jobAct = false ∧ s.boot.warm.isNone then
    { s with adm := { s.adm with openA := true } }
  else s

/-- Admission closes. -/
def State.shut (s : State) : State := { s with adm := { s.adm with openA := false } }

/-- A write of GFW activate (R353; log 73). -/
def State.activate (s : State) (v : Nat) : State × Nat :=
  if v = 0 then (s, stOk)
  else if (s.otherSlot 3).isNone then (s, stRange)
  else ((({ s with tru := { s.tru with jobAct := true } } : State).setObj (key 0x7000 4) 1).shut, stOk)

/-- GFW_HEARTBEAT: GFW serves; after a restart admission reopens (R349). -/
def execGfwHeartbeat (s : State) : Host.Outcome State Fault Refusal :=
  if s.boot.step < 6 then .next s
  else .next ({ s with tru := { s.tru with heartbeat := s.now, gfwDown := false, fresh := false } } : State).reopenAdm

/-- GFW is reloaded from the slot in force and restarted, with admission closed. -/
def State.restartGfw (s : State) : State :=
  ({ s with tru := { s.tru with gfwDown := true, fresh := false, heartbeat := s.now } } : State).shut

/-- A warm reset begins: admission closes and every outstanding op is LOST (R410). -/
def State.startWarm (s : State) (cause : Nat) : State :=
  let s1 := ((s.shut).loseOps (fun o => !o.k.ghost))
  { s1 with boot := { s1.boot with warm := some s.now, warmCause := cause } }

/-- GFW_HEARTBEAT_TIMEOUT: 10,000 steps without a heartbeat restart GFW (R349); an activated image that misses its first one
gives way to the previous slot (R353); GFW that still does not serve leads to a warm reset (R410). -/
def execGfwHeartbeatTimeout (s : State) : Host.Outcome State Fault Refusal :=
  if s.boot.step < 6 ∨ s.now < s.tru.heartbeat + 10000 ∨ s.boot.warm.isSome then .next s
  else if s.tru.fresh then .next ((s.switchSlot 3).setObj (key 0x7000 6) 1).restartGfw
  else if s.tru.gfwDown then .next (s.startWarm 5)
  else .next (s.bump (key 0x7000 5) 1).restartGfw

/-! ### Debug mode (R366) -/

/-- A write of debug mode: role M may write 0 only; role T sets it too (log 73). -/
def State.writeDebug (s : State) (role : Role) (v : Nat) : State × Nat :=
  if v = 0 then (s.endDebug, stOk)
  else if role = .t then (({ s with tru := { s.tru with dbgOn := true } } : State).setObj (key 0xF000 0) 1, stOk)
  else (s, stRange)

/-- DEBUG_EXPIRY (R366). -/
def execDebugExpiry (s : State) : Host.Outcome State Fault Refusal :=
  if s.tru.dbgOn ∧ s.tru.dbgExpiry ≤ s.now then .next s.endDebug else .next s

/-! ### FLASH_COMMIT (R373) -/

/-- FLASH_COMMIT: the copy that is not current takes the values of the current one with the object's new value, and becomes
current; a failed commit is counted. -/
def execFlashCommit (key_ : Nat) (ok : Bool) (s : State) : Host.Outcome State Fault Refusal :=
  if s.dict.commits.elem key_ = false then .next s
  else
    let d := s.dict
    let s1 : State := { s with dict := { d with commits := delN d.commits key_ } }
    if ok = false then .next (s1.bump (key 0x0010 3) 1)
    else if d.cur then .next { s1 with dict := { s1.dict with flash0 := sput d.flash1 key_ (s.obj key_), cur := false } }
    else .next { s1 with dict := { s1.dict with flash1 := sput d.flash0 key_ (s.obj key_), cur := true } }

/-! ### Moves (R358, R359) -/

/-- A change of an object waits for its move. -/
def State.pendMove (s : State) (k v : Nat) : State :=
  { s with moves := s.moves.filter (fun m => m.key != k) ++ [⟨k, v, s.adm.nextId⟩] }

/-- What an object will hold once its move is complete. -/
def State.willBe (s : State) (k : Nat) : Nat := match s.moves.find? (fun m => m.key == k) with
  | some m => m.val
  | none => s.obj k

/-- Whether a value of an engine's quadrant owners names a tenant. -/
def quadsOwned (v : Nat) : Bool := (List.range 4).any (fun q => decide (v / 256 ^ q % 256 ≤ 15))

/-- Whether a core with an owner belongs to a tenant, by the quadrant owners that `f` gives (R357). -/
def belongs (c owner : Nat) (f : Nat → Nat) : Bool :=
  decide (owner ≤ 15) || (owner == 0xFE && (List.range 16).any (fun e => quadsOwned (f (key (0x8000 + c * 16 + e) 6))))

/-- Whether a core belongs to a tenant, now or once a pending move is complete. -/
def State.tenanted (s : State) (c : Nat) : Bool :=
  belongs c (s.obj (key (0x3200 + c) 0)) s.obj || belongs c (s.willBe (key (0x3200 + c) 0)) s.willBe

/-- A write of a core owner: a tenant, 0xFE or 0xFF (R357, R358). A write that would give a core of the reroll pool to a tenant is RANGE
(R284; log 117). -/
def State.moveCore (s : State) (c v : Nat) : State × Nat :=
  if (v ≤ 15 ∨ v = 0xFE ∨ v = 0xFF) ∧ !(s.pooled c && belongs c v s.willBe) then (s.pendMove (key (0x3200 + c) 0) v, stOk)
  else (s, stRange)

/-- A write of an engine's quadrant owners: each byte a tenant or 0xFF (R357, R358); on a shared core of the reroll pool, no tenant (R284;
log 117). -/
def State.moveQuads (s : State) (n v : Nat) : State × Nat :=
  if s.pooled (coreOf n) ∧ s.willBe (key (0x3200 + coreOf n) 0) = 0xFE ∧ quadsOwned v then (s, stRange)
  else if (List.range 4).all (fun q => decide (v / 256 ^ q % 256 ≤ 15) || v / 256 ^ q % 256 == 0xFF) then
    (s.pendMove (key (0x8000 + n) 6) v, stOk)
  else (s, stRange)

/-- The range that a tenant holds in a cluster now, and the one it will hold. -/
def State.spanNow (s : State) (t cl : Nat) : Nat × Nat := (s.obj (key (0x3180 + t) (2 * cl)), s.obj (key (0x3180 + t) (2 * cl + 1)))

/-- The range that a tenant will hold in a cluster. -/
def State.spanNext (s : State) (t cl : Nat) : Nat × Nat :=
  (s.willBe (key (0x3180 + t) (2 * cl)), s.willBe (key (0x3180 + t) (2 * cl + 1)))

/-- Whether two ranges share a byte. -/
def rangesMeet (a b : Nat × Nat) : Bool := decide (0 < a.2 ∧ 0 < b.2 ∧ a.1 < b.1 + b.2 ∧ b.1 < a.1 + a.2)

/-- Whether R359 admits a range: inside 32 MB, meeting no other tenant's range, the snapshot area within it (log 33). -/
def State.rangeOk (s : State) (t cl : Nat) (r : Nat × Nat) : Bool :=
  decide (r.1 + r.2 ≤ 2 ^ 25) && decide (s.obj (key (0x3100 + t) 5) ≤ r.2) &&
    (List.range 16).all (fun u => u == t || !(rangesMeet r (s.spanNow u cl) || rangesMeet r (s.spanNext u cl)))

/-- The bytes of a range of a cluster become zero, their units with poison clear. -/
def Buffer.zeroRange (b : Buffer) (lo hi : Nat) : Buffer :=
  ⟨b.bytes.filter (fun e => !(decide (lo ≤ e.1) && decide (e.1 < hi))),
    b.par.filter (fun u => !(decide (lo ≤ 2 * u) && decide (2 * u < hi))),
    b.psn.filter (fun u => !(decide (lo ≤ 2 * u) && decide (2 * u < hi)))⟩

/-- The bytes of a range that leave a tenant's space are zeroed (R359). -/
def State.vacate (s : State) (cl : Nat) (a b : Nat × Nat) : State :=
  let o := cl * 2 ^ 25
  let lo := o + a.1
  let hi := o + a.1 + a.2
  let keepLo := max lo (min hi (o + b.1))
  let keepHi := max keepLo (min hi (o + b.1 + b.2))
  { s with buf := (s.buf.zeroRange lo keepLo).zeroRange keepHi hi }

/-- Whether the ops of a tenant accepted before a change of its range in a cluster have delivered. -/
def State.rangeFree (s : State) (t cl : Nat) : Bool :=
  let n := maxN ((s.moves.filter (fun m => m.key / 2 == key (0x3180 + t) (2 * cl) / 2)).map (fun m => m.since))
  !s.ops.any (fun o => o.d.tenant == t && decide (o.id < n))

/-- A pending change of a tenant's range in a cluster takes effect once it may (R358, R359). -/
def State.settleRange (s : State) (t cl : Nat) : State :=
  let k := key (0x3180 + t) (2 * cl)
  if s.moves.any (fun m => m.key / 2 == k / 2) ∧ s.rangeFree t cl then
    let r := s.spanNext t cl
    let s1 := s.vacate cl (s.spanNow t cl) r
    let s2 : State := { s1 with moves := s1.moves.filter (fun m => m.key / 2 != k / 2) }
    (s2.setObj k r.1).setObj (k + 1) r.2
  else s

/-- Every pending range that may take effect. -/
def State.settleRanges (s : State) : State :=
  if s.moves.any (fun m => decide (key 0x3180 0 ≤ m.key) && decide (m.key < key 0x3190 0)) then
    (List.range 16).foldl (fun s t => (List.range 8).foldl (fun s cl => s.settleRange t cl) s) s
  else s

/-- A write of a buffer base (even subindex) or length (odd). -/
def State.moveRange (s : State) (t sub v : Nat) : State × Nat :=
  let cl := sub / 2
  let r := s.spanNext t cl
  let r1 := if sub % 2 = 0 then (v, r.2) else (r.1, v)
  if s.rangeOk t cl r1 then ((s.pendMove (key (0x3180 + t) sub) v).settleRange t cl, stOk) else (s, stRange)

/-- The moves of a core. -/
def isMoveOf (core : Nat) (m : Move) : Bool :=
  m.key == key (0x3200 + core) 0 || (decide (key 0x8000 0 ≤ m.key) && (m.key / 256 - 0x8000) / 16 == core && m.key % 256 == 6)

/-- The contents of a core's engines are cleared, and the core returns to shape 16×1 (R358). -/
def State.clearCore (s : State) (core : Nat) : State :=
  let s1 := (List.range 16).foldl (fun s e => (s.clearWeights (core * 16 + e)).clearTile (core * 16 + e)) s
  let s2 := s1.setCore core .zero
  { s2 with
    chains := emptyChains s2.chains (fun k => k / 128 == core)
    regions := s2.regions.map (fun g => { g with
      snaps := g.snaps.map (fun n => if coreOf (TileRef.ofHandle n.tile).n = core then { n with closed := true } else n) }) }

/-- CORE_MOVE_COMPLETE: once every op accepted on the core has delivered (R358). -/
def execCoreMoveComplete (core : Nat) (s : State) : Host.Outcome State Fault Refusal :=
  if s.conf.cores ≤ core then .fault .absentUnit
  else if s.moving core ∧ s.ops.any (fun o => opOnCore o core) = false then
    let s1 := s.clearCore core
    let s2 : State := { s1 with moves := s1.moves.filter (fun m => !isMoveOf core m) }
    .next ((s.moves.filter (isMoveOf core)).foldl (fun s m => s.setObj m.key m.val) s2)
  else .next s

/-! ### Tenants (R356) -/

/-- A write of a tenant's state (log 73). -/
def State.writeTenant (s : State) (t v : Nat) : State × Nat :=
  if v = 1 then (s.setObj (key (0x3100 + t) 0) 1, stOk)
  else if s.hasRegion t then (s, stBusy)
  else (s.setObj (key (0x3100 + t) 0) 2, stOk)

/-- The quadrants of an engine that a tenant owns go to none. -/
def freeQuads (t v : Nat) : Nat :=
  sumN ((List.range 4).map fun q => (if v / 256 ^ q % 256 = t then 0xFF else v / 256 ^ q % 256) * 256 ^ q)

/-- A tenant's cores, quadrants and buffer space are released under the move rules (R358, R359). -/
def State.releaseTenant (s : State) (t : Nat) : State :=
  let s1 := (List.range s.conf.cores).foldl (fun s c =>
    if s.willBe (key (0x3200 + c) 0) = t then s.pendMove (key (0x3200 + c) 0) 0xFF else s) s
  let s2 := (List.range s.conf.engines).foldl (fun s n =>
    let v := s.willBe (key (0x8000 + n) 6)
    if freeQuads t v = v then s else s.pendMove (key (0x8000 + n) 6) (freeQuads t v)) s1
  let s3 := (List.range s.conf.clusters).foldl (fun s cl =>
    if s.spanNext t cl = (0, 0) then s
    else ((s.pendMove (key (0x3180 + t) (2 * cl)) 0).pendMove (key (0x3180 + t) (2 * cl + 1)) 0).settleRange t cl) s2
  s3.setObj (key (0x3100 + t) 0) 0

/-- TENANT_RELEASE: once every op of a leaving tenant has delivered (R356). -/
def execTenantRelease (t : Nat) (s : State) : Host.Outcome State Fault Refusal :=
  if t < 16 ∧ s.obj (key (0x3100 + t) 0) = 2 ∧ s.ops.any (fun o => o.d.tenant == t) = false then .next (s.releaseTenant t)
  else .next s

end Sys2Proof.Machine
end

