-- ==== Sys2Proof/Machine/Boot.lean ====
section
/-! DEFINITION. Resets and start-up (spec/16_ports_and_startup.md R402, R410 to R412; R288, R354, R60, R84): what each reset
clears, the steps of a cold start, and the commands that move start-up on. -/

namespace Sys2Proof.Machine

/-! ### The cold state -/

/-- Every pending commit is done (R372): the copy that is not current takes the values in force and becomes current. -/
def State.commitAll (s : State) : State :=
  if s.dict.commits = [] then s
  else
    let base := if s.dict.cur then s.dict.flash1 else s.dict.flash0
    let next := s.dict.commits.foldl (fun m k => sput m k (s.obj k)) base
    if s.dict.cur then { s with dict := { s.dict with flash0 := next, cur := false, commits := [] } }
    else { s with dict := { s.dict with flash1 := next, cur := true, commits := [] } }

/-- A value of the current flash copy comes into force. -/
def State.loadFlash (s : State) (e : Nat × Nat) : State :=
  { s with dict := { s.dict with vals := sset (s.unset e.1) s.dict.vals e.1 e.2 } }

/-- A FLASH object keeps a value that its flash copy may not hold yet. -/
def State.carry (s : State) (k v : Nat) : State := if s.obj k = v then s else s.setObj k v

/-- The state in which a cold reset holds the block (R410): everything but FLASH and CONST objects is cleared and the counter
is 0. What is not the block's own stays: the configuration, the tables and images of package flash, the partners' live lines,
the strobe's presence. Offences stay, as of counter 0 (their counts are FLASH objects, log 34), and so do the remedies, committed to
flash or not: a voltage offset in force or asked for, and the margin step, a pending one coming into force as nothing outstanding holds
it off any longer (R208, R276; log 34). -/
def State.coldState (s : State) : State :=
  let r : State := { State.reset with
    pending := s.pending
    conf := s.conf
    clk := ⟨0, s.clk.lost, 0⟩
    dict := ⟨[], s.dict.flash0, s.dict.flash1, s.dict.cur, []⟩
    speed := s.speed
    ports := s.ports.filterMap (fun e => if e.2.liveI then some (e.1, { PortSt.zero with liveI := true }) else none)
    con := { State.reset.con with offences := s.con.offences.map (fun e => (e.1, 0)), clean := s.con.clean }
    tru := { State.reset.tru with romKey := s.tru.romKey, images := s.tru.images, lastGrant := s.tru.lastGrant }
    pwr := { State.reset.pwr with ofs := s.pwr.ofs }
    out := s.out
    freeCtr := s.freeCtr }
  let flash := (if s.dict.cur then s.dict.flash1 else s.dict.flash0).foldl State.loadFlash r
  (List.range s.conf.cores).foldl (fun t c =>
    (t.carry (key (0x2100 + c) 1) (max (s.obj (key (0x2100 + c) 1)) (s.obj (key (0x2100 + c) 3)))).carry
      (key (0x2100 + c) 7) (s.obj (key (0x2100 + c) 7))) flash

/-- The clamps take every live output to 0 (R402). -/
def State.clampAll (s : State) : State :=
  s.emitAll ((s.ports.filter (fun e => e.2.liveO)).map (fun e => Out.live e.1 false))

/-! ### Start-up (Table 16-10) -/

/-- The records of cores without a valid speed table (R188, class 0x050). -/
def State.speedEvents (s : State) : State :=
  (List.range s.conf.cores).foldl (fun s c =>
    let code := match sfind s.speed c with
      | none => some 0
      | some r => speedFault c r
    match code with
    | none => s
    | some k => s.event ⟨0x050, 3, 0x21, 0, none, none, at_ c 34 + at_ k 32⟩) s

/-- A patch or GFW slot that fails verification is replaced by the other (R354). -/
def State.bootSlot (s : State) (kind : Nat) : State :=
  if s.gfwOk (s.slotInForce kind) then s else s.switchSlot kind

/-- Whether the GFW slot in force verifies. -/
def State.gfwBoots (s : State) : Bool := s.gfwOk (s.slotInForce 3)

/-- Pending bypass maps and quarantines are applied (R84, R277, R288). -/
def State.applyPending (s : State) : State :=
  let s1 := (List.range s.conf.engines).foldl (fun s n => if s.mapReady n then s.applyMap n else s) s
  let s2 := (List.range s.conf.engines).foldl (fun s n => if s.engineHealth n = 2 then s.quarEngine n else s) s1
  (List.range s.conf.cores).foldl (fun s c => if s.coreHealth c = 2 then s.quarCore c false else s) s2

/-- Every cascade slot without a first player elects one (R298). -/
def State.electAll (s : State) : State := (List.range 16).foldl (fun s g => s.elect g) s

/-- The ports from `lo` to `hi` that are built, quarantined ones apart, begin to exchange (R404). -/
def State.bringPorts (s : State) (qs : List Nat) : State :=
  qs.foldl (fun s q => if portBuilt s.conf q ∧ (s.port q).st ≠ 3 ∧ (s.port q).st ≠ 4 then s.bringPort q else s) s

/-- Step 6: GFW serves, and the work, memory, pairing and cascade ports exchange; retired serializers are not offered. -/
def State.enterPorts (s : State) : State :=
  let s1 : State := { s with
    boot := { s.boot with step := 6 }
    tru := { s.tru with heartbeat := s.now, gfwDown := false } }
  ((s1.bringPorts ((List.range 25).filter (fun q => !s1.retired q))).electAll).refreshCores

/-- Steps 3 to 6 of a cold start: images and tables verified, the opening deck's failures acted on, pending maps and
quarantines applied. Without a GFW image start-up waits at step 3 (R354, R412; log 71). -/
def State.verifyAll (s : State) : State :=
  let s1 := ({ s with boot := { s.boot with step := 3 } } : State).bringPort 26
  let s2 := ((((s1.takeNewer 4).takeNewer 2).bootSlot 2).bootSlot 3).speedEvents
  if s2.gfwBoots = false then { s2 with tru := { s2.tru with gfwDown := true } }
  else
    let s3 := s2.boot.deck.foldl (fun s f => if f.core < s.conf.cores then s.deckFails f.core f.fail else s) s2
    ({ s3 with boot := { s3.boot with deck := [] } } : State).applyPending.enterPorts

/-- Start-up goes on where its condition holds (R411, R412): with the strobe present the power port comes up; once it is up
and every island is settled in envelope A, the rest follows up to the exchange of the ports. -/
def State.bootOn (s : State) : State :=
  if s.pwrGood = false ∨ s.boot.step ≠ 2 ∨ s.clk.lost then s
  else if s.up 25 ∧ s.allSettled 0 then s.askAgain.verifyAll
  else if (s.port 25).liveO = false ∧ (s.port 25).st = 0 then s.bringPort 25
  else s

/-- The record of a reset (class 0x191) and its cause (Table 16-12; log 46). -/
def State.resetEvent (s : State) (cls cause : Nat) : State :=
  (s.setObj (key 0x1300 1) cause).event ⟨0x191, 0, 0x00, 0, none, none, at_ cls 32 + cause⟩

/-- A cold start from a cold state, with the failures that the opening deck will find. -/
def State.coldStart (s : State) (cause : Nat) (deck : List OpeningFail) : State :=
  let s1 : State := { s.coldState with pwrGood := true, boot := ⟨2, true, 0, 0, deck, none, 0⟩ }
  (s1.resetEvent 1 cause).bootOn

/-- POWER_GOOD: PWRGOOD rises (R411; log 11). -/
def execPowerGood (deck : List OpeningFail) (s : State) : Host.Outcome State Fault Refusal :=
  if s.pwrGood then .next s else .next (s.coldStart 1 deck)

/-- POWER_GOOD_LOSS: PWRGOOD falls; the clamps hold every output at 0 (R402; log 72). -/
def execPowerGoodLoss (s : State) : Host.Outcome State Fault Refusal :=
  if s.pwrGood then .next s.clampAll.coldState else .next s

/-- VT: a report received, or a message that R337 discards (R339); start-up may go on (R411). -/
def execVt (core : BitVec 6) (mv : BitVec 12) (tj : BitVec 8) (rail env : BitVec 2) (s : State) :
    Host.Outcome State Fault Refusal :=
  let w := vtWord core.toNat mv.toNat tj.toNat rail.toNat env.toNat
  if !s.up 25 then .next s
  else if badWord s.conf w then .next (s.badMessage w.toNat)
  else .next (s.takeVt core.toNat mv.toNat tj.toNat rail.toNat env.toNat).bootOn

/-- CAPSEL (R404); start-up may go on (R411). -/
def execCapsel (q : Nat) (w : W64) (s : State) : Host.Outcome State Fault Refusal :=
  s.onLink q w 2 fun s =>
    if (s.port q).st = 1 then ((s.setPort q { s.port q with selIn := some w }).checkSel q).bootOn else s

/-- STROBE_RESTORED (class 0x189); start-up may go on (R412). -/
def execStrobeRestored (s : State) : Host.Outcome State Fault Refusal :=
  if s.clk.lost then .next (({ s with clk := { s.clk with lost := false } } : State).portEvent 27 0x189 0 0).bootOn else .next s

/-- ADMISSION_OPEN: step 7 of a cold start, and the end of a warm one (R411, R412, class 0x192). -/
def execAdmissionOpen (s : State) : Host.Outcome State Fault Refusal :=
  if s.boot.step = 6 ∧ s.up 0 ∧ s.up 25 ∧ s.clk.lost = false ∧ s.tru.gfwDown = false ∧ s.tru.jobAct = false ∧ s.boot.warm.isNone then
    let n := s.now - s.boot.pgAt
    let s1 : State := { s with
      boot := { s.boot with step := 8, duration := if s.boot.cold then n else s.boot.duration }
      adm := { s.adm with openA := true } }
    let s2 := if s.boot.cold then s1.startEnvelope else s1
    .next (s2.event ⟨0x192, 0, 0x00, 0, none, none, n % 2 ^ 32⟩)
  else .next s

/-! ### Requested resets (R410) -/

/-- Every pending move is complete: the contents are cleared by the reset itself, and bytes that leave a tenant's space are
zeroed (R358, R359). -/
def State.finishMoves (s : State) : State :=
  let s1 := s.moves.foldl (fun s m => if key 0x3180 0 ≤ m.key ∧ m.key < key 0x3190 0 then
    s.vacate (m.key % 256 / 2) (s.spanNow (m.key / 256 - 0x3180) (m.key % 256 / 2)) (s.spanNext (m.key / 256 - 0x3180) (m.key % 256 / 2))
    else s) s
  { s.moves.foldl (fun s m => s.setObj m.key m.val) s1 with moves := [] }

/-- The ports that are exchanging or up go down with DOWN, REASON 0x06 (log 46). -/
def State.downPorts (s : State) (qs : List Nat) : State :=
  qs.foldl (fun s q => if (s.port q).st = 1 ∨ (s.port q).st = 2 then s.portDown q 0 6 (q != 26) else s) s

/-- A cold reset on request, after its response has been sent: every port goes down, FLASH objects stay (R410), and what the opening
deck finds is free (R288; log 70). -/
def State.coldRequest (s : State) : State :=
  (((((s.downPorts (List.range 27)).finishMoves).commitAll).clampAll).coldStart 2 (Config.openingDeck s.freeCtr)).drawFree

/-- A write of the reset request: 1 cold, 2 warm (R410). -/
def State.requestReset (s : State) (v : Nat) : State :=
  if v = 1 then s.coldRequest else if v = 2 ∧ s.boot.warm.isNone then s.startWarm 3 else s

/-- What a warm reset clears: tiles and weights (R60), regions (R231), range records (R320), the op table, staging and spine,
the plan; every chain is idle, debug mode ends (R366) and a deck test is given up (log 72). -/
def State.warmClear (s : State) : State :=
  let s1 := s.endDebug.endRanges (fun _ => true)
  { s1 with
    regs := []
    tiles := []
    cells := []
    shadow := []
    swr := []
    chains := []
    stg := ⟨[], [], s.stg.nextTag⟩
    spine := []
    adm := { s1.adm with openA := false, wait := [], held := [], respQ := [], mute := s1.adm.nextId }
    ops := []
    regions := []
    jobs := []
    loop := []
    pwr := { s1.pwr with plan := [], fcs := [], energy := 0 }
    con := { s1.con with
      deck := { s1.con.deck with state := 0, core := none, rel := none, byPrio := false } } }

/-- The GFW image after a warm reset: an activation takes the other slot when it verifies, and keeps the previous one
otherwise (R353). -/
def State.warmImage (s : State) (act : Bool) : State :=
  let s1 : State := { s with tru := { s.tru with jobAct := false } }
  if !act then s1.bootSlot 3
  else
    let s2 := s1.setObj (key 0x7000 4) 0
    if s2.gfwOk (s2.otherSlot 3) then
      (let s3 := s2.switchSlot 3
      { s3 with tru := { s3.tru with fresh := true } })
    else s2.setObj (key 0x7000 6) 1

/-- The warm reset itself (R410, class 0x191). -/
def State.warmNow (s : State) (cause : Nat) (act : Bool) : State :=
  let s1 := ((s.downPorts (List.range 25)).warmClear).finishMoves
  let s2 := (s1.warmImage act).resetEvent 2 cause
  let s3 : State := { s2 with boot := { s2.boot with cold := false, warm := none, warmCause := 0 } }
  if s3.gfwBoots = false then { s3 with boot := { s3.boot with step := 3 }, tru := { s3.tru with gfwDown := true } }
  else s3.applyPending.enterPorts

/-- WARM_RESET: after the completion records are sent, or 100,000 steps; after the last op of an activation (R353, R410). -/
def execWarmReset (s : State) : Host.Outcome State Fault Refusal :=
  match s.boot.warm with
  | some t =>
    if s.adm.respQ = [] ∨ s.up 0 = false ∨ t + 100000 ≤ s.now then .next (s.warmNow s.boot.warmCause s.tru.jobAct) else .next s
  | none => if s.tru.jobAct ∧ s.ops.all (fun o => o.k.ghost) then .next (s.warmNow 4 true) else .next s

end Sys2Proof.Machine
end

