-- ==== Sys2Proof/Machine/Cascade.lean ====
section
/-! DEFINITION. Frames that arrive on the cascade ports and on the loopback path (R218, R295, R303): the receive pools, and the commands
that hand a frame to the owner's side, the contributor's side or the election. -/

namespace Sys2Proof.Machine

/-! ### The shell of the frame commands -/

/-- A frame that goes over the credits that its port has given out is discarded as an overrun (R218). -/
def State.overflows (s : State) (q : Nat) (f : Frame) : Bool :=
  q != 0xFE && decide (17 ≤ q) && decide (q ≤ 24) && s.up q && !s.poolRoom q f

/-- The shared shell of the cascade frame commands: a frame of the expected type on a port that hears it returns its credit
and, when it is not discarded, is handled for its group slot. -/
def State.onFrame (s : State) (q ftype : Nat) (f : Frame) (body : State → Nat → State) : Host.Outcome State Fault Refusal :=
  if s.noPort q then .fault .absentUnit
  else if s.overflows q f ∧ f.ftype = ftype then .next (s.overrun q)
  else if s.hears q f = false ∨ f.ftype ≠ ftype then .next s
  else
    let s1 := s.returnCredit q f
    match s1.frameSlot q f with
    | none => .next s1
    | some g => .next (body s1 g)

/-! ### The owner's side -/

/-- DATA: elements enter or leave the owner's registers (R309). A frame that must wait stays in its receive pool. -/
def execData (q : Nat) (f : Frame) (s : State) : Host.Outcome State Fault Refusal :=
  if s.noPort q then .fault .absentUnit
  else if s.hears q f ∧ f.ftype = 1 ∧ q ≠ 0xFE ∧ frameOk f = false then .next ((s.returnCredit q f).badCrc f)
  else if s.hears q f ∧ f.ftype = 1 ∧ s.straggler f = false ∧ (s.dataWaits f ∨ s.behind q f) then .next (s.holdFrame q f)
  else s.onFrame q 1 f (fun s g => s.dataIn g f)

/-- END: the checksum of the contribution is checked and answered (R311). -/
def execEnd (q : Nat) (f : Frame) (s : State) : Host.Outcome State Fault Refusal :=
  if s.noPort q then .fault .absentUnit
  else if s.hears q f ∧ f.ftype = 2 ∧ q ≠ 0xFE ∧ frameOk f = false then .next ((s.returnCredit q f).badCrc f)
  else if s.hears q f ∧ f.ftype = 2 ∧ s.straggler f = false ∧ s.behind q f then .next (s.holdFrame q f)
  else s.onFrame q 2 f (fun s g => s.endIn g f)

/-- COLLECT (R313). -/
def execCollect (q : Nat) (f : Frame) (s : State) : Host.Outcome State Fault Refusal :=
  if s.noPort q then .fault .absentUnit
  else if s.hears q f ∧ f.ftype = 6 ∧ q ≠ 0xFE ∧ frameOk f = false then .next ((s.returnCredit q f).collectBad f)
  else s.onFrame q 6 f (fun s g => s.collectIn g f)

/-- COMMIT_NOTICE (R317). -/
def execCommitNotice (q : Nat) (f : Frame) (s : State) : Host.Outcome State Fault Refusal :=
  s.onFrame q 7 f (fun s g => s.commitIn g f)

/-! ### The contributor's side -/

/-- ACK (R316). -/
def execAck (q : Nat) (f : Frame) (s : State) : Host.Outcome State Fault Refusal :=
  s.onFrame q 3 f (fun s g => (s.ackIn g f).closeRegions)

/-- RESEND (R305). -/
def execResend (q : Nat) (f : Frame) (s : State) : Host.Outcome State Fault Refusal :=
  s.onFrame q 4 f (fun s g => s.resendIn g f)

/-- RESULT: the elements are written to the DATA of every op that names the range (R314). A frame that cannot be written yet stays in its
receive pool. -/
def execResult (q : Nat) (f : Frame) (s : State) : Host.Outcome State Fault Refusal :=
  if s.noPort q then .fault .absentUnit
  else if s.overflows q f ∧ f.ftype = 5 then .next (s.overrun q)
  else if s.hears q f = false ∨ f.ftype ≠ 5 then .next s
  else
    let s1 := s.returnCredit q f
    let os := s.resultOps f
    match s.slotOf f.group with
    | none => .next s1
    | some g =>
      if f.ver ≠ 1 then .next s1
      else if q ≠ 0xFE ∧ frameOk f = false then .next (s1.resultFault g f os true)
      else if s.strayBack f then .next (s1.countStraggler f)
      else if os = [] then .next (s1.strayResult g f)
      else if s.behind q f then .next (s.holdFrame q f)
      else if os.all (fun o => decide (leading o < f.fseq)) then .next (s1.resultFault g f os false)
      else match s1.takeResults f os with
        | none => .next (s.holdFrame q f)
        | some s2 => .next s2

/-- ABORT: the ops that depend on the owner's range are lost (R322). -/
def execAbort (q : Nat) (f : Frame) (s : State) : Host.Outcome State Fault Refusal :=
  s.onFrame q 9 f (fun s _ => if s.strayBack f then s.countStraggler f else (s.loseOps (fun o => names o f)).closeRegions)

/-- REVOKE: the group tenant's floor rises to the value given, when that is live; the group ops of the newly fenced epochs stop, and no
further frame of those epochs leaves (R239, R323). -/
def execRevoke (q : Nat) (f : Frame) (s : State) : Host.Outcome State Fault Refusal :=
  s.onFrame q 8 f fun s g =>
    let t := s.obj (key (0x6000 + g) 3)
    let new := f.ctl % 65536
    let old := s.obj (key (0x3100 + t) 1)
    if s.epochLive t new then
      let s1 := (s.setObj (key (0x3100 + t) 1) new).cutOps t old (new + 65535)
      let s2 : State := { s1 with ops := s1.ops.map (fun o =>
        if o.k.group && o.d.tenant == t && newlyFenced old (new + 65535) o.d.epoch then stopOp 0x06 o else o) }
      (s2.dropWaiting t old (new + 65535)).fenceSends
    else s

/-! ### The election and the allotments -/

/-- CLAIM: agreed to when the claimant is the lowest live position, ignored at or below the term held (R298). -/
def execClaim (q : Nat) (f : Frame) (s : State) : Host.Outcome State Fault Refusal :=
  s.onFrame q 0xA f fun s g =>
    if f.term ≤ (s.group g).term then s else s.sendReply g f.src f.term (f.src == s.lowestLive g) false

/-- CLAIMREPLY: an agreement counts for the claim it answers within 20 µs; a first player keeps the table, notes a
confirmation and divides again (R298, R300, R301). -/
def execClaimreply (q : Nat) (f : Frame) (s : State) : Host.Outcome State Fault Refusal :=
  s.onFrame q 0xB f fun s g =>
    let tab := payBytes f.payload 64
    match (s.group g).claim with
    | some c =>
      if f.term = c.term ∧ bitOf (s.memberMask g) f.src ∧ s.now ≤ c.since + 2000 then
        let s1 := s.mapGroup g (fun v => { v.keepTab f.src tab with
          claim := some { c with agree := if bitOf f.ctl 31 then insN c.agree f.src else c.agree } })
        s1.checkClaim g
      else s
    | none =>
      if (s.group g).first = some (s.posOf g) ∧ f.term = (s.group g).term ∧ bitOf (s.memberMask g) f.src then
        (s.mapGroup g (fun v => { v.keepTab f.src tab with
          decs := if bitOf f.ctl 30 then v.decs.filter (fun d => d.2 != f.src) else v.decs })).allot g
      else s

/-- ELECTED: the first player and the term are recorded, and the member answers with its route table (R298, R300). -/
def execElected (q : Nat) (f : Frame) (s : State) : Host.Outcome State Fault Refusal :=
  s.onFrame q 0xC f fun s g =>
    if f.term ≤ (s.group g).term then s
    else
      let s1 := s.recordFirst g f.src f.term
      s1.sendReply g f.src f.term (f.src == s1.lowestLive g) false

/-- ALLOT: the first player's allotments at every position (R301). -/
def execAllot (q : Nat) (f : Frame) (s : State) : Host.Outcome State Fault Refusal :=
  s.onFrame q 0xD f fun s g =>
    if (s.group g).first = some f.src ∧ f.term = (s.group g).term then
      s.takeAllot g ((List.range 64).map (fun i => (payUnit f.payload i).1.toNat))
    else s

/-! ### Every other frame -/

/-- RESERVED_FRAME_TYPE: a frame with a reserved FTYPE is discarded and its credit returns (R303). -/
def execReservedFrameType (q : Nat) (f : Frame) (s : State) : Host.Outcome State Fault Refusal :=
  if s.noPort q then .fault .absentUnit
  else if s.overflows q f ∧ (f.ftype = 0 ∨ 0xE ≤ f.ftype) then .next (s.overrun q)
  else if s.hears q f ∧ (f.ftype = 0 ∨ 0xE ≤ f.ftype) then .next (s.returnCredit q f)
  else .next s

/-- The command that delivers a frame to the block's own receiving side over the loopback path (R295; Table 12-3). -/
def loopCommand (f : Frame) : Instr :=
  match f.ftype with
  | 1 => .data 0xFE f
  | 2 => .end_ 0xFE f
  | 3 => .ack 0xFE f
  | 4 => .resend 0xFE f
  | 5 => .result 0xFE f
  | 6 => .collect 0xFE f
  | 7 => .commitNotice 0xFE f
  | 8 => .revoke 0xFE f
  | 9 => .abort 0xFE f
  | 10 => .claim 0xFE f
  | 11 => .claimreply 0xFE f
  | 12 => .elected 0xFE f
  | 13 => .allot 0xFE f
  | _ => .reservedFrameType 0xFE f

end Sys2Proof.Machine
end

