-- ==== Sys2Proof/Machine/Dict.lean ====
section
/-! DEFINITION. The Yilzil dictionary (spec/15_yilzil_dictionary.md R369 to R393): reads and writes with their statuses
(Table 15-7), transactions of the three roles, rate limits, events and notices, and the commands that write one object.

An IPv6 address is the number whose byte i, least significant first, is byte i of the address (R12). -/

namespace Sys2Proof.Machine

/-! ### Statuses (Table 15-7) -/

/-- RESERVED. -/
def stReserved : Nat := 0x01
/-- NOOBJ. -/
def stNoobj : Nat := 0x02
/-- READONLY. -/
def stReadonly : Nat := 0x03
/-- ACCESS. -/
def stAccess : Nat := 0x04
/-- LENGTH. -/
def stLength : Nat := 0x05
/-- RESFIELD. -/
def stResfield : Nat := 0x06
/-- RATE. -/
def stRate : Nat := 0x08
/-- VERSION. -/
def stVersion : Nat := 0x09
/-- FORMAT. -/
def stFormat : Nat := 0x0A
/-- STARTING. -/
def stStarting : Nat := 0x0B

/-! ### Reads (R369) -/

/-- A record of the ring as a 32-byte value. -/
def Rec.value (r : Rec) : Nat := r.w0.toNat + at_ r.w1.toNat 64 + at_ r.w2.toNat 128 + at_ r.w3.toNat 192

/-- The value of a drain result slot (Table 06-9): an EL8 code takes one byte. -/
def DrainSlot.value (q : DrainSlot) : Nat :=
  let step := if fieldOf q.req 27 24 = 1 then 8 else 16
  sumN (q.codes.zipIdx.map (fun c => c.1.toNat % 2 ^ step * 2 ^ (step * c.2))) +
    sumN (q.sb.zipIdx.map (fun b => b.1.toNat * 2 ^ (512 + 8 * b.2))) + q.state * 2 ^ 768

/-- The drain slot that an object of 0xF010 belongs to. -/
def State.drqAt (s : State) (sub : Nat) : DrainSlot := s.drq.getD (sub / 2) .zero

/-- A register as the register window shows it (R367): 72 bytes of limbs, the sideband of Table 02-3, 4 reserved bytes. -/
def LongReg.window (r : LongReg) : Nat := r.n.toNat + r.sideband * 2 ^ 576

/-- The tile that the register window selects (Table 14-6). -/
def State.windowTile (s : State) : TileRef := TileRef.ofHandle (s.obj (key 0xF100 0) / 2 ^ 16)

/-- The register window; zero where no such register exists, and on a quarantined core, whose tiles can no longer be read (R277). -/
def State.windowValue (s : State) : Nat :=
  let v := s.obj (key 0xF100 0)
  let t := s.windowTile
  if s.conf.engines ≤ t.n ∨ t.rows ≤ fieldOf v 15 11 ∨ s.coreQuarantined (coreOf t.n) then 0
  else match s.regAt t (fieldOf v 15 11) (fieldOf v 10 6) with
    | none => 0
    | some k => (s.reg k).window

/-- The step-down state (Table 13-5). -/
def Power.downState (p : Power) : Nat :=
  if p.granted.isSome then 3 else if p.pendEnv.isSome || p.pendCap.isSome then (if p.byStage then 2 else 1) else 0

/-- The start-up step (Table 16-12): step 7 once the work source has answered. -/
def State.bootStep (s : State) : Nat := if s.boot.step = 6 ∧ s.up 0 then 7 else s.boot.step

/-- The sources that hold a bucket now (R388). -/
def State.tracked (s : State) : List Bucket := s.mg.buckets.filter (fun b => decide (s.now < b.heard + 100000000))

/-- Objects of ports, start-up and the network that report state. -/
def State.readPorts (s : State) (index sub : Nat) : Option Nat :=
  match index, sub with
  | 0x0010, 2 => some (min 255 s.dict.commits.length)
  | 0x1000, 0 => some s.offeredMask
  | 0x1200, 1 => some s.respQueue.length
  | 0x1300, 0 => some 0
  | 0x1300, 2 => some s.boot.duration
  | 0x1300, 3 => some s.bootStep
  | 0x1411, 1 => some s.tracked.length
  | _, _ =>
    if 0x1310 ≤ index ∧ index < 0x1310 + 29 then
      (let p := s.port (index - 0x1310)
      match sub with
      | 0 => some p.st
      | 1 => some p.agreed
      | 2 => some p.feat
      | 3 => some p.pool
      | 4 => some p.qcount
      | 5 => some 0
      | 6 => some p.reason
      | _ => none)
    else none

/-- Objects of power and the planner that report state (log 75). The priced period of a core without a lookup value reads 0, the model's
choice, as the spec gives 0 for the table period alone. -/
def State.readPower (s : State) (index sub : Nat) : Option Nat :=
  match index, sub with
  | 0x2000, 1 => some s.pwr.env
  | 0x2000, 2 => some (match s.pwr.up, s.pwr.pendEnv with
    | some (t, _), _ => t
    | none, some e => e
    | none, none => s.pwr.granted.getD s.pwr.env)
  | 0x2000, 4 => some s.pwr.lastChange
  | 0x2000, 7 => some s.pwr.downState
  | 0x2200, 0 => some s.now
  | 0x2200, 2 => some s.blockFloor
  | 0x2200, 4 => some (bit s.clk.lost)
  | 0x2300, 0 => some (min 65535 (s.pwr.im / 100000))
  | 0x2300, 1 => some (min 65535 (s.drawCeil / 100000))
  | 0x2300, 2 => some (min 65535 (s.forecastLevel / 100000))
  | _, _ =>
    if 0x2100 ≤ index ∧ index < 0x2140 then
      (match sub with
      | 4 => some ((s.tauTab (index - 0x2100) s.pwr.env).getD 0)
      | 5 => some (min 65535 ((s.tauP (index - 0x2100)).getD 0))
      | 6 => some (min 65535 (s.coreFloor (index - 0x2100)))
      | _ => none)
    else none

/-- Objects of tenants, records, the deck and groups that report state. -/
def State.readTenants (s : State) (index sub : Nat) : Option Nat :=
  match index, sub with
  | 0x4000, 0 => some s.errs.seq
  | 0x4000, 1 => some s.errs.unret.length
  | 0x4000, 4 => some s.errs.keys.length
  | 0x5000, 2 => some (if s.con.deck.state = 0 ∧ s.obj (key 0x5000 4) = 1 then 3 else s.con.deck.state)
  | 0x5000, 3 => some (s.con.deck.core.getD 0xFF)
  | 0x5020, k => some (sget 0 s.con.caps k)
  | _, _ =>
    if 0x3100 ≤ index ∧ index < 0x3110 ∧ sub = 3 then
      some (sumN ((s.regions.filter (fun g => g.tenant == index - 0x3100)).map (fun g => 2 ^ g.num)))
    else if 0x3100 ≤ index ∧ index < 0x3110 ∧ sub = 9 then some (s.imageFull (index - 0x3100))
    else if 0x3200 ≤ index ∧ index < 0x3240 ∧ sub = 1 then some (bit (s.moving (index - 0x3200)))
    else if 0x4010 ≤ index ∧ index ≤ 0x4013 then some (sget ⟨0, 0, 0, 0⟩ s.errs.ring (256 * (index - 0x4010) + sub)).value
    else if 0x6000 ≤ index ∧ index < 0x6010 ∧ sub = 4 then
      some (if s.memberMask (index - 0x6000) = 0 then 0 else s.liveMask (index - 0x6000))
    else if 0x6000 ≤ index ∧ index < 0x6010 ∧ sub = 5 then some ((s.group (index - 0x6000)).first.getD 0xFF)
    else if 0x6000 ≤ index ∧ index < 0x6010 ∧ sub = 6 then some (s.group (index - 0x6000)).term
    else none

/-- Objects of trust and debug that report state. -/
def State.readTrust (s : State) (index sub : Nat) : Option Nat :=
  match index, sub with
  | 0x7000, 2 => some (((s.otherSlot 3).map (fun i => i.dver)).getD 0)
  | 0x7010, 1 => some 0
  | 0x7010, 2 => some s.tru.xStatus
  | 0xF000, 1 => some s.debugScope
  | 0xF000, 2 => some s.tru.dbgExpiry
  | 0xF010, k => some (if k % 2 = 0 then (s.drqAt k).req else (s.drqAt k).value)
  | 0xF100, 1 => some s.windowValue
  | _, _ => none

/-- What an object reads as: state that it reports, or its stored value (R369). -/
def State.readObj (s : State) (index sub : Nat) : Nat :=
  match s.readPorts index sub with
  | some v => v
  | none => match s.readPower index sub with
    | some v => v
    | none => match s.readTenants index sub with
      | some v => v
      | none => (s.readTrust index sub).getD (s.obj (key index sub))

/-- The bytes of an object. -/
def State.readBytes (s : State) (index sub : Nat) : List Byte :=
  match objInfo s.conf index sub with
  | none => []
  | some o => leBytes o.ty.size (s.readObj index sub)

/-! ### Checks (R371, R380, R383) -/

/-- A dictionary transaction: role, tenant (role H), whether it writes, object, value. -/
structure Tran where
  role : Role
  tenant : Nat
  wr : Bool
  index : Nat
  sub : Nat
  value : List Byte
deriving DecidableEq, Repr

/-- Whether only the objects that TMON serves itself are answered (R383). -/
def State.starting (s : State) : Bool := decide (s.boot.step < 6) || s.tru.gfwDown

/-- Whether TMON serves an object before GFW does. -/
def servedEarly (index : Nat) : Bool := decide (index < 0x1000) || (decide (0x7000 ≤ index) && decide (index < 0x7100))

/-- Whether start-up has stopped because no GFW slot verifies, so that TMON takes image transfers alone (R354). -/
def State.noGfw (s : State) : Bool := decide (s.boot.step = 3) && s.tru.gfwDown

/-- Whether an object belongs to image transfer (R355). -/
def isTransfer (index : Nat) : Bool := index == 0x7010 || index == 0x7011

/-- The right of a role. -/
def Obj.right (o : Obj) : Role → Right
  | .m => o.m
  | .h => o.h
  | .t => o.t

/-- Whether any role may write an object. -/
def Obj.writable (o : Obj) : Bool := o.m.canWrite || o.h.canWrite || o.t.canWrite

/-- Whether a tenant holds a part of an engine (R360). -/
def State.holdsEngine (s : State) (t n : Nat) : Bool := (List.range 4).any (fun q => s.ownsTile t ⟨n, 4 + q⟩)

/-- The reach of a role beyond its right (R360, R366, R367; role H reads no other tenant's drain result, log 36). -/
def State.reaches (s : State) (x : Tran) : Bool :=
  match x.role with
  | .t => true
  | .h =>
    if 0x3100 ≤ x.index ∧ x.index < 0x3180 then x.index - 0x3100 == x.tenant
    else if 0x3180 ≤ x.index ∧ x.index < 0x3200 then x.index - 0x3180 == x.tenant
    else if 0x4100 ≤ x.index ∧ x.index < 0x4200 then x.index - 0x4100 == x.tenant
    else if 0x8000 ≤ x.index ∧ x.index < 0x8400 then s.holdsEngine x.tenant (x.index - 0x8000)
    else if x.index = 0xF010 ∧ x.wr = false then s.drqAt x.sub == .zero || (s.drqAt x.sub).tenant == x.tenant
    else true
  | .m =>
    if x.index = 0xF100 then s.tru.dbgOn && (x.sub == 0 || s.inScope s.windowTile) else true

/-- The reserved bits of a written value (R13). -/
def reservedMask (index sub : Nat) : Nat :=
  match index, sub with
  | 0x7010, 0 => maskOf 59 32
  | 0xF010, 0 => maskOf 63 29 + maskOf 23 21 + maskOf 2 0
  | 0xF010, 2 => maskOf 63 29 + maskOf 23 21 + maskOf 2 0
  | 0xF010, 4 => maskOf 63 29 + maskOf 23 21 + maskOf 2 0
  | 0xF100, 0 => maskOf 18 16 + maskOf 5 0
  | _, _ => 0

/-- Whether a value's length fits (R379; R355 for the chunk). -/
def lengthOk (o : Obj) (index : Nat) (n : Nat) : Bool :=
  if index = 0x7011 then decide (8 ≤ n) && decide (n ≤ 256) else n == o.ty.size

/-- The first status from STARTING to RANGE that applies, before the rules of the object's own definition; none to go on
(R380). Role T is TMON itself. -/
def State.tranStatus (s : State) (x : Tran) : Option Nat :=
  let v := ofLe x.value
  if x.role ≠ .t ∧ s.starting ∧ (servedEarly x.index = false ∨ (x.wr ∧ s.noGfw ∧ isTransfer x.index = false)) then some stStarting
  else match objInfo s.conf x.index x.sub with
    | none => some stNoobj
    | some o =>
      if x.wr ∧ o.writable = false then some stReadonly
      else if (if x.wr then (o.right x.role).canWrite else (o.right x.role).canRead) = false ∨ s.reaches x = false then some stAccess
      else if x.wr = false then none
      else if lengthOk o x.index x.value.length = false then some stLength
      else if v &&& reservedMask x.index x.sub ≠ 0 then some stResfield
      else if x.index ≠ 0x7011 ∧ (v < o.lo ∨ o.hi < v ∨ v % o.mult ≠ 0) then some stRange
      else none

/-! ### What a write does -/

/-- A value simply in force (R372). -/
def State.store (s : State) (index sub v : Nat) : State × Nat := (s.setObj (key index sub) v, stOk)

/-- A value in force when a rule of the definition holds, RANGE otherwise. -/
def State.storeIf (s : State) (ok : Bool) (index sub v : Nat) : State × Nat := if ok then s.store index sub v else (s, stRange)

/-- A request of a dictionary drain (R170, R171). -/
def State.requestDrain (s : State) (sub v tenant : Nat) : State × Nat :=
  if (s.drqAt sub).state = 1 then (s, stBusy) else (s.setDrq (sub / 2) ⟨v, tenant, s.adm.nextId, 1,
    s.cmpQuarters (TileRef.ofHandle (v % 65536)).quarters, [], []⟩, stOk)

/-- Whether the object of a voltage offset admits a value; the offset is asked of the power stage (R345). -/
def State.writeOffset (s : State) (c v : Nat) : State × Nat :=
  if v = s.offsetNow c then (s, stOk)
  else if v ≠ 0 ∧ s.offsetFits s.pwr.env c v = false then (s, stRange)
  else (s.askOffset c v, stOk)

/-- The snapshot area (R241, R359): no region open or closing, and within every buffer space that the tenant holds. -/
def State.writeSnapArea (s : State) (t v : Nat) : State × Nat :=
  if (List.range s.conf.clusters).any (fun cl => (s.spanNext t cl).2 != 0 && decide ((s.spanNext t cl).2 < v)) then (s, stRange)
  else if s.hasRegion t then (s, stBusy)
  else s.store (0x3100 + t) 5 v

/-- The bytes saved per cluster: at most the buffer length in each cluster where the tenant holds space (Table 14-6). -/
def State.writeSaved (s : State) (t v : Nat) : State × Nat :=
  let ls := ((List.range s.conf.clusters).map (fun cl => (s.spanNext t cl).2)).filter (fun l => l != 0)
  s.storeIf (v == 0 || (ls != [] && ls.all (fun l => decide (v ≤ l)))) (0x3100 + t) 7 v

/-- Whether a slot has an outstanding group op (R294). -/
def State.groupBusy (s : State) (g : Nat) : Bool := s.groupOps g != []

/-- A slot whose identity, position or members change starts without peers or allotments, its term kept; the election follows (R298,
R301). -/
def State.resetGroup (s : State) (g : Nat) : State :=
  let s1 := (List.range 64).foldl (fun s pp => s.setObj (key (0x6080 + g) pp) 0) s
  (s1.mapGroup g (fun v => { GroupSt.zero with term := v.term })).elect g

/-- The routes of a slot have changed: the first player hears of it, or grants anew (R300, R301). -/
def State.rerouted (s : State) (g : Nat) : State :=
  if s.memberMask g = 0 then s
  else if (s.group g).first = some (s.posOf g) then s.allot g
  else s.replyFirst g false

/-- A group slot's object; an identity is unique among the slots in use and the one written (R294; log 43). -/
def State.writeGroup (s : State) (g sub v : Nat) : State × Nat :=
  let taken := sub == 0 &&
    (List.range 16).any (fun h => h != g && s.memberMask h != 0 && s.obj (key (0x6000 + h) 0) == v)
  let clash := sub == 2 && v != 0 && (List.range 16).any (fun h => h != g && s.memberMask h != 0 &&
    s.obj (key (0x6000 + h) 0) == s.obj (key (0x6000 + g) 0))
  if taken ∨ clash then (s, stRange)
  else if s.groupBusy g then (s, stBusy)
  else
    let s1 := s.setObj (key (0x6000 + g) sub) v
    (if sub ≤ 2 then s1.resetGroup g else s1, stOk)

/-- A route (R295, Table 12-8). -/
def State.writeRoute (s : State) (g pp v : Nat) : State × Nat :=
  if !(decide (v < 8) || v == 0xFE || v == 0xFF) then (s, stRange)
  else if s.groupBusy g then (s, stBusy)
  else ((s.setObj (key (0x6040 + g) pp) v).rerouted g, stOk)

/-- A port mode: only while the port is down (R325). -/
def State.writeMode (s : State) (p v : Nat) : State × Nat :=
  let st := (s.port (17 + p)).st
  if st = 1 ∨ st = 2 then (s, stBusy)
  else ((List.range 16).foldl (fun s g => s.rerouted g) (s.setObj (key 0x6100 p) v), stOk)

/-- The reroll pool names cores that belong to no tenant, also after their moves (R284, R293). The bit of a core that is not built is
RANGE, the model's choice (log 117). -/
def State.poolOk (s : State) (v : Nat) : Bool :=
  (List.range 64).all fun c => !bitOf v c || (decide (c < s.conf.cores) && !s.tenanted c)

/-- Whether an address is link-local (fe80::/10; log 76). -/
def linkLocal (a : Nat) : Bool := a % 256 == 0xFE && a / 256 % 256 / 64 == 2

/-- Whether the external wrapper may be enabled: in debug mode, or while no key manifest verifies; the production manifest, which is not
listed, has no bytes that verify (R409; log 83). -/
def State.wrapperOk (s : State) : Bool :=
  s.tru.dbgOn || (match s.slotInForce 4 with
  | none => true
  | some i => !s.rootSigned i.bytes)

/-- Whether the wrapper port's inputs are ignored and WSO is held at 0 (R409; log 83). -/
def State.wrapperShut (s : State) : Bool := s.obj (key 0x1303 0) != 1

/-- Writes of ports, start-up and network objects. -/
def State.writePorts (s : State) (index sub v : Nat) : Option (State × Nat) :=
  match index, sub with
  | 0x1300, 0 => some (s, stOk)
  | 0x1303, 0 => some (s.storeIf (v == 0 || s.wrapperOk) index sub v)
  | 0x4002, 0 => some (s.storeIf (linkLocal v) index sub v)
  | _, _ => if 0x1310 ≤ index ∧ index < 0x1310 + 29 ∧ sub = 5 then some (s, stOk) else none

/-- Writes of power, margin and containment objects. -/
def State.writePower (s : State) (index sub v : Nat) : Option (State × Nat) :=
  match index, sub with
  | 0x2000, 0 => some (s.setCooling v)
  | 0x2000, 2 => some (s.requestEnv v)
  | 0x2000, 3 => some (s.requestCap v)
  | 0x1000, 1 => some ((s.setObj (key 0x1000 1) v).refreshCores, stOk)
  | 0x5000, 6 => some (s.requestRelease v)
  | 0x5010, 4 => some (s.storeIf (s.poolOk v) index sub v)
  | _, _ =>
    if 0x2100 ≤ index ∧ index < 0x2140 then
      (match sub with
      | 1 => some (s.forceMargin (index - 0x2100) v)
      | 3 => some (s.pendMargin (index - 0x2100) v)
      | 7 => some (s.writeOffset (index - 0x2100) v)
      | _ => none)
    else if 0x5200 ≤ index ∧ index ≤ 0x5248 ∧ sub = 3 then some (s.requestSweep (index - 0x5200) v)
    else if 0x8000 ≤ index ∧ index < 0x8400 ∧ sub = 1 then some (s.forceMap (index - 0x8000) v)
    else if 0x8000 ≤ index ∧ index < 0x8400 ∧ sub = 2 then some (s.pendMap (index - 0x8000) v, stOk)
    else none

/-- Writes of tenancy, group and trust objects. -/
def State.writeTrust (s : State) (x : Tran) (v : Nat) : Option (State × Nat) :=
  match x.index, x.sub with
  | 0x7000, 4 => some (s.activate v)
  | 0x7010, 0 => some (s.openTransfer v)
  | 0x7010, 1 => some (s.verifyTransfer v)
  | 0x7011, 0 => some (s.takeChunk x.value)
  | 0xF000, 0 => some (s.writeDebug x.role v)
  | 0xF010, k => some (s.requestDrain k v x.tenant)
  | 0x6100, p => some (s.writeMode p v)
  | _, _ =>
    if 0x3100 ≤ x.index ∧ x.index < 0x3110 then
      (match x.sub with
      | 0 => some (s.writeTenant (x.index - 0x3100) v)
      | 5 => some (s.writeSnapArea (x.index - 0x3100) v)
      | 7 => some (s.writeSaved (x.index - 0x3100) v)
      | _ => none)
    else if 0x3180 ≤ x.index ∧ x.index < 0x3190 then some (s.moveRange (x.index - 0x3180) x.sub v)
    else if 0x3200 ≤ x.index ∧ x.index < 0x3240 ∧ x.sub = 0 then some (s.moveCore (x.index - 0x3200) v)
    else if 0x6000 ≤ x.index ∧ x.index < 0x6010 then some (s.writeGroup (x.index - 0x6000) x.sub v)
    else if 0x6040 ≤ x.index ∧ x.index < 0x6050 then some (s.writeRoute (x.index - 0x6040) x.sub v)
    else if 0x8000 ≤ x.index ∧ x.index < 0x8400 ∧ x.sub = 6 then some (s.moveQuads (x.index - 0x8000) v)
    else none

/-- A checked write takes effect: the state and the status (R380). -/
def State.applyWrite (s : State) (x : Tran) : State × Nat :=
  let v := ofLe x.value
  match s.writePorts x.index x.sub v with
  | some r => r
  | none => match s.writePower x.index x.sub v with
    | some r => r
    | none => match s.writeTrust x v with
      | some r => r
      | none => s.store x.index x.sub v

/-- A transaction: the state after it, its status, and the value that a successful read returns (R369, R380). -/
def State.tran (s : State) (x : Tran) : State × Nat × List Byte :=
  match s.tranStatus x with
  | some st => (s, st, [])
  | none =>
    if x.wr then
      (let r := s.applyWrite x
      (r.1, r.2, []))
    else (s, stOk, s.readBytes x.index x.sub)

/-- What a successful write does after its answer has been sent: a reset, or by a value of 1 a port reset (R410, R414). -/
def State.afterAnswer (s : State) (x : Tran) (status : Nat) : State :=
  if x.wr = false ∨ status ≠ stOk then s
  else if x.index = 0x1300 ∧ x.sub = 0 then s.requestReset (ofLe x.value)
  else if 0x1310 ≤ x.index ∧ x.index ≤ 0x1310 + 26 ∧ x.sub = 5 ∧ ofLe x.value = 1 then s.resetPort (x.index - 0x1310)
  else s

/-! ### Rate limits (R388, R389) -/

/-- Tokens of one bucket are counted in units of 10⁻⁸. -/
def tokenUnit : Nat := 100000000

/-- A bucket as of now. -/
def Bucket.refill (b : Bucket) (now rate burst : Nat) : Bucket :=
  { b with tokens := min (burst * tokenUnit) (b.tokens + rate * (now - b.last)), last := now }

/-- A token is taken from a bucket; whether there was one. -/
def Bucket.draw (b : Bucket) (now rate burst : Nat) : Bucket × Bool :=
  let r := b.refill now rate burst
  if tokenUnit ≤ r.tokens then ({ r with tokens := r.tokens - tokenUnit }, true) else (r, false)

/-- The bucket of a source of role M: its own, a new full one while fewer than 16 are tracked, or the shared one (none)
(log 28). -/
def State.bucketOf (s : State) (src : Nat) : Option Bucket :=
  match s.tracked.find? (fun b => b.src == src) with
  | some b => some { b with heard := s.now }
  | none => if s.tracked.length < 16 then some ⟨src, s.obj (key 0x1410 1) * tokenUnit, s.now, s.now⟩ else none

/-- A source that has a bucket has sent something, so that it keeps it (R388). -/
def State.hearSource (s : State) (src : Nat) : State :=
  { s with mg := { s.mg with buckets := s.tracked.map (fun b => if b.src = src then { b with heard := s.now } else b) } }

/-- The buckets of role M change: that of a tracked source, or the shared one. -/
def State.putBucket (s : State) (own : Bool) (b : Bucket) : State :=
  if own then { s with mg := { s.mg with buckets := s.tracked.filter (fun x => x.src != b.src) ++ [b] } }
  else { s with mg := { s.mg with shared := b } }

/-- A flood event (R390, class 0x190): kind 1 rate drop, 2 malformed, 3 neighbour-discovery excess. -/
def State.flood (s : State) (kind src : Nat) : State :=
  s.portEvent 26 0x190 0 (at_ kind 32 + ofBe ((leBytes 16 src).drop 12))

/-- A transaction of role M draws on its bucket: whether it may go on, and whether its drop is answered (R388). -/
def State.drawM (s : State) (src : Nat) : State × Bool × Bool :=
  let own := s.bucketOf src
  let r := (own.getD s.mg.shared).draw s.now (s.obj (key 0x1410 0)) (s.obj (key 0x1410 1))
  if r.2 then (s.putBucket own.isSome r.1, true, false)
  else
    let recent := s.mg.drops.filter (fun d => decide (s.now < d.2 + 100000))
    let first := !recent.any (fun d => d.1 == src)
    let s1 : State := { s with mg := { s.mg with drops := if first then recent ++ [(src, s.now)] else recent } }
    (((s1.putBucket own.isSome r.1).bump (key 0x1411 0) 1).flood 1 src, false, first)

/-- A DICT op draws on its tenant's bucket; a refusal is counted (R389). -/
def State.drawH (s : State) (t : Nat) : State × Bool :=
  let b := (s.mg.hBuckets.find? (fun b => b.src == t)).getD ⟨t, s.obj (key 0x1410 3) * tokenUnit, s.now, s.now⟩
  let r := b.draw s.now (s.obj (key 0x1410 2)) (s.obj (key 0x1410 3))
  let s1 : State := { s with mg := { s.mg with hBuckets := s.mg.hBuckets.filter (fun x => x.src != t) ++ [r.1] } }
  if r.2 then (s1, true) else (s1.bump (key (0x3100 + t) 10) 1, false)

/-! ### Datagrams (R376 to R382) -/

/-- Word 0 of a header (Table 15-4). -/
def dgW0 (mtype status index sub len : Nat) : Nat := at_ 1 60 + at_ mtype 56 + at_ status 48 + at_ index 32 + at_ sub 24 + len

/-- A message of the block. -/
def dgBytes (w0 w1 : Nat) (value : List Byte) : List Byte := leBytes 8 w0 ++ leBytes 8 w1 ++ value

/-- The block's own address: fe80::/64 and the interface identifier. -/
def State.ownAddress (s : State) : Nat := 0x80FE + s.obj (key 0x1400 1) * 2 ^ 64

/-- A datagram from the block's address, port and MAC address as they stand (R376). -/
def State.sends (s : State) (dst dport : Nat) (bs : List Byte) : Out :=
  .dgram s.ownAddress (s.obj (key 0x1400 0)) (s.obj (key 0x1400 2)) dst dport bs

/-- A RESPONSE (R379). -/
def respBytes (status index sub xid : Nat) (value : List Byte) : List Byte :=
  dgBytes (dgW0 3 status index sub value.length) (at_ xid 32) value

/-- The response to a WRITE is kept: the last 16 of each tracked source (R382). -/
def State.keep (s : State) (src xid w0 w1 : Nat) : State :=
  if s.tracked.any (fun b => b.src == src) then
    let ks := s.mg.kept.filter (fun k => decide (s.now < k.time + 100000000))
    let mine := ks.filter (fun k => k.src == src)
    let ks1 := ks.filter (fun k => k.src != src) ++ mine.drop (mine.length - 15)
    { s with mg := { s.mg with kept := ks1 ++ [⟨src, xid, BitVec.ofNat 64 w0, BitVec.ofNat 64 w1, s.now⟩] } }
  else s

/-- The kept response of a WRITE that is repeated. -/
def State.keptFor (s : State) (src xid : Nat) : Option Kept :=
  if s.tracked.any (fun b => b.src == src) then
    s.mg.kept.find? (fun k => k.src == src && k.xid == xid && decide (s.now < k.time + 100000000))
  else none

/-- A transaction of role M from RATE on, with its answer, which leaves from the address, port and MAC address before it (R379, R382, R388;
log 76). -/
def State.serveM (s : State) (src sport xid : Nat) (x : Tran) : State :=
  let d := s.drawM src
  if d.2.1 = false then
    (if d.2.2 then d.1.emit (s.sends src sport (respBytes stRate x.index x.sub xid [])) else d.1)
  else match (if x.wr then d.1.keptFor src xid else none) with
    | some k => d.1.emit (s.sends src sport (leBytes 8 k.w0.toNat ++ leBytes 8 k.w1.toNat))
    | none =>
      let r := d.1.tran x
      let s1 := r.1.emit (s.sends src sport (respBytes r.2.1 x.index x.sub xid r.2.2))
      let s2 := if x.wr then s1.keep src xid (dgW0 3 r.2.1 x.index x.sub 0) (at_ xid 32) else s1
      s2.afterAnswer x r.2.1

/-- A header that fails a check is answered with its status. -/
def State.answerBad (s : State) (dg : Datagram) (status w0 w1 : Nat) : State :=
  s.emit (s.sends dg.src dg.sport (respBytes status (fieldOf w0 47 32) (fieldOf w0 31 24) (w1 / 2 ^ 32) []))

/-- The sequence numbers of an EVENT. -/
def Flying.seqs (f : Flying) : List Nat := (List.range f.nrec).map (fun i => (f.seq + i) % 2 ^ 32)

/-- Records are retired and their capture slots freed; the loss record follows when its slot is free (R265, R280). -/
def State.retire (s : State) (qs : List Nat) : State :=
  let free := (s.con.capSeq.filter (fun c => qs.elem c.2)).map (fun c => c.1)
  ({ s with
    errs := { s.errs with unret := s.errs.unret.filter (fun u => !qs.elem u) }
    con := { s.con with
      capSeq := s.con.capSeq.filter (fun c => !qs.elem c.2)
      capBusy := s.con.capBusy.filter (fun i => !free.elem i) } } : State).flushLoss

/-- An EVACK (R387). -/
def State.takeEvack (s : State) (src w0 w1 : Nat) : State :=
  let xid := w1 / 2 ^ 32
  let n := fieldOf w0 31 24
  if src ≠ s.obj (key 0x4002 0) then s
  else match s.mg.fly.find? (fun f => f.xid == xid) with
    | none => s
    | some f =>
      let s1 : State := { s with mg := { s.mg with fly := s.mg.fly.filter (fun x => x.xid != xid) } }
      if f.isEvent ∧ f.seq = w1 % 2 ^ 32 ∧ f.nrec = n then s1.retire f.seqs
      else if f.isEvent = false ∧ n = 0 then s1
      else s

/-- Whether a datagram is for the block: link-local, its checksum right, to the block's one unicast address and port (R376). -/
def State.forBlock (s : State) (dg : Datagram) : Bool :=
  linkLocal dg.src && dg.sumOk && dg.dst == s.ownAddress && dg.dport == s.obj (key 0x1400 0)

/-- A datagram addressed to the block is answered with a header status, or served (R377 to R380). -/
def State.takeDatagram (s : State) (dg : Datagram) : State :=
  if dg.payload.length < 16 then (s.bump (key 0x1411 2) 1).flood 2 dg.src
  else
    let w0 := ofLe (dg.payload.take 8)
    let w1 := ofLe ((dg.payload.drop 8).take 8)
    let t := fieldOf w0 59 56
    let value := dg.payload.drop 16
    let len := fieldOf w0 15 0
    if fieldOf w0 63 60 ≠ 1 then s.answerBad dg stVersion w0 w1
    else if !(t == 1 || t == 2 || t == 5) ∨ value.length ≠ len ∨ (t ≠ 2 ∧ len ≠ 0) then s.answerBad dg stFormat w0 w1
    else if fieldOf w0 23 16 ≠ 0 then s.answerBad dg stReserved w0 w1
    else if t = 5 then s.takeEvack dg.src w0 w1
    else s.serveM dg.src dg.sport (w1 / 2 ^ 32) ⟨.m, 0, t == 2, fieldOf w0 47 32, fieldOf w0 31 24, value⟩

/-- A datagram at the management port: its source has been heard, and it is discarded or taken (R376, R388). -/
def State.datagram (s : State) (dg : Datagram) : State :=
  if s.up 26 = false then s
  else if s.forBlock dg then (s.hearSource dg.src).takeDatagram dg
  else s.hearSource dg.src

/-- WRITE: a READ or WRITE datagram at the management port (R379). -/
def execWrite (dg : Datagram) (s : State) : Host.Outcome State Fault Refusal := .next (s.datagram dg)

/-- EVACK: an acknowledgement at the management port (R387). -/
def execEvack (dg : Datagram) (s : State) : Host.Outcome State Fault Refusal := .next (s.datagram dg)

/-! ### Events and notices (R385, R386) -/

/-- The records not sent yet: from the one after the highest sent, at most seven with consecutive numbers. -/
def State.nextRecords (s : State) : List Nat :=
  let us := s.errs.unret.filter (fun u => decide ((u + 2 ^ 32 - s.mg.evNext) % 2 ^ 32 < 2 ^ 31))
  match us with
  | [] => []
  | a :: _ => (List.range 7).filterMap (fun i => if (us.take 7)[i]? = some ((a + i) % 2 ^ 32) then some ((a + i) % 2 ^ 32) else none)

/-- The contents of an EVENT or NOTICE. -/
def State.flyBytes (s : State) (f : Flying) : List Byte :=
  if f.isEvent then
    (let body := f.seqs.flatMap (fun q => leBytes 32 (sget ⟨0, 0, 0, 0⟩ s.errs.ring (q % 1024)).value)
    dgBytes (dgW0 4 0 0 f.nrec body.length) (at_ f.xid 32 + f.seq) body)
  else
    (let body := s.readBytes (f.key / 256) (f.key % 256)
    dgBytes (dgW0 6 0 (f.key / 256) (f.key % 256) body.length) (at_ f.xid 32) body)

/-- A message goes to the event destination. -/
def State.toHub (s : State) (f : Flying) : State := s.emit (s.sends (s.obj (key 0x4002 0)) (s.obj (key 0x4002 1)) (s.flyBytes f))

/-- A new message to the event destination, its XID taken, counted in 0x4002:04. -/
def State.sendNew (s : State) (f : Flying) : State :=
  let s1 : State := { s with mg := { s.mg with fly := s.mg.fly ++ [f], nextXid := (s.mg.nextXid + 1) % 2 ^ 32 } }
  (s1.toHub f).bump (key 0x4002 4) 1

/-- The NOTICE that may be sent next: the first waiting one whose object has none unacknowledged (R386). -/
def State.nextNotice (s : State) : Option Nat :=
  s.mg.notices.find? (fun k => !s.mg.fly.any (fun f => !f.isEvent && f.key == k))

/-- A NOTICE of an object no longer waits. -/
def State.noticed (s : State) (k : Nat) : State := { s with mg := { s.mg with notices := delN s.mg.notices k } }

/-- EVENT_SEND: a waiting NOTICE, else the next EVENT, within the in-flight limit (R385, R386). -/
def execEventSend (s : State) : Host.Outcome State Fault Refusal :=
  if s.up 26 = false ∨ s.obj (key 0x4002 3) ≤ s.mg.fly.length then .next s
  else match s.nextNotice with
    | some k => .next ((s.noticed k).sendNew ⟨s.mg.nextXid, false, 0, 0, k, s.now⟩)
    | none => match s.nextRecords with
      | [] => .next s
      | a :: r =>
        let n := r.length + 1
        .next (({ s with mg := { s.mg with evNext := (a + n) % 2 ^ 32 } } : State).sendNew ⟨s.mg.nextXid, true, a, n, 0, s.now⟩)

/-- EVENT_RETRY: a message not acknowledged within the retry interval is sent again (R385); a NOTICE carries the latest value, so that no
other one need follow it (R386). -/
def execEventRetry (xid : Nat) (s : State) : Host.Outcome State Fault Refusal :=
  match s.mg.fly.find? (fun f => f.xid == xid) with
  | none => .next s
  | some f =>
    if s.up 26 ∧ f.sent + s.obj (key 0x4002 2) ≤ s.now then
      let s1 : State := { s with mg := { s.mg with fly := s.mg.fly.map (fun x => if x.xid == xid then { x with sent := s.now } else x) } }
      let s2 := if f.isEvent then s1 else s1.noticed f.key
      .next ((s2.toHub f).bump (key 0x4002 5) 1)
    else .next s

/-- COALESCING_INTERVAL_EXPIRY: a key closes an interval after it opened (R264). -/
def execCoalescingIntervalExpiry (k : Nat) (s : State) : Host.Outcome State Fault Refusal :=
  match s.errs.keys[k]? with
  | none => .next s
  | some x =>
    if x.openedAt + s.obj (key 0x4000 3) ≤ s.now then
      .next (({ s with errs := { s.errs with keys := s.errs.keys.eraseIdx k } } : State).closeKey x)
    else .next s

/-! ### Neighbour discovery and echo (R376) -/

/-- One ICMPv6 answer within 100 a second; excess is a flood event (R390). -/
def State.answerIcmp (s : State) (src : Nat) (o : Out) : State :=
  let ts := s.mg.ndTimes.filter (fun t => decide (s.now < t + 100000000))
  let s1 : State := { s with mg := { s.mg with ndTimes := ts } }
  if ts.length < 100 then ({ s1 with mg := { s1.mg with ndTimes := ts ++ [s.now] } } : State).emit o else s1.flood 3 src

/-- NEIGHBOUR_SOLICITATION: answered for the block's address with its MAC address (R376). -/
def execNeighbourSolicitation (src target : Nat) (s : State) : Host.Outcome State Fault Refusal :=
  if s.up 26 ∧ linkLocal src ∧ target = s.ownAddress then
    .next ((s.hearSource src).answerIcmp src (.icmp 0 src 0 0 (leBytes 6 (s.obj (key 0x1400 2)))))
  else .next s

/-- ECHO_REQUEST: answered with the same data (R376). -/
def execEchoRequest (src dst ident seq : Nat) (data : List Byte) (s : State) : Host.Outcome State Fault Refusal :=
  if s.up 26 ∧ linkLocal src ∧ dst = s.ownAddress then .next ((s.hearSource src).answerIcmp src (.icmp 1 src ident seq data)) else .next s

/-! ### Commands that write one object -/

/-- A write transaction of a requester to one object: over the management port for role M, of TMON for role T, and of a DICT op
for role H, whose completion record answers it (R371, R384). -/
def State.request (s : State) (r : Req) (index sub : Nat) : State :=
  let x : Tran := ⟨r.role, r.tenant, true, index, sub, r.value⟩
  match r.role with
  | .m => if s.up 26 ∧ linkLocal r.src then s.serveM r.src r.sport r.xid x else s
  | .h =>
    let d := s.drawH r.tenant
    if d.2 then (d.1.tran x).1.afterAnswer x (d.1.tran x).2.1 else d.1
  | .t =>
    let t := s.tran x
    (t.1.emit (.tmon (key index sub) t.2.1)).afterAnswer x t.2.1

/-- ENVELOPE_STEP_UP_REQUEST (R341). -/
def execEnvelopeStepUpRequest (r : Req) (s : State) : Host.Outcome State Fault Refusal := .next (s.request r 0x2000 2)

/-- ENVELOPE_STEP_DOWN_REQUEST (R342). -/
def execEnvelopeStepDownRequest (r : Req) (s : State) : Host.Outcome State Fault Refusal := .next (s.request r 0x2000 2)

/-- COOLING_CLASS (R340). -/
def execCoolingClass (r : Req) (s : State) : Host.Outcome State Fault Refusal := .next (s.request r 0x2000 0)

/-- POWER_CAP (R344). -/
def execPowerCap (r : Req) (s : State) : Host.Outcome State Fault Refusal := .next (s.request r 0x2000 3)

/-- PENDING_MARGIN_STEP (R214). -/
def execPendingMarginStep (core : Nat) (r : Req) (s : State) : Host.Outcome State Fault Refusal := .next (s.request r (0x2100 + core) 3)

/-- MARGIN_STEP_IN_FORCE (R209). -/
def execMarginStepInForce (core : Nat) (r : Req) (s : State) : Host.Outcome State Fault Refusal := .next (s.request r (0x2100 + core) 1)

/-- PENDING_BYPASS_MAP (R84). -/
def execPendingBypassMap (n : Nat) (r : Req) (s : State) : Host.Outcome State Fault Refusal := .next (s.request r (0x8000 + n) 2)

/-- TENANT_STATE (R356). -/
def execTenantState (t : Nat) (r : Req) (s : State) : Host.Outcome State Fault Refusal := .next (s.request r (0x3100 + t) 0)

/-- CORE_OWNER (R358). -/
def execCoreOwner (core : Nat) (r : Req) (s : State) : Host.Outcome State Fault Refusal := .next (s.request r (0x3200 + core) 0)

/-- QUADRANT_OWNERS (R357). -/
def execQuadrantOwners (n : Nat) (r : Req) (s : State) : Host.Outcome State Fault Refusal := .next (s.request r (0x8000 + n) 6)

/-- BUFFER_RANGE (R359). -/
def execBufferRange (t sub : Nat) (r : Req) (s : State) : Host.Outcome State Fault Refusal := .next (s.request r (0x3180 + t) sub)

/-- DEBUG_MODE (R366). -/
def execDebugMode (r : Req) (s : State) : Host.Outcome State Fault Refusal := .next (s.request r 0xF000 0)

/-- TRANSFER_OPEN (R355). -/
def execTransferOpen (r : Req) (s : State) : Host.Outcome State Fault Refusal := .next (s.request r 0x7010 0)

/-- TRANSFER_CHUNK (R355). -/
def execTransferChunk (r : Req) (s : State) : Host.Outcome State Fault Refusal := .next (s.request r 0x7011 0)

/-- TRANSFER_VERIFY (R352). -/
def execTransferVerify (r : Req) (s : State) : Host.Outcome State Fault Refusal := .next (s.request r 0x7010 1)

/-- GFW_ACTIVATE (R353). -/
def execGfwActivate (r : Req) (s : State) : Host.Outcome State Fault Refusal := .next (s.request r 0x7000 4)

/-- COLD_RESET_REQUEST (R410). -/
def execColdResetRequest (r : Req) (s : State) : Host.Outcome State Fault Refusal := .next (s.request r 0x1300 0)

/-- WARM_RESET_REQUEST (R410). -/
def execWarmResetRequest (r : Req) (s : State) : Host.Outcome State Fault Refusal := .next (s.request r 0x1300 0)

/-- PORT_RESET (R410). -/
def execPortReset (q : Nat) (r : Req) (s : State) : Host.Outcome State Fault Refusal := .next (s.request r (0x1310 + q) 5)

/-- DRAIN_REQUEST (R171): the request slot of the requester's role. -/
def execDrainRequest (r : Req) (s : State) : Host.Outcome State Fault Refusal := .next (s.request r 0xF010 (2 * roleSlot r.role))

/-- DECK_PAUSE (R286). -/
def execDeckPause (r : Req) (s : State) : Host.Outcome State Fault Refusal := .next (s.request r 0x5000 4)

/-- RELEASE_REQUEST (R279). -/
def execReleaseRequest (r : Req) (s : State) : Host.Outcome State Fault Refusal := .next (s.request r 0x5000 6)

/-- SWEEP_REQUEST (R291). -/
def execSweepRequest (u : Nat) (r : Req) (s : State) : Host.Outcome State Fault Refusal := .next (s.request r (0x5200 + u) 3)

end Sys2Proof.Machine
end

