-- ==== Sys2Proof/Machine/Image.lean ====
section
/-! DEFINITION. Context images (spec/14_trust_and_context.md R361 to R365): what a SAVE writes and how a RESTORE checks,
maps and takes an image. -/

namespace Sys2Proof.Machine

/-! ### What is saved (R361, R362) -/

/-- The cores that a context op covers, as at its acceptance. -/
def Op.heldCores (o : Op) : List Nat := (o.held.map (· / 64)).eraseDups

/-- The quarters of an engine that a context op covers, as a mask. -/
def Op.heldMask (o : Op) (n : Nat) : Nat := sumN ((List.range 4).map (fun q => if o.held.elem (4 * n + q) then 2 ^ q else 0))

/-- The parts of an engine of which a mask of quarters is named: the whole engine, which is not split, or its quarters, ascending
(Table 14-5). -/
def engineParts (split : Bool) (qmask n : Nat) : List TileRef :=
  if !split && qmask == 15 then [⟨n, 0⟩] else ((List.range 4).filter (fun q => bitOf qmask q)).map (fun q => TileRef.mk n (4 + q))

/-- The parts of an engine that a SAVE saves. -/
def State.savedParts (s : State) (o : Op) (n : Nat) : List TileRef :=
  engineParts ((s.core (coreOf n)).split.elem (n % 16)) (o.heldMask n) n

/-- The cells of a part, rows and logical columns ascending: 32 columns a row, 16 in a quarter; zero beyond the presented
width. -/
def State.partCells (s : State) (tbl : Sparse Cell) (t : TileRef) : List Cell :=
  let cols := s.physCols t
  (List.range t.rows).flatMap fun r => (List.range (sideCols t.q).length).map fun j => match cols[j]? with
    | none => Cell.zero
    | some p => sget .zero tbl (regKey t.n (t.row0 + r) p)

/-- Bits as bytes, the first in bit 0 of the first byte. -/
def bitBytes (bs : List Bool) : List Byte :=
  (List.range (bs.length / 8)).map fun i =>
    BitVec.ofNat 8 (sumN ((List.range 8).map (fun j => bit (bs.getD (8 * i + j) false) * 2 ^ j)))

/-- The codes of cells. -/
def cellBytes (cs : List Cell) : List Byte := cs.flatMap (fun c => leBytes 2 c.code.toNat)

/-- The term bound of a part as a SAVE sees it in acceptance order (log 18). -/
def partTb (o : Op) (t : TileRef) : Nat :=
  maxN (t.quarters.map (fun k => ((o.tbs.find? (fun e => e.1 == k)).map (fun e => e.2.1)).getD 0))

/-- The mode of a code. -/
def modeOf (c : Nat) : TMode := if c = 1 then .sums else if c = 2 then .compare else .free

/-- The mode of a part as a SAVE sees it in acceptance order. -/
def partMode (o : Op) (t : TileRef) : Nat :=
  maxN (t.quarters.map (fun k => ((o.tbs.find? (fun e => e.1 == k)).map (fun e => modeCode e.2.2)).getD 0))

/-- A register in full form. -/
def fullBytes (r : LongReg) : List Byte := leBytes 72 r.n.toNat ++ leBytes 4 r.sideband

/-- A register in trimmed form. -/
def trimBytes (tb : Nat) (r : LongReg) : List Byte := (trim r tb).flatMap (fun w => leBytes 8 w.toNat)

/-- The registers of a part as a SAVE reads them, rows and logical columns ascending; a fault names the register's key (R254, R419). -/
def State.partRegs (s : State) (t : TileRef) (faults : List ReadFault) : List LongReg :=
  (s.tilePlaces t).map (fun p => ((s.reg p.2.2).read faults p.2.2).reg)

/-- The form of a part (R363, R364) and its register bytes: 0 full, 1 trimmed, 2 clear. -/
def State.partForm (s : State) (o : Op) (faults : List ReadFault) (t : TileRef) : Nat × List Byte :=
  let rs := s.partRegs t faults
  let tb := partTb o t
  let full := rs.flatMap fullBytes
  if s.conf = .d8 then (2, [])
  else if o.d.flag0 = false then (0, full)
  else if tb = 0 then (2, [])
  else
    let short := rs.flatMap (trimBytes tb)
    if full.length < short.length then (0, full) else (1, short)

/-- The shadow-written bits of an engine's rows, over the halves of the parts saved (Table 14-5 SWR). -/
def State.swrBits (s : State) (ts : List TileRef) : Nat :=
  sumN ((List.range 32).map fun r =>
    bit (ts.any (fun t => decide (t.row0 ≤ r) && decide (r < t.row0 + t.rows) &&
      (swrKeys t (r - t.row0)).any (fun k => s.swr.elem k))) * 2 ^ r)

/-- The word of a header with its CRC field filled in: the CRC covers the bytes with the field zero (R362). -/
def fillCrc (ws : List Nat) (word shift : Nat) (more : List Byte) : List Nat :=
  setAt ws word (ws.getD word 0 + crc32c (wordBytes ws ++ more) * 2 ^ shift)

/-- The engine record of the parts that a SAVE saves (Table 14-5). -/
def State.engineRecord (s : State) (o : Op) (faults : List ReadFault) (n : Nat) (ts : List TileRef) : List Byte :=
  let forms := ts.map (s.partForm o faults)
  let quarter (i : Nat) : Nat := match ts.findIdx? (fun t => (if t.q = 0 then 0 else t.q - 4) == i) with
    | none => 0
    | some j =>
      let t := ts.getD j ⟨n, 0⟩
      at_ (partMode o t) 62 + at_ (forms.getD j (2, [])).1 60 + partTb o t
  let regs := forms.flatMap (fun f => f.2)
  let qmask := sumN (ts.map (fun t => if t.q = 0 then 15 else 2 ^ (t.q - 4)))
  let w0 := at_ 1 60 + at_ (n % 16) 56 + at_ qmask 52 + at_ (s.bypass n) 20
  let ws := [w0, quarter 0, quarter 1, quarter 2, quarter 3, at_ (s.swrBits ts) 32 + regs.length, 0, 0]
  let st := ts.flatMap (s.partCells s.cells)
  let sh := ts.flatMap (s.partCells s.shadow)
  wordBytes (fillCrc ws 7 32 []) ++ cellBytes st ++ cellBytes sh ++ bitBytes ((st ++ sh).map (fun c => c.psn || !c.parityOk)) ++ regs

/-- The chain record of chain 4e + q (Table 14-4), with the weight set in force in acceptance order (R148, R362). -/
def State.chainRecord (s : State) (o : Op) (c i : Nat) : List Nat :=
  let e := i / 4
  let q := i % 4
  let split := (s.core c).split.elem e
  let ch : ChainId := ⟨c, e, if split then 4 + q else 0⟩
  let mine := if split then bitOf (o.heldMask (c * 16 + e)) q else q == 0 && o.heldMask (c * 16 + e) == 15
  match (if mine then o.sets.find? (fun x => x.1 == chainKey ch) else none) with
  | none => [0, 0]
  | some x => [at_ 1 63 + at_ x.2.fmt 59 + at_ x.2.n 35 + at_ x.2.n0 11, at_ x.2.k 32]

/-- A core section: the core header, its chain records, and the engine records (R362, Table 14-4). -/
def State.coreSection (s : State) (o : Op) (faults : List ReadFault) (c : Nat) : List Byte :=
  let engs := (List.range 16).flatMap fun e =>
    let ts := s.savedParts o (c * 16 + e)
    if ts = [] then [] else s.engineRecord o faults (c * 16 + e) ts
  let chains := wordBytes ((List.range 64).flatMap (s.chainRecord o c))
  let split := sumN ((s.core c).split.map (fun e => 2 ^ e))
  let ws := [at_ 1 60 + at_ c 54 + at_ (s.core c).shape 51 + at_ split 35 + at_ (bit (s.obj (key (0x3200 + c) 0) == 0xFE)) 34,
    64 + chains.length + engs.length, 0, 0, 0, 0, 0, 0]
  wordBytes (fillCrc ws 1 32 chains) ++ chains ++ engs

/-- A byte of an image with the poison of its unit and the port it leaves through (R111). -/
structure IByte where
  v : Byte
  psn : Bool
  q : Nat
deriving DecidableEq, Repr

/-- The buffer keys of the bytes of a tenant's space that a SAVE reads in a cluster: the first ones, no further than the space goes
(R348, R361). -/
def State.savedKeys (s : State) (t cl : Nat) : List Nat :=
  (List.range (min (s.obj (key (0x3100 + t) 7)) (s.spanNow t cl).2)).map (fun i => bufAddr cl ((s.spanNow t cl).1 + i))

/-- The saved buffer bytes of a cluster. -/
def State.savedBuffer (s : State) (o : Op) (cl : Nat) : List IByte :=
  (s.savedKeys o.d.tenant cl).map (fun a => IByte.mk (s.buf.byte a) (s.buf.readPsn a) (s.imagePort o cl))

/-- The image header (Table 14-3). -/
def State.imageHeader (s : State) (o : Op) (len : Nat) : List Byte :=
  let t := o.d.tenant
  let cs := o.heldCores
  let serial := s.obj (key 0x0004 0)
  let ws := [at_ 1 60 + at_ 8 56 + at_ t 52 + at_ (bit o.d.flag0) 51 + at_ (bit (s.conf == .d8)) 50 + at_ s.conf.clusters 40 +
      at_ cs.length 32, len, s.now,
    at_ (s.obj (key (0x3100 + t) 1)) 48 + at_ (s.obj (key (0x3100 + t) 2)) 40, sumN (cs.map (fun c => 2 ^ c)),
    serial % 2 ^ 64, serial / 2 ^ 64, s.obj (key (0x3100 + t) 7), 0, 0, 0, 0, 0, 0, 0, 0]
  wordBytes (fillCrc ws 0 0 [])

/-- The image of a tenant (R362). DESIGN CHOICE: the units of headers and core sections leave with PSN 0, the poison of weights and
registers being in their bitmap and sidebands (log 97). -/
def State.image (s : State) (o : Op) (faults : List ReadFault) : List IByte :=
  let sects := o.heldCores.flatMap fun c => (s.coreSection o faults c).map (fun b => IByte.mk b false (s.imagePort o (c / 8)))
  let bufs := o.clusters.flatMap (s.savedBuffer o)
  let head := s.imageHeader o (128 + sects.length + bufs.length)
  head.map (fun b => ⟨b, false, (s.imagePorts o).headD 1⟩) ++ sects ++ bufs

/-- Whether an image carries poison (R260): a register's, a weight's or a buffer unit's. -/
def State.imagePoison (s : State) (o : Op) (faults : List ReadFault) : Bool :=
  (o.heldCores.any fun c => (List.range 16).any fun e => (s.savedParts o (c * 16 + e)).any fun x =>
    (s.partCells s.cells x ++ s.partCells s.shadow x).any (fun k => k.psn || !k.parityOk) ||
      ((s.partForm o faults x).1 != 2 && (s.partRegs x faults).any (fun r => r.poison))) ||
    (o.clusters.any fun cl => (s.savedBuffer o cl).any (fun b => b.psn))

/-- The entry of an image kept by an op that holds its length in bytes. -/
def imgLenKey : Nat := 2 ^ 33

/-- An image as its SAVE keeps it: its length, and of line `i` the data at `i`, its poison bits by byte and its port at 2^32 + `i`. -/
def packImage (bs : List IByte) : List (Nat × BitVec 512) :=
  (imgLenKey, BitVec.ofNat 512 bs.length) :: (List.range (ceilDiv bs.length 64)).flatMap fun i =>
    let l := (bs.drop (64 * i)).take 64
    [(i, BitVec.ofNat 512 (ofLe (l.map (fun b => b.v)))),
     (2 ^ 32 + i, BitVec.ofNat 512 (sumN (l.zipIdx.map (fun b => bit b.1.psn * 2 ^ b.2)) + (l.headD ⟨0, false, 1⟩).q * 2 ^ 64))]

/-- A number that an op keeps with its image. -/
def Op.imgKept (o : Op) (k : Nat) : Nat := ((o.img.find? (fun e => e.1 == k)).map (fun e => e.2.toNat)).getD 0

/-- The port of a line of a kept image. -/
def Op.imgPort (o : Op) (i : Nat) : Nat := o.imgKept (2 ^ 32 + i) / 2 ^ 64

/-- The bytes of a line of a kept image, at their offsets. -/
def Op.imgBytes (o : Op) (i : Nat) : List TByte :=
  (List.range (min 64 (o.imgKept imgLenKey - 64 * i))).map fun k =>
    ⟨64 * i + k, BitVec.ofNat 8 (o.imgKept i / 2 ^ (8 * k)), bitOf (o.imgKept (2 ^ 32 + i)) k⟩

/-- Lines of a kept image. -/
def Op.imgTotal (o : Op) : Nat := ceilDiv (o.imgKept imgLenKey) 64

/-- The lines of the image that may leave now, from line `i` on, as far as credits allow; at most `fuel` lines. -/
def State.sendImage (s : State) (id i : Nat) : Nat → State × Nat
  | 0 => (s, i)
  | k + 1 => match s.op? id with
    | none => (s, i)
    | some o =>
      let q := o.imgPort i
      let abs := (o.imgBytes i).map (fun b => { b with off := refAddr o.d.w5 + b.off })
      if i < o.imgTotal ∧ s.up q ∧ 1 ≤ (s.port q).cr then
        (s.sendWrites q o ((linesOf abs).map (fun l => lineWrite l abs o.d))).sendImage id (i + 1) k
      else (s, i)

/-- One cell that a SAVE reads: a parity failure is counted and recorded at the port that takes it (R249, R251; log 87). -/
def State.savedCell (s : State) (tenant q : Nat) (t : TileRef) (row j : Nat) (k : Cell) : State :=
  if k.parityOk then s
  else (s.bump (key 0x4001 0) 1).event
    ⟨0x001, 2, portUnit q, portLoc q, some (t.row0 + row, (s.physCols t).getD j 0), some tenant, 0⟩

/-- The checks of a part that a SAVE reads: its stationary and shadow cells, and its registers unless it is saved clear. -/
def State.savedPart (s : State) (o : Op) (faults : List ReadFault) (t : TileRef) : State :=
  let q := s.imagePort o t.cluster
  let wide := (sideCols t.q).length
  let cells (s : State) (cs : List Cell) : State :=
    cs.zipIdx.foldl (fun s c => s.savedCell o.d.tenant q t (c.2 / wide) (c.2 % wide) c.1) s
  let s1 := cells (cells s (s.partCells s.cells t)) (s.partCells s.shadow t)
  if (s.partForm o faults t).1 = 2 then s1
  else (s.tilePlaces t).foldl (fun s p => s.checkRead o p.2.2 t faults p.2.2) s1

/-- The checks of all that a SAVE reads, as it begins (R249, R251, R252, R254). -/
def State.savedChecks (s : State) (o : Op) (faults : List ReadFault) : State :=
  let s1 := o.heldCores.foldl (fun s c => (List.range 16).foldl (fun s e =>
    (s.savedParts o (c * 16 + e)).foldl (fun s x => s.savedPart o faults x) s) s) s
  o.clusters.foldl (fun s cl =>
    s.parityEvents (some o.d.tenant) ⟨portUnit (s.imagePort o cl), portLoc (s.imagePort o cl)⟩ (s.savedKeys o.d.tenant cl)) s1

/-- SAVE begins: all that it covers is read and checked once, and the image is what those reads give (R361, R362, R419). -/
def State.beginSave (s : State) (o : Op) (faults : List ReadFault) : State :=
  let s1 := s.savedChecks o faults
  s1.mapOp o.id (fun p => { p with
    img := packImage (s1.image o faults)
    got := 1
    poisoned := p.poisoned || s1.imagePoison o faults })

/-- SAVE at work: the lines of its image leave in order; `got` counts those that have left, plus one. -/
def State.workSave (s : State) (o : Op) (faults : List ReadFault) : State :=
  let s1 := if o.got = 0 then s.beginSave o faults else s
  match s1.op? o.id with
  | none => s1
  | some p =>
    let r := s1.sendImage o.id (p.got - 1) p.imgTotal
    r.1.mapOp o.id (fun x => { x with got := r.2 + 1, fin := decide (p.imgTotal ≤ r.2) })

/-! ### Reading an image (R365) -/

/-- A word of an image at a byte offset. -/
def imgAt (bs : List Byte) (off : Nat) : W64 := BitVec.ofNat 64 (ofLe ((bs.drop off).take 8))

/-- Whether the CRC of `n` bytes at an offset holds, the 4-byte field at `field` being taken as zero. -/
def crcHolds (bs : List Byte) (off n field : Nat) : Bool :=
  let h := (bs.drop off).take n
  let z := h.take field ++ [0, 0, 0, 0] ++ h.drop (field + 4)
  h.length == n && crc32c z == ofLe ((h.drop field).take 4)

/-- An engine record: engine, quarter mask, bypass map, quarter words, shadow-written bits, register bytes, and the offset of
the weights. -/
structure EngRec where
  eng : Nat
  qmask : Nat
  bypass : Nat
  quarters : List W64
  swr : Nat
  rlen : Nat
  off : Nat
deriving DecidableEq, Repr

/-- A core section: its number, shape, splits, whether shared, the offset of its chain records, its engine records. -/
structure Section where
  core : Nat
  shape : Nat
  split : Nat
  shared : Bool
  chains : Nat
  engines : List EngRec
deriving DecidableEq, Repr

/-- Cells of an engine record: 256 for each quarter. -/
def recCells (qmask : Nat) : Nat := 256 * ((List.range 4).filter (fun q => bitOf qmask q)).length

/-- The engine records of a section, up to its end; none where a header fails. -/
def readEngines (bs : List Byte) (off end_ : Nat) : Nat → Option (List EngRec)
  | 0 => if off = end_ then some [] else none
  | k + 1 =>
    if off = end_ then some []
    else if end_ < off + 64 ∨ crcHolds bs off 64 60 = false ∨ fld (imgAt bs off) 63 60 ≠ 1 then none
    else
      let w := imgAt bs off
      let e := fld w 59 56
      let r : EngRec := ⟨e, fld w 55 52, fld w 51 20, (List.range 4).map (fun i => imgAt bs (off + 8 + 8 * i)),
        fld (imgAt bs (off + 40)) 63 32, fld (imgAt bs (off + 40)) 31 0, off + 64⟩
      let cells := recCells r.qmask
      (readEngines bs (off + 64 + 4 * cells + cells / 4 + r.rlen) end_ k).map (fun l => r :: l)

/-- The core sections of an image from an offset, and the offset after them. -/
def readSections (bs : List Byte) (off : Nat) : Nat → Option (List Section × Nat)
  | 0 => some ([], off)
  | k + 1 =>
    let w := imgAt bs off
    let slen := fld (imgAt bs (off + 8)) 31 0
    if crcHolds bs off 1088 12 = false ∨ fld w 63 60 ≠ 1 ∨ slen < 1088 then none
    else match readEngines bs (off + 1088) (off + slen) 16 with
      | none => none
      | some es =>
        (readSections bs (off + slen) k).map fun r =>
          (⟨fld w 59 54, fld w 53 51, fld w 50 35, bitOf w.toNat 34, off + 64, es⟩ :: r.1, r.2)

/-- An image as read: its sections, BSAVE, the offset of the buffer bytes, FLOOR and POLICY. -/
structure ImgRead where
  sects : List Section
  bsave : Nat
  bufOff : Nat
  floor : Nat
  policy : Nat
deriving DecidableEq, Repr

/-- Reads an image; none when an HCRC fails, VER, KIND or CONF differs, or its parts do not fit together (R365, Table 15-8). -/
def readImage (conf : Conf) (bs : List Byte) : Option ImgRead :=
  let w0 := imgAt bs 0
  if crcHolds bs 0 128 0 = false ∨ fld w0 63 60 ≠ 1 ∨ fld w0 59 56 ≠ 8 ∨ fld w0 47 40 ≠ conf.clusters then none
  else match readSections bs 128 (fld w0 39 32) with
    | none => none
    | some r =>
      let b := (imgAt bs 56).toNat
      if bs.length < r.2 + b * ((r.1.map (fun x => x.core / 8)).eraseDups).length then none
      else some ⟨r.1, b, r.2, fld (imgAt bs 24) 63 48, fld (imgAt bs 24) 47 40⟩

/-- A group of sections by cluster, clusters ascending as the sections stand. -/
def byCluster {α : Type} (f : α → Nat) (l : List α) : List (List α) :=
  ((l.map f).eraseDups).map (fun c => l.filter (fun x => f x == c))

/-- The pairs of sections and target cores by rank; none when the numbers differ (R365). -/
def pairCores (o : Op) (im : ImgRead) : Option (List (Section × Nat)) :=
  let a := byCluster (fun (x : Section) => x.core / 8) im.sects
  let b := byCluster (fun (c : Nat) => c / 8) o.heldCores
  if a.map (fun l => l.length) = b.map (fun l => l.length) then some (a.flatMap id |>.zip (b.flatMap id)) else none

/-- The presented width that a bypass map leaves to a part. -/
def mapWidth (bypass q : Nat) : Nat := ((sideCols q).filter (fun c => !bitOf bypass c)).length

/-- Whether a section fits its target core (R365). -/
def State.sectFits (s : State) (o : Op) (x : Section) (c : Nat) : Bool :=
  x.shared == (s.obj (key (0x3200 + c) 0) == 0xFE) &&
    (List.range 16).all fun e =>
      let n := c * 16 + e
      match x.engines.find? (fun r => r.eng == e) with
      | none => o.heldMask n == 0
      | some r => r.qmask == o.heldMask n && (engineParts (bitOf x.split e) r.qmask n).all (fun p => decide (mapWidth r.bypass p.q ≤ s.width p))

/-- The saved registers of a part from an offset on, each with whether one of its lines could not be corrected, and the offset after
them: in full form 76 bytes each, else trimmed longs; none for a trimmed long that is not well-formed (R55). -/
def readRegs (bs : List Byte) (bad : Nat → Bool) (form : Nat) (off : Nat) : Nat → List (Option LongReg × Bool) × Nat
  | 0 => ([], off)
  | k + 1 =>
    let n := if form = 0 then 76 else 8 * (1 + trimCount (imgAt bs off))
    let v :=
      if form = 0 then
        let sb := ofLe ((bs.drop (off + 72)).take 4)
        some ⟨BitVec.ofNat 576 (ofLe ((bs.drop off).take 72)), bitOf sb 0, bitOf sb 1, bitOf sb 2, bitOf sb 3,
          BitVec.ofNat 7 (sb / 2 ^ 8), BitVec.ofNat 8 (sb / 2 ^ 16)⟩
      else (untrim ((List.range (n / 8)).map (fun i => imgAt bs (off + 8 * i)))).map (fun x => x.reg)
    let r := readRegs bs bad form (off + n) k
    ((v, (List.range n).any (fun i => bad (off + i))) :: r.1, r.2)

/-- A part of a record ready to be taken: tile, saved width, stationary and shadow cells, registers as `readRegs` gives them, term bound,
mode. -/
structure PartRead where
  t : TileRef
  w : Nat
  st : List Cell
  sh : List Cell
  regs : List (Option LongReg × Bool)
  tb : Nat
  mode : Nat
deriving DecidableEq, Repr

/-- `n` cells at an offset, with their poison bits from bit `pb` of the bitmap at `map`; `bad` names bytes of lines that could
not be corrected (R250). -/
def readCells (bs : List Byte) (bad : Nat → Bool) (off map pb n : Nat) : List Cell :=
  (List.range n).map fun i =>
    let p := (bs.getD (map + (pb + i) / 8) 0).getLsbD ((pb + i) % 8)
    Cell.make (BitVec.ofNat 16 (ofLe ((bs.drop (off + 2 * i)).take 2))) (p || bad (off + 2 * i))

/-- The parts of an engine record on a target engine, from the register offset on. -/
def readParts (bs : List Byte) (bad : Nat → Bool) (r : EngRec) (total : Nat) : List TileRef → Nat → Nat → List PartRead
  | [], _, _ => []
  | t :: ts, done, roff =>
    let cells := t.rows * (sideCols t.q).length
    let w := mapWidth r.bypass t.q
    let h := r.quarters.getD (if t.q = 0 then 0 else t.q - 4) 0
    let form := fld h 61 60
    let map := r.off + 4 * total
    let x := if form = 2 then ([], roff) else readRegs bs bad form roff (t.rows * w)
    ⟨t, w, readCells bs bad (r.off + 2 * done) map done cells, readCells bs bad (r.off + 2 * total + 2 * done) map (total + done) cells,
      x.1, fld h 48 0, fld h 63 62⟩ :: readParts bs bad r total ts (done + cells) x.2

/-- The engine records of a section as parts on the engines of its target core. -/
def readSection (bs : List Byte) (bad : Nat → Bool) (x : Section) (c : Nat) : List (EngRec × List PartRead) :=
  x.engines.map fun r =>
    let cells := recCells r.qmask
    (r, readParts bs bad r cells (engineParts (bitOf x.split r.eng) r.qmask (c * 16 + r.eng)) 0 (r.off + 4 * cells + cells / 4))

/-- Cells placed in a table by row and logical column. -/
def State.placeCells (s : State) (tbl : Sparse Cell) (t : TileRef) (cs : List Cell) : Sparse Cell :=
  let cols := s.physCols t
  let wide := (sideCols t.q).length
  cs.zipIdx.foldl (fun m c => match cols[c.2 % wide]? with
    | none => m
    | some p => sset .zero m (regKey t.n (t.row0 + c.2 / wide) p) c.1) tbl

/-- A part takes its saved content. A register whose trimmed long is not well-formed keeps what it held before the RESTORE, in `old`
(R55); one that fails the residue check takes POISON (Table 10-2). -/
def State.takePart (s old : State) (tenant : Nat) (p : PartRead) : State :=
  let places := (s.tilePlaces p.t).filter (fun x => decide (x.2.1 < p.w))
  let s1 : State := { s with cells := s.placeCells s.cells p.t p.st, shadow := s.placeCells s.shadow p.t p.sh }
  let s2 := (places.zip p.regs).foldl (fun s x =>
    (s.setReg x.1.2.2 (old.reg x.1.2.2)).restoreReg tenant 7 p.t x.1.2.2 x.2.1 x.2.2) s1
  s2.mapTile p.t (fun q => { q with tb := p.tb, mode := modeOf p.mode })

/-- The shadow-written bits of an engine's parts. -/
def State.takeSwr (s : State) (swr : Nat) (ts : List TileRef) : State :=
  { s with swr := ts.foldl (fun l t => (List.range t.rows).foldl (fun l r =>
      if bitOf swr (t.row0 + r) then (swrKeys t r).foldl insN l else l) l) s.swr }

/-- The chain that a chain record of a core stands for. -/
def recChain (c split i : Nat) : ChainId := ⟨c, i / 4, if bitOf split (i / 4) then 4 + i % 4 else 0⟩

/-- A chain gets its weight set: pending in the shadow while any of its rows is marked written there, else in the stationary
registers (R134, log 37). -/
def State.takeChain (s : State) (id : Nat) (ch : ChainId) (w0 w1 : W64) : State :=
  let dep := s.chainDepth ch
  let lid : LoadId := ⟨id, 0⟩
  let ws : WSet := ⟨lid, fld w0 62 59, fld w1 63 32, fld w0 58 35, fld w0 34 11⟩
  let rows := (List.range ((if ch.quarter = 0 then dep else 1) * engRows ch)).filter fun r =>
    (swrKeys ⟨chainEng ch (r / engRows ch), ch.quarter⟩ (r % engRows ch)).any (fun k => s.swr.elem k)
  let st := s.chain ch
  if rows = [] then s.setChain ch { st with ws := some ws, cur := some lid }
  else s.setChain ch { st with ws := some ws, pend := some ⟨lid, rows, rows, s.chainWidth ch (if ch.quarter = 0 then dep else 1), []⟩ }

/-- The weight sets in force of a section. -/
def State.takeChains (s : State) (id : Nat) (bs : List Byte) (x : Section) (c : Nat) : State :=
  (List.range 64).foldl (fun s i =>
    let w0 := imgAt bs (x.chains + 16 * i)
    if bitOf w0.toNat 63 then s.takeChain id (recChain c x.split i) w0 (imgAt bs (x.chains + 16 * i + 8)) else s) s

/-- The splits that a core has after a section: on a core of the tenant those of the section; on a shared core, engine by engine, those
of the section where the tenant owns the whole engine, else split as it or the section has it (R365; log 97). -/
def State.splitAfter (s : State) (o : Op) (x : Section) (c : Nat) : List Nat :=
  (List.range 16).filter fun e =>
    let now := (s.core c).split.elem e
    if x.shared then (match o.heldMask (c * 16 + e) with
      | 0 => now
      | 15 => bitOf x.split e
      | _ => now || bitOf x.split e)
    else bitOf x.split e

/-- Whether the engines of a shared core whose arrangement a section changes are idle, but for weights of the tenant's own (R81, R96). -/
def State.sectFree (s : State) (o : Op) (x : Section) (c : Nat) : Bool :=
  !x.shared || (List.range 16).all fun e =>
    (s.core c).split.elem e == (s.splitAfter o x c).elem e || s.chains.all fun h =>
      !s.chainHas h.1 (c * 16 + e) || h.2.fly == [] && h.2.held == [] &&
        (o.held.elem (4 * (c * 16 + e) + (h.1 % 8 - 4)) || h.2.pend.isNone && h.2.nxt.isNone)

/-- A core takes a section; a shared core keeps its shape, and the arrangement of the other tenants' engines. -/
def State.takeSection (s old : State) (o : Op) (bs : List Byte) (x : Section) (c : Nat) (ps : List (EngRec × List PartRead)) : State :=
  let s1 := s.setCore c ⟨if x.shared then (old.core c).shape else x.shape, old.splitAfter o x c⟩
  let s2 := ps.foldl (fun s r =>
    let s3 := r.2.foldl (fun s p => s.takePart old o.d.tenant p) s
    s3.takeSwr r.1.swr (r.2.map (fun p => p.t))) s1
  s2.takeChains o.id bs x c

/-- A part is cleared: weights, shadow-written bits, registers, term bound and mode; its chains lose their sets. -/
def State.clearPart (s : State) (t : TileRef) : State :=
  let ins (k : Nat) : Bool := k / 1024 == t.n && (t.q == 0 || t.quarters.elem (quarterOfReg k))
  let sk := (List.range t.rows).flatMap (swrKeys t)
  { s with
    cells := s.cells.filter (fun e => !ins e.1)
    shadow := s.shadow.filter (fun e => !ins e.1)
    regs := s.regs.filter (fun e => !ins e.1)
    swr := s.swr.filter (fun k => !sk.elem k)
    tiles := s.tiles.filter (fun e => !t.quarters.elem e.1)
    chains := emptyChains s.chains (fun k => if k % 8 = 0 then s.chainHas k t.n else k / 128 * 16 + k / 8 % 16 == t.n && (t.q == 0 || k % 8 == t.q)) }

/-- The parts of a core that a context op covers, as the core is arranged. -/
def State.heldParts (s : State) (o : Op) (c : Nat) : List TileRef :=
  (List.range 16).flatMap (fun e => s.savedParts o (c * 16 + e))

/-- Every core of a tenant is left as after a move; on a shared core, the tenant's quadrants (R358, R365). -/
def State.clearHeld (s : State) (o : Op) : State :=
  o.heldCores.foldl (fun s c =>
    if s.obj (key (0x3200 + c) 0) = 0xFE then (s.heldParts o c).foldl (fun s p => s.clearPart p) s else s.clearCore c) s

/-- The saved buffer bytes go to the tenant's spaces, clusters by rank (R365); what a space does not hold is left out. -/
def State.takeBuffers (s : State) (o : Op) (im : ImgRead) (bs : List Byte) (bad : Nat → Bool) : State :=
  o.clusters.zipIdx.foldl (fun s c =>
    let sp := s.spanNow o.d.tenant c.1
    let off := im.bufOff + im.bsave * c.2
    let n := min im.bsave sp.2
    { s with buf := s.buf.write ((List.range n).map (fun i => ⟨bufAddr c.1 (sp.1 + i), bs.getD (off + i) 0, bad (off + i)⟩)) }) s

/-- The image that a RESTORE has read, and the bytes that lie in lines that could not be corrected. -/
def restoreBytes (o : Op) : List Byte × (Nat → Bool) :=
  let n := ceilDiv o.d.w2.toNat 64
  let line (i : Nat) : BitVec 512 := ((o.img.find? (fun e => e.1 == i)).map (fun e => e.2)).getD 0
  (((List.range n).flatMap (fun i => leBytes 64 (line i).toNat)).take o.d.w2.toNat, fun b => o.img.any (fun e => e.1 == 2 ^ 32 + b / 64))

/-- The planner's state of tiles and weight sets follows for the ops accepted after a RESTORE, in acceptance order (log 77). -/
def State.replanLater (s : State) (id t : Nat) : State :=
  (s.ops.filter (fun p => decide (id < p.id) && !p.k.ghost && p.d.tenant == t)).foldl (fun s p =>
    (s.planTiles p.k p.d p.rd).planSets p) s

/-- What a RESTORE has read and where it goes: the image with its sections and their target cores; none when it fails (R365). -/
def State.restorePlan (s : State) (o : Op) : Option (ImgRead × List (Section × Nat)) :=
  (readImage s.conf (restoreBytes o).1).bind fun im => (pairCores o im).bind fun ps =>
    if ps.all (fun p => s.sectFits o p.1 p.2) then some (im, ps) else none

/-- A RESTORE takes effect: the image is checked, mapped and taken, or the cores are left as after a move and the op fails
(R365; log 50). -/
def State.doRestore (s : State) (o : Op) : State :=
  let t := o.d.tenant
  let x := restoreBytes o
  match s.restorePlan o with
  | none => ((s.clearHeld o).replanLater o.id t).mapOp o.id (fun p => { p with failed := true })
  | some (im, l) =>
    let s1 := l.foldl (fun a p => a.takeSection s o x.1 p.1 p.2 (readSection x.1 x.2 p.1 p.2)) (s.clearHeld o)
    let s2 := s1.takeBuffers o im x.1 x.2
    let s3 := if s2.epochLive t im.floor then s2.setObj (key (0x3100 + t) 1) im.floor else s2
    (s3.setObj (key (0x3100 + t) 2) im.policy).replanLater o.id t

end Sys2Proof.Machine
end

