-- ==== Sys2Proof/Machine/Deliver.lean ====
section
/-! DEFINITION. The delivery of an op (R202): when all its effects are complete, its completion record is formed; ops that a
squash or fence has stopped (R229, R237), fences (R142, R237, R240), owner ops and their results (R313), contributions and
collections (R314), context ops (R361), dictionary ops (R384), ballast (R336). -/

namespace Sys2Proof.Machine

/-! ### When an op is done -/

/-- Whether flits that a condition names are still owed, sent or waiting, on a cascade port (R240; log 80). -/
def State.flitsOut (s : State) (f : Flight → Bool) : Bool :=
  (List.range 8).any fun p => (s.port (17 + p)).fly.any f || (s.port (17 + p)).wait.any (fun w => f w.1)

/-- Whether a flight belongs to an op that a condition names. -/
def Flight.ofOp (x : Flight) (f : Nat → Bool) : Bool := decide (x.n ≠ 0) && x.op.any f

/-- Whether an earlier op of a FENCE's tenant that a condition names is outstanding. -/
def State.earlier (s : State) (o : Op) (f : Op → Bool) : Bool :=
  s.ops.any fun p => decide (p.id < o.id) && !p.k.ghost && p.d.tenant == o.d.tenant && f p

/-- Whether flits of the ops before a quiesce FENCE are still to be returned by its tenant's peers (R240). -/
def State.flitsBefore (s : State) (o : Op) : Bool :=
  s.flitsOut (fun x => x.tenant == some o.d.tenant && x.ofOp (fun i => decide (i < o.id)))

/-- An array op has made all its loads, added its last sum and moved every register of its spine set (R202, R113). -/
def State.arrayDone (s : State) (o : Op) : Bool :=
  !o.cut && (o.d.spinen == 0 || o.chains.zipIdx.all (fun c =>
    (List.range o.d.m).all (fun m => !spinePending o (coreIdx o.d c.2) (c.2 % o.d.nchain) m (s.opCols o c.1 c.2))))

/-- Frames of results that cover a range (R304, R313). -/
def resultCount (d : Desc) : Nat := (framesOf 0 d.elems (frameElems d)).length

/-- Whether every effect of an op is complete, but for writes that the fabric has not accepted; of the kinds that other
commands or other definitions end, never. -/
def State.effectsDone (s : State) (o : Op) : Bool :=
  match o.k with
  | .loadw => s.arrayDone o
  | .stream => s.arrayDone o
  | .scan => s.arrayDone o
  | .mpass => s.arrayDone o
  | .preload => s.partsDone o
  | .drain => s.partsDone o
  | .contrib => o.fin || (o.ackc == some 0 && decide (resultCount o.d ≤ leading o))
  | .collection => o.fin || decide (resultCount o.d ≤ leading o)
  | .trimmed => o.fin
  | .retract => o.fin
  | .fenceOrder => !s.earlier o (fun p => fenceMeets s.conf o p)
  | .fenceEpoch => !s.ops.any (fun p => o.waits.elem p.id && p.k != .tagged && p.k != .clear)
  | .fenceQuiesce => !s.earlier o (fun p => fenceMeets s.conf o p) && !s.flitsBefore o
  | .ballast => decide (o.start + 256 * o.d.dur ≤ 256 * s.now)
  | _ => false

/-! ### The end of a delivery -/

/-- A provisional contribution that is HELD has delivered, and stays known until its region closes (R314, R317). -/
def staysTagged (o : Op) : Bool := (o.k == .contrib || o.k == .trimmed) && o.d.prov && o.ackc == some 1 && !o.failed && o.ending.isNone

/-- An op delivers: a tagged contribution keeps its place for a withdrawal, any other op leaves the op table. -/
def State.deliver (s : State) (o : Op) : State :=
  if staysTagged o then
    let r := completion o (s.statusOf o) (s.stallOf o) (s.elapsed o)
    let s1 := (s.mapOp o.id (fun p => { p with k := .tagged })).dropJobs (fun j => j.op == o.id)
    if o.id < s.adm.mute then s1 else s1.respond r
  else s.finishOp o (s.statusOf o)

/-- A DRAIN cut short clears the rows that it has not read and that earlier ops have finished with; after the last of them nothing of it is
left (R154). -/
def State.workClear (s : State) (o : Op) : State :=
  let rows := (s.unread o).filter (fun x => s.rowOpen o ⟨x.2.1.t, x.2.2⟩)
  let s1 := if rows = [] then s else (s.clearRows o rows).mapOp o.id (fun p => { p with rows := clearedRows o rows })
  if s1.unread { o with rows := clearedRows o rows } = [] then s1.dropOp o.id else s1

/-- What waits for deliveries goes on: rows to be cleared (R154), confirmations of reduced allotments (R301), regions that close (R229),
buffer ranges that move (R358). -/
def State.settle (s : State) : State :=
  let s1 := (s.ops.filter (fun o => o.k == .clear)).foldl (fun s o => s.workClear o) s
  ((List.range 16).foldl (fun s g => s.confirmNow g) s1).closeRegions.settleRanges

/-! ### Ops that were stopped (R229, R237) -/

/-- Whether nothing of an op is still on its way into a tile. -/
def State.landed (s : State) (o : Op) : Bool :=
  s.chains.all (fun c => c.2.fly.all (fun k => k.op != o.id) && c.2.held.all (fun k => k.op != o.id)) &&
    s.spine.all (fun l => l.2.buf.all (fun m => m.op != o.id))

/-- Whether the companion of a rolling op has drained output row `m` of a chain, so that its phase has ended there. -/
def State.drainedRow (s : State) (o : Op) (ci : Nat) (imag : Bool) (m : Nat) : Bool :=
  match o.comp[(bit imag)]? with
  | none => false
  | some c => match s.op? c with
    | none => true
    | some p => p.rows.elem (rowUnit ci m)

/-- The registers of the rows that the tokens of an array op have entered on one chain since their phase began, but for those
that the spine has sent and cleared. -/
def State.tokenEntered (s : State) (o : Op) (ci : Nat) (c : ChainId) : List Nat :=
  ((List.range (o.added.getD ci 0)).flatMap fun idx =>
    let t := tokSpec o.d (coreIdx o.d ci) idx
    (tokRows o.d t).flatMap fun m =>
      let r := destRow o c t.pass.imag m
      if s.drainedRow o ci t.pass.imag m ∨ s.opCols o c ci = 0 then []
      else ((s.rowKeys r.t r.row 32).zipIdx.filter
        (fun k => !o.rows.elem (spineKey (coreIdx o.d ci) (ci % o.d.nchain) m k.2 false))).map (fun k => k.1))

/-- The registers of the rows that trimmed longs of a spine set have entered. -/
def State.spineEntered (s : State) (o : Op) : List Nat :=
  if o.d.spinen = 0 then []
  else o.chains.zipIdx.flatMap fun c => (List.range o.d.m).flatMap fun m =>
    let sc := coreIdx o.d c.2
    let r := destRow o c.1 false m
    if (List.range 32).any (fun j => o.rows.elem (spineKey sc (c.2 % o.d.nchain) m j true) &&
        !o.rows.elem (spineKey sc (c.2 % o.d.nchain) m j false)) then s.rowKeys r.t r.row 32 else []

/-- The registers of the rows that an op has entered since its phase began (R237). -/
def State.entered (s : State) (o : Op) : List Nat :=
  match o.k with
  | .preload => (s.partsOf o.d o.rd).zipIdx.flatMap fun p => (List.range p.1.rows).flatMap fun i =>
      if o.rows.elem (rowUnit p.2 i) then s.rowKeys p.1.t (partRow p.1 i) 32 else []
  | .owner => (s.xredTiles o.d).flatMap (fun t => (s.tileKeys t).filter (fun rk => o.rows.elem (rowMark rk)))
  | k => if k.tokens then o.chains.zipIdx.flatMap (fun c => s.tokenEntered o c.2 c.1) ++ s.spineEntered o else []

/-- The rows that a fenced op has entered take POISON, N unchanged; one record for each tile (R237, R259, class 0x042; log 79). -/
def State.poisonEntered (s : State) (o : Op) : State :=
  let ks := (s.entered o).eraseDups
  (s.mapRegs ks (fun _ r => r.mark)).poisonRecords o ks

/-- Whether a contribution of a squashed region has still to be withdrawn (R229 step 6). -/
def mustWithdraw (o : Op) : Bool := (o.k == .contrib || o.k == .trimmed) && o.ending == some 0x02 && !o.fin

/-- A stopped op ends once its tokens have landed and the fabric has accepted its writes: a fenced one leaves POISON where it
has been, and a DRAIN that a fence has stopped clears the rows it has not read (R154); a reroll clears its tiles. -/
def State.endStopped (s : State) (o : Op) : State :=
  if !s.landed o ∨ o.wout ≠ 0 ∨ mustWithdraw o then s
  else
    let s1 := if o.ending = some 0x06 then s.poisonEntered o else s
    let s2 := if o.k = .reroll then s1.clearScratch o else s1
    let s3 := s2.finishOp o (s2.statusOf o)
    (if o.ending = some 0x06 then s3.sweepUnread o else s3).reopenRegions

/-! ### Owner ops (R313) -/

/-- How an owner op converts a register: in overflow mode and without fusion (R313). -/
def ownerForm (d : Desc) : ReadForm := ⟨fmtOf d.fmt, .el16, 0, false, false⟩

/-- A register read of an owner op that fails its check: recorded, retried and charged, the register left with POISON when the retry fails
too, the op failed (R254, R419). -/
def State.ownerRead (s : State) (o : Op) (t : TileRef) (rk : Nat) (x : ReadOutcome) : State :=
  match x.fail with
  | none => if x.unseen then s.drawFree else s
  | some y =>
    let s1 := s.readFailed (readEvent (some o.d.tenant) (ownerForm o.d) t rk (s.reg rk) ⟨0, 0, false⟩ y) (readUnit t y) y.twice o.d.tag
    if x.twice then ((s1.drawFree).mapOp o.id (fun q => { q with failed := true })).setReg rk (s1.reg rk).mark else s1

/-- One element of a range converted once, with the fault of the command that names it; every element of a range whose checksum failed
carries poison (R311). -/
def State.resultElem (s : State) (o : Op) (r : Range) (faults : List ReadFault) (k : Nat) : State × OutElem :=
  match s.rangePlace r k, s.rangeReg r k with
  | some p, some rk =>
    let x := (ownerForm o.d).outcome (s.reg rk) ⟨0, 0, false⟩ faults k
    let e := s.readElem (ownerForm o.d) rk ⟨0, 0, false⟩ x
    (s.ownerRead o p.1 rk x, if r.badSum then { e with psn := true } else e)
  | _, _ => (s, ⟨0, 0, r.badSum, 0, 0⟩)

/-- The elements of a frame of results. -/
def State.resultElems (s : State) (o : Op) (r : Range) (faults : List ReadFault) (off n : Nat) : State × List OutElem :=
  (List.range n).foldl (fun (a : State × List OutElem) i =>
    let x := a.1.resultElem o r faults (off + i)
    (x.1, a.2 ++ [x.2])) (s, [])

/-- The 16-bit units of an element of results: head, and tail of a comet pair (R24). -/
def resultUnits (fmt : Nat) (e : OutElem) : List Elem :=
  if fmt = 4 then [⟨e.head, e.psn⟩, ⟨e.tail, e.psn⟩] else [⟨e.head, e.psn⟩]

/-- The image entries of a frame of results. -/
def frameImage (frame : Nat) (fs : List Flit) : List (Nat × BitVec 512) :=
  fs.zipIdx.flatMap fun f => [(64 * frame + f.2, f.1.data), (64 * frame + 32 + f.2, f.1.psn.setWidth 512)]

/-- The registers of a complete range are converted once each into the results that the owner op keeps, and a send job for
each collector begins (R313). -/
def State.convertRange (s : State) (o : Op) (r : Range) (faults : List ReadFault) : State :=
  let fr := (framesOf 0 o.d.elems (frameElems o.d)).zipIdx
  let a := fr.foldl (fun (a : State × List (Nat × BitVec 512) × Nat) f =>
    let x := a.1.resultElems o r faults f.1.1 f.1.2
    (x.1, a.2.1 ++ frameImage f.2 (packUnits (x.2.flatMap (resultUnits o.d.fmt))), a.2.2 + (x.2.filter (fun e => e.psn)).length)) (s, [], 0)
  let s1 := a.1.mapOp o.id (fun p => { p with
    img := a.2.1
    got := 1
    poisoned := p.poisoned || decide (a.2.2 ≠ 0) })
  let s2 := if a.2.2 = 0 then s1 else s1.bump (key (0x4100 + o.d.tenant) 0) a.2.2
  r.colls.foldl (fun s pp => s.addJob o.id .results r.g pp fr.length) s2

/-- The bytes of a frame of results at the owner's DATA. -/
def ownBytes (o : Op) (frame off n : Nat) : List TByte :=
  let sz := xredSize o.d
  let fs := resultFlits o.img frame (ceilDiv (n * sz) 64)
  (List.range (n * sz / 2)).flatMap fun i =>
    let u := payUnit fs i
    tbytes (off * sz + 2 * i) (leBytes 2 u.1.toNat) u.2

/-- The use of the buffer by a frame of results at the owner's DATA. -/
def resultUse (d : Desc) (frame off n : Nat) : Use := ⟨5, frame, off * xredSize d, n * xredSize d, true⟩

/-- The owner writes its results frame by frame while its lines are free and its port has credit; `got` counts the frames
written, plus one. At most `fuel` frames. -/
def State.writeResults (s : State) (id : Nat) : Nat → State
  | 0 => s
  | k + 1 => match s.op? id with
    | none => s
    | some o => match (framesOf 0 o.d.elems (frameElems o.d))[o.got - 1]? with
      | none => s
      | some f =>
        let bs := ownBytes o (o.got - 1) f.1 f.2
        if s.lineBusy o [resultUse o.d (o.got - 1) f.1 f.2] ∨ s.canWrite o 5 bs = false then s
        else ((s.writeTensor o 5 bs).mapOp id (fun p => { p with got := p.got + 1 })).writeResults id k

/-- The owner op delivers: its record stays without an op, or ends where an op accepted since ends it (R320; log 62). -/
def State.finishOwner (s : State) (o : Op) (r : Range) : State :=
  let same (x : Range) : Bool := x.group == r.group && x.bucket == r.bucket && x.eoff == r.eoff
  if s.rangeOver r then (s.deliver o).endRanges same
  else (s.deliver o).mapRange r (fun x => { x with op := none })

/-- Whether an owner op's results are written and every RESULT frame's credit has returned (R313). -/
def State.resultsOut (s : State) (o : Op) : Bool :=
  decide (resultCount o.d < o.got) && decide (o.wout = 0) && s.jobs.all (fun j => j.op != o.id || j.k != .results || j.ended) &&
    !s.flitsOut (fun x => x.ofOp (fun i => i == o.id))

/-- An owner op whose range is complete: with HIER it delivers at once, else it converts, writes and sends its results and
delivers after them (R313). -/
def State.workOwner (s : State) (o : Op) (faults : List ReadFault) : State :=
  match s.ranges.find? (fun r => r.op == some o.id) with
  | none => if o.fin then s.deliver o else s
  | some r =>
    if o.fin = false then s
    else if o.d.hier then s.finishOwner o r
    else
      let s1 := if o.got = 0 then s.convertRange o r faults else s
      let s2 := s1.writeResults o.id (resultCount o.d)
      match s2.op? o.id with
      | none => s2
      | some p => if s2.resultsOut p then s2.finishOwner p r else s2

/-! ### Dictionary ops (R145, R384) -/

/-- The value that a writing DICT carries: W4 to W7, or the bytes at W3; none while a memory line has not arrived. -/
def State.dictValue (s : State) (o : Op) : Option (List Byte) :=
  let d := o.d
  if d.dlen ≤ 32 then some (([d.w4, d.w5, d.w6, d.w7].flatMap (fun w => leBytes 8 w.toNat)).take d.dlen)
  else allSome ((List.range d.dlen).map (fun i => (s.byteAt o 3 0 i).map s.buf.byte))

/-- The transaction of a DICT, of role H for its tenant. -/
def dictTran (d : Desc) (v : List Byte) : Tran := ⟨.h, d.tenant, d.flag0, d.dindex, d.dsub, if d.flag0 then v else []⟩

/-- A DICT is over: the status of its transaction goes into its completion record (R149, R384). -/
def State.answerDict (s : State) (o : Op) (status : Nat) : State :=
  (s.mapOp o.id (fun p => { p with dstat := status, fin := true })).deliver { o with dstat := status }

/-- The bytes that a reading DICT of more than 32 bytes writes at W3: the value, then zeros (R384; log 78). -/
def dictOut (d : Desc) (v : List Byte) : List TByte := tbytes 0 (v ++ List.replicate (d.dlen - v.length) 0) false

/-- W4 to W7 hold the first 32 bytes of a value as read, zeros where it ends (R145, R384; log 78). -/
def State.readWords (s : State) (v : List Byte) : State :=
  { s with mg := { s.mg with words := (List.range 4).map (fun i => BitVec.ofNat 64 (ofLe ((v.drop (8 * i)).take 8))) } }

/-- A reading DICT: a LEN below the object's size is LENGTH; else W4 to W7 take the value, and a longer one than 32 bytes is written to
W3. -/
def State.dictReads (s : State) (o : Op) (status : Nat) (v : List Byte) : State :=
  if status ≠ stOk then s.answerDict o status
  else if o.d.dlen < v.length then s.answerDict o stLength
  else if o.d.dlen ≤ 32 then (s.readWords v).answerDict o stOk
  else ((s.readWords v).writeTensor o 3 (dictOut o.d v)).mapOp o.id (fun p => { p with fin := true })

/-- The use of the buffer by a DICT of more than 32 bytes. -/
def dictUse (d : Desc) : List Use := if d.dlen ≤ 32 then [] else [⟨3, 0, 0, d.dlen, !d.flag0⟩]

/-- The parity failures of the value that a DICT reads at W3, at the trusted monitor that takes it (R249; log 87). -/
def State.dictParity (s : State) (o : Op) : State :=
  if o.d.flag0 ∧ 32 < o.d.dlen then
    s.parityEvents (some o.d.tenant) ⟨0x21, 0⟩ ((List.range o.d.dlen).filterMap (fun i => s.byteAt o 3 0 i))
  else s

/-- A DICT is served once its value can be read, or its result written, its lines held by no earlier op (R147, R384). -/
def State.workDict (s : State) (o : Op) : State :=
  if o.fin then (if o.wout = 0 then s.deliver o else s)
  else
    let v := if o.d.flag0 then s.dictValue o else some []
    match v with
    | none => s
    | some bs =>
      if s.lineBusy o (dictUse o.d) ∨ (o.d.flag0 = false ∧ 32 < o.d.dlen ∧ s.canWrite o 3 (dictOut o.d []) = false) then s
      else
        let d := (s.dictParity o).drawH o.d.tenant
        if d.2 = false then d.1.answerDict o stRate
        else
          let x := dictTran o.d bs
          let r := d.1.tran x
          if o.d.flag0 then (r.1.answerDict o r.2.1).afterAnswer x r.2.1 else r.1.dictReads o r.2.1 r.2.2

/-! ### OP_DELIVERY -/

/-- Whether every core that a RESTORE regroups may change its arrangement now; nothing is regrouped where it fails (R81, R96). -/
def State.restoreFree (s : State) (o : Op) : Bool :=
  match s.restorePlan o with
  | none => true
  | some (_, l) => l.all (fun p => s.sectFree o p.1 p.2)

/-- A SAVE at work, delivered once its image has been accepted (R361, R362); a RESTORE, which takes effect once its image has come and the
cores that it regroups are idle (R365). -/
def State.workContext (s : State) (o : Op) (faults : List ReadFault) : State :=
  if o.k = .save then
    (if o.fin then (if o.wout = 0 then s.deliver o else s) else s.workSave o faults)
  else if ceilDiv o.d.w2.toNat 64 ≤ o.imgLines ∧ s.restoreFree o then
    let s1 := s.doRestore o
    match s1.op? o.id with
    | none => s1
    | some p => s1.deliver p
  else s

/-- An op at its delivery. -/
def State.workOp (s : State) (o : Op) (faults : List ReadFault) : State :=
  if o.k = .clear then s.workClear o
  else if o.stopped then s.endStopped o
  else if o.started = false then s
  else match o.k with
    | .owner => s.workOwner o faults
    | .dict => s.workDict o
    | .save => s.workContext o faults
    | .restore => s.workContext o faults
    | _ => if s.effectsDone o ∧ o.wout = 0 then s.deliver o else s

/-- OP_DELIVERY: an op whose effects are complete delivers, and its completion record is formed (R202). The faults are those that the
register reads of an owner's conversion or of a SAVE meet (R254). -/
def execOpDelivery (op : Reads) (s : State) : Host.Outcome State Fault Refusal :=
  match s.op? op.id with
  | none => .next s
  | some o => .next (s.workOp o op.faults).settle

end Sys2Proof.Machine
end

