-- ==== Sys2Proof/Machine/Clock.lean ====
section
/-! DEFINITION. The edge of the reference strobe (R192): partner stalls and slip (R200, R201), the metered draw of the step
(R328, R329, R332), the sidereal counter. -/

namespace Sys2Proof.Machine

/-! ### Partner stalls (R200, R201) -/

/-- Whether an outstanding read is a partner's wait: any on a pairing port; on a memory port, one whose next line has fallen behind the
reserved share of its op since it was asked for (R200). -/
def ReadReq.late (r : ReadReq) (o : Op) (now : Nat) : Bool :=
  decide (9 ≤ r.q) || decide (64 * (r.queue - r.left + 1) ≤ (now - r.since) * o.shareBytes r.q false)

/-- Whether an op waits for lines of a tensor that a partner owes it. -/
def State.linesLate (s : State) (o : Op) (ten : Nat) : Bool :=
  s.stg.reads.any (fun r => r.op == o.id && r.ten == ten && r.late o s.now)

/-- Whether writes of an op are still not accepted after the time that its reserved share gives them (R200). -/
def State.writesLate (s : State) (o : Op) : Bool := decide (o.wout ≠ 0) && decide (o.wdue < s.now)

/-- Whether a chain's next token waits only for a line that a partner owes. -/
def State.tokenStall (s : State) (c : ChainId) : Bool :=
  match s.tokenOp c with
  | none => false
  | some o => match chainIdx o c with
    | none => false
    | some ci =>
      let idx := o.pres.getD ci 0
      let st := s.chain c
      o.started && st.held == [] && decide (st.fly.length < flightCap o.d) && s.passReady c (tokenLoad o ci idx) && s.linesLate o 5 &&
        !s.lineBusy o [tokenUse o ci idx] && s.tokenRing o ci idx && (s.tokenLanes o ci idx).isNone

/-- Whether a row of the chain's next weight load waits only for a line that a partner owes. -/
def State.loadStall (s : State) (c : ChainId) : Bool :=
  match s.loadOp c with
  | none => false
  | some o => match chainIdx o c with
    | none => false
    | some ci =>
      o.started && s.loadNear o c && s.linesLate o 6 && (List.range (kPerPass o.d.shape)).any fun r => match s.loadSlot o c ci r with
        | none => false
        | some (_, l) => l.need.elem r && !l.rows.elem r && !s.lineBusy o [weightUse o ci l.id.no r] &&
            (s.weightRow o ci l.id.no r l.cols).isNone

/-- Whether a row of a DRAIN or PRELOAD waits only for lines that a partner owes, or for credits that the fabric withholds. -/
def State.rowStall (s : State) (o : Op) (ci : Nat) (p : Part) (i : Nat) : Bool :=
  let r : RowRef := ⟨p.t, partRow p i⟩
  !o.rows.elem (rowUnit ci i) &&
    (if o.k = .drain then
      let here := (s.fusionRow o ci p i).isSome
      s.drainTurn o ci p i && (here || s.linesLate o 6) && (!here || !s.drainCredit o p i)
    else s.rowOpen o r && !s.lineBusy o (preloadRowUses o.d ci p i) && (s.preloadRow o ci p i).isNone && s.linesLate o 5)

/-- Whether any row of a DRAIN or PRELOAD is in such a wait. -/
def State.rowsStall (s : State) (o : Op) : Bool :=
  (s.partsOf o.d o.rd).zipIdx.any (fun x => (List.range x.1.rows).any (s.rowStall o x.2 x.1))

/-- Whether the next frame of a job waits only for lines that a partner owes, or for credits within the allotment (R324). -/
def State.jobStall (s : State) (o : Op) (j : Job) : Bool :=
  match s.nextFrame o j [] with
  | none => !xredNames o.d && s.linesLate o 5
  | some f => !s.maySend j.g j.dest (frameFlits f)

/-- Whether the next frame of results that an owner op writes waits for write credits alone. -/
def State.resultsHeld (s : State) (o : Op) : Bool :=
  match (framesOf 0 o.d.elems (frameElems o.d))[o.got - 1]? with
  | none => false
  | some f => o.fin && decide (o.got ≠ 0) && !s.lineBusy o [resultUse o.d (o.got - 1) f.1 f.2] &&
      !s.canWrite o 5 (ownBytes o (o.got - 1) f.1 f.2)

/-- Whether the next line of a SAVE waits for a write credit. -/
def State.imageHeld (s : State) (o : Op) : Bool :=
  decide (o.got ≠ 0) && !o.fin && decide ((s.port (o.imgPort (o.got - 1))).cr = 0)

/-- Whether a reading DICT waits for write credits alone, or any DICT for lines that a partner owes. -/
def State.dictHeld (s : State) (o : Op) : Bool :=
  s.linesLate o 3 ||
    (!o.fin && !o.d.flag0 && decide (32 < o.d.dlen) && !s.lineBusy o (dictUse o.d) && !s.canWrite o 3 (dictOut o.d []))

/-- Whether a group op waits for its peers only: an owner for contributions, and for the credits of its results; a sender on the frames
it has still to send, then for an ACK beyond one RTT_P, for results or for a withdrawal (R324). -/
def State.groupStall (s : State) (o : Op) : Bool :=
  let js := s.jobs.filter (fun j => j.op == o.id && !j.ended)
  if o.k = .owner then !o.fin || s.resultsHeld o || (if js ≠ [] then js.any (s.jobStall o) else s.flitsOut (fun x => x.ofOp (fun i => i == o.id)))
  else !o.fin &&
    (if js ≠ [] then js.any (s.jobStall o)
    else if o.k ≠ .collection ∧ s.awaitsAck o then
      decide (o.sent + ceilDiv (s.rttPs ((s.slotOf o.d.group).getD 0) o.d.dest) 10000 < s.now)
    else true)

/-- Whether an array op waits for a partner only: one of its chains waits for a line of its next token or weight row. -/
def State.chainStall (s : State) (o : Op) : Bool :=
  o.chains.any fun c =>
    ((s.tokenOp c).any (fun p => p.id == o.id) && s.tokenStall c) || ((s.loadOp c).any (fun p => p.id == o.id) && s.loadStall c)

/-- Whether an op waits for a partner only: lines behind its reserved share, write credits, writes that the fabric has not accepted in
time, and its peers at protocol level (R200, R203). -/
def State.inStall (s : State) (o : Op) : Bool :=
  o.started && !o.stopped && (s.writesLate o ||
    (match o.k with
    | .drain => s.rowsStall o
    | .preload => s.rowsStall o
    | .save => s.imageHeld o
    | .restore => s.linesLate o 5
    | .dict => s.dictHeld o
    | .fenceQuiesce => !s.earlier o (fun p => fenceMeets s.conf o p) && s.flitsBefore o
    | k => if k.group then s.groupStall o else s.chainStall o))

/-- The slip of every resource that an op in partner stall holds advances by one, and so does the op's own count (R201). -/
def State.slip (s : State) : State :=
  let busy := s.ops.filter s.inStall
  let ids := busy.map (fun o => o.id)
  let s1 := ((busy.flatMap (fun o => o.res.map (fun r => r.1))).eraseDups).foldl (fun s r => s.slipUp r) s
  { s1 with ops := s1.ops.map (fun o => if ids.elem o.id then { o with own := o.own + 1 } else o) }

/-! ### The edge -/

/-- The draw of the step that ends is metered and joins the last 2,000 (R329, R332). The block's ballast keeps the fall within R331, in
whichever chains it enters (R334; log 52). -/
def State.meterStep (s : State) : State :=
  let i := max (s.meter s.pwr.energy) (s.pwr.im - s.slew)
  { s with pwr := { s.pwr with im := i, hist := (i :: s.pwr.hist).take 2000, energy := 0 } }

/-- SIDEREAL_COUNTER_ADVANCE: one rising edge of the strobe (R192). While the strobe is lost it stands for one interval of the sampler,
by which the port timers run four steps on and the counter none (R194, R408; log 25); with the power not good it does nothing. -/
def execSiderealCounterAdvance (s : State) : Host.Outcome State Fault Refusal :=
  if s.pwrGood = false then .next s
  else if s.clk.lost then .next { s with clk := { s.clk with extra := s.clk.extra + 4 } }
  else
    let s1 := s.slip.meterStep
    .next { s1 with clk := { s1.clk with counter := s1.clk.counter + 1 } }

end Sys2Proof.Machine
end

