-- ==== Sys2Proof/Machine/Dispatch.lean ====
section
/-! DEFINITION. One arm per command of the operation table: a direct call of its meaning. -/

namespace Sys2Proof.Machine

/-- The effect of a command on everything but the queue. -/
def exec (i : Instr) (s : State) : Host.Outcome State Fault Refusal :=
  match i with
  | .loadw d => Sys2Proof.Machine.execLoadw d s
  | .stream d => Sys2Proof.Machine.execStream d s
  | .preload d => Sys2Proof.Machine.execPreload d s
  | .drain d => Sys2Proof.Machine.execDrain d s
  | .scan d => Sys2Proof.Machine.execScan d s
  | .mpass d => Sys2Proof.Machine.execMpass d s
  | .ownerXred d => Sys2Proof.Machine.execOwnerXred d s
  | .contribution d => Sys2Proof.Machine.execContribution d s
  | .trimmedLongContribution d => Sys2Proof.Machine.execTrimmedLongContribution d s
  | .collection d => Sys2Proof.Machine.execCollection d s
  | .retract d => Sys2Proof.Machine.execRetract d s
  | .fenceOrder d => Sys2Proof.Machine.execFenceOrder d s
  | .fenceEpoch d => Sys2Proof.Machine.execFenceEpoch d s
  | .fenceQuiesce d => Sys2Proof.Machine.execFenceQuiesce d s
  | .gate d => Sys2Proof.Machine.execGate d s
  | .commit d => Sys2Proof.Machine.execCommit d s
  | .squash d => Sys2Proof.Machine.execSquash d s
  | .save d => Sys2Proof.Machine.execSave d s
  | .restore d => Sys2Proof.Machine.execRestore d s
  | .dictRead d => Sys2Proof.Machine.execDictRead d s
  | .dictWrite d => Sys2Proof.Machine.execDictWrite d s
  | .ballast d => Sys2Proof.Machine.execBallast d s
  | .responseCredit n => Sys2Proof.Machine.execResponseCredit n s
  | .opStart op => Sys2Proof.Machine.execOpStart op s
  | .shadowRowWrite ch eng row => Sys2Proof.Machine.execShadowRowWrite ch eng row s
  | .swapFront ch eng blk => Sys2Proof.Machine.execSwapFront ch eng blk s
  | .tokenPresent ch => Sys2Proof.Machine.execTokenPresent ch s
  | .runningSumAdd ch col term fault => Sys2Proof.Machine.execRunningSumAdd ch col term fault s
  | .localRetry ch => Sys2Proof.Machine.execLocalRetry ch s
  | .drainRowConvert op row ci faults => Sys2Proof.Machine.execDrainRowConvert op row ci faults s
  | .preloadRowWrite op row => Sys2Proof.Machine.execPreloadRowWrite op row s
  | .spineSend op sc ci row col => Sys2Proof.Machine.execSpineSend op sc ci row col s
  | .spineReceive core err => Sys2Proof.Machine.execSpineReceive core err s
  | .spineResend core => Sys2Proof.Machine.execSpineResend core s
  | .snapshotTake tenant region tile bad => Sys2Proof.Machine.execSnapshotTake tenant region tile bad s
  | .snapshotRestore tenant region tile bad => Sys2Proof.Machine.execSnapshotRestore tenant region tile bad s
  | .commitTakesEffect tenant region => Sys2Proof.Machine.execCommitTakesEffect tenant region s
  | .regionTtlExpiry tenant region => Sys2Proof.Machine.execRegionTtlExpiry tenant region s
  | .rerollVerdict op => Sys2Proof.Machine.execRerollVerdict op s
  | .opDelivery op => Sys2Proof.Machine.execOpDelivery op s
  | .ballastToken ch fault => Sys2Proof.Machine.execBallastToken ch fault s
  | .ballastHoldExpiry core => Sys2Proof.Machine.execBallastHoldExpiry core s
  | .forecastLeadExpiry => Sys2Proof.Machine.execForecastLeadExpiry s
  | .siderealCounterAdvance => Sys2Proof.Machine.execSiderealCounterAdvance s
  | .strobeLost => Sys2Proof.Machine.execStrobeLost s
  | .strobeRestored => Sys2Proof.Machine.execStrobeRestored s
  | .promiseFloorEvaluation => Sys2Proof.Machine.execPromiseFloorEvaluation s
  | .vt core mv tj rail env => Sys2Proof.Machine.execVt core mv tj rail env s
  | .stepdn env cap force => Sys2Proof.Machine.execStepdn env cap force s
  | .deny type core => Sys2Proof.Machine.execDeny type core s
  | .excursion core => Sys2Proof.Machine.execExcursion core s
  | .excursionEnd => Sys2Proof.Machine.execExcursionEnd s
  | .stepUpTimeout => Sys2Proof.Machine.execStepUpTimeout s
  | .envelopeStepUpRequest r => Sys2Proof.Machine.execEnvelopeStepUpRequest r s
  | .envelopeStepDownRequest r => Sys2Proof.Machine.execEnvelopeStepDownRequest r s
  | .coolingClass r => Sys2Proof.Machine.execCoolingClass r s
  | .powerCap r => Sys2Proof.Machine.execPowerCap r s
  | .pendingMarginStep core r => Sys2Proof.Machine.execPendingMarginStep core r s
  | .marginStepInForce core r => Sys2Proof.Machine.execMarginStepInForce core r s
  | .pendingBypassMap n r => Sys2Proof.Machine.execPendingBypassMap n r s
  | .bypassMapApply n => Sys2Proof.Machine.execBypassMapApply n s
  | .tenantState t r => Sys2Proof.Machine.execTenantState t r s
  | .tenantRelease t => Sys2Proof.Machine.execTenantRelease t s
  | .coreOwner core r => Sys2Proof.Machine.execCoreOwner core r s
  | .quadrantOwners n r => Sys2Proof.Machine.execQuadrantOwners n r s
  | .bufferRange t sub r => Sys2Proof.Machine.execBufferRange t sub r s
  | .coreMoveComplete core => Sys2Proof.Machine.execCoreMoveComplete core s
  | .debugMode r => Sys2Proof.Machine.execDebugMode r s
  | .debugExpiry => Sys2Proof.Machine.execDebugExpiry s
  | .transferOpen r => Sys2Proof.Machine.execTransferOpen r s
  | .transferChunk r => Sys2Proof.Machine.execTransferChunk r s
  | .transferVerify r => Sys2Proof.Machine.execTransferVerify r s
  | .gfwActivate r => Sys2Proof.Machine.execGfwActivate r s
  | .gfwHeartbeat => Sys2Proof.Machine.execGfwHeartbeat s
  | .gfwHeartbeatTimeout => Sys2Proof.Machine.execGfwHeartbeatTimeout s
  | .flashCommit key ok => Sys2Proof.Machine.execFlashCommit key ok s
  | .coldResetRequest r => Sys2Proof.Machine.execColdResetRequest r s
  | .warmResetRequest r => Sys2Proof.Machine.execWarmResetRequest r s
  | .warmReset => Sys2Proof.Machine.execWarmReset s
  | .powerGood deck => Sys2Proof.Machine.execPowerGood deck s
  | .powerGoodLoss => Sys2Proof.Machine.execPowerGoodLoss s
  | .admissionOpen => Sys2Proof.Machine.execAdmissionOpen s
  | .portReset q r => Sys2Proof.Machine.execPortReset q r s
  | .quarantineHoldExpiry q => Sys2Proof.Machine.execQuarantineHoldExpiry q s
  | .liveRise q => Sys2Proof.Machine.execLiveRise q s
  | .liveLoss q => Sys2Proof.Machine.execLiveLoss q s
  | .cap q w => Sys2Proof.Machine.execCap q w s
  | .capsel q w => Sys2Proof.Machine.execCapsel q w s
  | .down q w => Sys2Proof.Machine.execDown q w s
  | .exchangeTimeout q => Sys2Proof.Machine.execExchangeTimeout q s
  | .racingFault q chan kind => Sys2Proof.Machine.execRacingFault q chan kind s
  | .silenceBoundExpiry q chan kind => Sys2Proof.Machine.execSilenceBoundExpiry q chan kind s
  | .creditBoundExpiry q chan => Sys2Proof.Machine.execCreditBoundExpiry q chan s
  | .creditReturn q chan n => Sys2Proof.Machine.execCreditReturn q chan n s
  | .memoryReadLines q tag lines => Sys2Proof.Machine.execMemoryReadLines q tag lines s
  | .frameSend job => Sys2Proof.Machine.execFrameSend job s
  | .data q f => Sys2Proof.Machine.execData q f s
  | .end_ q f => Sys2Proof.Machine.execEnd q f s
  | .ack q f => Sys2Proof.Machine.execAck q f s
  | .resend q f => Sys2Proof.Machine.execResend q f s
  | .result q f => Sys2Proof.Machine.execResult q f s
  | .collect q f => Sys2Proof.Machine.execCollect q f s
  | .commitNotice q f => Sys2Proof.Machine.execCommitNotice q f s
  | .revoke q f => Sys2Proof.Machine.execRevoke q f s
  | .abort q f => Sys2Proof.Machine.execAbort q f s
  | .claim q f => Sys2Proof.Machine.execClaim q f s
  | .claimreply q f => Sys2Proof.Machine.execClaimreply q f s
  | .elected q f => Sys2Proof.Machine.execElected q f s
  | .allot q f => Sys2Proof.Machine.execAllot q f s
  | .claimRetry g => Sys2Proof.Machine.execClaimRetry g s
  | .rangeTimeout group bucket eoff => Sys2Proof.Machine.execRangeTimeout group bucket eoff s
  | .beaconPeriod => Sys2Proof.Machine.execBeaconPeriod s
  | .beacon q w => Sys2Proof.Machine.execBeacon q w s
  | .memberLost g pos => Sys2Proof.Machine.execMemberLost g pos s
  | .write dg => Sys2Proof.Machine.execWrite dg s
  | .evack dg => Sys2Proof.Machine.execEvack dg s
  | .eventSend => Sys2Proof.Machine.execEventSend s
  | .eventRetry xid => Sys2Proof.Machine.execEventRetry xid s
  | .coalescingIntervalExpiry k => Sys2Proof.Machine.execCoalescingIntervalExpiry k s
  | .neighbourSolicitation src target => Sys2Proof.Machine.execNeighbourSolicitation src target s
  | .echoRequest src dst ident seq data => Sys2Proof.Machine.execEchoRequest src dst ident seq data s
  | .drainRequest r => Sys2Proof.Machine.execDrainRequest r s
  | .dictionaryDrain role faults => Sys2Proof.Machine.execDictionaryDrain role faults s
  | .deckRotation => Sys2Proof.Machine.execDeckRotation s
  | .coreTestStart core => Sys2Proof.Machine.execCoreTestStart core s
  | .coreTestEnd core res => Sys2Proof.Machine.execCoreTestEnd core res s
  | .deckPause r => Sys2Proof.Machine.execDeckPause r s
  | .releaseRequest r => Sys2Proof.Machine.execReleaseRequest r s
  | .quarantine u => Sys2Proof.Machine.execQuarantine u s
  | .offenceDecay u => Sys2Proof.Machine.execOffenceDecay u s
  | .sweepRequest u r => Sys2Proof.Machine.execSweepRequest u r s
  | .ageingSweep u f => Sys2Proof.Machine.execAgeingSweep u f s
  | .unlistedOpDescriptor d => Sys2Proof.Machine.execUnlistedOpDescriptor d s
  | .badMessage w => Sys2Proof.Machine.execBadMessage w s
  | .reservedFrameType q f => Sys2Proof.Machine.execReservedFrameType q f s

end Sys2Proof.Machine
end

