-- ==== Sys2Proof/Machine/Step.lean ====
section
/-! DEFINITION. The step of the block: the command at the front of the queue takes effect; on an empty queue the frame at the head of
the loopback path arrives, and else the block idles. -/

namespace Sys2Proof.Machine

/-- One step: the oldest waiting command runs on the state with the rest of the queue. DESIGN CHOICE: on an empty queue the frame at the
head of the loopback path reaches the block's own receiving side (R295, log 103), and without one the block idles (log 10). -/
def step (s : State) : Host.Outcome State Fault Refusal :=
  match s.pending with
  | [] => match s.loop with
    | [] => .next s
    | f :: _ => exec (loopCommand f) s
  | c :: rest => exec c { s with pending := rest }

/-- The state with the command that a word spells put at the front of the queue. No row of the operation table gives
bits, so no word spells a command and the state is unchanged. -/
def State.withFetchWord (s : State) (nbits w : Nat) : State :=
  match decodeTableWord nbits w with
  | none => s
  | some c => { s with pending := c :: s.pending }

end Sys2Proof.Machine
end

