-- ==== Sys2Proof/WellFormed.lean ====
section
/-! DEFINITION. Well-formed commands: operands in the ranges that the spec's numbering gives them (ports 0 to 28, 64 cores,
1,024 engines, 16 tenants, ...), a descriptor, link word or frame of the row's own kind. An ill-formed command names nothing
that a partner could send. -/

namespace Sys2Proof

open Sys2Proof.Machine

/-- A chain: a built number of core and engine, whole (0) or a quadrant 4 to 7. -/
def ChainId.wf (c : ChainId) : Bool := decide (c.core < 64) && decide (c.top < 16) && (c.quarter == 0 || (decide (4 ≤ c.quarter) &&
  decide (c.quarter ≤ 7)))

/-- A port index (Table 16-1). -/
def portWf (q : Nat) : Bool := decide (q ≤ 28)

/-- A port that frames come from: a cascade port, or 0xFE for the loopback path. -/
def framePortWf (q : Nat) : Bool := (decide (17 ≤ q) && decide (q ≤ 24)) || q == 0xFE

/-- A frame of a type, its length in flits (R302). -/
def frameWf (q : Nat) (f : Frame) (ftype : Nat) : Bool := framePortWf q && f.ftype == ftype && decide (f.payload.length ≤ 63)

/-- A link word of a type on a port that has link words. -/
def linkWf (q : Nat) (w : W64) (ltype : Nat) : Bool := decide (q ≤ 25) && fld w 59 56 == ltype

/-- A requester: addresses and ports in their ranges, a tenant, a value that a message can carry. -/
def Req.wf (r : Req) : Bool :=
  decide (r.src < 2 ^ 128) && decide (r.sport < 65536) && decide (r.xid < 2 ^ 32) && decide (r.tenant < 16) && decide (r.value.length ≤ 256)

/-- A datagram: addresses and ports in their ranges. -/
def Datagram.wf (d : Datagram) : Bool :=
  decide (d.src < 2 ^ 128) && decide (d.dst < 2 ^ 128) && decide (d.sport < 65536) && decide (d.dport < 65536) && decide (d.payload.length < 65536)

/-- A fault of a running sum: one of the four classes (Table 10-6), a place in the array. -/
def SumFault.wf (f : SumFault) : Bool :=
  decide (0x010 ≤ f.cls) && decide (f.cls ≤ 0x013) && decide (f.eng < 16) && decide (f.prow < 32) && decide (f.stage < 8)

/-- A fault at a register of a tile of 32 rows and columns (R91). -/
def RegFault.wf (b : RegFault) : Bool := decide (b.row < 32) && decide (b.col < 32)

/-- A unit that offences are charged to. -/
def HwUnit.wf : HwUnit → Bool
  | .engine n => decide (n < 1024)
  | .drain c => decide (c < 64)
  | .link c => decide (c < 64)

/-- A descriptor of the row of a kind (Table 05-3). -/
def descWf (d : Desc) (k : Machine.OpK) : Bool := kindOf d == some k

/-- Whether a command is well formed. -/
def Instr.wf : Instr → Bool
  | .loadw d => descWf d .loadw
  | .stream d => descWf d .stream
  | .preload d => descWf d .preload
  | .drain d => descWf d .drain
  | .scan d => descWf d .scan
  | .mpass d => descWf d .mpass
  | .ownerXred d => descWf d .owner
  | .contribution d => descWf d .contrib
  | .trimmedLongContribution d => descWf d .trimmed
  | .collection d => descWf d .collection
  | .retract d => descWf d .retract
  | .fenceOrder d => descWf d .fenceOrder
  | .fenceEpoch d => descWf d .fenceEpoch
  | .fenceQuiesce d => descWf d .fenceQuiesce
  | .gate d => descWf d .gate
  | .commit d => descWf d .commit
  | .squash d => descWf d .squash
  | .save d => descWf d .save
  | .restore d => descWf d .restore
  | .dictRead d => descWf d .dict && !d.flag0
  | .dictWrite d => descWf d .dict && d.flag0
  | .ballast d => descWf d .ballast
  | .responseCredit _ => true
  | .opStart _ => true
  | .shadowRowWrite ch eng row => ch.wf && decide (eng < 16) && decide (row < 32)
  | .swapFront ch eng blk => ch.wf && decide (eng < 16) && decide (blk < 8)
  | .tokenPresent ch => ch.wf
  | .runningSumAdd ch col term fault => ch.wf && decide (col < 32) && decide (term < 2) && (fault.map SumFault.wf).getD true
  | .localRetry ch => ch.wf
  | .drainRowConvert _ _ _ faults => faults.all (fun f => decide (f.col < 32))
  | .preloadRowWrite _ _ => true
  | .spineSend op sc _ _ col => decide (sc < 8) && decide (col < 32) && op.faults.all (fun f => f.col == col)
  | .spineReceive core err => decide (core < 64) && decide (err < 2 ^ 640)
  | .spineResend core => decide (core < 64)
  | .snapshotTake tenant region _ bad => decide (tenant < 16) && decide (region < 64) && bad.all RegFault.wf
  | .snapshotRestore tenant region _ bad => decide (tenant < 16) && decide (region < 64) && bad.all RegFault.wf
  | .commitTakesEffect tenant region => decide (tenant < 16) && decide (region < 64)
  | .regionTtlExpiry tenant region => decide (tenant < 16) && decide (region < 64)
  | .rerollVerdict _ => true
  | .opDelivery op => op.faults.all (fun f => decide (f.col < 2 ^ 32))
  | .ballastToken ch fault => ch.wf && (fault.map (fun f => decide (f.1 < 32) && f.2.wf)).getD true
  | .ballastHoldExpiry core => decide (core < 64)
  | .forecastLeadExpiry => true
  | .siderealCounterAdvance => true
  | .strobeLost => true
  | .strobeRestored => true
  | .promiseFloorEvaluation => true
  | .vt _ _ _ _ _ => true
  | .stepdn _ _ _ => true
  | .deny _ _ => true
  | .excursion core => decide (core < 64)
  | .excursionEnd => true
  | .stepUpTimeout => true
  | .envelopeStepUpRequest r => r.wf
  | .envelopeStepDownRequest r => r.wf
  | .coolingClass r => r.wf
  | .powerCap r => r.wf
  | .pendingMarginStep core r => decide (core < 64) && r.wf
  | .marginStepInForce core r => decide (core < 64) && r.wf
  | .pendingBypassMap n r => decide (n < 1024) && r.wf
  | .bypassMapApply n => decide (n < 1024)
  | .tenantState t r => decide (t < 16) && r.wf
  | .tenantRelease t => decide (t < 16)
  | .coreOwner core r => decide (core < 64) && r.wf
  | .quadrantOwners n r => decide (n < 1024) && r.wf
  | .bufferRange t sub r => decide (t < 16) && decide (sub < 16) && r.wf
  | .coreMoveComplete core => decide (core < 64)
  | .debugMode r => r.wf
  | .debugExpiry => true
  | .transferOpen r => r.wf
  | .transferChunk r => r.wf
  | .transferVerify r => r.wf
  | .gfwActivate r => r.wf
  | .gfwHeartbeat => true
  | .gfwHeartbeatTimeout => true
  | .flashCommit k _ => decide (k < 2 ^ 24)
  | .coldResetRequest r => r.wf
  | .warmResetRequest r => r.wf
  | .warmReset => true
  | .powerGood _ => true
  | .powerGoodLoss => true
  | .admissionOpen => true
  | .portReset q r => portWf q && r.wf
  | .quarantineHoldExpiry q => portWf q
  | .liveRise q => portWf q
  | .liveLoss q => portWf q
  | .cap q w => linkWf q w 1
  | .capsel q w => linkWf q w 2
  | .down q w => linkWf q w 4
  | .exchangeTimeout q => portWf q
  | .racingFault q _ kind => portWf q && decide (1 ≤ kind) && decide (kind ≤ 5)
  | .silenceBoundExpiry q _ kind => portWf q && (kind == 6 || kind == 7 || kind == 8 || kind == 0xA)
  | .creditBoundExpiry q _ => portWf q
  | .creditReturn q _ _ => portWf q
  | .memoryReadLines q tag _ => decide (1 ≤ q) && decide (q ≤ 16) && decide (tag < 65536)
  | .frameSend job => job.faults.all (fun f => decide (f.col < 2 ^ 16))
  | .data q f => frameWf q f 0x1
  | .end_ q f => frameWf q f 0x2
  | .ack q f => frameWf q f 0x3
  | .resend q f => frameWf q f 0x4
  | .result q f => frameWf q f 0x5
  | .collect q f => frameWf q f 0x6
  | .commitNotice q f => frameWf q f 0x7
  | .revoke q f => frameWf q f 0x8
  | .abort q f => frameWf q f 0x9
  | .claim q f => frameWf q f 0xA
  | .claimreply q f => frameWf q f 0xB
  | .elected q f => frameWf q f 0xC
  | .allot q f => frameWf q f 0xD
  | .claimRetry g => decide (g < 16)
  | .rangeTimeout group bucket eoff => decide (group < 65536) && decide (bucket < 2 ^ 32) && decide (eoff < 2 ^ 32)
  | .beaconPeriod => true
  | .beacon q w => linkWf q w 3
  | .memberLost g pos => decide (g < 16) && decide (pos < 64)
  | .write dg => dg.wf
  | .evack dg => dg.wf
  | .eventSend => true
  | .eventRetry xid => decide (xid < 2 ^ 32)
  | .coalescingIntervalExpiry k => decide (k < 64)
  | .neighbourSolicitation src target => decide (src < 2 ^ 128) && decide (target < 2 ^ 128)
  | .echoRequest src dst _ _ _ => decide (src < 2 ^ 128) && decide (dst < 2 ^ 128)
  | .drainRequest r => r.wf
  | .dictionaryDrain _ faults => faults.all (fun f => decide (f.col < 32))
  | .deckRotation => true
  | .coreTestStart core => decide (core < 64)
  | .coreTestEnd core _ => decide (core < 64)
  | .deckPause r => r.wf
  | .releaseRequest r => r.wf
  | .quarantine u => u.wf
  | .offenceDecay u => u.wf
  | .sweepRequest u r => decide (u ≤ 72) && r.wf
  | .ageingSweep u _ => decide (u ≤ 72)
  | .unlistedOpDescriptor d => kindOf d == none
  | .badMessage _ => true
  | .reservedFrameType q f => framePortWf q && (f.ftype == 0 || decide (0xE ≤ f.ftype)) && decide (f.payload.length ≤ 63)

end Sys2Proof
end

