-- ==== Sys2Proof/Safety.lean ====
section
/-! DEFINITION. What a good state is, in the terms that statements use: tables in canonical form, so that equal contents are
equal data, and an error ring in which no unretired record is overwritten (R264, R265); and short names for what many statements
assume. -/

namespace Sys2Proof.Safety

open Sys2Proof.Machine

/-- The buffer and every table of registers, tiles, weights, cores, chains, ports, links and groups is in canonical form: keys
strictly rising, no entry equal to what an unlisted key reads as. -/
def canonical (s : State) : Bool :=
  Memory.wf s.buf && swf .zero s.regs && swf .zero s.tiles && swf .zero s.cells && swf .zero s.shadow && swf .zero s.cores &&
    swf .zero s.chains && swf .zero s.ports && swf .zero s.spine && swf .zero s.groups

/-- The error ring of R265: 32-bit sequence numbers; no two unretired records in one slot; each unretired record still in its
slot, under its own sequence number; and at most 64 open keys (R264). -/
def recordsKept (r : Records) : Bool :=
  decide (r.seq < 2 ^ 32) && swf ⟨0, 0, 0, 0⟩ r.ring && decide ((r.unret.map (· % 1024)).Nodup) &&
    r.unret.all (fun u => decide (u < 2 ^ 32) && (sget ⟨0, 0, 0, 0⟩ r.ring (u % 1024)).w0.toNat % 2 ^ 32 == u) &&
    decide (r.keys.length ≤ 64)

/-- A good state. -/
def good (s : State) : Bool := canonical s && recordsKept s.errs

/-- The descriptor that a command brings to the work port. -/
def descOf : Instr → Option Desc
  | .loadw d => some d
  | .stream d => some d
  | .preload d => some d
  | .drain d => some d
  | .scan d => some d
  | .mpass d => some d
  | .ownerXred d => some d
  | .contribution d => some d
  | .trimmedLongContribution d => some d
  | .collection d => some d
  | .retract d => some d
  | .fenceOrder d => some d
  | .fenceEpoch d => some d
  | .fenceQuiesce d => some d
  | .gate d => some d
  | .commit d => some d
  | .squash d => some d
  | .save d => some d
  | .restore d => some d
  | .dictRead d => some d
  | .dictWrite d => some d
  | .ballast d => some d
  | .unlistedOpDescriptor d => some d
  | _ => none

/-- A descriptor can be looked at when it arrives: the work port is up, its source holds a credit (R118), no other waits before
it and the response queue has room (R217). -/
def canArrive (s : State) : Bool := s.up 0 && s.adm.wdCredits != 0 && s.adm.wait == [] && !s.respFull

/-- The state with the credit of an arriving descriptor used up. -/
def spend (s : State) : State := { s with adm := { s.adm with wdCredits := s.adm.wdCredits - 1 } }

/-- A descriptor that stands alone: no alternative form, none that takes one, no rolling op with companions (R126, R169). -/
def alone (d : Desc) : Bool := !d.altf && !takesAlt d && companions d == 0

/-- Whether a command names a port, core, engine or ageing unit that the configuration does not build (R374, R394), or a port
that has no signals of its kind. -/
def absent (conf : Conf) : Instr → Bool
  | .bypassMapApply n => decide (conf.engines ≤ n)
  | .coreMoveComplete core => decide (conf.cores ≤ core)
  | .coreTestStart core => decide (conf.cores ≤ core)
  | .coreTestEnd core _ => decide (conf.cores ≤ core)
  | .quarantine u => !unitBuilt conf u
  | .offenceDecay u => !unitBuilt conf u
  | .ageingSweep u _ => !ageingBuilt conf u
  | .quarantineHoldExpiry q => !portBuilt conf q
  | .liveRise q => !portBuilt conf q || decide (26 < q)
  | .liveLoss q => !portBuilt conf q || decide (26 < q)
  | .cap q _ => !portBuilt conf q || decide (25 < q)
  | .capsel q _ => !portBuilt conf q || decide (25 < q)
  | .down q _ => !portBuilt conf q || decide (25 < q)
  | .beacon q _ => !portBuilt conf q || decide (25 < q)
  | .exchangeTimeout q => !portBuilt conf q
  | .racingFault q _ _ => !portBuilt conf q
  | .silenceBoundExpiry q _ _ => !portBuilt conf q
  | .creditBoundExpiry q _ => !portBuilt conf q
  | .creditReturn q _ _ => !portBuilt conf q
  | .memoryReadLines q _ _ => !portBuilt conf q || q == 0 || decide (16 < q)
  | .data q _ => q != 0xFE && !portBuilt conf q
  | .end_ q _ => q != 0xFE && !portBuilt conf q
  | .ack q _ => q != 0xFE && !portBuilt conf q
  | .resend q _ => q != 0xFE && !portBuilt conf q
  | .result q _ => q != 0xFE && !portBuilt conf q
  | .collect q _ => q != 0xFE && !portBuilt conf q
  | .commitNotice q _ => q != 0xFE && !portBuilt conf q
  | .revoke q _ => q != 0xFE && !portBuilt conf q
  | .abort q _ => q != 0xFE && !portBuilt conf q
  | .claim q _ => q != 0xFE && !portBuilt conf q
  | .claimreply q _ => q != 0xFE && !portBuilt conf q
  | .elected q _ => q != 0xFE && !portBuilt conf q
  | .allot q _ => q != 0xFE && !portBuilt conf q
  | .reservedFrameType q _ => q != 0xFE && !portBuilt conf q
  | _ => false

/-- The frames that the block sends, the port and frame of each, among what it has sent. -/
def framesOf (os : List Out) : List (Nat × Frame) := os.filterMap fun o => match o with
  | .frame q f => some (q, f)
  | _ => none

/-- The records of the response flits among what the block has sent. -/
def responses (os : List Out) : List (W64 × W64) := os.flatMap fun o => match o with
  | .resp l => l
  | _ => []

/-- Every response record formed so far, in order: those that have left and those that wait for credit (R217). -/
def answers (s : State) : List (W64 × W64) := responses s.out ++ s.adm.respQ.map (fun r => (r.w0, r.w1))

/-- The array and the buffers are the same: registers, tiles, weights, chains, spine and buffer bytes. -/
def sameArray (t s : State) : Prop :=
  t.regs = s.regs ∧ t.tiles = s.tiles ∧ t.cells = s.cells ∧ t.shadow = s.shadow ∧ t.chains = s.chains ∧ t.spine = s.spine ∧
    t.buf = s.buf

/-! ### Cascade frames (R302, R303) -/

/-- A frame of a type arrives for group slot `g`: on the loopback path or a cascade port that is up, of version 1, its CRC good where
the port has one, its GROUP a slot of the block. -/
def arrives (s : State) (q : Nat) (f : Frame) (ftype g : Nat) : Prop :=
  s.noPort q = false ∧ s.hears q f = true ∧ f.ftype = ftype ∧ f.ver = 1 ∧ (q = 0xFE ∨ frameOk f = true) ∧ s.slotOf f.group = some g

/-- A frame has left, stands on the loopback path, or waits on its port for credits. -/
def posted (t : State) (f : Frame) : Prop :=
  (∃ q, (q, f) ∈ framesOf t.out) ∨ f ∈ t.loop ∨ ∃ (q : Nat) (fl : Flight), (fl, f) ∈ (t.port q).wait

/-- The slot that a DATA or END frame names, in a range that the block holds, when the frame is no straggler (R238, R308). -/
def slotAt (s : State) (f : Frame) (r : Range) (i : Nat) (sl : Slot) : Prop :=
  s.straggler f = false ∧ s.frameRange f = some r ∧ r.slotIdx f = some i ∧ r.slots[i]? = some sl

/-- The slot of a range after a command. -/
def slotNow (t : State) (f : Frame) (i : Nat) : Option Slot := (t.frameRange f).bind (fun r => r.slots[i]?)

/-- The four flags of a register by the bits of a ledger entry: NAN, PINF, NINF, POISON (R312). -/
def flagOf (r : LongReg) (b : Nat) : Bool := if b = 0 then r.nan else if b = 1 then r.pinf else if b = 2 then r.ninf else r.poison

/-! ### Datagrams (R376 to R378) -/

/-- A datagram that the management port takes as a message: from a link-local source, its checksum good, to the block's address and
port, with a header of version 1 and no reserved bit. -/
def message (s : State) (dg : Datagram) (mtype index sub xid seq : Nat) (value : List Byte) : Prop :=
  s.up 26 = true ∧ s.forBlock dg = true ∧
    dg.payload = dgBytes (dgW0 mtype 0 index sub value.length) (at_ xid 32 + seq) value ∧
    index < 65536 ∧ sub < 256 ∧ xid < 2 ^ 32 ∧ seq < 2 ^ 32 ∧ value.length < 65536

/-! ### Commands that write one object (R371, R376, R379, R382, R388, R389) -/

/-- The request that such a command carries and the index and subindex of the object that it writes. -/
def objectOf : Instr → Option (Req × Nat × Nat)
  | .envelopeStepUpRequest r => some (r, 0x2000, 2)
  | .envelopeStepDownRequest r => some (r, 0x2000, 2)
  | .coolingClass r => some (r, 0x2000, 0)
  | .powerCap r => some (r, 0x2000, 3)
  | .pendingMarginStep core r => some (r, 0x2100 + core, 3)
  | .marginStepInForce core r => some (r, 0x2100 + core, 1)
  | .pendingBypassMap n r => some (r, 0x8000 + n, 2)
  | .tenantState t r => some (r, 0x3100 + t, 0)
  | .coreOwner core r => some (r, 0x3200 + core, 0)
  | .quadrantOwners n r => some (r, 0x8000 + n, 6)
  | .bufferRange t sub r => some (r, 0x3180 + t, sub)
  | .debugMode r => some (r, 0xF000, 0)
  | .transferOpen r => some (r, 0x7010, 0)
  | .transferChunk r => some (r, 0x7011, 0)
  | .transferVerify r => some (r, 0x7010, 1)
  | .gfwActivate r => some (r, 0x7000, 4)
  | .coldResetRequest r => some (r, 0x1300, 0)
  | .warmResetRequest r => some (r, 0x1300, 0)
  | .portReset q r => some (r, 0x1310 + q, 5)
  | .drainRequest r => some (r, 0xF010, 2 * roleSlot r.role)
  | .deckPause r => some (r, 0x5000, 4)
  | .releaseRequest r => some (r, 0x5000, 6)
  | .sweepRequest u r => some (r, 0x5200 + u, 3)
  | _ => none

/-- The write transaction of a request to an object. -/
def tranOf (r : Req) (index sub : Nat) : Tran := ⟨r.role, r.tenant, true, index, sub, r.value⟩

/-- A request is served: over the management port one from a link-local source within its rate, which no kept answer stands for;
from a tenant one within its rate; TMON's own always. -/
def served (s : State) (r : Req) : Prop :=
  match r.role with
  | .m => s.up 26 = true ∧ linkLocal r.src = true ∧ (s.drawM r.src).2.1 = true ∧ (s.drawM r.src).1.keptFor r.src r.xid = none
  | .h => (s.drawH r.tenant).2 = true
  | .t => True

/-- A request has been answered with a status: by a RESPONSE to its source, from the settings before it (R379), or to TMON; a tenant's
answer is the completion record of its op. -/
def answered (s t : State) (r : Req) (index sub status : Nat) : Prop :=
  match r.role with
  | .m => s.sends r.src r.sport (respBytes status index sub r.xid []) ∈ t.out
  | .h => True
  | .t => Out.tmon (key index sub) status ∈ t.out

/-- A command that writes one object completes: well formed, served and through every check up to its object's own rules, it is answered OK, and
the written value and the state after it are as `post` says. -/
def writes (c : Instr) (s : State) (post : Nat → State → Prop) : Prop :=
  ∀ (r : Req) (index sub : Nat), objectOf c = some (r, index, sub) → c.wf = true → served s r → s.tranStatus (tranOf r index sub) = none →
    ∃ t, exec c s = .next t ∧ answered s t r index sub 0 ∧ post (ofLe r.value) t

end Sys2Proof.Safety
end

