-- ==== Sys2Proof/Certificates/Slice0/Obligations.lean ====
section
/-! DEFINITION. The statements for the provers: what the block's commands do, by the numbered rules of spec/, each command with its
next state where it completes, and the frame of what it leaves as it was. -/

open Sys2Proof Sys2Proof.Machine

/-! ### The block as a whole -/

/-- A step takes the command at the front of the queue and runs it on the state with the rest of the queue. On an empty queue the
frame at the head of the loopback path is delivered to the block itself, and with none there the block idles (the model's own choice,
logs 10 and 103). -/
def Obligations.Step_runs_the_front_command : Prop :=
  (∀ (c : Instr) (rest : List Instr) (s : State), step { s with pending := c :: rest } = exec c { s with pending := rest }) ∧
    (∀ s : State, s.pending = [] → s.loop = [] → step s = .next s) ∧
    ∀ (f : Frame) (l : List Frame) (s : State), s.pending = [] → s.loop = f :: l → step s = exec (loopCommand f) s

/-- The state after reset is good: tables in canonical form and an empty error ring (R265); its counter is 0 (R192), its
envelope A (R340), no port is up and every output is clamped (R402), and power is not good. -/
def Obligations.Reset_is_good : Prop :=
  Safety.good State.reset = true ∧ State.reset.now = 0 ∧ State.reset.pwr.env = 0 ∧ State.reset.pwrGood = false ∧
    (∀ q, State.reset.up q = false ∧ (State.reset.port q).liveO = false) ∧ State.reset.adm.openA = false ∧
    State.reset.ops = [] ∧ State.reset.out = []

/-- Every step keeps a good state good: no table loses its canonical form, and the error ring never overwrites a record that
is not retired, nor loses one, nor opens a 65th key (R264, R265). -/
def Obligations.Every_step_keeps_good_states : Prop :=
  ∀ s t : State, Safety.good s = true → step s = .next t → Safety.good t = true

/-- No command touches the queue behind it or the configuration, and none takes back what the block has sent. -/
def Obligations.No_command_touches_queue_or_configuration : Prop :=
  ∀ (c : Instr) (s t : State), exec c s = .next t → t.pending = s.pending ∧ t.conf = s.conf ∧ s.out <+: t.out

/-- The sidereal counter, rule R192: it advances by one on each rising edge of the strobe while power is good; a cold reset clears it
to 0, on request, when power becomes good and when it is lost; warm, port and engine-quarantine resets leave it running; no other
command sets it to anything but 0; and 0x2200:00 reads its 64 bits. -/
def Obligations.Only_the_strobe_advances_the_counter : Prop :=
  (∀ s : State, s.clk.lost = false → s.pwrGood = true →
    ∃ t, exec .siderealCounterAdvance s = .next t ∧ t.clk.counter = s.clk.counter + 1) ∧
  (∀ (c : Instr) (s t : State), c ≠ .siderealCounterAdvance → exec c s = .next t →
    t.clk.counter = s.clk.counter ∨ t.clk.counter = 0) ∧
  (∀ (r : Req) (s : State), ofLe r.value = 1 → Safety.writes (.coldResetRequest r) s fun _ t => t.clk.counter = 0) ∧
  (∀ (fs : List OpeningFail) (s : State), s.pwrGood = false → ∃ t, exec (.powerGood fs) s = .next t ∧ t.clk.counter = 0) ∧
  (∀ s : State, s.pwrGood = true → ∃ t, exec .powerGoodLoss s = .next t ∧ t.clk.counter = 0) ∧
  (∀ (c : Instr) (s t : State), (c = .warmReset ∨ (∃ q r, c = .portReset q r) ∨ (∃ q, c = .quarantineHoldExpiry q) ∨
    ∃ u, c = .quarantine u) → exec c s = .next t → t.clk.counter = s.clk.counter) ∧
  (∀ s : State, s.readBytes 0x2200 0 = leBytes 8 s.clk.counter.toNat)

/-- A command ends in a fault exactly when it names a unit that this configuration does not build (R374, R394), and never in a
refusal: every other command has a next state. -/
def Obligations.Commands_stop_only_for_absent_units : Prop :=
  ∀ (c : Instr) (s : State),
    (Safety.absent s.conf c = true → exec c s = .fault .absentUnit) ∧ (Safety.absent s.conf c = false → ∃ t, exec c s = .next t)

/-! ### Descriptors (R118 to R126, R150, R169, R204, R217) -/

/-- A descriptor that is refused at once, an op code that is not listed among them, has no effect on the block (R121): its
admission response alone leaves or waits, and with it the work-port credit returns (R118, R120). -/
def Obligations.Refused_descriptor_changes_nothing : Prop :=
  ∀ (c : Instr) (d : Desc) (r : Nat × Nat) (s : State), Safety.descOf c = some d → c.wf = true → Safety.canArrive s = true →
    s.adm.held = [] → s.early d = some r →
    ∃ t, exec c s = .next t ∧ { t with adm := s.adm, out := s.out } = s ∧
      t.adm = { s.adm with
        wdCredits := if s.adm.respQ = [] ∧ s.adm.respCr ≠ 0 then s.adm.wdCredits else s.adm.wdCredits - 1
        respCr := if s.adm.respQ = [] ∧ s.adm.respCr ≠ 0 then s.adm.respCr - 1 else s.adm.respCr
        respQ := if s.adm.respQ = [] ∧ s.adm.respCr ≠ 0 then [] else s.adm.respQ ++ [refusal d r 0 1] } ∧
      t.out = if s.adm.respQ = [] ∧ s.adm.respCr ≠ 0 then
          s.out ++ [.resp [((refusal d r 0 1).w0, (refusal d r 0 1).w1)], .credit 0 0x02 1]
        else s.out

/-- A descriptor whose op code is not listed is refused with OPCODE while admission is open to its tenant and its version is 1
(R150). -/
def Obligations.Unlisted_op_is_refused_with_opcode : Prop :=
  ∀ (d : Desc) (s : State), kindOf d = none → Safety.canArrive s = true → s.adm.held = [] → s.adm.openA = true →
    s.quiescing d.tenant = false → d.ver = 1 → s.adm.respQ = [] → s.adm.respCr ≠ 0 →
    ∃ t w1, exec (.unlistedOpDescriptor d) s = .next t ∧ { t with adm := s.adm, out := s.out } = s ∧
      t.out = s.out ++ [.resp [(BitVec.ofNat 64 (2 ^ 60 + 2 * 2 ^ 56 + 2 * 2 ^ 48 + d.tenant * 2 ^ 44 + d.tag), w1)], .credit 0 0x02 1]

/-- An op that stands alone, for which no reason of Table 05-12 applies and whose window is within the cap and WREQ, is
accepted (R118 to R120, R204): the op is outstanding under the next acceptance number, accepted now, with the deadline that its
window gives, not started; the next acceptance number has moved on, and no register, weight, spine link or buffer byte has changed.
This is said of LOADW, STREAM, PRELOAD, DRAIN, SCAN, MPASS, OWNER_XRED, CONTRIBUTION, TRIMMED_LONG_CONTRIBUTION, COLLECTION, RETRACT,
FENCE_ORDER, FENCE_QUIESCE, COMMIT, SAVE, RESTORE, DICT_READ, DICT_WRITE and BALLAST. GATE, which completes at once, and SQUASH and
FENCE_EPOCH, which end ops, are stated apart. -/
def Obligations.Admissible_op_is_accepted : Prop :=
  ∀ (c : Instr) (d : Desc) (k : OpK) (p : Plan) (s : State), Safety.descOf c = some d → c.wf = true → kindOf d = some k →
    k ≠ .gate → k ≠ .squash → k ≠ .fenceEpoch →
    Safety.canArrive s = true → s.adm.held = [] → Safety.alone d = true →
    (Safety.spend s).check ⟨k, d, none⟩ = none → (Safety.spend s).plan k d false none none 0 = some p → (Safety.spend s).windowOk d p.window = true →
    ∃ t o, exec c s = .next t ∧ o ∈ t.ops ∧ o.id = s.adm.nextId ∧ o.k = k ∧ o.d = d ∧ o.form = false ∧ o.cAcc = s.now ∧
      o.deadline = s.now + p.window ∧ o.started = false ∧ o.ending = none ∧ s.adm.nextId < t.adm.nextId ∧
      t.regs = s.regs ∧ t.cells = s.cells ∧ t.shadow = s.shadow ∧ t.spine = s.spine ∧ t.buf = s.buf ∧
      p.window ≤ s.windowCap ∧ (d.wreq ≠ 0 → p.window ≤ d.wreq) ∧
      (s.adm.respQ = [] → s.adm.respCr ≠ 0 →
        Out.resp [((acceptance d o.deadline 1).w0, (acceptance d o.deadline 1).w1)] ∈ t.out)

/-- GATE opens its region at acceptance, recording GKIND and TTL, and completes at once (R221); COMMIT closes its region to
further ops (R228); SQUASH closes its region and stops the ops that are left of it (R229), what a DRAIN already
ended has still to clear apart (R154); an epoch FENCE whose FEPOCH is live
sets the tenant's floor to FEPOCH + 1 (R236). -/
def Obligations.Region_and_fence_ops_act_at_acceptance : Prop :=
  ∀ (c : Instr) (d : Desc) (k : OpK) (p : Plan) (s : State), Safety.descOf c = some d → c.wf = true → kindOf d = some k →
    Safety.canArrive s = true → s.adm.held = [] → Safety.alone d = true → (Safety.spend s).check ⟨k, d, none⟩ = none →
    (Safety.spend s).plan k d false none none 0 = some p → (Safety.spend s).windowOk d p.window = true →
    (k = .gate → ∃ t, exec c s = .next t ∧
      ⟨d.tenant, d.region, d.kind, d.ttl, s.now, none, false, false, [], [], [], []⟩ ∈ t.regions ∧
      s.adm.nextId < t.adm.nextId ∧ ∀ o ∈ t.ops, o.id ≠ s.adm.nextId) ∧
    (k = .commit → ∃ t, exec c s = .next t ∧
      ∀ g ∈ t.regions, g.tenant = d.tenant → g.num = d.region → g.closing = true ∧ g.closer = some s.adm.nextId) ∧
    (k = .squash → ∃ t, exec c s = .next t ∧
      (∀ g ∈ t.regions, g.tenant = d.tenant → g.num = d.region → g.closing = true ∧ g.squash = true) ∧
      ∀ o ∈ t.ops, inRegion d.tenant d.region o = true → o.k ≠ .tagged → o.k ≠ .clear → o.stopped = true) ∧
    (k = .fenceEpoch → s.fenceLive d = true → ∃ t, exec c s = .next t ∧
      t.obj (key (0x3100 + d.tenant) 1) = (d.fepoch + 1) % 65536)

/-- A descriptor that takes an alternative form (R126) or is a rolling op with companions (R169) is held, answered by
nothing, until what belongs to it has come. -/
def Obligations.Descriptor_with_partners_is_held : Prop :=
  ∀ (c : Instr) (d : Desc) (s : State), Safety.descOf c = some d → c.wf = true → Safety.canArrive s = true → s.adm.held = [] →
    s.early d = none → d.altf = false → takesAlt d = true ∨ companions d ≠ 0 →
    ∃ t, exec c s = .next t ∧ t.adm.held = [d] ∧ { t with adm := s.adm } = s ∧
      { t.adm with held := s.adm.held } = { s.adm with wdCredits := s.adm.wdCredits - 1 }

/-- Of a primary form and its alternative, the primary is accepted when its window is within the cap and its WREQ, otherwise
the alternative when its own is (R126, R212); one op is outstanding either way. -/
def Obligations.Alternative_form_is_chosen_by_window : Prop :=
  ∀ (c : Instr) (a b : Desc) (k : OpK) (s : State), Safety.descOf c = some b → c.wf = true → Safety.canArrive s = true →
    s.adm.held = [a] → takesAlt a = true → companions a = 0 → altPairs a b = true → kindOf a = some k →
    (Safety.spend s).unhold.formReason k a (some b) = none →
    (∀ p, (Safety.spend s).unhold.plan k a false none none 0 = some p → (Safety.spend s).unhold.windowOk a p.window = true →
      ∃ t o, exec c s = .next t ∧ t.adm.held = [] ∧ o ∈ t.ops ∧ o.id = s.adm.nextId ∧ o.d = a ∧ o.form = false ∧
        o.deadline = s.now + p.window) ∧
    (∀ p, (Safety.spend s).unhold.planOk a ((Safety.spend s).unhold.plan k a false none none 0) = false →
      (Safety.spend s).unhold.plan k b true none none 0 = some p → (Safety.spend s).unhold.windowOk b p.window = true →
      ∃ t o, exec c s = .next t ∧ t.adm.held = [] ∧ o ∈ t.ops ∧ o.id = s.adm.nextId ∧ o.d = b ∧ o.form = true ∧
        o.deadline = s.now + p.window)

/-- A rolling op and its one companion are accepted together and linked: the DRAIN rolls with the op, and the op names it
(R169). -/
def Obligations.Rolling_op_enters_with_its_companion : Prop :=
  ∀ (a b : Desc) (k : OpK) (p q : Plan) (s : State), kindOf b = some .drain → Safety.canArrive s = true → s.adm.held = [a] →
    takesAlt a = false → companions a = 1 → isCompanion a b 0 = true → kindOf a = some k →
    (Safety.spend s).unhold.check ⟨k, a, none⟩ = none →
    ((Safety.spend s).unhold.trial k a none none).check ⟨.drain, b, some a⟩ = none →
    (Safety.spend s).unhold.plan k a false none none (compBytes a b) = some p →
    (Safety.spend s).unhold.windowOk a p.window = true →
    p.after.plan .drain b false (some s.adm.nextId) (some a) 0 = some q → (Safety.spend s).unhold.windowOk b q.window = true →
    ∃ t x y, exec (.drain b) s = .next t ∧ t.adm.held = [] ∧ x ∈ t.ops ∧ y ∈ t.ops ∧ x.id = s.adm.nextId ∧ x.k = k ∧ x.d = a ∧
      y.k = .drain ∧ y.d = b ∧ y.rolled = some x.id ∧ x.comp = [y.id] ∧ y.id = x.id + 1

/-! ### Responses, starts and the engine array (R51, R70, R71, R107, R197, R217, R254, R270) -/

/-- RESPONSE_CREDIT: with the credits that came the queued records leave, four to a flit and oldest first, each flit for one
credit; the descriptor credits of the admission responses among them return (R118, R217). No more credits are held than the
source's pool (the model's own reading, log 41). -/
def Obligations.Response_credit_sends_queued_records : Prop :=
  ∀ (n : BitVec 8) (s : State), s.up 0 = true → s.adm.wait = [] →
    let c := min (s.port 0).pool (s.adm.respCr + n.toNat)
    let k := min c (ceilDiv s.adm.respQ.length 4)
    ∃ t, exec (.responseCredit n) s = .next t ∧ t.adm.respQ = s.adm.respQ.drop (4 * k) ∧ t.adm.respCr = c - k ∧
      t.adm.wdCredits = s.adm.wdCredits + admissions (s.adm.respQ.take (4 * k)) ∧
      Safety.responses t.out = Safety.responses s.out ++ (s.adm.respQ.take (4 * k)).map (fun r => (r.w0, r.w1)) ∧
      { t with adm := s.adm, out := s.out } = s ∧
      { t.adm with respQ := s.adm.respQ, respCr := s.adm.respCr, wdCredits := s.adm.wdCredits } = s.adm

/-- OP_START: an op that may start has started, and each core of its chains is in its arrangement (R94, R96, R197); no
register changes but those that a reroll restores, and no weight and no byte of the buffer does. -/
def Obligations.Op_start_starts_and_arranges : Prop :=
  ∀ (id : Nat) (o : Op) (s : State), s.op? id = some o → s.canStart o = true →
    ∃ t p, exec (.opStart id) s = .next t ∧ t.op? id = some p ∧ p.started = true ∧ p.d = o.d ∧
      (o.k.onChains = true → ∀ c ∈ opCores o, (t.core c).shape = baseShape o.d.shape) ∧
      (o.k ≠ .reroll → t.regs = s.regs) ∧ t.cells = s.cells ∧ t.shadow = s.shadow ∧ t.chains = s.chains ∧ t.buf = s.buf

/-- SHADOW_ROW_WRITE: each enabled column of the row takes its weight, steered past bypassed columns, in the shadow register of
its cell; no other shadow register, no stationary weight, no register and no byte changes (R70, R83, R248). -/
def Obligations.Shadow_row_write_loads_one_row : Prop :=
  ∀ (ch : ChainId) (e row : Nat) (o : Op) (ci : Nat) (nx : Bool) (l : Load) (es : List Elem) (s : State),
    s.shadowTarget ch e row = some (o, ci, nx, l) → s.weightRow o ci l.id.no (chainRow ch e row) l.cols = some es →
    l.cols ≤ s.width ⟨chainEng ch e, ch.quarter⟩ →
    ∃ t, exec (.shadowRowWrite ch e row) s = .next t ∧
      (∀ j p x, j < l.cols → (s.physCols ⟨chainEng ch e, ch.quarter⟩)[j]? = some p → es[j]? = some x →
        sget Cell.zero t.shadow (regKey (chainEng ch e) ((TileRef.mk (chainEng ch e) ch.quarter).row0 + row) p) =
          Cell.make (shadowCode o.d x) x.psn) ∧
      (∀ k, (∀ p ∈ (s.physCols ⟨chainEng ch e, ch.quarter⟩).take l.cols,
          k ≠ regKey (chainEng ch e) ((TileRef.mk (chainEng ch e) ch.quarter).row0 + row) p) →
        sget Cell.zero t.shadow k = sget Cell.zero s.shadow k) ∧
      (∀ k, k ∈ t.swr ↔ k ∈ s.swr ∨ k ∈ swrKeys ⟨chainEng ch e, ch.quarter⟩ row) ∧
      t.cells = s.cells ∧ t.regs = s.regs ∧ t.tiles = s.tiles ∧ t.buf = s.buf

/-- SWAP_FRONT: at the swap of a block stage each of its cells takes its shadow weight if the row was written and the column is
enabled, and 0x0000 otherwise (R71); the shadow-written marks of its rows are gone (R60), no other weight changes, and no
register or byte does. -/
def Obligations.Swap_front_copies_one_stage : Prop :=
  ∀ (ch : ChainId) (e b : Nat) (l : Load) (s : State), s.swapLoad ch = some l → e < s.chainDepth ch → b < stagesOf ch →
    l.swapped.elem (e * 8 + b) = false → (blockRows ch e b).all (fun r => !l.need.elem r || l.rows.elem r) = true →
    s.olderTokens ch l.id = false → s.loadUsed ch l.id = true →
    ∃ t, exec (.swapFront ch e b) s = .next t ∧
      (∀ i p, i < 4 → p ∈ sideCols ch.quarter →
        let k := regKey (chainEng ch e) ((TileRef.mk (chainEng ch e) ch.quarter).row0 + (4 * b + i)) p
        sget Cell.zero t.cells k =
          if l.rows.elem (chainRow ch e (4 * b + i)) ∧ ((s.physCols ⟨chainEng ch e, ch.quarter⟩).take l.cols).elem p
          then sget Cell.zero s.shadow k else .zero) ∧
      (∀ k, (∀ i p, i < 4 → p ∈ sideCols ch.quarter →
          k ≠ regKey (chainEng ch e) ((TileRef.mk (chainEng ch e) ch.quarter).row0 + (4 * b + i)) p) →
        sget Cell.zero t.cells k = sget Cell.zero s.cells k) ∧
      (∀ i k, i < 4 → k ∈ swrKeys ⟨chainEng ch e, ch.quarter⟩ (4 * b + i) → k ∉ t.swr) ∧
      t.shadow = s.shadow ∧ t.regs = s.regs ∧ t.tiles = s.tiles ∧ t.buf = s.buf

/-- TOKEN_PRESENT: the chain's next token enters with its operand lanes and the weights it meets (R58, R61, R107); the op has
one token fewer to present, and the meter counts the cells that the token enables (R328). -/
def Obligations.Token_enters_its_chain : Prop :=
  ∀ (ch : ChainId) (o : Op) (ci idx : Nat) (lanes : List Cell) (s : State), s.presentable ch = some (o, ci, idx) →
    s.tokenLanes o ci idx = some lanes →
    ∃ t, exec (.tokenPresent ch) s = .next t ∧
      (t.chain ch).fly = (s.chain ch).fly ++
        [⟨o.id, idx, lanes, s.tokenWts ch (tokenLoad o ci idx) (tokenRows o.d (coreIdx o.d ci) idx) (s.opCols o ch ci), []⟩] ∧
      t.ops.map (fun p => (p.id, p.pres)) =
        s.ops.map (fun p => (p.id, if p.id = o.id then bumpAt p.pres ci else p.pres)) ∧
      t.pwr.energy = s.pwr.energy + tokenRows o.d (coreIdx o.d ci) idx * s.opCols o ch ci * s.islandMv ch.core * s.islandMv ch.core ∧
      t.cells = s.cells ∧ t.shadow = s.shadow ∧ t.regs = s.regs ∧ t.tiles = s.tiles ∧ t.buf = s.buf

/-- RUNNING_SUM_ADD: a sum that passes its checks enters its register: N takes the exact sum of the column's terms modulo 2^576 and the
flags are ORed (R37, R43, R51); in compare mode the leading candidate ranks against the record (R90). No other register changes. -/
def Obligations.Running_sum_enters_its_register : Prop :=
  ∀ (ch : ChainId) (col j : Nat) (o : Op) (ci : Nat) (k : Tok) (rk : Nat) (s : State),
    s.addable ch col j = some (o, ci, k, rk) → s.sumFails o ch ci k col j none rk = none →
    ∃ t, exec (.runningSumAdd ch col j none) s = .next t ∧
      (o.d.op ≠ 0x05 →
        (t.reg rk).n = (s.reg rk).n + BitVec.ofInt 576 (sumTerms (colTerms o ci k col j)).v ∧
        (t.reg rk).nan = ((s.reg rk).nan || (sumTerms (colTerms o ci k col j)).nan) ∧
        (t.reg rk).pinf = ((s.reg rk).pinf || (sumTerms (colTerms o ci k col j)).pinf) ∧
        (t.reg rk).ninf = ((s.reg rk).ninf || (sumTerms (colTerms o ci k col j)).ninf) ∧
        (t.reg rk).poison = ((s.reg rk).poison || (sumTerms (colTerms o ci k col j)).psn)) ∧
      (o.d.op = 0x05 → t.reg rk = (s.reg rk).compare o.d.dirMin (runningSum o ci k col j)) ∧
      (∀ x, x ≠ rk → t.reg x = s.reg x) ∧ t.cells = s.cells ∧ t.shadow = s.shadow ∧ t.tiles = s.tiles ∧ t.buf = s.buf

/-- RUNNING_SUM_ADD of a sum whose check fails for the first time of its op: nothing is added; the failed token and those behind it are
held for a local retry, older ones stay in the array, and the op has had its retry (R254, R270). A core whose drain awaits quarantine
is apart (R278). -/
def Obligations.Failing_sum_is_held_for_retry : Prop :=
  ∀ (ch : ChainId) (col j : Nat) (f : SumFault) (o : Op) (ci : Nat) (k : Tok) (rk : Nat) (s : State),
    ch.wf = true → f.wf = true → s.addable ch col j = some (o, ci, k, rk) → faultSeen o.d f = true → o.retried = false →
    s.coreHealth (coreOf (s.sumFault (tokCtx o ci k col j) ch col f rk).eng) ≠ 2 →
    ∃ t, exec (.runningSumAdd ch col j (some f)) s = .next t ∧ t.regs = s.regs ∧
      (t.chain ch).fly = (s.chain ch).fly.takeWhile (fun x => !(x.op == k.op && x.idx == k.idx)) ∧
      (t.chain ch).held = (s.chain ch).fly.dropWhile (fun x => !(x.op == k.op && x.idx == k.idx)) ++ (s.chain ch).held ∧
      (∃ r ∈ (t.chain ch).retry, r.op = o.id ∧ r.idx = k.idx ∧ r.col = col ∧ r.term = j) ∧
      (∃ p ∈ t.ops, p.id = o.id ∧ p.retried = true) ∧
      t.cells = s.cells ∧ t.shadow = s.shadow ∧ t.tiles = s.tiles ∧ t.buf = s.buf

/-- LOCAL_RETRY: held tokens enter the chain again in their original order, behind those in it and before any other (R270, R271); at least
the first does when the draw ceiling admits it, and none when it does not (R330). The parity of the weights that they meet is checked anew
(R252), with its records and count; no register, weight or byte changes. -/
def Obligations.Local_retry_presents_held_tokens_again : Prop :=
  ∀ (ch : ChainId) (k : Tok) (l : List Tok) (s : State), (s.chain ch).held = k :: l →
    ∃ t, exec (.localRetry ch) s = .next t ∧ (t.chain ch).fly ++ (t.chain ch).held = (s.chain ch).fly ++ (s.chain ch).held ∧
      (s.mayEnter ch.core (k.cells (s.tokCols ch k)) = true → (s.chain ch).fly.length < (t.chain ch).fly.length) ∧
      (s.mayEnter ch.core (k.cells (s.tokCols ch k)) = false → t = s) ∧
      { t with chains := s.chains, pwr := s.pwr, errs := s.errs, dict := s.dict } = s ∧
      { t.pwr with energy := s.pwr.energy, plan := s.pwr.plan } = s.pwr ∧
      ((∀ e ∈ s.cells, e.2.parityOk = true) → t.errs = s.errs ∧ t.dict = s.dict)

/-! ### Rows, the spine, regions and deliveries (R113, R152, R163, R202, R223, R228 to R230, R254, R255, R285) -/

/-- DRAIN_ROW_CONVERT of a row whose registers pass their checks: with KEEP = 0 its registers are cleared and with KEEP = 1 they
stay (R140, R154), no other register changes; each register gives its element by what its quarter holds, a sum or a compare record;
the elements are written at DATA, and at AUX where the form has one, each at the address that the layout gives it, all poison-marked
elements counted as the op's (R152, R155, R160, R260); no other byte of the buffer changes. -/
def Obligations.Drain_row_is_converted_and_written : Prop :=
  ∀ (id row ci : Nat) (o : Op) (pi : Nat) (p : Part) (i : Nat) (gs : List Fusion) (s : State),
    s.op? id = some o → s.partOf o row ci = some (pi, p, i) → s.drainReady o pi p i = true →
    s.fusionRow o pi p i = some gs → (∀ k ∈ s.partKeys p i, (s.reg k).checks = true) →
    let es := (s.partKeys p i).zipIdx.map (fun k =>
      drainElem (s.drainForm o p i k.2) (s.reg k.1) (gs.getD k.2 ⟨0, 0, false⟩))
    let place (w : W64) (bs : List TByte) : List WByte :=
      bs.map (fun b => ⟨bufAddr (opCluster o.d) (refAddr w + b.off), b.v, b.q⟩)
    ∃ t, exec (.drainRowConvert id row ci []) s = .next t ∧
      (o.d.keep = false → ∀ k ∈ s.partKeys p i, t.reg k = .zero) ∧ (o.d.keep = true → t.regs = s.regs) ∧
      (∀ k, k ∉ s.partKeys p i → t.reg k = s.reg k) ∧
      (refMem o.d.w5 = false → (refMem o.d.w6 = true ∨ (s.rowBytes o p i es).2 = []) →
        t.buf = s.buf.write (place o.d.w5 (s.rowBytes o p i es).1)) ∧
      (∀ a, (refMem o.d.w5 = false → ∀ b ∈ place o.d.w5 (s.rowBytes o p i es).1, b.a ≠ a) →
        (refMem o.d.w6 = false → ∀ b ∈ place o.d.w6 (s.rowBytes o p i es).2, b.a ≠ a) → t.buf.byte a = s.buf.byte a) ∧
      (∃ q ∈ t.ops, q.id = id ∧ rowUnit pi i ∈ q.rows ∧ q.poisoned = (o.poisoned || es.any (fun e => e.psn))) ∧
      t.cells = s.cells ∧ t.shadow = s.shadow ∧ t.tiles = s.tiles

/-- PRELOAD_ROW_WRITE: each register of the row is overwritten with the value, flags and poison of its element only (R139,
R163); no other register changes, and no weight and no byte does. -/
def Obligations.Preload_row_overwrites_its_registers : Prop :=
  ∀ (id row : Nat) (o : Op) (ci : Nat) (p : Part) (i : Nat) (es : List Incoming) (s : State),
    s.op? id = some o → s.partOf o row 0 = some (ci, p, i) → s.preloadReady o ci p i = true →
    s.preloadRow o ci p i = some es → p.cols ≤ s.width p.t →
    ∃ t, exec (.preloadRowWrite id row) s = .next t ∧
      (∀ (j k : Nat) (x : Incoming), (s.partKeys p i)[j]? = some k → es[j]? = some x →
        (t.reg k).n = BitVec.ofInt 576 x.v ∧ (t.reg k).nan = x.nan ∧ (t.reg k).pinf = x.pinf ∧ (t.reg k).ninf = x.ninf ∧
          (t.reg k).poison = x.psn) ∧
      (∀ k, k ∉ s.partKeys p i → t.reg k = s.reg k) ∧ (∃ q ∈ t.ops, q.id = id ∧ rowUnit ci i ∈ q.rows) ∧
      t.cells = s.cells ∧ t.shadow = s.shadow ∧ t.tiles = s.tiles ∧ t.buf = s.buf

/-- SPINE_SEND: a register that is due leaves as its canonical trimmed long, held in the send buffer, and is cleared (R56, R113,
R255); no other register changes. That the columns of a row go in ascending order is the model's own choice (log 90). -/
def Obligations.Spine_send_moves_one_register : Prop :=
  ∀ (id sc ci row col : Nat) (o : Op) (c : ChainId) (rk : Nat) (r : RowRef) (s : State),
    let m : SpineMsg := ⟨id, sc, ci, row, col, trim (s.reg rk) (s.boundOf o (quarterOfReg rk)), false⟩
    let cols := s.opCols o c (sc * o.d.nchain + ci)
    s.op? id = some o → o.chains[sc * o.d.nchain + ci]? = some c → s.spineReg o sc ci row col = some (rk, r) →
    (s.reg rk).checks = true → sc < o.d.spinen → ci < o.d.nchain → row < o.d.m → col < cols → o.stopped = false →
    o.rows.elem (spineKey sc ci row col false) = false → sumsIn o (sc * o.d.nchain + ci) row = true →
    (sc = 0 ∨ o.rows.elem (spineKey sc ci row col true) = true) → spineOrder o sc ci row col cols = true →
    linkFlits (s.link c.core) + msgFlits m ≤ 64 → s.rowOpen o r = true →
    ∃ t, exec (.spineSend ⟨id, []⟩ sc ci row col) s = .next t ∧ t.reg rk = .zero ∧ (∀ k, k ≠ rk → t.reg k = s.reg k) ∧
      (t.link c.core).wire = (s.link c.core).wire ++ [m] ∧ (t.link c.core).buf = (s.link c.core).buf ++ [m] ∧
      { t with regs := s.regs, spine := s.spine, ops := s.ops } = s ∧
      t.ops = s.ops.map (fun p => if p.id = id then { p with rows := p.rows ++ [spineKey sc ci row col false] } else p)

/-- SPINE_RECEIVE: a trimmed long that passes its check is added to the register of the next core, modulo 2^576, and its credit
returns (R113); where the new N fails its own check nothing is added, and the register has POISON and the op has failed (R252, R254; the
model's reading, log 107). One that fails its check is not added, and the sender is asked to resend; one that fails it again leaves
POISON in the register and its op failed (R254, R255). A trimmed long of an op that a fence has stopped is apart (R238), and a core whose drain
awaits quarantine (R278). SPINE_RESEND: the sender's held copy goes out again, ahead of what follows it, once (R255); nothing else
changes. -/
def Obligations.Spine_receive_adds_or_has_it_sent_again : Prop :=
  (∀ (core err : Nat) (m : SpineMsg) (w : List SpineMsg) (o : Op) (rk : Nat) (r : RowRef) (x : Trimmed) (s : State),
     (s.link core).wire = m :: w → (s.link core).resend = false → s.op? m.op = some o → o.ending ≠ some 0x06 →
     s.spineReg o (m.sc + 1) m.ci m.row m.col = some (rk, r) → s.rowOpen o r = true → untrim (flipWords m.words err) = some x →
     (x.checks = true → ((s.reg rk).add x.reg.incoming).checks = true → ∃ t, exec (.spineReceive core err) s = .next t ∧
       (t.reg rk).n = (s.reg rk).n + BitVec.ofInt 576 x.reg.val ∧ (t.reg rk).nan = ((s.reg rk).nan || x.reg.nan) ∧
       (t.reg rk).pinf = ((s.reg rk).pinf || x.reg.pinf) ∧ (t.reg rk).ninf = ((s.reg rk).ninf || x.reg.ninf) ∧
       (t.reg rk).poison = ((s.reg rk).poison || x.reg.poison) ∧ (∀ k, k ≠ rk → t.reg k = s.reg k) ∧
       (t.link core).wire = w ∧ (t.link core).buf = (s.link core).buf.drop 1 ∧ t.cells = s.cells ∧ t.tiles = s.tiles) ∧
     (x.checks = true → ((s.reg rk).add x.reg.incoming).checks = false → s.coreHealth (coreOf (regTile o rk).n) ≠ 2 →
       ∃ t, exec (.spineReceive core err) s = .next t ∧ t.reg rk = (s.reg rk).mark ∧ (∀ k, k ≠ rk → t.reg k = s.reg k) ∧
       (t.link core).wire = w ∧ (t.link core).buf = (s.link core).buf.drop 1 ∧ ∃ p ∈ t.ops, p.id = o.id ∧ p.failed = true) ∧
     (x.checks = false → m.resent = false → ∃ t, exec (.spineReceive core err) s = .next t ∧ t.regs = s.regs ∧
       (t.link core).wire = w ∧ (t.link core).resend = true ∧ (t.link core).buf = (s.link core).buf) ∧
     (x.checks = false → m.resent = true → ∃ t, exec (.spineReceive core err) s = .next t ∧ t.reg rk = (s.reg rk).mark ∧
       (∀ k, k ≠ rk → t.reg k = s.reg k) ∧ (t.link core).wire = w ∧ ∃ p ∈ t.ops, p.id = o.id ∧ p.failed = true)) ∧
  (∀ (core : Nat) (m : SpineMsg) (b : List SpineMsg) (s : State), (s.link core).buf = m :: b → (s.link core).resend = true →
     ∃ t, exec (.spineResend core) s = .next t ∧ (t.link core).wire = { m with resent := true } :: (s.link core).wire ∧
       (t.link core).buf = m :: b ∧ (t.link core).resend = false ∧ (∀ c, c ≠ core → t.link c = s.link c) ∧
       { t with spine := s.spine } = s)

/-- SNAPSHOT_TAKE: when a reserved snapshot's turn has come, its header and the trimmed long of every presented register are written into
the tenant's snapshot area, the header alone of a tile whose term bounds are 0, and its reservation shrinks to those bytes (R223, R224);
no register changes when every read passes. The layout of the header is the model's own choice (log 24). -/
def Obligations.Snapshot_take_keeps_the_registers : Prop :=
  ∀ (tenant region : Nat) (tile : BitVec 16) (g : Region) (n : Snap) (s : State),
    s.region? tenant region = some g → g.snapOf tile.toNat = some n → s.snapReady n = true →
    (∀ p ∈ s.tilePlaces (TileRef.ofHandle n.tile), (s.reg p.2.2).checks = true) →
    let tr := TileRef.ofHandle n.tile
    let ws := if n.clear then [] else (s.tilePlaces tr).flatMap (fun p => trim (s.reg p.2.2) (n.boundAt p.2.2))
    let bs := n.header (s.width tr) ++ wordBytes (ws.map (fun w => w.toNat))
    ∃ t h x, exec (.snapshotTake tenant region tile []) s = .next t ∧ { t with regions := s.regions, buf := s.buf } = s ∧
      t.buf = s.buf.write (bs.zipIdx.map (fun b => ⟨bufAddr tr.cluster n.addr + b.2, b.1, false⟩)) ∧
      t.region? tenant region = some h ∧ h.snapOf tile.toNat = some x ∧ x.taken = true ∧ x.bytes = bs.length ∧ x.op = n.op ∧
      x.addr = n.addr ∧ x.tb = n.tb ∧ x.mode = n.mode

/-- SNAPSHOT_RESTORE: once nothing of a squashed region is on its way and no contribution of it may still be withdrawn from the
tile (R233; the model's own reading, log 63), every presented register of the tile has again the value whose
trimmed long its snapshot holds, or is clear where that is the header alone, and the tile has its term bounds and modes (R229); no other
register changes, and no weight and no byte does. -/
def Obligations.Snapshot_restore_gives_back_the_tile : Prop :=
  ∀ (tenant region : Nat) (tile : BitVec 16) (g : Region) (n : Snap) (rs : List LongReg) (s : State),
    s.region? tenant region = some g → g.snapOf tile.toNat = some n → n.taken = true → g.squash = true →
    s.regionLanded tenant region = true → s.withdrawing tenant region n = false →
    let tr := TileRef.ofHandle n.tile
    let ps := s.tilePlaces tr
    rs.length = ps.length → (∀ r ∈ rs, if n.clear then r = .zero else r.checks = true) →
    (n.clear = false → s.bufWords (n.at_ + 64) ((n.bytes - 64) / 8) =
      (ps.zip rs).flatMap (fun e => (trim e.2 (n.boundAt e.1.2.2)).map (fun w => (w, false)))) →
    ∃ t, exec (.snapshotRestore tenant region tile []) s = .next t ∧
      (∀ e ∈ ps.zip rs, t.reg e.1.2.2 = e.2) ∧ (∀ k, (∀ p ∈ ps, k ≠ p.2.2) → t.reg k = s.reg k) ∧
      (∀ q ∈ tr.quarters.zip (n.tb.zip n.mode), (t.tileQ q.1).tb = q.2.1 ∧ (t.tileQ q.1).mode = q.2.2) ∧
      t.cells = s.cells ∧ t.shadow = s.shadow ∧ t.buf = s.buf

/-- COMMIT_TAKES_EFFECT: once every op of the region has completed and no verdict is outstanding, the region is over: its
record is gone, its tiles are unbound, and the COMMIT completes (R228); no register changes. After a failing verdict the COMMIT
squashes its region instead (R228, R285). -/
def Obligations.Commit_takes_effect_or_squashes : Prop :=
  ∀ (tenant region : Nat) (g : Region) (o : Op) (s : State), Safety.good s = true → s.region? tenant region = some g →
    g.closer.bind s.op? = some o → o.k = .commit → g.squash = false → s.regionOps tenant region = [] →
    s.ops.any (fun p => p.k == .reroll && inRegion tenant region p) = false →
    (g.verdicts.all (fun v => v == 0) = true → ∃ t, exec (.commitTakesEffect tenant region) s = .next t ∧
      t.region? tenant region = none ∧ (∀ e ∈ t.tiles, e.2.bound ≠ some (tenant, region)) ∧ (∀ p ∈ t.ops, p.id ≠ o.id) ∧
      t.regs = s.regs ∧
      (s.adm.mute ≤ o.id → Safety.answers t = Safety.answers s ++
        [((completion o (s.statusOf o) (s.stallOf o) (s.elapsed o)).w0, (completion o (s.statusOf o) (s.stallOf o) (s.elapsed o)).w1)])) ∧
    (g.verdicts.any (fun v => v != 0) = true → ∃ t, exec (.commitTakesEffect tenant region) s = .next t ∧
      ∀ h ∈ t.regions, h.tenant = tenant → h.num = region → h.closing = true ∧ h.squash = true)

/-- REGION_TTL_EXPIRY: an open region with a TTL, that many steps after its GATE, is squashed: it takes no more ops, and those
that are left of it have stopped, what a DRAIN already ended has still to clear apart (R154, R229, R230). -/
def Obligations.Region_expires_by_its_ttl : Prop :=
  ∀ (tenant region : Nat) (g : Region) (s : State), s.region? tenant region = some g → g.closing = false → g.ttl ≠ 0 →
    g.cGate + g.ttl ≤ s.now →
    ∃ t, exec (.regionTtlExpiry tenant region) s = .next t ∧
      (∀ h ∈ t.regions, h.tenant = tenant → h.num = region → h.closing = true ∧ h.squash = true) ∧
      (∀ o ∈ t.ops, inRegion tenant region o = true → o.k ≠ .tagged → o.k ≠ .clear → o.stopped = true) ∧ t.regs = s.regs

/-- REROLL_VERDICT: once the op and its reroll have added every sum, every pair of registers that is equal passes, and a pair
that differs mismatches; a reroll that failed a check gives the verdict
inconclusive (R284, R285). That a differing pair gives inconclusive too when the op, lost or failed, and not the reroll failed a check is the
model's own reading (log 48). The reroll is over, and its verdict stands in its region. -/
def Obligations.Reroll_verdict_compares_the_registers : Prop :=
  ∀ (id : Nat) (r o : Op) (d : Desc) (s : State), s.ops.find? (fun r => r.k == .reroll && r.rolled == some id) = some r →
    r.rd = some d → s.op? id = some o → r.started = true → r.stopped = false →
    (∀ x ∈ [r, o], ∀ ci c, x.chains[ci]? = some c → tokTotal x ci ≤ x.added.getD ci 0) →
    let same := (s.rerollPairs r d).all (fun p => decide (s.reg p.1 = s.reg p.2))
    let v := if r.failed then 2 else if same then 0 else if r.got ≠ 0 ∨ o.failed then 2 else 1
    ∃ t, exec (.rerollVerdict id) s = .next t ∧ (∀ p ∈ t.ops, p.id ≠ r.id) ∧
      (∀ h ∈ t.regions, h.tenant = d.tenant → h.num = d.region → v ∈ h.verdicts)

/-- OP_DELIVERY: an op whose effects are complete and whose writes the fabric has accepted delivers: its completion record is
formed next, with its status, its stall and the steps since its acceptance, and it leaves the op table (R120, R149, R202).
Owner, dictionary and context ops, and a contribution that stays known for its region, are apart. Every register stays as it was, but for
those that a DRAIN cut short before has still to clear, behind the op that delivers (R154). -/
def Obligations.Complete_op_delivers_with_its_record : Prop :=
  ∀ (id : Nat) (o : Op) (s : State), s.op? id = some o → o.stopped = false → o.started = true → s.effectsDone o = true →
    o.wout = 0 → staysTagged o = false → s.adm.mute ≤ id →
    ∃ t more, exec (.opDelivery ⟨id, []⟩) s = .next t ∧ (∀ p ∈ t.ops, p.id ≠ id) ∧
      Safety.answers t = Safety.answers s ++
        ((completion o (s.statusOf o) (s.stallOf o) (s.elapsed o)).w0,
          (completion o (s.statusOf o) (s.stallOf o) (s.elapsed o)).w1) :: more ∧
      ∀ k, t.reg k = s.reg k ∨ (t.reg k = LongReg.zero.mark ∧ ∃ p ∈ s.ops, p.k = .clear)

/-! ### The strobe, the power port and the envelopes (R192, R208, R328 to R345, R408) -/

/-- SIDEREAL_COUNTER_ADVANCE: the draw of the step that ends is metered over the tokens that entered in it and joins the last
2,000 draws (R329, R332), never falling by more than 125 mA per cluster, which the block's own ballast sees to (R331; the model's own
choice, log 52), and the next step's sum begins at 0. The slip of every resource of an op in partner stall advances by one, once, and so
does the op's own count (R201); nothing else changes but the counter. -/
def Obligations.Strobe_edge_meters_the_step : Prop :=
  ∀ s : State, s.clk.lost = false → s.pwrGood = true →
    let i := max (s.meter s.pwr.energy) (s.pwr.im - 125000 * s.conf.clusters)
    ∃ t, exec .siderealCounterAdvance s = .next t ∧
      t.pwr = { s.pwr with im := i, hist := (i :: s.pwr.hist).take 2000, energy := 0 } ∧
      { t with clk := s.clk, pwr := s.pwr, slips := s.slips, ops := s.ops } = s ∧
      t.ops = s.ops.map (fun o => if s.ops.any (fun p => s.inStall p && p.id == o.id) then { o with own := o.own + 1 } else o) ∧
      ∀ r, t.slipOf r = s.slipOf r + if s.ops.any (fun o => s.inStall o && o.res.any (fun x => x.1 == r)) then 1 else 0

/-- BALLAST_TOKEN: where a core runs ballast, or the draw tapers after its hold, a ballast token that takes no op token's place, one held
for a retry among them (R270), changes the metered draw of its step and nothing else while the parity of the weights it uses is good: no
register, weight, shadow, lease, term bound or buffer byte, and no swap front (R335); one that fails a check also charges an offence to its
engine (R273), with no retry and no poison. That a taper's token enables every row is the model's own choice (log 52). A core whose drain
awaits quarantine is apart (R278). -/
def Obligations.Ballast_token_changes_the_draw_only : Prop :=
  ∀ (ch : ChainId) (level : Nat) (s : State), s.chainExists ch = true → s.chainLive ch = true → s.presentable ch = none →
    (s.chain ch).held = [] → s.pwr.lost = false → (∀ e ∈ s.cells, e.2.parityOk = true) →
    (s.ballastLevel ch.core = some level ∧ s.mayEnter ch.core (s.ballastCells ch level) = true ∨
      s.ballastLevel ch.core = none ∧ level = 255 ∧ s.tapers ch.core (s.ballastCells ch level) = true) →
    let p : Power := { s.pwr with energy := s.pwr.energy + s.ballastCells ch level * s.islandMv ch.core * s.islandMv ch.core }
    exec (.ballastToken ch none) s = .next { s with pwr := p } ∧
    ∀ (col : Nat) (f : SumFault), (Instr.ballastToken ch (some (col, f))).wf = true → f.err % 127 ≠ 0 ∨ f.err % 255 ≠ 0 →
      let low : TileRef := ⟨chainEng ch (s.chainDepth ch - 1), ch.quarter⟩
      let n := (s.sumFault (s.ballastCtx ch level col) ch col f ((s.regAt low 0 col).getD 0)).eng
      s.coreHealth (coreOf n) ≠ 2 →
      ∃ t, exec (.ballastToken ch (some (col, f))) s = .next t ∧ Safety.sameArray t s ∧ t.ops = s.ops ∧ t.swr = s.swr ∧
        t.pwr = p ∧ (HwUnit.engine n, s.now) ∈ t.con.offences ∧ (f.cls ≠ 0x013 → n = chainEng ch f.eng)

/-- VT. Outside start-up and an envelope change, an island's report is kept as its last one, with its time by the port timers and the time
since which the island lies outside the band of the envelope in force, V_ARR ± 20 mV moved by the core's offset, or above its junction limit
(R338, R339); nothing else changes but the time of the last such report. The report with which every island has settled in the envelope
asked for, each in its band and at or below its junction limit, brings a step-up into effect (R341); the report with which every island has
settled in a granted envelope brings the step-down into effect, and with it a cap granted beside it (R342). The time of the change is kept
for the dwell. -/
def Obligations.Island_reports_are_kept_and_settle_a_change : Prop :=
  (∀ (core : BitVec 6) (mv : BitVec 12) (tj : BitVec 8) (rail env : BitVec 2) (s : State), s.up 25 = true →
     core.toNat < s.conf.cores → rail.toNat ≠ 3 → env.toNat ≠ 3 → s.pwr.lost = false → s.boot.step ≠ 2 → s.pwr.up = none →
     s.pwr.granted = none → (∀ o ∈ s.pwr.ofs, o.1 ≠ core.toNat) →
     let v := vArr s.pwr.env + 10 * s.obj (key (0x2100 + core.toNat) 7)
     let bad : Prop := mv.toNat + 20 < v ∨ v + 20 < mv.toNat ∨ tjMax s.pwr.env < tj.toNat
     ∃ t, exec (.vt core mv tj rail env) s = .next t ∧ { t with pwr := s.pwr } = s ∧
       { t.pwr with islands := s.pwr.islands, excLast := s.pwr.excLast } = s.pwr ∧
       (t.island core.toNat).mv = mv.toNat ∧ (t.island core.toNat).tj = tj.toNat ∧ (t.island core.toNat).rail = rail.toNat ∧
       (t.island core.toNat).env = env.toNat ∧ (t.island core.toNat).last = s.portNow ∧
       (bad → (t.island core.toNat).outSince = some ((s.island core.toNat).outSince.getD s.now) ∧ t.pwr.excLast = s.now) ∧
       (¬bad → (t.island core.toNat).outSince = none ∧ t.pwr.excLast = s.pwr.excLast) ∧
       ∀ c, c ≠ core.toNat → t.island c = s.island c) ∧
  (∀ (core : BitVec 6) (mv : BitVec 12) (tj : BitVec 8) (rail env : BitVec 2) (e : Nat) (s : State), s.up 25 = true →
     core.toNat < s.conf.cores → rail.toNat ≠ 3 → env.toNat ≠ 3 → s.pwr.lost = false → s.boot.step ≠ 2 →
     (∀ o ∈ s.pwr.ofs, o.1 ≠ core.toNat) →
     let mvOf (c : Nat) : Nat := if c = core.toNat then mv.toNat else (s.island c).mv
     (∀ c, c < s.conf.cores → (if c = core.toNat then rail.toNat else (s.island c).rail) = 1 ∧
       (if c = core.toNat then env.toNat else (s.island c).env) = e ∧ mvOf c ≠ 0) →
     (s.pwr.up.map (fun u => u.1) = some e →
       (∀ c, c < s.conf.cores → vArr e + 10 * s.obj (key (0x2100 + c) 7) ≤ mvOf c + 20 ∧
         mvOf c ≤ vArr e + 10 * s.obj (key (0x2100 + c) 7) + 20 ∧ (if c = core.toNat then tj.toNat else (s.island c).tj) ≤ tjMax e) →
       ∃ t, exec (.vt core mv tj rail env) s = .next t ∧ t.pwr.env = e ∧ t.pwr.metEnv = e ∧ t.pwr.up = none ∧ t.pwr.lastChange = s.now ∧
         Safety.sameArray t s ∧ t.ops = s.ops) ∧
     (s.pwr.up = none → s.pwr.granted = some e →
       ∃ t, exec (.vt core mv tj rail env) s = .next t ∧ t.pwr.env = e ∧ t.pwr.metEnv = e ∧ t.pwr.granted = none ∧
         t.pwr.lastChange = s.now ∧ (∀ w, s.pwr.grantCap = some w → t.capW = w) ∧ Safety.sameArray t s ∧ t.ops = s.ops))

/-- STEPDN: an envelope below every one in force, pending or granted becomes pending for the stage, with the time of its first
request, and a step-up asked for is given up (R342); once the forced limit has run out for it, a forced request is in force at
once (R343). DENY and STEP_UP_TIMEOUT: a step-up that the stage denies, or that has not settled within 100,000,000 steps, is
abandoned: metering returns to the envelope in force, and the record says which (R341); an offset that the stage denies is dropped,
and the next margin step of its core is pending (R345). -/
def Obligations.Stage_steps_down_or_a_step_up_is_given_up : Prop :=
  (∀ (env : BitVec 2) (s : State), s.up 25 = true → env.toNat ≠ 3 →
     (env.toNat < s.envTarget → ∃ t, exec (.stepdn env 0 false) s = .next t ∧ t.pwr.pendEnv = some env.toNat ∧
       t.pwr.byStage = true ∧ t.pwr.firstReq = some (s.pwr.firstReq.getD s.now) ∧ t.pwr.up = none ∧ t.pwr.env = s.pwr.env ∧
       t.pwr.pendCap = s.pwr.pendCap ∧ Safety.sameArray t s ∧ t.ops = s.ops) ∧
     (s.forceDue = true → ∃ t, exec (.stepdn env 0 true) s = .next t ∧
       t.pwr.env = min s.pwr.env (min (s.pwr.pendEnv.getD 3) env.toNat) ∧ t.pwr.pendEnv = none ∧ t.pwr.pendCap = none ∧
       t.pwr.firstReq = none ∧ Safety.sameArray t s)) ∧
  (∀ (e t0 : Nat) (s : State), s.up 25 = true → s.pwr.up = some (e, t0) →
    exec (.deny 3 0) s = .next (({ s with pwr := { s.pwr with up := none, metEnv := s.pwr.env } } : State).event
      ⟨0x18B, 0, 0x14, 25 * 256, none, none, e * 2 ^ 38 + 2 ^ 37⟩)) ∧
  (∀ (e t0 : Nat) (s : State), s.pwr.up = some (e, t0) → t0 + 100000000 ≤ s.now →
    exec .stepUpTimeout s = .next (({ s with pwr := { s.pwr with up := none, metEnv := s.pwr.env } } : State).event
      ⟨0x18B, 0, 0x14, 25 * 256, none, none, e * 2 ^ 38⟩)) ∧
  (∀ (core : BitVec 6) (o : Nat × Nat) (s : State), s.up 25 = true → core.toNat < s.conf.cores → o ∈ s.pwr.ofs → o.1 = core.toNat →
    s.marginNow core.toNat < 15 →
    ∃ t, exec (.deny 6 core) s = .next t ∧ t.obj (key (0x2100 + core.toNat) 3) = s.marginNow core.toNat + 1 ∧
      t.pwr = { s.pwr with ofs := s.pwr.ofs.filter (fun x => x.1 != core.toNat) } ∧ Safety.sameArray t s ∧ t.ops = s.ops)

/-- PROMISE_FLOOR_EVALUATION: a core's pending margin step that its promise floor admits is in force (R208); a step-down and cap
that every core's floor admits are granted, the GRANT saying both: a cap alone is in force with it, one beside a lower envelope waits
with that for the settled reports (R208, R342, R344). That a GRANT of an envelope alone carries the cap in force, and one of a cap alone the
envelope in force, is the model's own choice (log 47). -/
def Obligations.Promise_floor_grants_what_it_admits : Prop :=
  (∀ (c : Nat) (s : State), c < s.conf.cores → s.pwr.pendEnv = none → s.pwr.pendCap = none →
    s.obj (key (0x2100 + c) 1) < s.obj (key (0x2100 + c) 3) → s.withinFloor c = true →
    (∀ x, x < s.conf.cores → x ≠ c → s.obj (key (0x2100 + x) 3) ≤ s.obj (key (0x2100 + x) 1)) →
    exec .promiseFloorEvaluation s = .next (s.setObj (key (0x2100 + c) 1) (s.obj (key (0x2100 + c) 3)))) ∧
  (∀ s : State, (∀ x, x < s.conf.cores → s.obj (key (0x2100 + x) 3) ≤ s.obj (key (0x2100 + x) 1)) →
    (∀ c, c < s.conf.cores → s.withinFloor c = true) → s.pwr.granted = none → s.up 25 = true → s.capW < 4096 →
    (∀ e, s.pwr.pendEnv = some e → e < 3 → s.pwr.pendCap = none →
      ∃ t, exec .promiseFloorEvaluation s = .next t ∧ t.pwr = { s.pwr with granted := some e, grantCap := none, met := [] } ∧
        t.out = s.out ++ [.power (BitVec.ofNat 64 (2 ^ 60 + 5 * 2 ^ 56 + e * 2 ^ 54 + s.capW * 2 ^ 42))] ∧
        { t with pwr := s.pwr, out := s.out } = s) ∧
    (∀ e w, s.pwr.pendEnv = some e → e < 3 → s.pwr.pendCap = some w → w < 4096 →
      ∃ t, exec .promiseFloorEvaluation s = .next t ∧ t.pwr = { s.pwr with granted := some e, grantCap := some w, met := [] } ∧
        t.out = s.out ++ [.power (BitVec.ofNat 64 (2 ^ 60 + 5 * 2 ^ 56 + e * 2 ^ 54 + w * 2 ^ 42))] ∧
        { t with pwr := s.pwr, out := s.out } = s) ∧
    (∀ w, s.pwr.pendCap = some w → w < 4096 → s.pwr.pendEnv = none →
      ∃ t, exec .promiseFloorEvaluation s = .next t ∧ t.capW = w ∧ t.pwr.pendCap = none ∧ t.pwr.granted = none ∧ t.pwr.firstReq = none ∧
        t.out = s.out ++ [.power (BitVec.ofNat 64 (2 ^ 60 + 5 * 2 ^ 56 + s.pwr.env * 2 ^ 54 + w * 2 ^ 42))] ∧ Safety.sameArray t s))

/-- FORECAST_LEAD_EXPIRY gives the level of the oldest forecast whose lead has run out (R332). BALLAST_HOLD_EXPIRY takes a core's
intervals whose hold has ended out of the plan, which prices their tapers as draw, and forecasts the lower level, the highest that the
plan still holds, with LEAD 0 (R333, R334). EXCURSION, an island out of its
band for more than 200 steps, closes admission with its record, once for each island, and EXCURSION_END reopens it 10,000 steps after the last such
report (R339). STROBE_LOST and STROBE_RESTORED stop the counter and let it go on, each with its record (R408). A BAD_MESSAGE
is recorded and has no other effect (R337). -/
def Obligations.Supply_events_have_their_effect : Prop :=
  (∀ (f : Forecast) (s : State), s.pwr.fcs.find? (fun f => decide (f.sent + f.lead ≤ s.now)) = some f →
    exec .forecastLeadExpiry s =
      .next { s with pwr := { s.pwr with fLevel := f.level * 100000, fcs := s.pwr.fcs.filter (fun x => x != f) } }) ∧
  (∀ (core : Nat) (p : PlanCore) (s : State), p ∈ s.pwr.plan → p.core = core → s.holdOver p = true → s.up 25 = true →
    let past (x : PlanCore) : Bool := x.core == core && s.holdOver x
    let tapers := s.pwr.taper.filter (fun x => s.drawAt x s.now != 0) ++ (s.pwr.plan.filter past).map (fun x => { x with until_ := s.now })
    let u : State := { s with pwr := { s.pwr with plan := s.pwr.plan.filter (fun x => !past x), taper := tapers } }
    let level := ceilDiv u.peakAhead 100000
    ∃ t, exec (.ballastHoldExpiry core) s = .next t ∧ t.pwr.plan = u.pwr.plan ∧ t.pwr.taper = tapers ∧
      t.out = s.out ++ [.power (BitVec.ofNat 64 (2 ^ 60 + 2 * 2 ^ 56 + min level 65535 * 2 ^ 40))] ∧
      { t with pwr := s.pwr, out := s.out } = s ∧ { t.pwr with plan := s.pwr.plan, taper := s.pwr.taper, fLevel := s.pwr.fLevel } = s.pwr) ∧
  (∀ (core : Nat) (since : Nat) (s : State), (s.island core).outSince = some since → since + 200 < s.now → (s.island core).exc = false →
    ∃ t, exec (.excursion core) s = .next t ∧
      t.pwr = { s.pwr with exc := true, islands := sset .zero s.pwr.islands core { s.island core with exc := true } } ∧ Safety.sameArray t s ∧
      t.ops = s.ops.map (fun o => { o with dflt := true }) ∧ ∃ k ∈ t.errs.keys, k.cls = 0x18A ∧ k.loc = 25 * 256) ∧
  (∀ s : State, s.pwr.exc = true → s.pwr.excLast + 10000 ≤ s.now →
    exec .excursionEnd s = .next { s with pwr := { s.pwr with exc := false } }) ∧
  (∀ s : State, s.clk.lost = false →
    exec .strobeLost s = .next (({ s with clk := { s.clk with lost := true } } : State).event ⟨0x188, 3, 0x16, 27 * 256, none, none, 0⟩)) ∧
  (∀ s : State, s.clk.lost = true → s.boot.step ≠ 2 →
    exec .strobeRestored s =
      .next (({ s with clk := { s.clk with lost := false } } : State).event ⟨0x189, 0, 0x16, 27 * 256, none, none, 0⟩)) ∧
  (∀ (w : W64) (s : State), s.up 25 = true → badWord s.conf w = true →
    exec (.badMessage w) s = .next (s.event ⟨0x184, 2, 0x14, 25 * 256, none, none, 0x0E * 2 ^ 32 + w.toNat / 2 ^ 32⟩))

/-! ### Commands that write one object (R84, R171, R209, R214, R279, R286, R291, R340 to R344, R352 to R359, R366, R380, R410) -/

/-- A write that is answered with any status but OK has changed nothing but the requester's rate and kept answers (R380). -/
def Obligations.Write_without_ok_changes_nothing : Prop :=
  ∀ (c : Instr) (r : Req) (index sub : Nat) (s : State), Safety.objectOf c = some (r, index, sub) → Safety.served s r →
    (s.tran (Safety.tranOf r index sub)).2.1 ≠ 0 →
    ∃ t, exec c s = .next t ∧ Safety.answered s t r index sub (s.tran (Safety.tranOf r index sub)).2.1 ∧
      { t with mg := s.mg, out := s.out } = s

/-- COOLING_CLASS takes its value, and a lower one than the envelope becomes a pending step-down (R340). The envelope request is
a step-up asked of the stage, within the cooling class and past the dwell (R341), by an ENVREQ that carries the cap in force (the model's
own choice, log 47), or a pending step-down (R342). POWER_CAP: a
lower cap becomes pending, a higher one is in force (R344). PENDING_MARGIN_STEP takes its value from the floor up (R214), a smaller
step than the one in force at once (the model's own reading, log 40); MARGIN_STEP_IN_FORCE takes a value between the floor and the
old one (R209), a pending step that equalled the old one following it (log 40). -/
def Obligations.Power_writes_take_effect : Prop :=
  ∀ s : State,
    (∀ r, Safety.writes (.coolingClass r) s fun v t => t.obj (key 0x2000 0) = v ∧ t.pwr.env = s.pwr.env ∧
      t.pwr.pendEnv = (if v < s.envTarget then some v else s.pwr.pendEnv) ∧ Safety.sameArray t s ∧ t.ops = s.ops) ∧
    (∀ r, s.pwr.env < ofLe r.value → s.pwr.pending = false → s.pwr.up = none → ofLe r.value ≤ s.obj (key 0x2000 0) → s.dwells = false →
      Safety.writes (.envelopeStepUpRequest r) s fun v t => t.pwr = { s.pwr with up := some (v, s.now) } ∧
        (s.up 25 = true → s.capW < 4096 → Out.power (BitVec.ofNat 64 (2 ^ 60 + 3 * 2 ^ 56 + v * 2 ^ 54 + s.capW * 2 ^ 42)) ∈ t.out) ∧
        { t with pwr := s.pwr, mg := s.mg, out := s.out } = s) ∧
    (∀ r, ofLe r.value < s.envTarget → Safety.writes (.envelopeStepDownRequest r) s fun v t => t.pwr.pendEnv = some v ∧
      t.pwr.byStage = s.pwr.byStage ∧ t.pwr.up = none ∧ t.pwr.env = s.pwr.env ∧ Safety.sameArray t s ∧ t.ops = s.ops) ∧
    (∀ r, ofLe r.value = 0 ∨ (s.capRange.1 ≤ ofLe r.value ∧ ofLe r.value ≤ s.capRange.2) →
      (s.capLowers (ofLe r.value) = true → Safety.writes (.powerCap r) s fun v t => t.pwr.pendCap = some v ∧ t.pwr.up = none ∧
        t.capW = s.capW ∧ t.pwr.pendEnv = s.pwr.pendEnv ∧ Safety.sameArray t s ∧ t.ops = s.ops) ∧
      (s.capLowers (ofLe r.value) = false → ofLe r.value ≠ s.capPriced → s.pwr.pending = false → s.dwells = false →
        Safety.writes (.powerCap r) s fun v t => t.capW = v ∧ t.pwr = s.pwr ∧ Safety.sameArray t s ∧ t.ops = s.ops)) ∧
    (∀ core r, s.mfloor core ≤ ofLe r.value → Safety.writes (.pendingMarginStep core r) s fun v t =>
      t.obj (key (0x2100 + core) 3) = v ∧ t.obj (key (0x2100 + core) 1) = min v (s.obj (key (0x2100 + core) 1)) ∧
      { t with dict := s.dict, mg := s.mg, out := s.out } = s) ∧
    (∀ core r, s.mfloor core ≤ ofLe r.value → ofLe r.value ≤ s.obj (key (0x2100 + core) 1) →
      Safety.writes (.marginStepInForce core r) s fun v t => t.obj (key (0x2100 + core) 1) = v ∧
        t.obj (key (0x2100 + core) 3) =
          (if s.obj (key (0x2100 + core) 3) = s.obj (key (0x2100 + core) 1) then v else s.obj (key (0x2100 + core) 3)) ∧
        { t with dict := s.dict, mg := s.mg, out := s.out } = s)

/-- PENDING_BYPASS_MAP leaves the map in force as it is (R84). DECK_PAUSE holds the rotation (R286). RELEASE_REQUEST asks for a
deck test of the unit's core ahead of the rotation (R279). SWEEP_REQUEST starts a sweep of its unit, for a serializer while its
port is down (R291). DRAIN_REQUEST queues a row at the slot of its role, with the quarters that hold compare records then (R156, R170, R171). -/
def Obligations.Containment_writes_take_effect : Prop :=
  ∀ s : State,
    (∀ n r, Safety.writes (.pendingBypassMap n r) s fun v t => t.obj (key (0x8000 + n) 2) = v ∧ t.bypass n = s.bypass n ∧
      Safety.sameArray t s ∧ t.swr = s.swr ∧ t.ops = s.ops) ∧
    (∀ r, Safety.writes (.deckPause r) s fun v t => t.obj (key 0x5000 4) = v ∧
      { t with dict := s.dict, mg := s.mg, out := s.out } = s) ∧
    (∀ r, unitBuilt s.conf (relUnit (ofLe r.value)) = true → Safety.writes (.releaseRequest r) s fun v t =>
      t.obj (key 0x5000 6) = v ∧ (unitCore (relUnit v), some v) ∈ t.con.deck.prio ∧
      { t with dict := s.dict, con := s.con, mg := s.mg, out := s.out } = s) ∧
    (∀ u r, ofLe r.value = 1 → (64 ≤ u → u < 72 → (s.port (u - 47)).st ≠ 1 ∧ (s.port (u - 47)).st ≠ 2) →
      Safety.writes (.sweepRequest u r) s fun _ t => u ∈ t.con.sweeps ∧ t.obj (key (0x5200 + u) 3) = 1 ∧
        { t with dict := s.dict, con := s.con, mg := s.mg, out := s.out } = s) ∧
    (∀ r q, s.drq[roleSlot r.role]? = some q → q.state ≠ 1 → Safety.writes (.drainRequest r) s fun v t =>
      t.drq[roleSlot r.role]? =
        some ⟨v, r.tenant, s.adm.nextId, 1, s.cmpQuarters (TileRef.ofHandle (v % 65536)).quarters, [], []⟩ ∧
      { t with drq := s.drq, mg := s.mg, out := s.out } = s)

/-- TENANT_STATE admits a tenant, or has it leave while no region of it is open or closing (R356). CORE_OWNER and
QUADRANT_OWNERS become moves that wait for the core's ops (R358). BUFFER_RANGE takes effect once the tenant's ops that were
accepted before have delivered, at once where there are none: the bytes that leave its space read zero, and no other byte changes
(R359). -/
def Obligations.Tenancy_writes_take_effect : Prop :=
  ∀ s : State,
    (∀ k r, (ofLe r.value = 0 → s.hasRegion k = false) → Safety.writes (.tenantState k r) s fun v t =>
      t.obj (key (0x3100 + k) 0) = (if v = 1 then 1 else 2) ∧ { t with dict := s.dict, mg := s.mg, out := s.out } = s) ∧
    (∀ core r, ofLe r.value ≤ 15 ∨ ofLe r.value = 0xFE ∨ ofLe r.value = 0xFF → Safety.writes (.coreOwner core r) s fun v t =>
      ⟨key (0x3200 + core) 0, v, s.adm.nextId⟩ ∈ t.moves ∧ t.moving core = true ∧
      { t with moves := s.moves, mg := s.mg, out := s.out } = s) ∧
    (∀ n r, (∀ q, q < 4 → ofLe r.value / 256 ^ q % 256 ≤ 15 ∨ ofLe r.value / 256 ^ q % 256 = 0xFF) →
      Safety.writes (.quadrantOwners n r) s fun v t => ⟨key (0x8000 + n) 6, v, s.adm.nextId⟩ ∈ t.moves ∧ t.moving (n / 16) = true ∧
        { t with moves := s.moves, mg := s.mg, out := s.out } = s) ∧
    (∀ k sub r, s.moves = [] →
      let cl := sub / 2
      let old := s.spanNow k cl
      let new := if sub % 2 = 0 then (ofLe r.value, old.2) else (old.1, ofLe r.value)
      s.rangeOk k cl new = true →
      ((∀ o ∈ s.ops, o.d.tenant ≠ k) → Safety.writes (.bufferRange k sub r) s fun _ t => t.spanNow k cl = new ∧ t.moves = [] ∧
        ∀ a, t.buf.byte a =
          if cl * 2 ^ 25 + old.1 ≤ a ∧ a < cl * 2 ^ 25 + old.1 + old.2 ∧
              ¬(cl * 2 ^ 25 + new.1 ≤ a ∧ a < cl * 2 ^ 25 + new.1 + new.2) then 0 else s.buf.byte a) ∧
      ((∃ o ∈ s.ops, o.d.tenant = k ∧ o.id < s.adm.nextId) → Safety.writes (.bufferRange k sub r) s fun v t =>
        t.moves = [⟨key (0x3180 + k) sub, v, s.adm.nextId⟩] ∧ { t with moves := s.moves, mg := s.mg, out := s.out } = s))

/-- TRANSFER_OPEN begins a transfer of a kind and length, and TRANSFER_CHUNK adds the bytes at the next offset within it (R355);
TRANSFER_VERIFY ends it with the outcome of its checks: an image that passes goes to the slot not in force, any other changes
no image (R352). GFW_ACTIVATE, with an image there, closes admission for the warm reset that follows (R353). DEBUG_MODE: 0 ends
debug mode, and TMON begins it with another value (R366); that the end of debug mode clears the wrapper's enable, object 0x1303:00, is
the model's own reading (log 74). -/
def Obligations.Trust_writes_take_effect : Prop :=
  ∀ s : State,
    (∀ r, Safety.writes (.transferOpen r) s fun v t => t.tru.xKind = v / 2 ^ 60 ∧ t.tru.xTotal = v % 2 ^ 32 ∧ t.tru.xBytes = [] ∧
      t.tru.xOpen = true ∧ t.tru.images = s.tru.images ∧ { t with tru := s.tru, dict := s.dict, mg := s.mg, out := s.out } = s) ∧
    (∀ r, s.tru.xOpen = true → ofLe (r.value.take 8) = s.tru.xBytes.length →
      s.tru.xBytes.length + (r.value.drop 8).length ≤ s.tru.xTotal → Safety.writes (.transferChunk r) s fun _ t =>
        t.tru = { s.tru with xBytes := s.tru.xBytes ++ r.value.drop 8 } ∧ { t with tru := s.tru, mg := s.mg, out := s.out } = s) ∧
    (∀ r, ofLe r.value = 1 → s.tru.xOpen = true → Safety.writes (.transferVerify r) s fun _ t =>
      t.tru.xOpen = false ∧ t.tru.xBytes = [] ∧ t.tru.xStatus = s.judge s.tru.xBytes ∧ Safety.sameArray t s ∧ t.ops = s.ops ∧
      (s.judge s.tru.xBytes = 0 → imgKind s.tru.xBytes ≠ 5 → t.otherSlot (imgKind s.tru.xBytes) =
        some ⟨imgKind s.tru.xBytes, imgVer s.tru.xBytes, s.tru.xBytes, false⟩) ∧
      (s.judge s.tru.xBytes ≠ 0 → t.tru.images = s.tru.images ∧ t.tru.dbgOn = s.tru.dbgOn)) ∧
    (∀ r, ofLe r.value = 1 → (s.otherSlot 3).isSome = true → Safety.writes (.gfwActivate r) s fun _ t =>
      t.tru = { s.tru with jobAct := true } ∧ t.adm = { s.adm with openA := false } ∧
      { t with tru := s.tru, adm := s.adm, dict := s.dict, mg := s.mg, out := s.out } = s) ∧
    (∀ r, ofLe r.value = 0 ∨ r.role = .t → Safety.writes (.debugMode r) s fun v t => t.tru.dbgOn = decide (v ≠ 0) ∧
      t.obj (key 0xF000 0) = v ∧ (v = 0 → t.tru.dbgScope = 0 ∧ t.obj (key 0x1303 0) = 0) ∧ t.tru.images = s.tru.images ∧
      { t with tru := s.tru, dict := s.dict, mg := s.mg, out := s.out } = s)

/-- COLD_RESET_REQUEST: after the answer the block is held in its cold state and starts anew: counter 0, registers, weights and regions
gone, no op outstanding, cause 2 (R410). WARM_RESET_REQUEST: admission closes, and no op stays outstanding but the rerolls, the
contributions that have completed and what DRAINs cut short have still to clear, each of the others having its completion record (R410).
PORT_RESET: by a value of 1 the port is down or exchanges anew, which is recorded, and debug mode has ended (R366, R410, R414); a value of 0
leaves every port as it is. -/
def Obligations.Reset_requests_take_effect : Prop :=
  ∀ s : State,
    (∀ r, ofLe r.value = 1 → Safety.writes (.coldResetRequest r) s fun _ t => t.now = 0 ∧ t.boot.step = 2 ∧ t.boot.cold = true ∧
      t.regs = [] ∧ t.tiles = [] ∧ t.cells = [] ∧ t.shadow = [] ∧ t.chains = [] ∧ t.buf = ⟨[], [], []⟩ ∧ t.ops = [] ∧ t.regions = [] ∧
      t.adm.openA = false ∧ t.pwr.env = 0 ∧ t.obj (key 0x1300 1) = 2) ∧
    (∀ r, ofLe r.value = 2 → s.boot.warm = none → Safety.writes (.warmResetRequest r) s fun _ t => t.boot.warm = some s.now ∧
      t.boot.warmCause = 3 ∧ t.adm.openA = false ∧ (∀ o ∈ t.ops, o.k = .reroll ∨ o.k = .tagged ∨ o.k = .clear) ∧ t.clk = s.clk) ∧
    (∀ q r, q ≤ 25 → ofLe r.value = 1 → Safety.writes (.portReset q r) s fun _ t => (t.port q).st ≠ 2 ∧ (t.port q).st ≠ 3 ∧
      (t.port q).st ≠ 4 ∧ (s.mayExchange q = true → (t.port q).liveO = true ∧ (t.port q).st = 1) ∧ t.tru.dbgOn = false ∧
      (∃ k ∈ t.errs.keys, k.cls = 0x191 ∧ k.loc = q * 256)) ∧
    (∀ q r, q ≤ 26 → ofLe r.value = 0 → Safety.writes (.portReset q r) s fun _ t => t.ports = s.ports ∧ Safety.sameArray t s ∧ t.ops = s.ops ∧
      t.tru = s.tru)

/-! ### Start-up, resets and ports (R215, R250, R349, R353, R366, R373, R394 to R412) -/

/-- POWER_GOOD starts the block from its cold state with cause 1, and with the strobe present the power port comes up (R411);
POWER_GOOD_LOSS clamps every live output and clears all but what outlasts power (R402, R410). ADMISSION_OPEN ends start-up once
work and power ports are up and GFW serves (R411). WARM_RESET clears tiles, weights, regions and ops, keeps the counter, and starts
the ports again with admission closed (R410); an activation's takes place after its last op (R353). -/
def Obligations.Start_up_and_resets : Prop :=
  (∀ (fs : List OpeningFail) (s : State), s.pwrGood = false →
    ∃ t, exec (.powerGood fs) s = .next t ∧ t.pwrGood = true ∧ t.boot.step = 2 ∧ t.now = 0 ∧ t.adm.openA = false ∧ t.ops = [] ∧
      t.regs = [] ∧ t.cells = [] ∧ t.pwr.env = 0 ∧ t.obj (key 0x1300 1) = 1 ∧ (s.clk.lost = false → (t.port 25).liveO = true) ∧
      ∀ q, q ≠ 25 → (t.port q).liveO = false) ∧
  (∀ s : State, s.pwrGood = true →
    ∃ t, exec .powerGoodLoss s = .next t ∧ t.pwrGood = false ∧ t.now = 0 ∧ t.adm.openA = false ∧ t.ops = [] ∧ t.regs = [] ∧
      t.cells = [] ∧ (∀ q, (t.port q).liveO = false ∧ t.up q = false) ∧
      t.out = s.out ++ (s.ports.filter (fun e => e.2.liveO)).map (fun e => Out.live e.1 false)) ∧
  (∀ s : State, s.boot.step = 6 → s.up 0 = true → s.up 25 = true → s.clk.lost = false → s.tru.gfwDown = false → s.tru.jobAct = false →
    s.boot.warm = none →
    ∃ t, exec .admissionOpen s = .next t ∧ t.adm = { s.adm with openA := true } ∧ t.boot.step = 8 ∧
      (s.boot.cold = true → t.boot.duration = s.now - s.boot.pgAt) ∧ Safety.sameArray t s ∧
      (∃ k ∈ t.errs.keys, k.cls = 0x192) ∧
      (s.boot.cold = true → s.pwr.up = none → s.pwr.env < min (s.obj (key 0x2000 5)) (s.obj (key 0x2000 0)) →
        t.pwr.up = some (min (s.obj (key 0x2000 5)) (s.obj (key 0x2000 0)), s.now))) ∧
  (∀ s : State, (∃ t0, s.boot.warm = some t0 ∧ (s.adm.respQ = [] ∨ s.up 0 = false ∨ t0 + 100000 ≤ s.now)) ∨
      (s.boot.warm = none ∧ s.tru.jobAct = true ∧ ∀ o ∈ s.ops, o.k = .reroll ∨ o.k = .tagged ∨ o.k = .clear) →
    ∃ t, exec .warmReset s = .next t ∧ t.regs = [] ∧ t.tiles = [] ∧ t.cells = [] ∧ t.shadow = [] ∧ t.chains = [] ∧ t.ops = [] ∧
      t.regions = [] ∧ t.ranges = [] ∧ t.adm.openA = false ∧ t.clk = s.clk ∧ t.boot.warm = none ∧ t.tru.jobAct = false ∧
      t.obj (key 0x1300 1) = (if s.boot.warm = none then 4 else s.boot.warmCause))

/-- GFW_HEARTBEAT: GFW serves from now, and admission reopens where nothing else holds it closed; GFW_HEARTBEAT_TIMEOUT: 10,000 steps
without one close admission and restart GFW, a restart that fails leads to a warm reset (R349, R410), and an activated image that misses its
first heartbeat gives way to the other slot (R353). DEBUG_EXPIRY ends debug mode at its time (R366), and clears the wrapper's enable, object
0x1303:00, with it (the model's own reading, log 74). FLASH_COMMIT writes the copy that is not current with the object's value and makes it
current, and a failed one leaves both copies as they were (R373). -/
def Obligations.Firmware_timers_and_commits : Prop :=
  (∀ s : State, 6 ≤ s.boot.step → ∃ t, exec .gfwHeartbeat s = .next t ∧
    t.tru = { s.tru with heartbeat := s.now, gfwDown := false, fresh := false } ∧
    t.adm.openA = (s.adm.openA || (s.boot.step == 8 && !s.tru.jobAct && s.boot.warm.isNone)) ∧
    { t with tru := s.tru, adm := s.adm } = s) ∧
  (∀ s : State, 6 ≤ s.boot.step → s.tru.heartbeat + 10000 ≤ s.now → s.boot.warm = none → s.tru.fresh = false →
    (s.tru.gfwDown = false → ∃ t, exec .gfwHeartbeatTimeout s = .next t ∧ t.tru = { s.tru with gfwDown := true, heartbeat := s.now } ∧
      t.adm = { s.adm with openA := false } ∧ t.obj (key 0x7000 5) = min (2 ^ 32 - 1) (s.obj (key 0x7000 5) + 1) ∧
      { t with tru := s.tru, adm := s.adm, dict := s.dict } = s) ∧
    (s.tru.gfwDown = true → ∃ t, exec .gfwHeartbeatTimeout s = .next t ∧ t.boot.warm = some s.now ∧ t.boot.warmCause = 5 ∧
      t.adm.openA = false ∧ ∀ o ∈ t.ops, o.k = .reroll ∨ o.k = .tagged ∨ o.k = .clear)) ∧
  (∀ (i : Image) (s : State), 6 ≤ s.boot.step → s.tru.heartbeat + 10000 ≤ s.now → s.boot.warm = none → s.tru.fresh = true →
    s.otherSlot 3 = some i → ∃ t, exec .gfwHeartbeatTimeout s = .next t ∧ t.tru.gfwDown = true ∧ t.tru.fresh = false ∧
      t.tru.heartbeat = s.now ∧ t.adm = { s.adm with openA := false } ∧ t.obj (verKey 3) = i.dver ∧ t.obj (key 0x7000 6) = 1 ∧
      { t with tru := s.tru, adm := s.adm, dict := s.dict } = s) ∧
  (∀ s : State, s.tru.dbgOn = true → s.tru.dbgExpiry ≤ s.now → ∃ t, exec .debugExpiry s = .next t ∧
    t.tru = { s.tru with dbgOn := false, dbgScope := 0, dbgExpiry := 0 } ∧ t.obj (key 0xF000 0) = 0 ∧ t.obj (key 0x1303 0) = 0 ∧
    { t with tru := s.tru, dict := s.dict, mg := s.mg } = s) ∧
  (∀ (k : Nat) (s : State), k ∈ s.dict.commits →
    (∃ t, exec (.flashCommit k true) s = .next t ∧ t.dict.cur = !s.dict.cur ∧ t.dict.commits = s.dict.commits.filter (fun x => x != k) ∧
      t.dict.vals = s.dict.vals ∧ { t with dict := s.dict } = s ∧
      ∀ x, sfind (if t.dict.cur = true then t.dict.flash1 else t.dict.flash0) x =
        if x = k then some (s.obj k) else sfind (if s.dict.cur = true then s.dict.flash1 else s.dict.flash0) x) ∧
    (∃ t, exec (.flashCommit k false) s = .next t ∧ t.dict.cur = s.dict.cur ∧ t.dict.flash0 = s.dict.flash0 ∧
      t.dict.flash1 = s.dict.flash1 ∧ t.obj (key 0x0010 3) = min (2 ^ 32 - 1) (s.obj (key 0x0010 3) + 1)))

/-- The exchange of a port (R404). LIVE_RISE keeps the line; a port that is down and may exchange raises its own line and sends its CAP, the
management port, which has no exchange, being up; one that waits for its partner with its own line high begins the exchange; any other port
changes in nothing but the line. CAP: one that can be agreed on is answered with a CAPSEL, any other brings the port down with its REASON.
CAPSEL: the second one brings the port up when both agree on all but the pools (the model's own reading, log 30); with unequal ones, of
which R404 says nothing, the port stays in its exchange (the model's own reading, log 30). EXCHANGE_TIMEOUT, with the partner's line high,
brings it down with REASON 4. At step 2 of start-up, when the power port alone exchanges, a CAPSEL may also let start-up go on (R411).
QUARANTINE_HOLD_EXPIRY exchanges anew, after a quarantine and after an exchange that failed (R401, R404). -/
def Obligations.Port_exchange_runs_to_up_or_down : Prop :=
  (∀ (q : Nat) (s : State), portBuilt s.conf q = true → q ≤ 26 → (s.port q).liveI = false → (s.port q).st = 0 → s.mayExchange q = true →
     ∃ t, exec (.liveRise q) s = .next t ∧ (t.port q).liveI = true ∧ (t.port q).liveO = true ∧
       (t.port q).st = (if q = 26 then 2 else 1) ∧ (q ≠ 26 → Out.link q (s.ownCap q) ∈ t.out) ∧ Safety.sameArray t s ∧ t.ops = s.ops ∧
       ∀ x, x ≠ q → t.port x = s.port x) ∧
  (∀ (q : Nat) (s : State), portBuilt s.conf q = true → q ≤ 26 → (s.port q).liveI = false → (s.port q).st = 1 →
     ∃ t, exec (.liveRise q) s = .next t ∧ (t.port q).liveI = true ∧ (t.port q).liveO = (s.port q).liveO ∧
       (t.port q).since = s.portNow ∧ (t.port q).st = (if q = 26 then 2 else 1) ∧
       (q ≠ 26 → t.out = s.out ++ [.link q (s.ownCap q)] ∧ { t with ports := s.ports, out := s.out } = s) ∧ Safety.sameArray t s ∧
       t.ops = s.ops ∧ ∀ x, x ≠ q → t.port x = s.port x) ∧
  (∀ (q : Nat) (s : State), portBuilt s.conf q = true → q ≤ 26 → (s.port q).liveI = false → (s.port q).st ≠ 1 →
     (s.port q).st ≠ 0 ∨ s.mayExchange q = false →
     exec (.liveRise q) s = .next (s.setPort q { s.port q with liveI := true })) ∧
  (∀ (q : Nat) (w : W64) (s : State), portBuilt s.conf q = true → (Instr.cap q w).wf = true → linkBad w = false → (s.port q).liveI = true →
     (s.port q).st = 1 → (s.port q).capIn = none → (s.agreement q w).1 = 0 → (s.port q).selIn = none →
     exec (.cap q w) s = .next ((s.setPort q { s.port q with
       capIn := some w, pool := fld w 23 0, selOut := some (s.agreement q w).2 }).emit (.link q (s.agreement q w).2))) ∧
  (∀ (q : Nat) (w : W64) (s : State), portBuilt s.conf q = true → (Instr.cap q w).wf = true → linkBad w = false → (s.port q).liveI = true →
     (s.port q).st = 1 → (s.port q).capIn = none → (s.agreement q w).1 ≠ 0 →
     ∃ t, exec (.cap q w) s = .next t ∧ (t.port q).st = 0 ∧ (t.port q).liveO = false ∧ (t.port q).reason = (s.agreement q w).1 ∧
       Safety.sameArray t s) ∧
  (∀ (q : Nat) (w a : W64) (s : State), portBuilt s.conf q = true → (Instr.capsel q w).wf = true → linkBad w = false →
     (s.port q).liveI = true → (s.port q).st = 1 → (s.port q).selOut = some a → a.toNat / 2 ^ 24 = w.toNat / 2 ^ 24 →
     s.boot.step ≠ 2 ∨ q = 25 →
     ∃ t, exec (.capsel q w) s = .next t ∧ t.up q = true ∧ (t.port q).pool = (s.port q).pool ∧
       (t.port q).agreed = fld a 51 48 * 256 + fld a 43 36 ∧ (q = 0 → t.adm.wdCredits = 128) ∧
       (s.boot.step ≠ 2 → Safety.sameArray t s)) ∧
  (∀ (q : Nat) (w : W64) (s : State), portBuilt s.conf q = true → (Instr.capsel q w).wf = true → linkBad w = false →
     (s.port q).liveI = true → (s.port q).st = 1 → (s.port q).selOut = none →
     exec (.capsel q w) s = .next (s.setPort q { s.port q with selIn := some w }).bootOn) ∧
  (∀ (q : Nat) (w a : W64) (s : State), portBuilt s.conf q = true → (Instr.capsel q w).wf = true → linkBad w = false →
     (s.port q).liveI = true → (s.port q).st = 1 → (s.port q).selOut = some a → a.toNat / 2 ^ 24 ≠ w.toNat / 2 ^ 24 →
     exec (.capsel q w) s = .next (s.setPort q { s.port q with selIn := some w }).bootOn) ∧
  (∀ s : State, s.boot.step ≠ 2 → s.bootOn = s) ∧
  (∀ (q : Nat) (s : State), portBuilt s.conf q = true → (s.port q).st = 1 → (s.port q).liveI = true → s.timeUp (s.port q).since (s.obj (key 0x1302 4)) = true →
     ∃ t, exec (.exchangeTimeout q) s = .next t ∧ (t.port q).st = 0 ∧ (t.port q).liveO = false ∧ (t.port q).reason = 4 ∧
       Safety.sameArray t s) ∧
  (∀ (q : Nat) (s : State), portBuilt s.conf q = true → q ≤ 26 → (s.port q).st = 3 ∨ ((s.port q).st = 0 ∧ (s.port q).liveO = false) →
     s.mayExchange q = true → s.timeUp (s.port q).since (s.obj (key 0x1302 0)) = true →
     ∃ t, exec (.quarantineHoldExpiry q) s = .next t ∧ (t.port q).liveO = true ∧
       (t.port q).st = (if (s.port q).liveI = true ∧ q = 26 then 2 else 1) ∧ Safety.sameArray t s)

/-- Faults of a port that exchanges or is up: a RACING_FAULT, or a SILENCE_BOUND_EXPIRY of kinds 0x6 and 0x7, quarantines it, for good at
the fourth time in an hour (R401); silence of another kind, LIVE_LOSS, a DOWN and a CREDIT_BOUND_EXPIRY bring it down (R400, R401). The
output is clamped, nothing is in flight any more, and a partner that was there is lost (R402, R406): with the power stage every op is lost,
but for what DRAINs cut short have still to clear (R154), and with the work source nothing is admitted and no op that it sent answers any
more. -/
def Obligations.Port_fault_takes_the_port_down : Prop :=
  ∀ (c : Instr) (q st : Nat) (s : State), portBuilt s.conf q = true → q ≤ 25 → (s.port q).liveI = true →
    ((s.port q).st = 1 ∨ (s.port q).st = 2) →
    let again : Bool := decide (3 ≤ ((s.port q).qtimes.filter (fun x => decide (s.portNow < x + 360000000000))).length)
    (((∃ chan kind, c = .racingFault q chan kind ∧ 1 ≤ kind ∧ kind ≤ 5) ∨ (∃ chan kind, c = .silenceBoundExpiry q chan kind ∧ (kind = 6 ∨ kind = 7))) ∧
        st = (if again = true then 4 else 3)) ∨
      (((∃ chan, c = .silenceBoundExpiry q chan 8) ∨ (∃ chan, c = .silenceBoundExpiry q chan 0xA ∧ s.messageMissing q = true) ∨
        c = .liveLoss q ∨ (∃ w, c = .down q w ∧ c.wf = true ∧ linkBad w = false) ∨
        (∃ chan, c = .creditBoundExpiry q chan ∧ 1 ≤ q ∧ q ≤ 24 ∧ (s.port q).st = 2 ∧ (s.port q).cr = 0 ∧ (s.port q).fly ≠ [] ∧
          s.timeUp (s.port q).dry (s.obj (key 0x1302 5)) = true)) ∧ st = 0) →
    ∃ t, exec c s = .next t ∧ (t.port q).st = st ∧ (t.port q).liveO = false ∧ (t.port q).fly = [] ∧ (t.port q).cr = 0 ∧
      (t.port q).liveI = (if c = .liveLoss q then false else true) ∧
      ((s.port q).st = 2 → q = 25 → (∀ o ∈ t.ops, o.k = .clear) ∧ t.pwr.lost = true) ∧
      ((s.port q).st = 2 → q = 0 → t.adm.wdCredits = 0 ∧ t.adm.mute = s.adm.nextId)

/-- CREDIT_RETURN: beyond the first grant the flits returned leave flight, oldest first, and their credits are the block's again; the
partner's pool is never exceeded (R215, R404; beyond the pool nothing is counted, the model's own reading, log 41). With no frame waiting
nothing else of the port changes. -/
def Obligations.Credits_return_up_to_the_pool : Prop :=
  ∀ (q chan : Nat) (n : BitVec 8) (s : State), portBuilt s.conf q = true → 1 ≤ q → q ≤ 24 → s.up q = true → chan = s.backChan q →
    (s.port q).wait = [] → (s.port q).cr + sumN ((s.port q).fly.map (fun f => f.n)) ≤ (s.port q).pool →
    ∃ t, exec (.creditReturn q chan n) s = .next t ∧ (t.port q).cr = min (s.port q).pool ((s.port q).cr + n.toNat) ∧
      (t.port q).cr + sumN ((t.port q).fly.map (fun f => f.n)) ≤ (s.port q).pool ∧
      sumN ((t.port q).fly.map (fun f => f.n)) ≤ sumN ((s.port q).fly.map (fun f => f.n)) ∧
      { t.port q with cr := (s.port q).cr, fly := (s.port q).fly } = s.port q ∧ (∀ x, x ≠ q → t.port x = s.port x) ∧
      Safety.sameArray t s ∧ t.out = s.out

/-- MEMORY_READ_LINES: a line of an outstanding request for an op's tensor lands in a free slot of its staging ring, a line that
the fabric could not correct with poison (R132, R250), and no other byte changes; lines after the first land as if they had come by
themselves; a RESTORE takes its lines into the image that it reads (R365); lines that no request asked for overrun the port, which
is quarantined (R218). -/
def Obligations.Memory_lines_land_where_they_were_asked_for : Prop :=
  ∀ (q tag : Nat) (l : ReadLine) (s : State), portBuilt s.conf q = true → 1 ≤ q → q ≤ 16 → s.up q = true →
    (∀ (r : ReadReq) (o : Op), s.stg.reads.find? (fun r => r.q == q && r.tag == tag) = some r → 0 < r.left → s.op? r.op = some o →
      (o.k ≠ .restore →
        let base := bufAddr (opCluster o.d) (refStage (o.d.word r.ten) * 2048 + s.freeSlot o.id r.ten * 64)
        ∃ t, exec (.memoryReadLines q tag [l]) s = .next t ∧
          (∀ i, i < 64 → t.buf.byte (base + i) = (l.data.ushiftRight (8 * i)).setWidth 8 ∧
            t.buf.readPsn (base + i) = decide (2 ≤ l.ecc.toNat)) ∧
          (∀ a, a < base ∨ base + 64 ≤ a → t.buf.byte a = s.buf.byte a) ∧
          (∃ x ∈ t.stg.lines, x.op = o.id ∧ x.ten = r.ten ∧ x.seq = r.seq ∧ x.line = r.line) ∧
          t.regs = s.regs ∧ t.cells = s.cells ∧ t.ops = s.ops) ∧
      (o.k = .restore → ∃ t p, exec (.memoryReadLines q tag [l]) s = .next t ∧ t.op? o.id = some p ∧
        (r.line - refAddr o.d.w5 / 64, l.data) ∈ p.img ∧ t.buf = s.buf ∧ t.regs = s.regs) ∧
      (o.k ≠ .restore → ∀ (x : ReadLine) (ls : List ReadLine) (t : State), (x :: ls).length < r.left →
        exec (.memoryReadLines q tag [l]) s = .next t →
        exec (.memoryReadLines q tag (l :: x :: ls)) s = exec (.memoryReadLines q tag (x :: ls)) t)) ∧
    (s.stg.reads.find? (fun r => r.q == q && r.tag == tag) = none →
      ∃ t, exec (.memoryReadLines q tag [l]) s = .next t ∧ ((t.port q).st = 3 ∨ (t.port q).st = 4) ∧ (t.port q).liveO = false)

/-! ### Cascade frames (R236, R298 to R305, R308 to R318, R322, R323, R405) -/

/-- DATA: the elements of a frame that is accepted enter their registers at once, exactly and modulo 2^576, and are subtracted with
NEG = 1; special and poisoned elements change no register and no flag; the elements of a slot's first EL16 or comet contribution add
nothing to a term bound, and all others raise it by the most terms that the stream has brought to any one register (R309; the model's
own reading, log 55). Each new N passes its own check (R252), an element to a register. A frame that would raise a bound
above 2^48 adds nothing, and is answered TERMS. A frame one of whose rows is
not open to the range behind an earlier op, or behind an earlier frame of its stream, waits in its pool (the model's own choice, log
102). -/
def Obligations.Data_frame_adds_its_elements_exactly : Prop :=
  ∀ (q : Nat) (f : Frame) (g i : Nat) (r : Range) (sl : Slot) (es : List Elt) (s : State), Safety.arrives s q f 1 g →
    Safety.slotAt s f r i sl → frameSound f = true → frameElts f = some es → f.fseq = sl.expects (streamOf sl f) →
    (streamOf sl f = .contrib → sl.await = none ∧ (sl.st = .empty ∨ (sl.st = .receiving ∧ sl.src = f.src ∧ sl.cid = f.cid)) ∧
      r.takes f.efmt = true ∧ f.relems = r.elems ∧ s.widthOk r f = true ∧
      sl.ledger.length + (es.zipIdx.filter (fun e => e.1.special && decide (f.feoff + e.2 < r.elems))).length ≤ 64) →
    streamOf sl f ≠ .none →
    let had := if sl.expects (streamOf sl f) = 0 then [] else sl.tq
    let ts := grown had (if streamOf sl f ≠ .contrib ∨ f.efmt = 2 ∨ sl.used = true then s.eltTerms r had f.feoff es else [])
    (s.dataWaits f = true ∨ s.behind q f = true → exec (.data q f) s = .next (s.holdFrame q f)) ∧
    (s.dataWaits f = false → s.behind q f = false → s.termsOver ts = false →
      (∀ a b rk, s.rangeReg r a = some rk → s.rangeReg r b = some rk → a = b) →
      (∀ e ∈ es.zipIdx, ∀ rk, s.rangeReg r (f.feoff + e.2) = some rk → e.1.special = false →
        ((s.reg rk).add { e.1.inc with v := if f.neg = true then -e.1.inc.v else e.1.inc.v }).checks = true) → ∃ t, exec (.data q f) s = .next t ∧
      (∀ rk, (t.reg rk).n = (s.reg rk).n + BitVec.ofInt 576 ((if f.neg = true then -1 else 1) *
          ((es.zipIdx.filter (fun e => s.rangeReg r (f.feoff + e.2) == some rk && !e.1.special)).map (fun e => e.1.inc.v)).sum) ∧
        (t.reg rk).nan = (s.reg rk).nan ∧ (t.reg rk).pinf = (s.reg rk).pinf ∧ (t.reg rk).ninf = (s.reg rk).ninf ∧
        (t.reg rk).poison = (s.reg rk).poison) ∧
      (∀ k, (t.tileQ k).tb = (s.tileQ k).tb + sget 0 ts k) ∧ t.cells = s.cells ∧ t.shadow = s.shadow ∧ t.buf = s.buf) ∧
    (s.dataWaits f = false → s.behind q f = false → s.termsOver ts = true → s.route g f.src ≠ 0xFF → r.g = g →
      ∃ t n, exec (.data q f) s = .next t ∧ t.tiles = s.tiles ∧ (∀ rk, (t.reg rk).n = (s.reg rk).n) ∧
        Safety.posted t ((s.replyHdr g 3 f (8 * 2 ^ 24 + n % 2 ^ 24)).frame []) ∧
        (streamOf sl f = .contrib ∨ streamOf sl f = .retract → t.regs = s.regs ∧ n = sl.expects (streamOf sl f)))

/-- END: when its checksum is the owner's, a contribution is HELD if it is provisional and FINAL otherwise, its ledger entries then in
the flags of their registers; when it is not, its withdrawal is awaited (R311, R312, R317). A withdrawal and a retraction that took
back what the slot held empty it, an excised one apart, and a retraction leaves each flag of the ledger's registers as the entries of
the other FINAL slots have it (R312, R316, R318). Each is answered by its ACK (Table 12-5), and no register's number changes. -/
def Obligations.End_frame_closes_its_stream : Prop :=
  ∀ (q : Nat) (f : Frame) (g i : Nat) (r : Range) (sl : Slot) (s : State), Safety.arrives s q f 2 g → Safety.slotAt s f r i sl →
    s.behind q f = false → r.g = g → s.route g f.src ≠ 0xFF → f.fseq = sl.expects (streamOf sl f) →
    let w := sl.wd.getD (0, 0)
    let ack (code n : Nat) : Frame := (s.replyHdr g 3 f (code * 2 ^ 24 + n % 2 ^ 24)).frame []
    (streamOf sl f = .contrib → sl.await = none →
      (sl.st = .receiving ∧ sl.src = f.src ∧ sl.cid = f.cid) ∨ (sl.st = .empty ∧ r.elems = 0) →
      (sl.cs = f.cs → (r.excise = false ∨ sl.ledger.any (fun e => bitOf e.2 0) = false) → f.prov = true →
        ∃ t x, exec (.end_ q f) s = .next t ∧ Safety.slotNow t f i = some x ∧ x.st = .held ∧ Safety.posted t (ack 1 sl.nf) ∧
          t.regs = s.regs) ∧
      (sl.cs = f.cs → (r.excise = false ∨ sl.ledger.any (fun e => bitOf e.2 0) = false) → f.prov = false →
        ∃ t x, exec (.end_ q f) s = .next t ∧ Safety.slotNow t f i = some x ∧ x.st = .final ∧ x.csum = sl.cs ∧
          Safety.posted t (ack 0 sl.nf) ∧
          ∀ rk, (t.reg rk).n = (s.reg rk).n ∧ ∀ b, b < 4 → Safety.flagOf (t.reg rk) b = (Safety.flagOf (s.reg rk) b ||
            sl.ledger.any (fun e => s.rangeReg r e.1 == some rk && bitOf e.2 b))) ∧
      (sl.cs ≠ f.cs → ∃ t x, exec (.end_ q f) s = .next t ∧ Safety.slotNow t f i = some x ∧ x.await = some 4 ∧ x.again = true ∧
        Safety.posted t (ack 4 sl.nf) ∧ t.regs = s.regs)) ∧
    (streamOf sl f = .withdraw → w.1 = sl.nf → w.2 = f.cs → (w.2 + sl.cs) % csMod = 0 →
      ∃ t x, exec (.end_ q f) s = .next t ∧ Safety.slotNow t f i = some x ∧
        x.st = (if sl.await = some 2 then SlotState.excised else SlotState.empty) ∧ x.used = true ∧ Safety.posted t (ack 0xB w.1) ∧
        t.regs = s.regs) ∧
    (streamOf sl f = .retract → w.2 = f.cs → (w.2 + sl.csum) % csMod = 0 →
      (∀ a b rk, s.rangeReg r a = some rk → s.rangeReg r b = some rk → a = b) →
      ∃ t x, exec (.end_ q f) s = .next t ∧ Safety.slotNow t f i = some x ∧ x.st = .empty ∧ x.used = true ∧ Safety.posted t (ack 0xC w.1) ∧
        (∀ rk, (t.reg rk).n = (s.reg rk).n) ∧
        ∀ e rk b, e ∈ sl.ledger → s.rangeReg r e.1 = some rk → b < 4 → (Safety.flagOf (t.reg rk) b = true ↔
          ∃ y ∈ r.slots.zipIdx, y.2 ≠ i ∧ y.1.st = .final ∧ ∃ z ∈ y.1.ledger, z.1 = e.1 ∧ bitOf z.2 b = true))

/-- The other frames and events of an owner. COLLECT makes its sender a collector of an outstanding range, and is answered NORANGE
otherwise (R313). COMMIT_NOTICE makes the HELD slots of its region FINAL (R317), in a fenced
epoch those of the owner ops that the fence let run (R237, R238). RANGE_TIMEOUT aborts an unfinished range (R322).
RESEND sends a job again from the frame named, once (R305). ABORT loses the ops that name the range at the sender (R322). REVOKE
raises the floor of the group's tenant and stops its newly fenced group ops (R323). A RESERVED_FRAME_TYPE has its credit returned
and no other effect (R303). -/
def Obligations.Other_frames_have_their_effect : Prop :=
  ∀ (q : Nat) (f : Frame) (g : Nat) (s : State),
    (Safety.arrives s q f 6 g → s.straggler f = false → s.route g f.src ≠ 0xFF →
      (∀ (r : Range) (o : Op), s.frameRange f = some r → s.rangeOp r = some o → ∃ t x, exec (.collect q f) s = .next t ∧
        t.frameRange f = some x ∧ f.src ∈ x.colls ∧ x.slots = r.slots ∧ t.regs = s.regs) ∧
      ((s.frameRange f).bind s.rangeOp = none → ∃ t, exec (.collect q f) s = .next t ∧ Safety.posted t ((s.replyHdr g 3 f (6 * 2 ^ 24)).frame []) ∧
        t.ranges = s.ranges ∧ t.regs = s.regs)) ∧
    (Safety.arrives s q f 7 g → ∃ t, exec (.commitNotice q f) s = .next t ∧
      (∀ (r : Range) (i : Nat) (sl : Slot), r ∈ s.ranges → r.g = g →
        (s.epochLive f.tenant f.epoch = true ∨ ∃ o, s.rangeOp r = some o ∧ liveFor o f.epoch = true) →
          s.range? r.group r.bucket r.eoff = some r → r.slots[i]? = some sl →
        sl.st = .held → sl.src = f.src → sl.prov = some (f.tenant, f.region, f.epoch) →
        ∃ x y, t.range? r.group r.bucket r.eoff = some x ∧ x.slots[i]? = some y ∧ y.st = .final) ∧
      ∀ rk, (t.reg rk).n = (s.reg rk).n) ∧
    (∀ (r : Range) (x : Op), s.range? f.group f.bucket f.reoff = some r → s.rangeOp r = some x → r.complete = false →
      r.last + s.obj (key (0x6000 + r.g) 7) ≤ s.now →
      ∃ t, exec (.rangeTimeout f.group f.bucket f.reoff) s = .next t ∧ t.range? f.group f.bucket f.reoff = none ∧
        (∀ o ∈ t.ops, o.id ≠ x.id) ∧ ∃ k ∈ t.errs.keys, k.cls = 0x10B) ∧
    (∀ j : Job, Safety.arrives s q f 4 g → s.strayBack f = false → s.resendJob g f = some j →
      ∃ t x, exec (.resend q f) s = .next t ∧ x ∈ t.jobs ∧ x.id = j.id ∧ x.next = f.ctl ∧ x.resent = true ∧ x.ended = false ∧
        t.regs = s.regs ∧ t.buf = s.buf) ∧
    (Safety.arrives s q f 9 g → s.strayBack f = false → ∃ t, exec (.abort q f) s = .next t ∧ ∀ o ∈ t.ops, names o f = false) ∧
    (Safety.arrives s q f 8 g → s.epochLive (s.obj (key (0x6000 + g) 3)) (f.ctl % 65536) = true →
      let tn := s.obj (key (0x6000 + g) 3)
      ∃ t, exec (.revoke q f) s = .next t ∧ t.obj (key (0x3100 + tn) 1) = f.ctl % 65536 ∧
        ∀ o ∈ t.ops, o.k.group = true → o.d.tenant = tn →
          newlyFenced (s.obj (key (0x3100 + tn) 1)) (f.ctl % 65536 + 65535) o.d.epoch = true → o.stopped = true) ∧
    ((Instr.reservedFrameType q f).wf = true → s.noPort q = false → s.hears q f = true →
      ∃ t, exec (.reservedFrameType q f) s = .next t ∧ (q = 0xFE → t = { s with loop := s.loop.drop 1 }) ∧
        (q ≠ 0xFE → t.out = s.out ++ [.credit q 0x0D (1 + f.payload.length)] ∧ { t with ports := s.ports, out := s.out } = s ∧
          ∀ x, { t.port x with rx := (s.port x).rx } = s.port x))

/-- The contributor's side. FRAME_SEND: the next frame of a job leaves on the route to its position, over a cascade port or on the loopback
path (R295), once the credits and the allotment hold it, and the job moves on (R302, R304). ACK: the op takes the owner's answer; FINAL and
HELD end it as Table 12-5 says, RETRACTED a retraction, a code that takes back has it send its elements again with NEG turned, any other
code fails it, and every code but FINAL a collection, which has sent none (R314); WITHDRAWN then ends a squashed or retracting op, and one
that was excised completes EXCISED (R314, R316). RESULT: the elements are written at the DATA of each op that awaits them, poison with them
(R314). -/
def Obligations.Contributions_are_sent_and_answered : Prop :=
  (∀ (id : Nat) (faults : List ReadFault) (j : Job) (o : Op) (f : Frame) (s : State), s.jobs.find? (fun j => j.id == id) = some j → j.ended = false →
    s.op? j.op = some o → s.retractWaits o = false → s.nextFrame o j faults = some f → s.maySend j.g j.dest (frameFlits f) = true →
    ∃ t x, exec (.frameSend ⟨id, faults⟩) s = .next t ∧ x ∈ t.jobs ∧ x.id = id ∧
      x.next = (if f.ftype = 1 ∨ f.ftype = 5 then j.next + 1 else j.next) ∧ (f.ftype ≠ 1 → f.ftype ≠ 5 → x.ended = true) ∧
      (s.route j.g j.dest = 0xFE → t.loop = s.loop ++ [f]) ∧
      (s.route j.g j.dest ≠ 0xFE → s.out ++ [.frame (17 + s.route j.g j.dest) f] <+: t.out ∧ t.loop = s.loop) ∧
      (f.ftype ≠ 1 ∨ xredNames o.d = false → t.regs = s.regs) ∧ t.buf = s.buf ∧ t.cells = s.cells) ∧
  (∀ (q : Nat) (f : Frame) (g : Nat) (o : Op) (s : State), Safety.arrives s q f 3 g → s.strayBack f = false → s.ackedOp f = some o →
    s.undoing o.id = false → (∀ h ∈ s.regions, h.closer ≠ some o.id) →
    let code := f.ctl / 2 ^ 24
    let n := f.ctl % 2 ^ 24
    ∃ t p, exec (.ack q f) s = .next t ∧ p ∈ t.ops ∧ p.id = o.id ∧ p.ackc = some code ∧ t.regs = s.regs ∧
      (withdrawsOn code n = true → o.k ≠ .collection → ∃ j ∈ t.jobs, j.op = o.id ∧ j.dest = o.d.dest ∧
        j.k = (if o.k = .retract then JobK.unretract else JobK.withdraw) ∧ j.total = min n (s.frameList o.d).length) ∧
      (code = 0 → o.k ≠ .retract → p.failed = o.failed ∧ (o.k = .trimmed → p.fin = true)) ∧
      (code = 1 → o.k ≠ .retract → o.k ≠ .collection → o.ending ≠ some 2 → p.fin = true ∧ p.failed = o.failed) ∧
      (code = 0xC → o.k = .retract → p.fin = true ∧ p.failed = o.failed) ∧
      (o.k = .collection → code ≠ 0 → p.failed = true ∧ p.fin = true) ∧
      (withdrawsOn code n = false → code ≠ 0 → code ≠ 1 → code ≠ 0xC → p.failed = true ∧ p.fin = true)) ∧
  (∀ (q : Nat) (f : Frame) (g : Nat) (o : Op) (s : State), Safety.arrives s q f 3 g → s.strayBack f = false → s.ackedOp f = some o →
    s.undoing o.id = true → o.k ≠ .tagged → f.ctl / 2 ^ 24 = 0xB → (∀ h ∈ s.regions, h.closer ≠ some o.id) →
    ∃ t p, exec (.ack q f) s = .next t ∧ p ∈ t.ops ∧ p.id = o.id ∧ t.regs = s.regs ∧
      (o.ending = some 2 ∨ o.ackc = some 1 → p.fin = true ∧ p.failed = o.failed) ∧
      (o.ending = none → o.ackc = some 2 → p.fin = true ∧ p.ending = some 5)) ∧
  (∀ (q : Nat) (f : Frame) (g : Nat) (s u : State), Safety.arrives s q f 5 g → s.strayBack f = false →
    (s.resultOps f = [] → ∃ t, exec (.result q f) s = .next t ∧ t.ops = s.ops ∧ Safety.sameArray t s ∧
      t.obj (key 0x6110 4) = min (2 ^ 32 - 1) (s.obj (key 0x6110 4) + 1)) ∧
    (s.resultOps f ≠ [] → s.behind q f = false → (∃ o ∈ s.resultOps f, f.fseq ≤ leading o) → (s.returnCredit q f).takeResults f (s.resultOps f) = some u →
      ∃ t, exec (.result q f) s = .next t ∧ t.regs = s.regs ∧ t.cells = s.cells ∧
        (∀ o ∈ s.resultOps f, ∃ p ∈ t.ops, p.id = o.id ∧ f.fseq ∈ p.rows ∧ (resultPoison f ≠ 0 → p.poisoned = true)) ∧
        ∀ o, s.resultOps f = [o] → refMem o.d.w5 = false → t.buf = s.buf.write ((resultBytes o f).map (fun b =>
          ⟨bufAddr (opCluster o.d) (refAddr o.d.w5 + b.off), b.v, b.q⟩))))

/-- Groups. CLAIM of a later term is answered with the member's route table, agreeing if the claimant is the lowest live position
(R298). CLAIMREPLY counts for the claim it answers, which more than half of the members win (R298). ELECTED names the first player
and its term (R298, R300). ALLOT: the allotments of every position are in force at once (R301). CLAIM_RETRY claims again (R298).
BEACON and BEACON_PERIOD keep members live, and MEMBER_LOST takes one out: it is first player no more, and no op that sends to it
stays (R299, R322, R405). -/
def Obligations.Groups_elect_and_keep_members : Prop :=
  ∀ (g : Nat) (s : State), g < 16 →
    (∀ (q : Nat) (f : Frame), Safety.arrives s q f 0xA g → (s.group g).term < f.term → s.route g f.src ≠ 0xFF →
      let agree := if f.src = s.lowestLive g then 2 ^ 31 else 0
      let h : Hdr := {
        ftype := 0xB
        tenant := s.groupTenant g
        src := s.posOf g
        dst := f.src
        group := s.obj (key (0x6000 + g) 0)
        term := f.term
        ctl := agree + s.lowestLive g % 64 }
      ∃ t, exec (.claim q f) s = .next t ∧ Safety.sameArray t s ∧ (t.group g).first = (s.group g).first ∧
        Safety.posted t (h.frame [byteFlit (s.routeTable g)])) ∧
    (∀ (q : Nat) (f : Frame) (c : Claim), Safety.arrives s q f 0xB g → (s.group g).claim = some c → f.term = c.term →
      bitOf (s.memberMask g) f.src = true → s.now ≤ c.since + 2000 →
      let agree := if bitOf f.ctl 31 = true then insN c.agree f.src else c.agree
      ∃ t, exec (.claimreply q f) s = .next t ∧ Safety.sameArray t s ∧
        (s.members g < 2 * agree.length →
          (t.group g).first = some (s.posOf g) ∧ (t.group g).term = c.term ∧ (t.group g).claim = none) ∧
        (2 * agree.length ≤ s.members g → (t.group g).claim = some { c with agree := agree } ∧ (t.group g).first = (s.group g).first)) ∧
    (∀ (q : Nat) (f : Frame), Safety.arrives s q f 0xC g → (s.group g).term < f.term →
      ∃ t, exec (.elected q f) s = .next t ∧ Safety.sameArray t s ∧ (t.group g).first = some f.src ∧ (t.group g).term = f.term ∧
        (t.group g).claim = none) ∧
    (∀ (q : Nat) (f : Frame), Safety.arrives s q f 0xD g → (s.group g).first = some f.src → f.term = (s.group g).term →
      ∃ t, exec (.allot q f) s = .next t ∧ Safety.sameArray t s ∧ t.ops = s.ops ∧
        ∀ pp, pp < 64 → t.allotment g pp = (payUnit f.payload pp).1.toNat % 32768) ∧
    (∀ c : Claim, (s.group g).claim = some c → c.since + 2000 ≤ s.now → 6 ≤ s.boot.step → s.memberMask g ≠ 0 → (s.group g).first = none →
      s.lowestLive g = s.posOf g → 2 ≤ s.members g →
      ∃ t, exec (.claimRetry g) s = .next t ∧ (t.group g).claim = some ⟨((s.group g).term + 1) % 2 ^ 32, s.now, [s.posOf g]⟩ ∧
        Safety.sameArray t s) ∧
    (∀ (q : Nat) (w : W64), (Instr.beacon q w).wf = true → linkBad w = false → portBuilt s.conf q = true → 17 ≤ q → q ≤ 24 →
      (s.port q).liveI = true → s.up q = true → s.slotOf (fld w 49 34) = some g → bitOf (s.memberMask g) (fld w 55 50) = true →
      fld w 55 50 ≠ s.posOf g →
      ∃ t, exec (.beacon q w) s = .next t ∧ fld w 55 50 ∈ (t.group g).live ∧ (fld w 55 50, s.portNow) ∈ (t.group g).heard ∧
        Safety.sameArray t s) ∧
    (∃ t, exec .beaconPeriod s = .next t ∧ Safety.sameArray t s ∧ t.ops = s.ops ∧
      ∀ p pp, p < s.conf.cascades → p < 8 → s.up (17 + p) = true → pp < 64 → s.route g pp = p →
        Out.link (17 + p) (beaconWord (s.posOf g) (s.obj (key (0x6000 + g) 0))) ∈ t.out) ∧
    (∀ (pos : Nat) (h : Nat × Nat), (s.group g).heard.find? (fun h => h.1 == pos) = some h → h.2 + s.obj (key 0x1302 3) ≤ s.portNow →
      pos ≠ s.posOf g →
      ∃ t, exec (.memberLost g pos) s = .next t ∧ pos ∉ (t.group g).live ∧ (t.group g).first ≠ some pos ∧
        ∀ o ∈ t.ops, o.k.sends = true → o.d.dest = pos → s.slotOf o.d.group ≠ some g)

/-! ### Records and management (R170, R171, R264, R265, R369, R376 to R390) -/

/-- Coalescing, rule R264: the class key of an event; a new key writes the record and opens; a further event of an open key counts and
writes nothing; a full table first closes the key that opened first, with its summary; COALESCING_INTERVAL_EXPIRY closes a key an interval
after it opened, with one summary record (count, time of the first repeat, DETAIL of the last) if it counted any. That the summary's W2
holds the place of the key's first event is the model's own choice (log 95). -/
def Obligations.Class_keys_coalesce_repeats : Prop :=
  (∀ (x : CoKey) (e : Event), x.isOf e = true ↔
    x.cls = e.cls ∧ x.unit = e.unit ∧ x.loc = e.loc ∧ x.pcol = e.pcol ∧ x.tenant = e.tenant) ∧
  (∀ (e : Event) (s : State), s.errs.keys.any (fun x => x.isOf e) = false → s.errs.keys.length < 64 → s.errs.full = false →
    ∃ x, (s.event e).errs.keys = s.errs.keys ++ [x] ∧ x.isOf e = true ∧ x.openedAt = s.now ∧ x.count = 0 ∧ x.sev = e.sev ∧
      (s.event e).errs.seq = (s.errs.seq + 1) % 2 ^ 32 ∧ (s.event e).errs.unret = s.errs.unret ++ [s.errs.seq] ∧
      sget ⟨0, 0, 0, 0⟩ (s.event e).errs.ring (s.errs.seq % 1024) =
        ⟨recW0 0 e.sev e.cls e.tenant s.errs.seq, BitVec.ofNat 64 s.now, e.w2, BitVec.ofNat 64 (2 ^ 40 + e.detail % 2 ^ 40)⟩ ∧
      { (s.event e) with errs := s.errs } = s) ∧
  (∀ (e : Event) (s : State), s.errs.keys.any (fun x => x.isOf e) = true →
    { (s.event e) with errs := s.errs } = s ∧
    (s.event e).errs = { s.errs with keys := s.errs.keys.map (fun x =>
      if x.isOf e then { x with count := x.count + 1, firstRep := if x.count = 0 then s.now else x.firstRep, detail := e.detail }
      else x) }) ∧
  (∀ (e : Event) (x : CoKey) (r : List CoKey) (s : State), s.errs.keys.any (fun x => x.isOf e) = false → s.errs.keys = x :: r →
    s.errs.keys.length = 64 →
    s.event e = ((({ s with errs := { s.errs with keys := r } } : State).closeKey x).event e)) ∧
  (∀ (k : Nat) (x : CoKey) (s : State), s.errs.keys[k]? = some x → x.openedAt + s.obj (key 0x4000 3) ≤ s.now →
    ∃ t, exec (.coalescingIntervalExpiry k) s = .next t ∧ t.errs.keys = s.errs.keys.eraseIdx k ∧
      (x.count = 0 → { t with errs := s.errs } = s ∧ { t.errs with keys := s.errs.keys } = s.errs) ∧
      (x.count ≠ 0 → s.errs.full = false → { t with errs := s.errs } = s ∧ t.errs.seq = (s.errs.seq + 1) % 2 ^ 32 ∧
        sget ⟨0, 0, 0, 0⟩ t.errs.ring (s.errs.seq % 1024) =
          ⟨recW0 1 x.sev x.cls x.tenant s.errs.seq, BitVec.ofNat 64 x.firstRep, BitVec.ofNat 64 x.rcvw,
            BitVec.ofNat 64 (min x.count (2 ^ 24 - 1) * 2 ^ 40 + x.detail)⟩))

/-- Kept responses, rule R382: the responses to the last 16 WRITEs of a tracked source are kept for 100,000,000 steps; a WRITE whose
source and XID match a kept response is answered with it again and not executed; a READ is never kept. -/
def Obligations.Kept_responses_answer_repeated_writes : Prop :=
  ∀ (dg : Datagram) (index sub xid seq : Nat) (value : List Byte) (s : State), ((s.hearSource dg.src).drawM dg.src).2.1 = true →
    let answer (k : Kept) : Out := s.sends dg.src dg.sport (leBytes 8 k.w0.toNat ++ leBytes 8 k.w1.toNat)
    let live := s.mg.kept.filter (fun k => decide (s.now < k.time + 100000000))
    let own := live.filter (fun k => k.src == dg.src)
    let known := s.tracked.any (fun b => b.src == dg.src)
    (∀ k, Safety.message s dg 2 index sub xid seq value → known = true → own.find? (fun k => k.xid == xid) = some k →
      ∃ t, exec (.write dg) s = .next t ∧ answer k ∈ t.out ∧ { t with mg := s.mg, out := s.out } = s) ∧
    (Safety.message s dg 2 index sub xid seq value → (known = true ∨ s.tracked.length < 16) → index ≠ 0x1300 →
      (known = true → own.find? (fun k => k.xid == xid) = none) →
      ∃ t k, exec (.write dg) s = .next t ∧ k.src = dg.src ∧ k.xid = xid ∧ k.time = s.now ∧ answer k ∈ t.out ∧
        t.mg.kept.filter (fun k => k.src == dg.src) = own.drop (own.length - 15) ++ [k]) ∧
    (Safety.message s dg 1 index sub xid seq [] → ∃ t, exec (.write dg) s = .next t ∧ t.mg.kept = s.mg.kept)

/-- The management port. WRITE: a READ that passes every check is answered with the object's bytes and changes nothing, a WRITE
has the effect and the answer of its transaction (R369, R379, R380). EVACK of the event destination that echoes a message retires
its records and ends its resends (R387). EVENT_SEND sends the first waiting notice of an object that has none
unacknowledged, else the next records, within the in-flight limit (R385, R386); EVENT_RETRY sends the message again after the retry
interval, a notice with the value of then, which need not be noticed again (R385, R386). NEIGHBOUR_SOLICITATION and ECHO_REQUEST to
the block's address are answered (R376). DICTIONARY_DRAIN serves a queued row without changing a register, or refuses it outside its
role's reach (R170, R171). -/
def Obligations.Management_messages_have_their_effect : Prop :=
  (∀ (dg : Datagram) (index sub xid seq : Nat) (value : List Byte) (s : State), ((s.hearSource dg.src).drawM dg.src).2.1 = true →
    (Safety.message s dg 1 index sub xid seq [] → s.tranStatus ⟨.m, 0, false, index, sub, []⟩ = none →
      ∃ t, exec (.write dg) s = .next t ∧
        t.out = s.out ++ [s.sends dg.src dg.sport (respBytes 0 index sub xid (s.readBytes index sub))] ∧
        { t with mg := s.mg, out := s.out } = s) ∧
    (Safety.message s dg 2 index sub xid seq value → ((s.hearSource dg.src).drawM dg.src).1.keptFor dg.src xid = none → index ≠ 0x1300 →
      (index < 0x1310 ∨ 0x132A < index) →
      let r := s.tran ⟨.m, 0, true, index, sub, value⟩
      ∃ t, exec (.write dg) s = .next t ∧ s.sends dg.src dg.sport (respBytes r.2.1 index sub xid []) ∈ t.out ∧
        { t with mg := r.1.mg, out := r.1.out } = r.1)) ∧
  (∀ (dg : Datagram) (n xid seq : Nat) (f : Flying) (s : State), Safety.message s dg 5 0 n xid seq [] → dg.src = s.obj (key 0x4002 0) →
    s.mg.fly.find? (fun f => f.xid == xid) = some f →
    let heard := (s.hearSource dg.src).mg
    (f.isEvent = true → f.seq = seq → f.nrec = n → s.errs.lostN = 0 → ∃ t, exec (.evack dg) s = .next t ∧
      t.mg = { heard with fly := s.mg.fly.filter (fun x => x.xid != xid) } ∧
      t.errs = { s.errs with unret := s.errs.unret.filter (fun u => !f.seqs.elem u) } ∧
      { t with mg := s.mg, errs := s.errs, con := s.con } = s) ∧
    (f.isEvent = false → n = 0 → exec (.evack dg) s =
      .next { s with mg := { heard with fly := s.mg.fly.filter (fun x => x.xid != xid) } }) ∧
    (f.isEvent = true → f.seq ≠ seq ∨ f.nrec ≠ n → exec (.evack dg) s = .next { s with mg := heard })) ∧
  (∀ s : State, s.up 26 = true → s.mg.fly.length < s.obj (key 0x4002 3) →
    let asked (x : Nat) : Prop := ∃ f ∈ s.mg.fly, f.isEvent = false ∧ f.key = x
    (∀ l k r, s.mg.notices = l ++ k :: r → (∀ x ∈ l, asked x) → ¬asked k → s.mg.notices.Nodup →
      ∃ t, exec .eventSend s = .next t ∧ t.mg.notices = l ++ r ∧
      t.mg.fly = s.mg.fly ++ [⟨s.mg.nextXid, false, 0, 0, k, s.now⟩] ∧ t.mg.nextXid = (s.mg.nextXid + 1) % 2 ^ 32 ∧
      t.out = s.out ++ [s.sends (s.obj (key 0x4002 0)) (s.obj (key 0x4002 1)) (dgBytes
        (dgW0 6 0 (k / 256) (k % 256) (s.readBytes (k / 256) (k % 256)).length) (s.mg.nextXid * 2 ^ 32)
        (s.readBytes (k / 256) (k % 256)))]) ∧
    (∀ a r, (∀ x ∈ s.mg.notices, asked x) → s.nextRecords = a :: r → ∃ t, exec .eventSend s = .next t ∧
      t.mg.fly = s.mg.fly ++ [⟨s.mg.nextXid, true, a, (a :: r).length, 0, s.now⟩] ∧ t.mg.evNext = (a + (a :: r).length) % 2 ^ 32 ∧
      t.mg.nextXid = (s.mg.nextXid + 1) % 2 ^ 32 ∧ t.errs = s.errs ∧ ∃ m, t.out = s.out ++ [s.sends (s.obj (key 0x4002 0)) (s.obj (key 0x4002 1)) m])) ∧
  (∀ (xid : Nat) (f : Flying) (s : State), s.mg.fly.find? (fun f => f.xid == xid) = some f → s.up 26 = true →
    f.sent + s.obj (key 0x4002 2) ≤ s.now → ∃ t, exec (.eventRetry xid) s = .next t ∧
      t.out = s.out ++ [s.sends (s.obj (key 0x4002 0)) (s.obj (key 0x4002 1)) (s.flyBytes f)] ∧
      (f.isEvent = false → s.mg.notices.Nodup → f.key ∉ t.mg.notices) ∧ (f.isEvent = true → t.mg.notices = s.mg.notices) ∧
      (∃ x ∈ t.mg.fly, x.xid = xid ∧ x.sent = s.now) ∧ { t with mg := s.mg, out := s.out, dict := s.dict } = s) ∧
  (∀ (src ident seq : Nat) (bs : List Byte) (s : State), s.up 26 = true → linkLocal src = true →
    (s.mg.ndTimes.filter (fun x => decide (s.now < x + 100000000))).length < 100 →
    (∃ t, exec (.neighbourSolicitation src s.ownAddress) s = .next t ∧ t.out = s.out ++ [.icmp 0 src 0 0 (leBytes 6 (s.obj (key 0x1400 2)))] ∧
      { t with mg := s.mg, out := s.out } = s) ∧
    (∃ t, exec (.echoRequest src s.ownAddress ident seq bs) s = .next t ∧ t.out = s.out ++ [.icmp 1 src ident seq bs] ∧
      { t with mg := s.mg, out := s.out } = s)) ∧
  (∀ (role : Role) (q : DrainSlot) (s : State), s.drq[roleSlot role]? = some q → q.state = 1 →
    let tile := TileRef.ofHandle (q.req % 65536)
    let row := fieldOf q.req 20 16
    (s.drainReach role q = false → ∃ t, exec (.dictionaryDrain role []) s = .next t ∧
      t.drq[roleSlot role]? = some { q with state := 2, codes := [], sb := [] } ∧ { t with drq := s.drq } = s) ∧
    (s.drainReach role q = true → (∀ o ∈ s.ops, o.id < q.at_ → s.rowPending o ⟨tile, row⟩ = false) →
      (∀ k ∈ s.rowKeys tile row 32, (s.reg k).checks = true) →
      let es := (s.rowKeys tile row 32).map (fun k =>
        drainElem (drqForm q k) (s.reg k) ⟨0, 0, false⟩)
      ∃ t, exec (.dictionaryDrain role []) s = .next t ∧ { t with drq := s.drq } = s ∧
        t.drq[roleSlot role]? = some { q with state := 0, codes := es.map (fun e => e.head), sb := es.map (fun e => e.sb) }))

/-! ### Containment and tenancy (R84, R273 to R279, R286, R287, R291, R356, R358, R359) -/

/-- DECK_ROTATION: a waiting priority or release test goes ahead, else the next core's turn comes each period: its test is pending and it is
not offered (R286). CORE_TEST_START: the deck is applied once every op on the core has delivered (R286). CORE_TEST_END: the core is offered
again; a passing test makes a suspect unit without offences healthy, an engine only once no bypass map is pending for it (R275, R276), a
failing one poisons the rows that it touched (R287) and leads to a pending map for a column, a pending quarantine for an engine (R275); a
release test that passes makes its unit healthy, one that fails leaves it quarantined, the rows that it touched poisoned too (R279, R287). -/
def Obligations.Deck_tests_cores_and_acts : Prop :=
  (∀ s : State, s.boot.step = 8 → s.con.deck.state = 0 →
    let prio := s.con.deck.prio.filter (fun p => p.2.isSome || !s.coreQuarantined p.1)
    (∀ p r, prio = p :: r → ∃ t, exec .deckRotation s = .next t ∧ t.con.deck.state = 1 ∧ t.con.deck.core = some p.1 ∧
      t.con.deck.rel = p.2 ∧ t.con.deck.prio = r ∧ t.obj (key 0x1000 0) = t.offeredMask ∧ Safety.sameArray t s ∧ t.ops = s.ops) ∧
    (∀ c, prio = [] → s.obj (key 0x5000 4) = 0 → s.con.deck.last + s.obj (key 0x5000 0) / s.conf.cores ≤ s.now →
      s.nextInRotation = some c → ∃ t, exec .deckRotation s = .next t ∧ t.con.deck.state = 1 ∧ t.con.deck.core = some c ∧
        t.con.deck.rel = none ∧ t.con.deck.next = (c + 1) % s.conf.cores ∧ t.con.deck.last = s.now ∧ Safety.sameArray t s ∧ t.ops = s.ops)) ∧
  (∀ (c : Nat) (s : State), c < s.conf.cores → s.con.deck.state = 1 → s.con.deck.core = some c → s.ops.any (fun o => opOnCore o c) = false →
    ∃ t, exec (.coreTestStart c) s = .next t ∧ t.con.deck = { s.con.deck with state := 2 } ∧ Safety.sameArray t s ∧ t.ops = s.ops) ∧
  (∀ (c : Nat) (s : State), c < s.conf.cores → s.con.deck.state = 2 → s.con.deck.core = some c →
    (s.con.deck.rel = none → s.con.deck.byPrio = false → ∃ t, exec (.coreTestEnd c none) s = .next t ∧ t.con.deck.state = 0 ∧
      t.con.deck.core = none ∧ Safety.sameArray t s ∧ t.ops = s.ops ∧
      ∀ u ∈ coreUnits c, s.obj (healthKey u) = 1 → s.offences u = 0 → s.mapPending u = false → t.obj (healthKey u) = 0) ∧
    (∀ f : DeckFail, s.con.deck.rel = none → s.coreHealth c ≠ 2 → ∃ t, exec (.coreTestEnd c (some f)) s = .next t ∧ t.con.deck.state = 0 ∧
      t.ops = s.ops ∧ t.cells = s.cells ∧
      (∀ p ∈ f.rows, ∀ k ∈ s.rowKeys ⟨c * 16 + p.1, 0⟩ p.2 32, (t.reg k).poison = true) ∧ (∀ k, (t.reg k).n = (s.reg k).n) ∧
      (∀ e col, f.scope = .column e col → bitOf (t.obj (key (0x8000 + (c * 16 + e)) 2)) (col % 32) = true ∧
        t.bypass (c * 16 + e) = s.bypass (c * 16 + e)) ∧
      (∀ e, f.scope = .engine e → t.obj (healthKey (.engine (c * 16 + e))) = max 2 (s.obj (healthKey (.engine (c * 16 + e))))) ∧
      (f.scope = .core → t.coreHealth c = max 2 (s.coreHealth c))) ∧
    (∀ a, s.con.deck.rel = some a → ∃ t, exec (.coreTestEnd c none) s = .next t ∧ t.con.deck.state = 0 ∧
      t.obj (healthKey (relUnit a)) = 0 ∧ t.offences (relUnit a) = 0 ∧ Safety.sameArray t s) ∧
    (∀ a f, s.con.deck.rel = some a → s.obj (healthKey (relUnit a)) = 3 → s.coreHealth c ≠ 2 →
      ∃ t, exec (.coreTestEnd c (some f)) s = .next t ∧ t.con.deck.state = 0 ∧ t.obj (healthKey (relUnit a)) = 3 ∧ t.ops = s.ops ∧
      t.cells = s.cells ∧ (∀ p ∈ f.rows, ∀ k ∈ s.rowKeys ⟨c * 16 + p.1, 0⟩ p.2 32, (t.reg k).poison = true) ∧
      (∀ k, (t.reg k).n = (s.reg k).n)))

/-- QUARANTINE: once its ops have delivered, a pending engine is quarantined, its weights 0x0000 and its tile registers kept; a core is with
all of its weights (R277). OFFENCE_DECAY: offences outside the window no longer count, and a suspect unit whose core has passed a test since
is healthy again, an engine once no bypass map is pending for it (R273, R275, R276). AGEING_SWEEP: the setting becomes f + 1 + G, or G when
no step fails, 15 when that exceeds 15, and the request ends (R291); R291 holds the setting at 15 for the reference sampler, and that a link
and a serializer hold it too is the model's own reading (log 69). -/
def Obligations.Quarantine_decay_and_sweeps : Prop :=
  (∀ (n : Nat) (s : State), n < s.conf.engines → s.obj (healthKey (.engine n)) = 2 →
    (∀ o ∈ s.ops, o.k = .drain ∨ o.k = .save ∨ s.usesEngine n o = false) →
    ∃ t, exec (.quarantine (.engine n)) s = .next t ∧ t.obj (healthKey (.engine n)) = 3 ∧ t.regs = s.regs ∧ t.tiles = s.tiles ∧
      t.ops = s.ops ∧ (∀ k, k / 1024 = n → sget Cell.zero t.cells k = .zero ∧ sget Cell.zero t.shadow k = .zero) ∧
      (∀ k, k / 1024 ≠ n → sget Cell.zero t.cells k = sget Cell.zero s.cells k ∧ sget Cell.zero t.shadow k = sget Cell.zero s.shadow k) ∧
      ∀ k ∈ t.swr, k / 64 ≠ n) ∧
  (∀ (c : Nat) (s : State), c < s.conf.cores → s.obj (healthKey (.drain c)) = 2 → s.ops.any (fun o => opOnCore o c) = false →
    ∃ t, exec (.quarantine (.drain c)) s = .next t ∧ t.obj (healthKey (.drain c)) = 3 ∧ bitOf (t.obj (key 0x1000 1)) c = true ∧
      t.regs = s.regs ∧ t.tiles = s.tiles ∧ t.ops = s.ops ∧
      (∀ k, k / 16384 = c → sget Cell.zero t.cells k = .zero ∧ sget Cell.zero t.shadow k = .zero) ∧
      ∀ k, k / 16384 ≠ c → sget Cell.zero t.cells k = sget Cell.zero s.cells k) ∧
  (∀ (u : HwUnit) (s : State), unitBuilt s.conf u = true → ∃ t, exec (.offenceDecay u) s = .next t ∧
    t.con.offences = s.con.offences.filter (fun e => e.1 != u || decide (s.now - e.2 < s.obj (key 0x5010 3))) ∧
    Safety.sameArray t s ∧ t.ops = s.ops ∧
    ((∀ c, u ≠ .link c) → s.obj (healthKey u) = 1 → u ∈ s.con.clean → t.offences u = 0 → s.mapPending u = false →
      t.obj (healthKey u) = 0)) ∧
  (∀ (u : Nat) (f : Option (BitVec 4)) (s : State), ageingBuilt s.conf u = true → s.con.sweeps.elem u = true → s.outOfUse u = true →
    ∃ t, exec (.ageingSweep u f) s = .next t ∧ u ∉ t.con.sweeps ∧ t.obj (key (0x5200 + u) 3) = 0 ∧
      t.obj (key (0x5200 + u) 0) = min 15 (match f with
        | none => s.obj (key (0x5200 + u) 1)
        | some x => x.toNat + 1 + s.obj (key (0x5200 + u) 1)) ∧ Safety.sameArray t s ∧ t.ops = s.ops)

/-- BYPASS_MAP_APPLY: an idle engine takes its pending map: its weights and its tile's registers are clear, no other register or
weight changes (R84). CORE_MOVE_COMPLETE: once the core's ops have delivered, its weights, registers and term bounds are clear, it
has shape 16×1, and its new owners are in force (R358). TENANT_RELEASE: once a leaving tenant's ops have delivered, its cores and
buffer space are released and its state is 0 (R356). -/
def Obligations.Maps_moves_and_releases : Prop :=
  (∀ (n : Nat) (s : State), n < s.conf.engines → s.mapReady n = true →
    ∃ t, exec (.bypassMapApply n) s = .next t ∧ t.bypass n = s.obj (key (0x8000 + n) 2) ∧ t.ops = s.ops ∧ t.buf = s.buf ∧
      (∀ k, k / 1024 = n → t.reg k = .zero ∧ sget Cell.zero t.cells k = .zero ∧ sget Cell.zero t.shadow k = .zero) ∧
      (∀ k, k / 1024 ≠ n → t.reg k = s.reg k ∧ sget Cell.zero t.cells k = sget Cell.zero s.cells k ∧
        sget Cell.zero t.shadow k = sget Cell.zero s.shadow k) ∧
      (∀ k ∈ t.swr, k / 64 ≠ n) ∧ ∀ k, k / 4 = n → t.tileQ k = .zero) ∧
  (∀ (c : Nat) (s : State), c < s.conf.cores → s.moving c = true → s.ops.any (fun o => opOnCore o c) = false → (s.moves.map (fun m => m.key)).Nodup →
    ∃ t, exec (.coreMoveComplete c) s = .next t ∧ t.moving c = false ∧ t.core c = .zero ∧ t.ops = s.ops ∧ t.buf = s.buf ∧
      (∀ m ∈ s.moves, isMoveOf c m = true → t.obj m.key = m.val) ∧ (∀ m ∈ s.moves, isMoveOf c m = false → m ∈ t.moves) ∧
      (∀ k, k / 16384 = c → t.reg k = .zero ∧ sget Cell.zero t.cells k = .zero ∧ sget Cell.zero t.shadow k = .zero) ∧
      (∀ k, k / 16384 ≠ c → t.reg k = s.reg k ∧ sget Cell.zero t.cells k = sget Cell.zero s.cells k) ∧
      ∀ k, k / 64 = c → (t.tileQ k).tb = 0) ∧
  (∀ (tn : Nat) (s : State), tn < 16 → s.obj (key (0x3100 + tn) 0) = 2 → s.ops.any (fun o => o.d.tenant == tn) = false →
    ∃ t, exec (.tenantRelease tn) s = .next t ∧ t.obj (key (0x3100 + tn) 0) = 0 ∧
      (∀ c, c < s.conf.cores → s.willBe (key (0x3200 + c) 0) = tn → t.willBe (key (0x3200 + c) 0) = 0xFF) ∧
      (∀ n, n < s.conf.engines → t.willBe (key (0x8000 + n) 6) = freeQuads tn (s.willBe (key (0x8000 + n) 6))) ∧
      (∀ cl, cl < s.conf.clusters → t.spanNext tn cl = (0, 0)) ∧ t.regs = s.regs ∧ t.cells = s.cells ∧ t.ops = s.ops)
end

