-- ==== Sys2Proof/Laws/Table.lean ====
section
/-! SUPPORT. Laws of the sparse tables and of rising lists: reads after writes, and the canonical form kept by every
operation on them. -/

namespace Sys2Proof.Machine

variable {α : Type} [DecidableEq α] {d v : α} {m : Sparse α} {k j : Nat}

/-- The canonical form above a lower bound, of a table with a first entry. -/
theorem swfFrom_cons {lo : Option Nat} {a : Nat} {r : Sparse α} :
    swfFrom d lo ((a, v) :: r) = true ↔ (∀ l, lo = some l → l < a) ∧ v ≠ d ∧ swfFrom d (some a) r = true := by
  cases lo <;> simp [swfFrom, and_assoc]

/-- A smaller lower bound keeps the canonical form. -/
theorem swfFrom_mono {lo lo' : Option Nat} (h : swfFrom d lo m = true)
    (hl : ∀ l', lo' = some l' → ∃ l, lo = some l ∧ l' ≤ l) : swfFrom d lo' m = true := by
  cases m with
  | nil => rfl
  | cons e r =>
    obtain ⟨a, w⟩ := e
    rw [swfFrom_cons] at h ⊢
    refine ⟨fun l' e' => ?_, h.2⟩
    obtain ⟨l, e1, e2⟩ := hl l' e'
    exact Nat.lt_of_le_of_lt e2 (h.1 l e1)

/-- A table in canonical form above any key is in canonical form. -/
theorem swf_of_from {lo : Option Nat} (h : swfFrom d lo m = true) : swf d m = true :=
  swfFrom_mono h (by simp)

/-- Placing an entry that is not the default keeps the canonical form. -/
theorem swfFrom_sput {lo : Option Nat} (h : swfFrom d lo m = true) (hk : ∀ l, lo = some l → l < k) (hv : v ≠ d) :
    swfFrom d lo (sput m k v) = true := by
  induction m generalizing lo with
  | nil =>
    rw [sput, swfFrom_cons]
    exact ⟨hk, hv, rfl⟩
  | cons e r ih =>
    obtain ⟨a, w⟩ := e
    rw [swfFrom_cons] at h
    unfold sput
    split
    · next hak => exact swfFrom_cons.mpr ⟨h.1, h.2.1, ih h.2.2 (fun l e1 => by cases e1; exact hak)⟩
    · next hak =>
      refine swfFrom_cons.mpr ⟨hk, hv, ?_⟩
      split
      · next e1 => exact e1 ▸ h.2.2
      · next hne => exact swfFrom_cons.mpr ⟨fun l e1 => by cases e1; exact Nat.lt_of_le_of_ne (Nat.not_lt.mp hak) (Ne.symm hne), h.2⟩

/-- Removing an entry keeps the canonical form. -/
theorem swfFrom_sdel {lo : Option Nat} (h : swfFrom d lo m = true) : swfFrom d lo (sdel m k) = true := by
  induction m generalizing lo with
  | nil => exact h
  | cons e r ih =>
    obtain ⟨a, w⟩ := e
    rw [swfFrom_cons] at h
    unfold sdel
    split
    · exact swfFrom_mono (ih h.2.2) (fun l e1 => ⟨a, rfl, Nat.le_of_lt (h.1 l e1)⟩)
    · rw [swfFrom_cons]
      exact ⟨h.1, h.2.1, ih h.2.2⟩

/-- A write keeps the canonical form. -/
theorem swf_sset (h : swf d m = true) : swf d (sset d m k v) = true := by
  unfold sset
  split
  · exact swfFrom_sdel h
  · next hv => exact swfFrom_sput h (by simp) hv

/-- Entries dropped or replaced in place by others than the default keep the canonical form. -/
theorem swfFrom_filterMap {β : Type} [DecidableEq β] {d' : β} {f : Nat × α → Option (Nat × β)} {lo : Option Nat}
    (h : swfFrom d lo m = true) (hf : ∀ e e', e.2 ≠ d → f e = some e' → e'.1 = e.1 ∧ e'.2 ≠ d') :
    swfFrom d' lo (m.filterMap f) = true := by
  induction m generalizing lo with
  | nil => rfl
  | cons e r ih =>
    obtain ⟨a, w⟩ := e
    rw [swfFrom_cons] at h
    rw [List.filterMap_cons]
    split
    · exact ih (swfFrom_mono h.2.2 (fun l e1 => ⟨a, rfl, Nat.le_of_lt (h.1 l e1)⟩))
    · next e' he =>
      obtain ⟨x, y⟩ := e'
      obtain ⟨h1, h2⟩ := hf (a, w) (x, y) h.2.1 he
      simp only at h1 h2
      subst h1
      rw [swfFrom_cons]
      exact ⟨h.1, h2, ih h.2.2⟩

/-- Entries dropped or replaced in place keep the canonical form. -/
theorem swf_filterMap {β : Type} [DecidableEq β] {d' : β} {f : Nat × α → Option (Nat × β)} (h : swf d m = true)
    (hf : ∀ e e', e.2 ≠ d → f e = some e' → e'.1 = e.1 ∧ e'.2 ≠ d') : swf d' (m.filterMap f) = true :=
  swfFrom_filterMap h hf

/-- Dropping entries keeps the canonical form. -/
theorem swf_filter {p : Nat × α → Bool} (h : swf d m = true) : swf d (m.filter p) = true := by
  have e : m.filter p = m.filterMap (fun x => if p x then some x else none) := by
    induction m with
    | nil => rfl
    | cons x r ih =>
      have hr : swf d r = true := swf_of_from (swfFrom_cons.mp (show swfFrom d none (x :: r) = true from h)).2.2
      by_cases hp : p x <;> simp [hp, ih hr]
  rw [e]
  exact swf_filterMap h (fun a b ha hb => by
    split at hb
    · cases hb; exact ⟨rfl, ha⟩
    · cases hb)

/-! ### Reads after writes -/

/-- A key below the first one of a canonical table is not listed. -/
theorem sfind_none_of_from {l : Nat} (h : swfFrom d (some l) m = true) (hk : k ≤ l) : sfind m k = none := by
  induction m generalizing l with
  | nil => rfl
  | cons e r ih =>
    obtain ⟨a, w⟩ := e
    rw [swfFrom_cons] at h
    have := h.1 l rfl
    unfold sfind
    rw [if_neg (by omega)]
    exact ih h.2.2 (by omega)

omit [DecidableEq α] in
/-- What a placed entry reads as. -/
theorem sfind_sput : sfind (sput m k v) j = if j = k then some v else sfind m j := by
  induction m with
  | nil => simp only [sput, sfind, eq_comm]
  | cons e r ih =>
    obtain ⟨a, w⟩ := e
    unfold sput
    split
    · next hak =>
      simp only [sfind, ih]
      by_cases hj : a = j
      · subst hj; simp [Nat.ne_of_lt hak]
      · simp [hj]
    · simp only [sfind, eq_comm (a := k)]
      split
      · rfl
      · next hj =>
        split
        · next e1 => rw [if_neg (fun e2 => hj (e2.symm.trans e1))]
        · rfl

omit [DecidableEq α] in
/-- What a removed entry reads as. -/
theorem sfind_sdel : sfind (sdel m k) j = if j = k then none else sfind m j := by
  induction m with
  | nil => simp [sdel, sfind]
  | cons e r ih =>
    obtain ⟨a, w⟩ := e
    unfold sdel
    split
    · next hak =>
      subst hak
      rw [ih]
      by_cases hj : j = a
      · simp [hj]
      · simp [sfind, hj, Ne.symm hj]
    · next hak =>
      simp only [sfind, ih]
      by_cases hj : j = k
      · subst hj; simp [hak]
      · simp [hj]

/-- A read after a write to the same key gives the value written; every other key reads as before. -/
theorem sget_sset : sget d (sset d m k v) j = if j = k then v else sget d m j := by
  unfold sset sget
  split
  · next hv =>
    rw [sfind_sdel]
    by_cases hj : j = k
    · simp [hj, hv]
    · simp [hj]
  · rw [sfind_sput]
    by_cases hj : j = k
    · simp [hj]
    · simp [hj]

/-- Every other key reads as before. -/
theorem sget_sset_ne (hj : j ≠ k) : sget d (sset d m k v) j = sget d m j := by rw [sget_sset, if_neg hj]

/-! ### Rising lists -/

/-- A rising list is a sorted one. -/
theorem rising_iff {l : List Nat} : rising l = true ↔ l.Pairwise (· < ·) := by
  induction l using rising.induct with
  | case1 => simp [rising]
  | case2 a => simp [rising]
  | case3 a b r ih =>
    rw [rising, Bool.and_eq_true, decide_eq_true_eq, ih, List.pairwise_cons (a := a)]
    exact and_congr_left fun h => ⟨fun hab => List.forall_mem_cons.mpr
      ⟨hab, fun x hx => Nat.lt_trans hab (List.rel_of_pairwise_cons h hx)⟩, fun h1 => h1 b List.mem_cons_self⟩

/-- The members after an insertion. -/
theorem mem_insN {l : List Nat} {x : Nat} : x ∈ insN l k ↔ x = k ∨ x ∈ l := by
  induction l with
  | nil => simp [insN]
  | cons a r ih =>
    unfold insN
    split
    · simp only [List.mem_cons, ih, or_left_comm]
    · split
      · next h => simp [h]
      · simp

/-- An insertion keeps a list rising. -/
theorem rising_insN {l : List Nat} (h : rising l = true) : rising (insN l k) = true := by
  rw [rising_iff] at *
  induction l with
  | nil => simp [insN]
  | cons a r ih =>
    rw [List.pairwise_cons] at h
    unfold insN
    split
    · next hak => exact List.pairwise_cons.mpr ⟨fun x hx => (mem_insN.mp hx).elim (· ▸ hak) (h.1 x), ih h.2⟩
    · next hak =>
      split
      · next e => exact e ▸ List.pairwise_cons.mpr h
      · have hka : k < a := by omega
        exact List.pairwise_cons.mpr ⟨List.forall_mem_cons.mpr ⟨hka, fun x hx => Nat.lt_trans hka (h.1 x hx)⟩, List.pairwise_cons.mpr h⟩

/-- A filter keeps a list rising. -/
theorem rising_filter {l : List Nat} {p : Nat → Bool} (h : rising l = true) : rising (l.filter p) = true := by
  rw [rising_iff] at *
  exact h.filter _

/-- Membership set to a truth value keeps a list rising. -/
theorem rising_putN {l : List Nat} {b : Bool} (h : rising l = true) : rising (putN l k b) = true := by
  unfold putN delN
  split
  · exact rising_insN h
  · exact rising_filter h

/-! ### The cluster buffer -/

/-- A write of several bytes keeps the canonical form of the buffer. -/
theorem wf_write {b : Buffer} (ws : List WByte) (h : Memory.wf b = true) : Memory.wf (b.write ws) = true := by
  simp only [Memory.wf, Bool.and_eq_true] at h ⊢
  exact ⟨⟨List.foldlRecOn ws _ h.1.1 (motive := fun m => swf (0 : Byte) m = true) fun _ hm _ _ => swf_sset hm,
    List.foldlRecOn ws _ h.1.2 (motive := fun l => rising l = true) fun _ hl _ _ => rising_putN hl⟩,
    List.foldlRecOn ws _ h.2 (motive := fun l => rising l = true) fun _ hl _ _ => rising_putN hl⟩

/-- A byte that a write does not name reads as before. -/
theorem byte_write_ne {b : Buffer} {ws : List WByte} {a : Nat} (ha : ∀ w ∈ ws, w.a ≠ a) : (b.write ws).byte a = b.byte a := by
  unfold Buffer.write Buffer.byte putBytes
  simp only
  induction ws generalizing b with
  | nil => rfl
  | cons w r ih =>
    have h1 : a ≠ w.a := fun e => ha w List.mem_cons_self e.symm
    have := ih (b := ⟨sset 0 b.bytes w.a w.v, b.par, b.psn⟩) (fun x hx => ha x (List.mem_cons_of_mem _ hx))
    simpa [sget_sset_ne h1] using this

end Sys2Proof.Machine
end

