-- ==== Sys2Proof/Laws/Keep.lean ====
section
/-! SUPPORT. The relation "this state comes from that one by the block's own operations": the queue and the configuration
stay, a good state stays good, the counter stays or is cleared, and what has been sent stays sent. The primitive updates of the state keep it. -/

namespace Sys2Proof.Machine

/-- The second state keeps the queue and the configuration of the first, is good if the first is, has sent what the first has
sent, and has its counter or the counter 0 of a cold reset. -/
structure Keeps (s0 s : State) : Prop where
  pending : s.pending = s0.pending
  conf : s.conf = s0.conf
  good : Safety.good s0 = true → Safety.good s = true
  count : s.clk.counter = s0.clk.counter ∨ s.clk.counter = 0
  sent : s0.out <+: s.out

/-- Nothing done keeps everything. -/
theorem Keeps.refl (s : State) : Keeps s s := ⟨rfl, rfl, id, Or.inl rfl, List.prefix_rfl⟩

/-- What is kept twice over is kept. -/
theorem Keeps.trans {a b c : State} (h : Keeps a b) (g : Keeps b c) : Keeps a c :=
  ⟨g.pending.trans h.pending, g.conf.trans h.conf, fun x => g.good (h.good x),
    g.count.elim (fun e => h.count.imp e.trans e.trans) Or.inr, h.sent.trans g.sent⟩

/-- A choice of two states that keep. -/
theorem Keeps.ite {s0 a b : State} {c : Prop} [Decidable c] (ha : Keeps s0 a) (hb : Keeps s0 b) : Keeps s0 (if c then a else b) := by
  split <;> assumption

/-- A fold of steps that keep. -/
theorem Keeps.foldl {s0 : State} {β : Type} {f : State → β → State} {l : List β} {s : State}
    (hf : ∀ s b, Keeps s0 s → Keeps s0 (f s b)) (h : Keeps s0 s) : Keeps s0 (l.foldl f s) :=
  List.foldlRecOn l f h (fun t ht x _ => hf t x ht)

/-- A fold of steps that keep, with something besides the state. -/
theorem Keeps.foldl_fst {s0 : State} {β γ : Type} {f : State × γ → β → State × γ} {l : List β} {a : State × γ}
    (hf : ∀ (a : State × γ) b, Keeps s0 a.1 → Keeps s0 (f a b).1) (h : Keeps s0 a.1) : Keeps s0 (l.foldl f a).1 :=
  List.foldlRecOn l f (motive := fun t => Keeps s0 t.1) h (fun t ht x _ => hf t x ht)

/-- The parts of a good state. -/
theorem good_iff {s : State} : Safety.good s = true ↔
    (Memory.wf s.buf = true ∧ swf .zero s.regs = true ∧ swf .zero s.tiles = true ∧ swf .zero s.cells = true ∧
      swf .zero s.shadow = true ∧ swf .zero s.cores = true ∧ swf .zero s.chains = true ∧ swf .zero s.ports = true ∧
      swf .zero s.spine = true ∧ swf .zero s.groups = true) ∧ Safety.recordsKept s.errs = true := by
  simp only [Safety.good, Safety.canonical, Bool.and_eq_true, and_assoc]

variable {s0 s : State}

/-- Fields that a good state says nothing about may change. -/
theorem Keeps.upd (h : Keeps s0 s)
    {x_pwrGood : Bool} {x_boot : Boot} {x_dict : Dict} {x_speed : Sparse (List W64 × List Nat)} {x_swr : List Nat} {x_stg : Staging} {x_adm : Adm} {x_ops : List Op} {x_slips : List (Res × Nat)} {x_regions : List Region} {x_drq : List DrainSlot} {x_ranges : List Range} {x_jobs : List Job} {x_nextJob : Nat} {x_loop : List Frame} {x_pwr : Power} {x_con : Contain} {x_tru : Trust} {x_moves : List Move} {x_mg : Mgmt} {x_freeCtr : Nat} :
    Keeps s0 (State.mk s.pending s.conf x_pwrGood s.clk x_boot x_dict x_speed s.regs s.tiles s.cells s.shadow x_swr s.cores s.chains s.buf x_stg s.spine x_adm x_ops x_slips x_regions x_drq s.groups x_ranges x_jobs x_nextJob x_loop x_pwr s.ports x_con x_tru x_moves x_mg s.errs s.out x_freeCtr) :=
  ⟨h.pending, h.conf, h.good, h.count, h.sent⟩

/-- Fields that a good state says nothing about do not count. -/
theorem Keeps.upd_iff
    {x_pwrGood : Bool} {x_boot : Boot} {x_dict : Dict} {x_speed : Sparse (List W64 × List Nat)} {x_swr : List Nat} {x_stg : Staging} {x_adm : Adm} {x_ops : List Op} {x_slips : List (Res × Nat)} {x_regions : List Region} {x_drq : List DrainSlot} {x_ranges : List Range} {x_jobs : List Job} {x_nextJob : Nat} {x_loop : List Frame} {x_pwr : Power} {x_con : Contain} {x_tru : Trust} {x_moves : List Move} {x_mg : Mgmt} {x_freeCtr : Nat} :
    Keeps s0 (State.mk s.pending s.conf x_pwrGood s.clk x_boot x_dict x_speed s.regs s.tiles s.cells s.shadow x_swr s.cores s.chains s.buf x_stg s.spine x_adm x_ops x_slips x_regions x_drq s.groups x_ranges x_jobs x_nextJob x_loop x_pwr s.ports x_con x_tru x_moves x_mg s.errs s.out x_freeCtr) ↔ Keeps s0 s :=
  ⟨fun h => ⟨h.pending, h.conf, h.good, h.count, h.sent⟩, fun h => ⟨h.pending, h.conf, h.good, h.count, h.sent⟩⟩

/-- The buffer may change to another good content. -/
theorem Keeps.upd_buf {y : Buffer} (h : Keeps s0 s) (hy : Memory.wf s.buf = true → Memory.wf y = true)
    {x_pwrGood : Bool} {x_boot : Boot} {x_dict : Dict} {x_speed : Sparse (List W64 × List Nat)} {x_swr : List Nat} {x_stg : Staging} {x_adm : Adm} {x_ops : List Op} {x_slips : List (Res × Nat)} {x_regions : List Region} {x_drq : List DrainSlot} {x_ranges : List Range} {x_jobs : List Job} {x_nextJob : Nat} {x_loop : List Frame} {x_pwr : Power} {x_con : Contain} {x_tru : Trust} {x_moves : List Move} {x_mg : Mgmt} {x_freeCtr : Nat} :
    Keeps s0 (State.mk s.pending s.conf x_pwrGood s.clk x_boot x_dict x_speed s.regs s.tiles s.cells s.shadow x_swr s.cores s.chains y x_stg s.spine x_adm x_ops x_slips x_regions x_drq s.groups x_ranges x_jobs x_nextJob x_loop x_pwr s.ports x_con x_tru x_moves x_mg s.errs s.out x_freeCtr) :=
  ⟨h.pending, h.conf, fun x => by
    have g := good_iff.mp (h.good x)
    obtain ⟨⟨c0, c1, c2, c3, c4, c5, c6, c7, c8, c9⟩, ce⟩ := g
    exact good_iff.mpr ⟨⟨(hy c0), c1, c2, c3, c4, c5, c6, c7, c8, c9⟩, ce⟩, h.count, h.sent⟩

/-- The registers may change to another good content. -/
theorem Keeps.upd_regs {y : Sparse LongReg} (h : Keeps s0 s) (hy : swf .zero s.regs = true → swf .zero y = true)
    {x_pwrGood : Bool} {x_boot : Boot} {x_dict : Dict} {x_speed : Sparse (List W64 × List Nat)} {x_swr : List Nat} {x_stg : Staging} {x_adm : Adm} {x_ops : List Op} {x_slips : List (Res × Nat)} {x_regions : List Region} {x_drq : List DrainSlot} {x_ranges : List Range} {x_jobs : List Job} {x_nextJob : Nat} {x_loop : List Frame} {x_pwr : Power} {x_con : Contain} {x_tru : Trust} {x_moves : List Move} {x_mg : Mgmt} {x_freeCtr : Nat} :
    Keeps s0 (State.mk s.pending s.conf x_pwrGood s.clk x_boot x_dict x_speed y s.tiles s.cells s.shadow x_swr s.cores s.chains s.buf x_stg s.spine x_adm x_ops x_slips x_regions x_drq s.groups x_ranges x_jobs x_nextJob x_loop x_pwr s.ports x_con x_tru x_moves x_mg s.errs s.out x_freeCtr) :=
  ⟨h.pending, h.conf, fun x => by
    have g := good_iff.mp (h.good x)
    obtain ⟨⟨c0, c1, c2, c3, c4, c5, c6, c7, c8, c9⟩, ce⟩ := g
    exact good_iff.mpr ⟨⟨c0, (hy c1), c2, c3, c4, c5, c6, c7, c8, c9⟩, ce⟩, h.count, h.sent⟩

/-- The planner state of the tiles may change to another good content. -/
theorem Keeps.upd_tiles {y : Sparse TileQ} (h : Keeps s0 s) (hy : swf .zero s.tiles = true → swf .zero y = true)
    {x_pwrGood : Bool} {x_boot : Boot} {x_dict : Dict} {x_speed : Sparse (List W64 × List Nat)} {x_swr : List Nat} {x_stg : Staging} {x_adm : Adm} {x_ops : List Op} {x_slips : List (Res × Nat)} {x_regions : List Region} {x_drq : List DrainSlot} {x_ranges : List Range} {x_jobs : List Job} {x_nextJob : Nat} {x_loop : List Frame} {x_pwr : Power} {x_con : Contain} {x_tru : Trust} {x_moves : List Move} {x_mg : Mgmt} {x_freeCtr : Nat} :
    Keeps s0 (State.mk s.pending s.conf x_pwrGood s.clk x_boot x_dict x_speed s.regs y s.cells s.shadow x_swr s.cores s.chains s.buf x_stg s.spine x_adm x_ops x_slips x_regions x_drq s.groups x_ranges x_jobs x_nextJob x_loop x_pwr s.ports x_con x_tru x_moves x_mg s.errs s.out x_freeCtr) :=
  ⟨h.pending, h.conf, fun x => by
    have g := good_iff.mp (h.good x)
    obtain ⟨⟨c0, c1, c2, c3, c4, c5, c6, c7, c8, c9⟩, ce⟩ := g
    exact good_iff.mpr ⟨⟨c0, c1, (hy c2), c3, c4, c5, c6, c7, c8, c9⟩, ce⟩, h.count, h.sent⟩

/-- The weights may change to another good content. -/
theorem Keeps.upd_cells {y : Sparse Cell} (h : Keeps s0 s) (hy : swf .zero s.cells = true → swf .zero y = true)
    {x_pwrGood : Bool} {x_boot : Boot} {x_dict : Dict} {x_speed : Sparse (List W64 × List Nat)} {x_swr : List Nat} {x_stg : Staging} {x_adm : Adm} {x_ops : List Op} {x_slips : List (Res × Nat)} {x_regions : List Region} {x_drq : List DrainSlot} {x_ranges : List Range} {x_jobs : List Job} {x_nextJob : Nat} {x_loop : List Frame} {x_pwr : Power} {x_con : Contain} {x_tru : Trust} {x_moves : List Move} {x_mg : Mgmt} {x_freeCtr : Nat} :
    Keeps s0 (State.mk s.pending s.conf x_pwrGood s.clk x_boot x_dict x_speed s.regs s.tiles y s.shadow x_swr s.cores s.chains s.buf x_stg s.spine x_adm x_ops x_slips x_regions x_drq s.groups x_ranges x_jobs x_nextJob x_loop x_pwr s.ports x_con x_tru x_moves x_mg s.errs s.out x_freeCtr) :=
  ⟨h.pending, h.conf, fun x => by
    have g := good_iff.mp (h.good x)
    obtain ⟨⟨c0, c1, c2, c3, c4, c5, c6, c7, c8, c9⟩, ce⟩ := g
    exact good_iff.mpr ⟨⟨c0, c1, c2, (hy c3), c4, c5, c6, c7, c8, c9⟩, ce⟩, h.count, h.sent⟩

/-- The shadow may change to another good content. -/
theorem Keeps.upd_shadow {y : Sparse Cell} (h : Keeps s0 s) (hy : swf .zero s.shadow = true → swf .zero y = true)
    {x_pwrGood : Bool} {x_boot : Boot} {x_dict : Dict} {x_speed : Sparse (List W64 × List Nat)} {x_swr : List Nat} {x_stg : Staging} {x_adm : Adm} {x_ops : List Op} {x_slips : List (Res × Nat)} {x_regions : List Region} {x_drq : List DrainSlot} {x_ranges : List Range} {x_jobs : List Job} {x_nextJob : Nat} {x_loop : List Frame} {x_pwr : Power} {x_con : Contain} {x_tru : Trust} {x_moves : List Move} {x_mg : Mgmt} {x_freeCtr : Nat} :
    Keeps s0 (State.mk s.pending s.conf x_pwrGood s.clk x_boot x_dict x_speed s.regs s.tiles s.cells y x_swr s.cores s.chains s.buf x_stg s.spine x_adm x_ops x_slips x_regions x_drq s.groups x_ranges x_jobs x_nextJob x_loop x_pwr s.ports x_con x_tru x_moves x_mg s.errs s.out x_freeCtr) :=
  ⟨h.pending, h.conf, fun x => by
    have g := good_iff.mp (h.good x)
    obtain ⟨⟨c0, c1, c2, c3, c4, c5, c6, c7, c8, c9⟩, ce⟩ := g
    exact good_iff.mpr ⟨⟨c0, c1, c2, c3, (hy c4), c5, c6, c7, c8, c9⟩, ce⟩, h.count, h.sent⟩

/-- The cores may change to another good content. -/
theorem Keeps.upd_cores {y : Sparse CoreSt} (h : Keeps s0 s) (hy : swf .zero s.cores = true → swf .zero y = true)
    {x_pwrGood : Bool} {x_boot : Boot} {x_dict : Dict} {x_speed : Sparse (List W64 × List Nat)} {x_swr : List Nat} {x_stg : Staging} {x_adm : Adm} {x_ops : List Op} {x_slips : List (Res × Nat)} {x_regions : List Region} {x_drq : List DrainSlot} {x_ranges : List Range} {x_jobs : List Job} {x_nextJob : Nat} {x_loop : List Frame} {x_pwr : Power} {x_con : Contain} {x_tru : Trust} {x_moves : List Move} {x_mg : Mgmt} {x_freeCtr : Nat} :
    Keeps s0 (State.mk s.pending s.conf x_pwrGood s.clk x_boot x_dict x_speed s.regs s.tiles s.cells s.shadow x_swr y s.chains s.buf x_stg s.spine x_adm x_ops x_slips x_regions x_drq s.groups x_ranges x_jobs x_nextJob x_loop x_pwr s.ports x_con x_tru x_moves x_mg s.errs s.out x_freeCtr) :=
  ⟨h.pending, h.conf, fun x => by
    have g := good_iff.mp (h.good x)
    obtain ⟨⟨c0, c1, c2, c3, c4, c5, c6, c7, c8, c9⟩, ce⟩ := g
    exact good_iff.mpr ⟨⟨c0, c1, c2, c3, c4, (hy c5), c6, c7, c8, c9⟩, ce⟩, h.count, h.sent⟩

/-- The chains may change to another good content. -/
theorem Keeps.upd_chains {y : Sparse ChainSt} (h : Keeps s0 s) (hy : swf .zero s.chains = true → swf .zero y = true)
    {x_pwrGood : Bool} {x_boot : Boot} {x_dict : Dict} {x_speed : Sparse (List W64 × List Nat)} {x_swr : List Nat} {x_stg : Staging} {x_adm : Adm} {x_ops : List Op} {x_slips : List (Res × Nat)} {x_regions : List Region} {x_drq : List DrainSlot} {x_ranges : List Range} {x_jobs : List Job} {x_nextJob : Nat} {x_loop : List Frame} {x_pwr : Power} {x_con : Contain} {x_tru : Trust} {x_moves : List Move} {x_mg : Mgmt} {x_freeCtr : Nat} :
    Keeps s0 (State.mk s.pending s.conf x_pwrGood s.clk x_boot x_dict x_speed s.regs s.tiles s.cells s.shadow x_swr s.cores y s.buf x_stg s.spine x_adm x_ops x_slips x_regions x_drq s.groups x_ranges x_jobs x_nextJob x_loop x_pwr s.ports x_con x_tru x_moves x_mg s.errs s.out x_freeCtr) :=
  ⟨h.pending, h.conf, fun x => by
    have g := good_iff.mp (h.good x)
    obtain ⟨⟨c0, c1, c2, c3, c4, c5, c6, c7, c8, c9⟩, ce⟩ := g
    exact good_iff.mpr ⟨⟨c0, c1, c2, c3, c4, c5, (hy c6), c7, c8, c9⟩, ce⟩, h.count, h.sent⟩

/-- The ports may change to another good content. -/
theorem Keeps.upd_ports {y : Sparse PortSt} (h : Keeps s0 s) (hy : swf .zero s.ports = true → swf .zero y = true)
    {x_pwrGood : Bool} {x_boot : Boot} {x_dict : Dict} {x_speed : Sparse (List W64 × List Nat)} {x_swr : List Nat} {x_stg : Staging} {x_adm : Adm} {x_ops : List Op} {x_slips : List (Res × Nat)} {x_regions : List Region} {x_drq : List DrainSlot} {x_ranges : List Range} {x_jobs : List Job} {x_nextJob : Nat} {x_loop : List Frame} {x_pwr : Power} {x_con : Contain} {x_tru : Trust} {x_moves : List Move} {x_mg : Mgmt} {x_freeCtr : Nat} :
    Keeps s0 (State.mk s.pending s.conf x_pwrGood s.clk x_boot x_dict x_speed s.regs s.tiles s.cells s.shadow x_swr s.cores s.chains s.buf x_stg s.spine x_adm x_ops x_slips x_regions x_drq s.groups x_ranges x_jobs x_nextJob x_loop x_pwr y x_con x_tru x_moves x_mg s.errs s.out x_freeCtr) :=
  ⟨h.pending, h.conf, fun x => by
    have g := good_iff.mp (h.good x)
    obtain ⟨⟨c0, c1, c2, c3, c4, c5, c6, c7, c8, c9⟩, ce⟩ := g
    exact good_iff.mpr ⟨⟨c0, c1, c2, c3, c4, c5, c6, (hy c7), c8, c9⟩, ce⟩, h.count, h.sent⟩

/-- The spine links may change to another good content. -/
theorem Keeps.upd_spine {y : Sparse LinkSt} (h : Keeps s0 s) (hy : swf .zero s.spine = true → swf .zero y = true)
    {x_pwrGood : Bool} {x_boot : Boot} {x_dict : Dict} {x_speed : Sparse (List W64 × List Nat)} {x_swr : List Nat} {x_stg : Staging} {x_adm : Adm} {x_ops : List Op} {x_slips : List (Res × Nat)} {x_regions : List Region} {x_drq : List DrainSlot} {x_ranges : List Range} {x_jobs : List Job} {x_nextJob : Nat} {x_loop : List Frame} {x_pwr : Power} {x_con : Contain} {x_tru : Trust} {x_moves : List Move} {x_mg : Mgmt} {x_freeCtr : Nat} :
    Keeps s0 (State.mk s.pending s.conf x_pwrGood s.clk x_boot x_dict x_speed s.regs s.tiles s.cells s.shadow x_swr s.cores s.chains s.buf x_stg y x_adm x_ops x_slips x_regions x_drq s.groups x_ranges x_jobs x_nextJob x_loop x_pwr s.ports x_con x_tru x_moves x_mg s.errs s.out x_freeCtr) :=
  ⟨h.pending, h.conf, fun x => by
    have g := good_iff.mp (h.good x)
    obtain ⟨⟨c0, c1, c2, c3, c4, c5, c6, c7, c8, c9⟩, ce⟩ := g
    exact good_iff.mpr ⟨⟨c0, c1, c2, c3, c4, c5, c6, c7, (hy c8), c9⟩, ce⟩, h.count, h.sent⟩

/-- The group slots may change to another good content. -/
theorem Keeps.upd_groups {y : Sparse GroupSt} (h : Keeps s0 s) (hy : swf .zero s.groups = true → swf .zero y = true)
    {x_pwrGood : Bool} {x_boot : Boot} {x_dict : Dict} {x_speed : Sparse (List W64 × List Nat)} {x_swr : List Nat} {x_stg : Staging} {x_adm : Adm} {x_ops : List Op} {x_slips : List (Res × Nat)} {x_regions : List Region} {x_drq : List DrainSlot} {x_ranges : List Range} {x_jobs : List Job} {x_nextJob : Nat} {x_loop : List Frame} {x_pwr : Power} {x_con : Contain} {x_tru : Trust} {x_moves : List Move} {x_mg : Mgmt} {x_freeCtr : Nat} :
    Keeps s0 (State.mk s.pending s.conf x_pwrGood s.clk x_boot x_dict x_speed s.regs s.tiles s.cells s.shadow x_swr s.cores s.chains s.buf x_stg s.spine x_adm x_ops x_slips x_regions x_drq y x_ranges x_jobs x_nextJob x_loop x_pwr s.ports x_con x_tru x_moves x_mg s.errs s.out x_freeCtr) :=
  ⟨h.pending, h.conf, fun x => by
    have g := good_iff.mp (h.good x)
    obtain ⟨⟨c0, c1, c2, c3, c4, c5, c6, c7, c8, c9⟩, ce⟩ := g
    exact good_iff.mpr ⟨⟨c0, c1, c2, c3, c4, c5, c6, c7, c8, (hy c9)⟩, ce⟩, h.count, h.sent⟩

/-- The error ring may change to another good content. -/
theorem Keeps.upd_errs {y : Records} (h : Keeps s0 s) (hy : Safety.recordsKept s.errs = true → Safety.recordsKept y = true)
    {x_pwrGood : Bool} {x_boot : Boot} {x_dict : Dict} {x_speed : Sparse (List W64 × List Nat)} {x_swr : List Nat} {x_stg : Staging} {x_adm : Adm} {x_ops : List Op} {x_slips : List (Res × Nat)} {x_regions : List Region} {x_drq : List DrainSlot} {x_ranges : List Range} {x_jobs : List Job} {x_nextJob : Nat} {x_loop : List Frame} {x_pwr : Power} {x_con : Contain} {x_tru : Trust} {x_moves : List Move} {x_mg : Mgmt} {x_freeCtr : Nat} :
    Keeps s0 (State.mk s.pending s.conf x_pwrGood s.clk x_boot x_dict x_speed s.regs s.tiles s.cells s.shadow x_swr s.cores s.chains s.buf x_stg s.spine x_adm x_ops x_slips x_regions x_drq s.groups x_ranges x_jobs x_nextJob x_loop x_pwr s.ports x_con x_tru x_moves x_mg y s.out x_freeCtr) :=
  ⟨h.pending, h.conf, fun x => by
    have g := good_iff.mp (h.good x)
    obtain ⟨⟨c0, c1, c2, c3, c4, c5, c6, c7, c8, c9⟩, ce⟩ := g
    exact good_iff.mpr ⟨⟨c0, c1, c2, c3, c4, c5, c6, c7, c8, c9⟩, (hy ce)⟩, h.count, h.sent⟩

/-- One entry of a table changes. -/
theorem Keeps.setReg (h : Keeps s0 s) {k v} : Keeps s0 (s.setReg k v) := h.upd_regs swf_sset

/-- One entry of a table changes. -/
theorem Keeps.setTile (h : Keeps s0 s) {k v} : Keeps s0 (s.setTile k v) := h.upd_tiles swf_sset

/-- One entry of a table changes. -/
theorem Keeps.setCore (h : Keeps s0 s) {k v} : Keeps s0 (s.setCore k v) := h.upd_cores swf_sset

/-- One entry of a table changes. -/
theorem Keeps.setChain (h : Keeps s0 s) {k v} : Keeps s0 (s.setChain k v) := h.upd_chains swf_sset

/-- One entry of a table changes. -/
theorem Keeps.setPort (h : Keeps s0 s) {k v} : Keeps s0 (s.setPort k v) := h.upd_ports swf_sset

/-- One entry of a table changes. -/
theorem Keeps.setLink (h : Keeps s0 s) {k v} : Keeps s0 (s.setLink k v) := h.upd_spine swf_sset

/-- One entry of a table changes. -/
theorem Keeps.setGroup (h : Keeps s0 s) {k v} : Keeps s0 (s.setGroup k v) := h.upd_groups swf_sset

end Sys2Proof.Machine
end

