-- ==== Sys2Proof/Laws/KeepOps.lean ====
section
/-! SUPPORT. The operations of Ops keep a good state good, the queue and the configuration. -/

namespace Sys2Proof.Machine

theorem State.notify_keeps {orig s : State} (h : Keeps orig s) {k : Nat} :
    Keeps orig (State.notify s k) := by
  unfold State.notify
  (try dsimp only)
  repeat' (first | with_reducible assumption | intro _ | with_reducible apply Keeps.ite | with_reducible apply Keeps.foldl | with_reducible apply Keeps.foldl_fst | simp only [Keeps.upd_iff] | refine Keeps.upd_regs ?_ swf_sset | refine Keeps.upd_cells ?_ swf_sset | refine Keeps.upd_shadow ?_ swf_sset | refine Keeps.upd_buf ?_ (wf_write _) | split | dsimp only)

theorem State.setObj_keeps {orig s : State} (h : Keeps orig s) {k v : Nat} :
    Keeps orig (State.setObj s k v) := by
  unfold State.setObj
  (try dsimp only)
  repeat' (first | with_reducible assumption | intro _ | with_reducible apply Keeps.ite | with_reducible apply Keeps.foldl | with_reducible apply Keeps.foldl_fst | with_reducible apply State.notify_keeps | simp only [Keeps.upd_iff] | refine Keeps.upd_regs ?_ swf_sset | refine Keeps.upd_cells ?_ swf_sset | refine Keeps.upd_shadow ?_ swf_sset | refine Keeps.upd_buf ?_ (wf_write _) | split | dsimp only)

theorem State.bump_keeps {s0 s : State} (h : Keeps s0 s) {k n : Nat} : Keeps s0 (s.bump k n) := by
  unfold State.bump
  cases objInfo s.conf (k / 256) (k % 256) with
  | none => exact h
  | some o => exact State.setObj_keeps h

theorem State.emit_keeps {orig s : State} (h : Keeps orig s) {o : Out} : Keeps orig (s.emit o) :=
  ⟨h.pending, h.conf, h.good, h.count, h.sent.trans (List.prefix_append _ _)⟩

theorem State.emitAll_keeps {orig s : State} (h : Keeps orig s) {os : List Out} : Keeps orig (s.emitAll os) :=
  ⟨h.pending, h.conf, h.good, h.count, h.sent.trans (List.prefix_append _ _)⟩

theorem State.giveCredits_keeps {orig s : State} (h : Keeps orig s) {q chan n : Nat} :
    Keeps orig (State.giveCredits s q chan n) := by
  unfold State.giveCredits
  (try dsimp only)
  repeat' (first | with_reducible assumption | intro _ | with_reducible apply Keeps.ite | with_reducible apply Keeps.foldl | with_reducible apply Keeps.foldl_fst | with_reducible apply State.emitAll_keeps | simp only [Keeps.upd_iff] | refine Keeps.upd_regs ?_ swf_sset | refine Keeps.upd_cells ?_ swf_sset | refine Keeps.upd_shadow ?_ swf_sset | refine Keeps.upd_buf ?_ (wf_write _) | split | dsimp only)

/-- A notice leaves the error ring alone. -/
@[simp] theorem State.notify_errs (s : State) (k : Nat) : (s.notify k).errs = s.errs := by
  unfold State.notify; split <;> rfl

/-- An object's value leaves the error ring alone. -/
@[simp] theorem State.setObj_errs (s : State) (k v : Nat) : (s.setObj k v).errs = s.errs := by
  unfold State.setObj; simp only; split <;> simp

/-- A counter leaves the error ring alone. -/
@[simp] theorem State.bump_errs (s : State) (k n : Nat) : (s.bump k n).errs = s.errs := by
  unfold State.bump
  cases objInfo s.conf (k / 256) (k % 256) with
  | none => rfl
  | some o => exact State.setObj_errs _ _ _

/-- The parts of a kept error ring. -/
theorem recordsKept_iff {r : Records} : Safety.recordsKept r = true ↔
    r.seq < 2 ^ 32 ∧ swf ⟨0, 0, 0, 0⟩ r.ring = true ∧ (r.unret.map (· % 1024)).Nodup ∧
      (∀ u ∈ r.unret, u < 2 ^ 32 ∧ (sget ⟨0, 0, 0, 0⟩ r.ring (u % 1024)).w0.toNat % 2 ^ 32 = u) ∧ r.keys.length ≤ 64 := by
  simp only [Safety.recordsKept, Bool.and_eq_true, decide_eq_true_eq, List.all_eq_true, beq_iff_eq, and_assoc]

/-- Word 0 of a record carries its sequence number. -/
theorem recW0_seq (kind sev cls : Nat) (tenant : Option Nat) {seq : Nat} (h : seq < 2 ^ 32) :
    (recW0 kind sev cls tenant seq).toNat % 2 ^ 32 = seq := by
  unfold recW0 at_
  rw [BitVec.toNat_ofNat]
  have e : (2 : Nat) ^ 32 ∣ 2 ^ 64 := ⟨2 ^ 32, by decide⟩
  rw [Nat.mod_mod_of_dvd _ e]
  omega

/-- A record placed in a free slot is kept with all that was. -/
theorem recordsKept_place {r : Records} {v : W64} {w1 w2 w3 : W64} (hk : Safety.recordsKept r = true) (hf : r.full = false)
    (hv : v.toNat % 2 ^ 32 = r.seq) :
    Safety.recordsKept { r with
      ring := sset ⟨0, 0, 0, 0⟩ r.ring (r.seq % 1024) ⟨v, w1, w2, w3⟩
      unret := r.unret ++ [r.seq]
      seq := (r.seq + 1) % 2 ^ 32 } = true := by
  obtain ⟨h1, h2, h3, h4, h5⟩ := recordsKept_iff.mp hk
  have free : ∀ u ∈ r.unret, u % 1024 ≠ r.seq % 1024 := by
    intro u hu e
    have := List.any_eq_false.mp hf u hu
    simp [e] at this
  refine recordsKept_iff.mpr ⟨Nat.mod_lt _ (by decide), swf_sset h2, ?_, ?_, h5⟩
  · simpa [List.nodup_append, h3] using free
  · intro u hu
    rcases List.mem_append.mp hu with hu | hu
    · refine ⟨(h4 u hu).1, ?_⟩
      rw [sget_sset_ne (free u hu)]
      exact (h4 u hu).2
    · have e : u = r.seq := by simpa using hu
      subst e
      refine ⟨h1, ?_⟩
      simp only
      rw [sget_sset, if_pos rfl]
      exact hv

theorem State.placeRec_keeps {s0 s : State} (h : Keeps s0 s) {kind sev cls : Nat} {tenant : Option Nat} {time : Nat} {w2 w3 : W64}
    (hf : s.errs.full = false) : Keeps s0 (s.placeRec kind sev cls tenant time w2 w3) := by
  unfold State.placeRec
  dsimp only
  exact Keeps.upd_errs h (fun hk => recordsKept_place hk hf (recW0_seq _ _ _ _ (recordsKept_iff.mp hk).1))

theorem State.writeRec_keeps {s0 s : State} (h : Keeps s0 s) {kind sev cls : Nat} {tenant : Option Nat} {time : Nat} {w2 w3 : W64} :
    Keeps s0 (s.writeRec kind sev cls tenant time w2 w3) := by
  unfold State.writeRec
  split
  · refine Keeps.upd_errs (State.bump_keeps h) (fun hk => ?_)
    simp only [State.bump_errs] at hk ⊢
    exact hk
  · next hf => exact State.placeRec_keeps h (by simpa using hf)

theorem State.flushLoss_keeps {s0 s : State} (h : Keeps s0 s) : Keeps s0 s.flushLoss := by
  unfold State.flushLoss
  dsimp only
  split
  · next hf => refine Keeps.upd_errs (State.placeRec_keeps h hf.2) (fun hk => ?_); exact hk
  · exact h

theorem State.closeKey_keeps {orig s : State} (h : Keeps orig s) {k : CoKey} :
    Keeps orig (State.closeKey s k) := by
  unfold State.closeKey
  (try dsimp only)
  repeat' (first | with_reducible assumption | intro _ | with_reducible apply Keeps.ite | with_reducible apply Keeps.foldl | with_reducible apply Keeps.foldl_fst | with_reducible apply State.writeRec_keeps | simp only [Keeps.upd_iff] | refine Keeps.upd_regs ?_ swf_sset | refine Keeps.upd_cells ?_ swf_sset | refine Keeps.upd_shadow ?_ swf_sset | refine Keeps.upd_buf ?_ (wf_write _) | split | dsimp only)

theorem State.closeKey_keys (s : State) (k : CoKey) : (s.closeKey k).errs.keys = s.errs.keys := by
  unfold State.closeKey State.writeRec State.placeRec
  split
  · rfl
  · split <;> simp

theorem State.evictKey_keeps {s0 s : State} (h : Keeps s0 s) : Keeps s0 s.evictKey := by
  unfold State.evictKey
  split
  · exact h
  · split
    · exact h
    · next k r hk =>
      refine State.closeKey_keeps (Keeps.upd_errs h (fun g => ?_))
      obtain ⟨h1, h2, h3, h4, h5⟩ := recordsKept_iff.mp g
      refine recordsKept_iff.mpr ⟨h1, h2, h3, h4, ?_⟩
      simp only [hk, List.length_cons] at h5
      exact Nat.le_of_succ_le h5

/-- After an eviction the table of keys has room. -/
theorem State.evictKey_room {s : State} (h : s.errs.keys.length ≤ 64) : s.evictKey.errs.keys.length < 64 := by
  unfold State.evictKey
  split
  · assumption
  · split
    · next hk => simp [hk]
    · next k r hk =>
      rw [State.closeKey_keys]
      simp only [hk, List.length_cons] at h
      exact h

/-- A record leaves the table of keys alone. -/
theorem State.writeRec_keys (s : State) (kind sev cls : Nat) (tenant : Option Nat) (time : Nat) (w2 w3 : W64) :
    (s.writeRec kind sev cls tenant time w2 w3).errs.keys = s.errs.keys := by
  unfold State.writeRec State.placeRec
  split <;> simp

theorem State.event_keeps {s0 s : State} (h : Keeps s0 s) {e : Event} : Keeps s0 (s.event e) := by
  unfold State.event
  split
  · refine Keeps.upd_errs h (fun g => ?_)
    obtain ⟨h1, h2, h3, h4, h5⟩ := recordsKept_iff.mp g
    exact recordsKept_iff.mpr ⟨h1, h2, h3, h4, by simpa using h5⟩
  · have hw : Keeps s0 (s.evictKey.writeRec 0 e.sev e.cls e.tenant s.now e.w2 (BitVec.ofNat 64 (at_ 1 40 + e.detail % 2 ^ 40))) :=
      State.writeRec_keeps (State.evictKey_keeps h)
    refine ⟨hw.pending, hw.conf, fun g0 => ?_, hw.count, hw.sent⟩
    have gs := good_iff.mp (h.good g0)
    have gw := good_iff.mp (hw.good g0)
    refine good_iff.mpr ⟨gw.1, ?_⟩
    obtain ⟨h1, h2, h3, h4, h5⟩ := recordsKept_iff.mp gw.2
    refine recordsKept_iff.mpr ⟨h1, h2, h3, h4, ?_⟩
    have room := State.evictKey_room (recordsKept_iff.mp gs.2).2.2.2.2
    simp only [State.writeRec_keys, List.length_append, List.length_cons, List.length_nil]
    omega

theorem State.mapRegs_keeps {orig s : State} (h : Keeps orig s) {ks : List Nat} {f : Nat → LongReg → LongReg} :
    Keeps orig (State.mapRegs s ks f) := by
  unfold State.mapRegs
  (try dsimp only)
  repeat' (first | with_reducible assumption | intro _ | with_reducible apply Keeps.ite | with_reducible apply Keeps.foldl | with_reducible apply Keeps.foldl_fst | with_reducible apply Keeps.setReg | simp only [Keeps.upd_iff] | refine Keeps.upd_regs ?_ swf_sset | refine Keeps.upd_cells ?_ swf_sset | refine Keeps.upd_shadow ?_ swf_sset | refine Keeps.upd_buf ?_ (wf_write _) | split | dsimp only)

theorem State.mapTile_keeps {orig s : State} (h : Keeps orig s) {t : TileRef} {f : TileQ → TileQ} :
    Keeps orig (State.mapTile s t f) := by
  unfold State.mapTile
  (try dsimp only)
  repeat' (first | with_reducible assumption | intro _ | with_reducible apply Keeps.ite | with_reducible apply Keeps.foldl | with_reducible apply Keeps.foldl_fst | with_reducible apply Keeps.setTile | simp only [Keeps.upd_iff] | refine Keeps.upd_regs ?_ swf_sset | refine Keeps.upd_cells ?_ swf_sset | refine Keeps.upd_shadow ?_ swf_sset | refine Keeps.upd_buf ?_ (wf_write _) | split | dsimp only)

theorem State.mapChain_keeps {orig s : State} (h : Keeps orig s) {c : ChainId} {f : ChainSt → ChainSt} :
    Keeps orig (State.mapChain s c f) := by
  unfold State.mapChain
  (try dsimp only)
  repeat' (first | with_reducible assumption | intro _ | with_reducible apply Keeps.ite | with_reducible apply Keeps.foldl | with_reducible apply Keeps.foldl_fst | with_reducible apply Keeps.setChain | simp only [Keeps.upd_iff] | refine Keeps.upd_regs ?_ swf_sset | refine Keeps.upd_cells ?_ swf_sset | refine Keeps.upd_shadow ?_ swf_sset | refine Keeps.upd_buf ?_ (wf_write _) | split | dsimp only)

theorem State.mapOp_keeps {orig s : State} (h : Keeps orig s) {id : Nat} {f : Op → Op} :
    Keeps orig (State.mapOp s id f) := by
  unfold State.mapOp
  (try dsimp only)
  repeat' (first | with_reducible assumption | intro _ | with_reducible apply Keeps.ite | with_reducible apply Keeps.foldl | with_reducible apply Keeps.foldl_fst | simp only [Keeps.upd_iff] | refine Keeps.upd_regs ?_ swf_sset | refine Keeps.upd_cells ?_ swf_sset | refine Keeps.upd_shadow ?_ swf_sset | refine Keeps.upd_buf ?_ (wf_write _) | split | dsimp only)

theorem State.dropOp_keeps {orig s : State} (h : Keeps orig s) {id : Nat} :
    Keeps orig (State.dropOp s id) := by
  unfold State.dropOp
  (try dsimp only)
  repeat' (first | with_reducible assumption | intro _ | with_reducible apply Keeps.ite | with_reducible apply Keeps.foldl | with_reducible apply Keeps.foldl_fst | simp only [Keeps.upd_iff] | refine Keeps.upd_regs ?_ swf_sset | refine Keeps.upd_cells ?_ swf_sset | refine Keeps.upd_shadow ?_ swf_sset | refine Keeps.upd_buf ?_ (wf_write _) | split | dsimp only)

theorem State.slipUp_keeps {orig s : State} (h : Keeps orig s) {r : Res} :
    Keeps orig (State.slipUp s r) := by
  unfold State.slipUp
  (try dsimp only)
  repeat' (first | with_reducible assumption | intro _ | with_reducible apply Keeps.ite | with_reducible apply Keeps.foldl | with_reducible apply Keeps.foldl_fst | simp only [Keeps.upd_iff] | refine Keeps.upd_regs ?_ swf_sset | refine Keeps.upd_cells ?_ swf_sset | refine Keeps.upd_shadow ?_ swf_sset | refine Keeps.upd_buf ?_ (wf_write _) | split | dsimp only)

theorem State.mapRegion_keeps {orig s : State} (h : Keeps orig s) {t r : Nat} {f : Region → Region} :
    Keeps orig (State.mapRegion s t r f) := by
  unfold State.mapRegion
  (try dsimp only)
  repeat' (first | with_reducible assumption | intro _ | with_reducible apply Keeps.ite | with_reducible apply Keeps.foldl | with_reducible apply Keeps.foldl_fst | simp only [Keeps.upd_iff] | refine Keeps.upd_regs ?_ swf_sset | refine Keeps.upd_cells ?_ swf_sset | refine Keeps.upd_shadow ?_ swf_sset | refine Keeps.upd_buf ?_ (wf_write _) | split | dsimp only)

theorem State.sendFlit_keeps {orig s : State} (h : Keeps orig s) {rs : List Resp} :
    Keeps orig (State.sendFlit s rs) := by
  unfold State.sendFlit
  (try dsimp only)
  repeat' (first | with_reducible assumption | intro _ | with_reducible apply Keeps.ite | with_reducible apply Keeps.foldl | with_reducible apply Keeps.foldl_fst | with_reducible apply State.emit_keeps | with_reducible apply State.giveCredits_keeps | simp only [Keeps.upd_iff] | refine Keeps.upd_regs ?_ swf_sset | refine Keeps.upd_cells ?_ swf_sset | refine Keeps.upd_shadow ?_ swf_sset | refine Keeps.upd_buf ?_ (wf_write _) | split | dsimp only)

theorem State.drainResp_keeps {orig : State}  {n : Nat} : ∀ {s : State}, Keeps orig s → Keeps orig (State.drainResp s n) := by
  induction n with
  | zero => intro s h; unfold State.drainResp; exact h
  | succ k ih =>
    intro s h
    unfold State.drainResp
    (try dsimp only)
    repeat' (first | with_reducible assumption | intro _ | with_reducible apply Keeps.ite | with_reducible apply ih | with_reducible apply Keeps.foldl | with_reducible apply Keeps.foldl_fst | with_reducible apply State.sendFlit_keeps | simp only [Keeps.upd_iff] | refine Keeps.upd_regs ?_ swf_sset | refine Keeps.upd_cells ?_ swf_sset | refine Keeps.upd_shadow ?_ swf_sset | refine Keeps.upd_buf ?_ (wf_write _) | split | dsimp only)

theorem State.respond_keeps {orig s : State} (h : Keeps orig s) {r : Resp} :
    Keeps orig (State.respond s r) := by
  unfold State.respond
  (try dsimp only)
  repeat' (first | with_reducible assumption | intro _ | with_reducible apply Keeps.ite | with_reducible apply Keeps.foldl | with_reducible apply Keeps.foldl_fst | with_reducible apply State.sendFlit_keeps | simp only [Keeps.upd_iff] | refine Keeps.upd_regs ?_ swf_sset | refine Keeps.upd_cells ?_ swf_sset | refine Keeps.upd_shadow ?_ swf_sset | refine Keeps.upd_buf ?_ (wf_write _) | split | dsimp only)

theorem State.drawFree_keeps {orig s : State} (h : Keeps orig s)  :
    Keeps orig (State.drawFree s) := by
  unfold State.drawFree
  (try dsimp only)
  repeat' (first | with_reducible assumption | intro _ | with_reducible apply Keeps.ite | with_reducible apply Keeps.foldl | with_reducible apply Keeps.foldl_fst | simp only [Keeps.upd_iff] | refine Keeps.upd_regs ?_ swf_sset | refine Keeps.upd_cells ?_ swf_sset | refine Keeps.upd_shadow ?_ swf_sset | refine Keeps.upd_buf ?_ (wf_write _) | split | dsimp only)

end Sys2Proof.Machine
end

