-- ==== Sys2Proof/Laws/KeepComplete.lean ====
section
/-! SUPPORT. The operations of Operands, Flags, Meter, Access, Complete, Lease keep a good state good, the queue and the configuration. -/

namespace Sys2Proof.Machine

theorem State.enter_keeps {orig s : State} (h : Keeps orig s) {core cells : Nat} :
    Keeps orig (State.enter s core cells) := by
  unfold State.enter
  (try dsimp only)
  repeat' (first | with_reducible assumption | intro _ | with_reducible apply Keeps.ite | with_reducible apply Keeps.foldl | with_reducible apply Keeps.foldl_fst | simp only [Keeps.upd_iff] | refine Keeps.upd_regs ?_ swf_sset | refine Keeps.upd_cells ?_ swf_sset | refine Keeps.upd_shadow ?_ swf_sset | refine Keeps.upd_buf ?_ (wf_write _) | split | dsimp only)

theorem State.opToken_keeps {orig s : State} (h : Keeps orig s) {core cells : Nat} :
    Keeps orig (State.opToken s core cells) := by
  unfold State.opToken
  (try dsimp only)
  repeat' (first | with_reducible assumption | intro _ | with_reducible apply Keeps.ite | with_reducible apply Keeps.foldl | with_reducible apply Keeps.foldl_fst | with_reducible apply State.enter_keeps | simp only [Keeps.upd_iff] | refine Keeps.upd_regs ?_ swf_sset | refine Keeps.upd_cells ?_ swf_sset | refine Keeps.upd_shadow ?_ swf_sset | refine Keeps.upd_buf ?_ (wf_write _) | split | dsimp only)

theorem State.requestRun_keeps {orig s : State} (h : Keeps orig s) {o : Op} {ten : Nat} :
    Keeps orig (State.requestRun s o ten) := by
  unfold State.requestRun
  (try dsimp only)
  repeat' (first | with_reducible assumption | intro _ | with_reducible apply Keeps.ite | with_reducible apply Keeps.foldl | with_reducible apply Keeps.foldl_fst | with_reducible apply State.emit_keeps | with_reducible apply State.mapOp_keeps | simp only [Keeps.upd_iff] | refine Keeps.upd_regs ?_ swf_sset | refine Keeps.upd_cells ?_ swf_sset | refine Keeps.upd_shadow ?_ swf_sset | refine Keeps.upd_buf ?_ (wf_write _) | split | dsimp only)

theorem State.requestAll_keeps {orig : State} {id ten : Nat} {n : Nat} : ∀ {s : State}, Keeps orig s → Keeps orig (State.requestAll s id ten n) := by
  induction n with
  | zero => intro s h; unfold State.requestAll; exact h
  | succ k ih =>
    intro s h
    unfold State.requestAll
    (try dsimp only)
    repeat' (first | with_reducible assumption | intro _ | with_reducible apply Keeps.ite | with_reducible apply ih | with_reducible apply Keeps.foldl | with_reducible apply Keeps.foldl_fst | with_reducible apply State.requestRun_keeps | simp only [Keeps.upd_iff] | refine Keeps.upd_regs ?_ swf_sset | refine Keeps.upd_cells ?_ swf_sset | refine Keeps.upd_shadow ?_ swf_sset | refine Keeps.upd_buf ?_ (wf_write _) | split | dsimp only)

theorem State.freeLines_keeps {orig s : State} (h : Keeps orig s) {gone : SLine → Bool} :
    Keeps orig (State.freeLines s gone) := by
  unfold State.freeLines
  (try dsimp only)
  repeat' (first | with_reducible assumption | intro _ | with_reducible apply Keeps.ite | with_reducible apply Keeps.foldl | with_reducible apply Keeps.foldl_fst | with_reducible apply State.giveCredits_keeps | simp only [Keeps.upd_iff] | refine Keeps.upd_regs ?_ swf_sset | refine Keeps.upd_cells ?_ swf_sset | refine Keeps.upd_shadow ?_ swf_sset | refine Keeps.upd_buf ?_ (wf_write _) | split | dsimp only)

theorem State.settleRing_keeps {orig s : State} (h : Keeps orig s) {id ten : Nat} :
    Keeps orig (State.settleRing s id ten) := by
  unfold State.settleRing
  (try dsimp only)
  repeat' (first | with_reducible assumption | intro _ | with_reducible apply Keeps.ite | with_reducible apply Keeps.foldl | with_reducible apply Keeps.foldl_fst | with_reducible apply State.requestAll_keeps | with_reducible apply State.freeLines_keeps | simp only [Keeps.upd_iff] | refine Keeps.upd_regs ?_ swf_sset | refine Keeps.upd_cells ?_ swf_sset | refine Keeps.upd_shadow ?_ swf_sset | refine Keeps.upd_buf ?_ (wf_write _) | split | dsimp only)

theorem State.dropStaging_keeps {orig s : State} (h : Keeps orig s) {id : Nat} :
    Keeps orig (State.dropStaging s id) := by
  unfold State.dropStaging
  (try dsimp only)
  repeat' (first | with_reducible assumption | intro _ | with_reducible apply Keeps.ite | with_reducible apply Keeps.foldl | with_reducible apply Keeps.foldl_fst | with_reducible apply State.freeLines_keeps | simp only [Keeps.upd_iff] | refine Keeps.upd_regs ?_ swf_sset | refine Keeps.upd_cells ?_ swf_sset | refine Keeps.upd_shadow ?_ swf_sset | refine Keeps.upd_buf ?_ (wf_write _) | split | dsimp only)

theorem State.parityEvent_keeps {orig s : State} (h : Keeps orig s) {tenant : Option Nat} {r : Reader} {u : Nat} :
    Keeps orig (State.parityEvent s tenant r u) := by
  unfold State.parityEvent
  (try dsimp only)
  repeat' (first | with_reducible assumption | intro _ | with_reducible apply Keeps.ite | with_reducible apply Keeps.foldl | with_reducible apply Keeps.foldl_fst | with_reducible apply State.bump_keeps | with_reducible apply State.event_keeps | simp only [Keeps.upd_iff] | refine Keeps.upd_regs ?_ swf_sset | refine Keeps.upd_cells ?_ swf_sset | refine Keeps.upd_shadow ?_ swf_sset | refine Keeps.upd_buf ?_ (wf_write _) | split | dsimp only)

theorem State.parityEvents_keeps {orig s : State} (h : Keeps orig s) {tenant : Option Nat} {r : Reader} {keys : List Nat} :
    Keeps orig (State.parityEvents s tenant r keys) := by
  unfold State.parityEvents
  (try dsimp only)
  repeat' (first | with_reducible assumption | intro _ | with_reducible apply Keeps.ite | with_reducible apply Keeps.foldl | with_reducible apply Keeps.foldl_fst | with_reducible apply State.parityEvent_keeps | simp only [Keeps.upd_iff] | refine Keeps.upd_regs ?_ swf_sset | refine Keeps.upd_cells ?_ swf_sset | refine Keeps.upd_shadow ?_ swf_sset | refine Keeps.upd_buf ?_ (wf_write _) | split | dsimp only)

theorem State.sendWrites_keeps {orig s : State} (h : Keeps orig s) {q : Nat} {o : Op} {ws : List MemWrite} :
    Keeps orig (State.sendWrites s q o ws) := by
  unfold State.sendWrites
  (try dsimp only)
  repeat' (first | with_reducible assumption | intro _ | with_reducible apply Keeps.ite | with_reducible apply Keeps.foldl | with_reducible apply Keeps.foldl_fst | with_reducible apply State.emitAll_keeps | with_reducible apply Keeps.setPort | with_reducible apply State.mapOp_keeps | simp only [Keeps.upd_iff] | refine Keeps.upd_regs ?_ swf_sset | refine Keeps.upd_cells ?_ swf_sset | refine Keeps.upd_shadow ?_ swf_sset | refine Keeps.upd_buf ?_ (wf_write _) | split | dsimp only)

theorem State.writeTensor_keeps {s0 s : State} (h : Keeps s0 s) {o : Op} {ten : Nat} {bs : List TByte} :
    Keeps s0 (s.writeTensor o ten bs) := by
  unfold State.writeTensor
  dsimp only
  split
  · exact State.sendWrites_keeps h
  · exact h.upd_buf (wf_write _)

theorem State.consumed_keeps {orig s : State} (h : Keeps orig s) {o : Op} {status : Nat} :
    Keeps orig (State.consumed s o status) := by
  unfold State.consumed
  (try dsimp only)
  repeat' (first | with_reducible assumption | intro _ | with_reducible apply Keeps.ite | with_reducible apply Keeps.foldl | with_reducible apply Keeps.foldl_fst | with_reducible apply State.event_keeps | simp only [Keeps.upd_iff] | refine Keeps.upd_regs ?_ swf_sset | refine Keeps.upd_cells ?_ swf_sset | refine Keeps.upd_shadow ?_ swf_sset | refine Keeps.upd_buf ?_ (wf_write _) | split | dsimp only)

theorem State.countBad_keeps {orig s : State} (h : Keeps orig s) {o : Op} {status : Nat} :
    Keeps orig (State.countBad s o status) := by
  unfold State.countBad
  (try dsimp only)
  repeat' (first | with_reducible assumption | intro _ | with_reducible apply Keeps.ite | with_reducible apply Keeps.foldl | with_reducible apply Keeps.foldl_fst | with_reducible apply State.bump_keeps | simp only [Keeps.upd_iff] | refine Keeps.upd_regs ?_ swf_sset | refine Keeps.upd_cells ?_ swf_sset | refine Keeps.upd_shadow ?_ swf_sset | refine Keeps.upd_buf ?_ (wf_write _) | split | dsimp only)

theorem State.relink_keeps {orig s : State} (h : Keeps orig s) {id : Nat} {c : ChainId} :
    Keeps orig (State.relink s id c) := by
  unfold State.relink
  (try dsimp only)
  repeat' (first | with_reducible assumption | intro _ | with_reducible apply Keeps.ite | with_reducible apply Keeps.foldl | with_reducible apply Keeps.foldl_fst | with_reducible apply Keeps.setChain | simp only [Keeps.upd_iff] | refine Keeps.upd_regs ?_ swf_sset | refine Keeps.upd_cells ?_ swf_sset | refine Keeps.upd_shadow ?_ swf_sset | refine Keeps.upd_buf ?_ (wf_write _) | split | dsimp only)

theorem State.cutChains_keeps {orig s : State} (h : Keeps orig s) {o : Op} :
    Keeps orig (State.cutChains s o) := by
  unfold State.cutChains
  (try dsimp only)
  repeat' (first | with_reducible assumption | intro _ | with_reducible apply Keeps.ite | with_reducible apply Keeps.foldl | with_reducible apply Keeps.foldl_fst | with_reducible apply Keeps.setChain | with_reducible apply State.relink_keeps | simp only [Keeps.upd_iff] | refine Keeps.upd_regs ?_ swf_sset | refine Keeps.upd_cells ?_ swf_sset | refine Keeps.upd_shadow ?_ swf_sset | refine Keeps.upd_buf ?_ (wf_write _) | split | dsimp only)

theorem State.tellReroll_keeps {orig s : State} (h : Keeps orig s) {o : Op} {status : Nat} :
    Keeps orig (State.tellReroll s o status) := by
  unfold State.tellReroll
  (try dsimp only)
  repeat' (first | with_reducible assumption | intro _ | with_reducible apply Keeps.ite | with_reducible apply Keeps.foldl | with_reducible apply Keeps.foldl_fst | with_reducible apply State.mapOp_keeps | simp only [Keeps.upd_iff] | refine Keeps.upd_regs ?_ swf_sset | refine Keeps.upd_cells ?_ swf_sset | refine Keeps.upd_shadow ?_ swf_sset | refine Keeps.upd_buf ?_ (wf_write _) | split | dsimp only)

theorem State.finishOp_keeps {orig s : State} (h : Keeps orig s) {o : Op} {status : Nat} :
    Keeps orig (State.finishOp s o status) := by
  unfold State.finishOp
  (try dsimp only)
  repeat' (first | with_reducible assumption | intro _ | with_reducible apply Keeps.ite | with_reducible apply Keeps.foldl | with_reducible apply Keeps.foldl_fst | with_reducible apply State.dropOp_keeps | with_reducible apply State.respond_keeps | with_reducible apply State.dropStaging_keeps | with_reducible apply State.consumed_keeps | with_reducible apply State.countBad_keeps | with_reducible apply State.cutChains_keeps | with_reducible apply State.tellReroll_keeps | simp only [Keeps.upd_iff] | refine Keeps.upd_regs ?_ swf_sset | refine Keeps.upd_cells ?_ swf_sset | refine Keeps.upd_shadow ?_ swf_sset | refine Keeps.upd_buf ?_ (wf_write _) | split | dsimp only)

theorem State.poisonRecords_keeps {orig s : State} (h : Keeps orig s) {o : Op} {ks : List Nat} :
    Keeps orig (State.poisonRecords s o ks) := by
  unfold State.poisonRecords
  (try dsimp only)
  repeat' (first | with_reducible assumption | intro _ | with_reducible apply Keeps.ite | with_reducible apply Keeps.foldl | with_reducible apply Keeps.foldl_fst | with_reducible apply State.event_keeps | simp only [Keeps.upd_iff] | refine Keeps.upd_regs ?_ swf_sset | refine Keeps.upd_cells ?_ swf_sset | refine Keeps.upd_shadow ?_ swf_sset | refine Keeps.upd_buf ?_ (wf_write _) | split | dsimp only)

theorem State.refreshCores_keeps {orig s : State} (h : Keeps orig s)  :
    Keeps orig (State.refreshCores s) := by
  unfold State.refreshCores
  (try dsimp only)
  repeat' (first | with_reducible assumption | intro _ | with_reducible apply Keeps.ite | with_reducible apply Keeps.foldl | with_reducible apply Keeps.foldl_fst | with_reducible apply State.setObj_keeps | simp only [Keeps.upd_iff] | refine Keeps.upd_regs ?_ swf_sset | refine Keeps.upd_cells ?_ swf_sset | refine Keeps.upd_shadow ?_ swf_sset | refine Keeps.upd_buf ?_ (wf_write _) | split | dsimp only)

theorem State.priorityTest_keeps {orig s : State} (h : Keeps orig s) {core : Nat} {rel : Option Nat} :
    Keeps orig (State.priorityTest s core rel) := by
  unfold State.priorityTest
  (try dsimp only)
  repeat' (first | with_reducible assumption | intro _ | with_reducible apply Keeps.ite | with_reducible apply Keeps.foldl | with_reducible apply Keeps.foldl_fst | simp only [Keeps.upd_iff] | refine Keeps.upd_regs ?_ swf_sset | refine Keeps.upd_cells ?_ swf_sset | refine Keeps.upd_shadow ?_ swf_sset | refine Keeps.upd_buf ?_ (wf_write _) | split | dsimp only)

theorem State.startSweep_keeps {orig s : State} (h : Keeps orig s) {u : Nat} :
    Keeps orig (State.startSweep s u) := by
  unfold State.startSweep
  (try dsimp only)
  repeat' (first | with_reducible assumption | intro _ | with_reducible apply Keeps.ite | with_reducible apply Keeps.foldl | with_reducible apply Keeps.foldl_fst | with_reducible apply State.setObj_keeps | simp only [Keeps.upd_iff] | refine Keeps.upd_regs ?_ swf_sset | refine Keeps.upd_cells ?_ swf_sset | refine Keeps.upd_shadow ?_ swf_sset | refine Keeps.upd_buf ?_ (wf_write _) | split | dsimp only)

theorem State.pendQuarantine_keeps {orig s : State} (h : Keeps orig s) {u : HwUnit} :
    Keeps orig (State.pendQuarantine s u) := by
  unfold State.pendQuarantine
  (try dsimp only)
  repeat' (first | with_reducible assumption | intro _ | with_reducible apply Keeps.ite | with_reducible apply Keeps.foldl | with_reducible apply Keeps.foldl_fst | with_reducible apply State.setObj_keeps | with_reducible apply State.event_keeps | simp only [Keeps.upd_iff] | refine Keeps.upd_regs ?_ swf_sset | refine Keeps.upd_cells ?_ swf_sset | refine Keeps.upd_shadow ?_ swf_sset | refine Keeps.upd_buf ?_ (wf_write _) | split | dsimp only)

/-- A chain that loses its weights is dropped, and the rest of the table stays. -/
theorem swf_emptyChains {cs : Sparse ChainSt} {f : Nat → Bool} (h : swf .zero cs = true) : swf .zero (emptyChains cs f) = true :=
  swf_filter h

theorem State.clearWeights_keeps {s0 s : State} (h : Keeps s0 s) {n : Nat} : Keeps s0 (s.clearWeights n) := by
  refine h.trans ⟨rfl, rfl, fun g => ?_, Or.inl rfl, List.prefix_rfl⟩
  obtain ⟨⟨b, r, t, c, sh, co, ch, p, sp, gr⟩, e⟩ := good_iff.mp g
  exact good_iff.mpr ⟨⟨b, r, t, swf_filter c, swf_filter sh, co, swf_emptyChains (f := fun k => s.chainHas k n) ch, p, sp, gr⟩, e⟩

theorem State.clearRows_keeps {orig s : State} (h : Keeps orig s) {o : Op} {rows : List (Nat × Part × Nat)} :
    Keeps orig (State.clearRows s o rows) := by
  unfold State.clearRows
  (try dsimp only)
  repeat' (first | with_reducible assumption | intro _ | with_reducible apply Keeps.ite | with_reducible apply Keeps.foldl | with_reducible apply Keeps.foldl_fst | with_reducible apply State.mapRegs_keeps | with_reducible apply State.poisonRecords_keeps | simp only [Keeps.upd_iff] | refine Keeps.upd_regs ?_ swf_sset | refine Keeps.upd_cells ?_ swf_sset | refine Keeps.upd_shadow ?_ swf_sset | refine Keeps.upd_buf ?_ (wf_write _) | split | dsimp only)

theorem State.insertOp_keeps {orig s : State} (h : Keeps orig s) {o : Op} :
    Keeps orig (State.insertOp s o) := by
  unfold State.insertOp
  (try dsimp only)
  repeat' (first | with_reducible assumption | intro _ | with_reducible apply Keeps.ite | with_reducible apply Keeps.foldl | with_reducible apply Keeps.foldl_fst | simp only [Keeps.upd_iff] | refine Keeps.upd_regs ?_ swf_sset | refine Keeps.upd_cells ?_ swf_sset | refine Keeps.upd_shadow ?_ swf_sset | refine Keeps.upd_buf ?_ (wf_write _) | split | dsimp only)

theorem State.sweepUnread_keeps {orig s : State} (h : Keeps orig s) {o : Op} :
    Keeps orig (State.sweepUnread s o) := by
  unfold State.sweepUnread
  (try dsimp only)
  repeat' (first | with_reducible assumption | intro _ | with_reducible apply Keeps.ite | with_reducible apply Keeps.foldl | with_reducible apply Keeps.foldl_fst | with_reducible apply State.clearRows_keeps | with_reducible apply State.insertOp_keeps | simp only [Keeps.upd_iff] | refine Keeps.upd_regs ?_ swf_sset | refine Keeps.upd_cells ?_ swf_sset | refine Keeps.upd_shadow ?_ swf_sset | refine Keeps.upd_buf ?_ (wf_write _) | split | dsimp only)

theorem State.loseOp_keeps {orig s : State} (h : Keeps orig s) {o : Op} :
    Keeps orig (State.loseOp s o) := by
  unfold State.loseOp
  (try dsimp only)
  repeat' (first | with_reducible assumption | intro _ | with_reducible apply Keeps.ite | with_reducible apply Keeps.foldl | with_reducible apply Keeps.foldl_fst | with_reducible apply State.finishOp_keeps | with_reducible apply State.sweepUnread_keeps | with_reducible apply State.poisonRecords_keeps | simp only [Keeps.upd_iff] | refine Keeps.upd_regs ?_ swf_sset | refine Keeps.upd_cells ?_ swf_sset | refine Keeps.upd_shadow ?_ swf_sset | refine Keeps.upd_buf ?_ (wf_write _) | split | dsimp only)

theorem State.loseOps_keeps {orig s : State} (h : Keeps orig s) {f : Op → Bool} :
    Keeps orig (State.loseOps s f) := by
  unfold State.loseOps
  (try dsimp only)
  repeat' (first | with_reducible assumption | intro _ | with_reducible apply Keeps.ite | with_reducible apply Keeps.foldl | with_reducible apply Keeps.foldl_fst | with_reducible apply State.loseOp_keeps | simp only [Keeps.upd_iff] | refine Keeps.upd_regs ?_ swf_sset | refine Keeps.upd_cells ?_ swf_sset | refine Keeps.upd_shadow ?_ swf_sset | refine Keeps.upd_buf ?_ (wf_write _) | split | dsimp only)

theorem State.scrambleCore_keeps {s0 s : State} (h : Keeps s0 s) {c : Nat} : Keeps s0 (s.scrambleCore c) := by
  unfold State.scrambleCore
  exact Keeps.foldl (fun s k hs => State.drawFree_keeps (Keeps.setReg hs)) h

theorem State.endDebug_keeps {orig s : State} (h : Keeps orig s)  :
    Keeps orig (State.endDebug s) := by
  unfold State.endDebug
  (try dsimp only)
  repeat' (first | with_reducible assumption | intro _ | with_reducible apply Keeps.ite | with_reducible apply Keeps.foldl | with_reducible apply Keeps.foldl_fst | with_reducible apply State.setObj_keeps | simp only [Keeps.upd_iff] | refine Keeps.upd_regs ?_ swf_sset | refine Keeps.upd_cells ?_ swf_sset | refine Keeps.upd_shadow ?_ swf_sset | refine Keeps.upd_buf ?_ (wf_write _) | split | dsimp only)

theorem State.leaveDebug_keeps {orig s : State} (h : Keeps orig s)  :
    Keeps orig (State.leaveDebug s) := by
  unfold State.leaveDebug
  (try dsimp only)
  repeat' (first | with_reducible assumption | intro _ | with_reducible apply Keeps.ite | with_reducible apply Keeps.foldl | with_reducible apply Keeps.foldl_fst | with_reducible apply State.endDebug_keeps | simp only [Keeps.upd_iff] | refine Keeps.upd_regs ?_ swf_sset | refine Keeps.upd_cells ?_ swf_sset | refine Keeps.upd_shadow ?_ swf_sset | refine Keeps.upd_buf ?_ (wf_write _) | split | dsimp only)

theorem State.quarEngine_keeps {orig s : State} (h : Keeps orig s) {n : Nat} :
    Keeps orig (State.quarEngine s n) := by
  unfold State.quarEngine
  (try dsimp only)
  repeat' (first | with_reducible assumption | intro _ | with_reducible apply Keeps.ite | with_reducible apply Keeps.foldl | with_reducible apply Keeps.foldl_fst | with_reducible apply State.setObj_keeps | with_reducible apply State.event_keeps | with_reducible apply State.clearWeights_keeps | with_reducible apply State.leaveDebug_keeps | simp only [Keeps.upd_iff] | refine Keeps.upd_regs ?_ swf_sset | refine Keeps.upd_cells ?_ swf_sset | refine Keeps.upd_shadow ?_ swf_sset | refine Keeps.upd_buf ?_ (wf_write _) | split | dsimp only)

theorem State.quarCore_keeps {s0 s : State} (h : Keeps s0 s) {c : Nat} {imm : Bool} : Keeps s0 (s.quarCore c imm) := by
  unfold State.quarCore
  exact State.event_keeps (State.refreshCores_keeps (State.setObj_keeps (State.setObj_keeps
    (Keeps.foldl (fun s k hs => State.clearWeights_keeps hs) h))))

theorem State.suspect_keeps {s0 s : State} (h : Keeps s0 s) {u : HwUnit} {cls : Nat} : Keeps s0 (s.suspect u cls) := by
  cases u with
  | link c => exact State.startSweep_keeps h
  | engine n => exact State.priorityTest_keeps (Keeps.ite (State.event_keeps (State.setObj_keeps h)) h)
  | drain n => exact State.priorityTest_keeps (Keeps.ite (State.event_keeps (State.setObj_keeps h)) h)

theorem State.noteOffence_keeps {orig s : State} (h : Keeps orig s) {u : HwUnit} :
    Keeps orig (State.noteOffence s u) := by
  unfold State.noteOffence
  (try dsimp only)
  repeat' (first | with_reducible assumption | intro _ | with_reducible apply Keeps.ite | with_reducible apply Keeps.foldl | with_reducible apply Keeps.foldl_fst | with_reducible apply State.setObj_keeps | simp only [Keeps.upd_iff] | refine Keeps.upd_regs ?_ swf_sset | refine Keeps.upd_cells ?_ swf_sset | refine Keeps.upd_shadow ?_ swf_sset | refine Keeps.upd_buf ?_ (wf_write _) | split | dsimp only)

theorem State.offend_keeps {s0 s : State} (h : Keeps s0 s) {u : HwUnit} {cls : Nat} : Keeps s0 (s.offend u cls) := by
  have h1 : Keeps s0 ({ s with con := { s.con with
    offences := s.con.offences ++ [(u, s.now)]
    clean := s.con.clean.filter (fun x => x != u) } } : State) := h.upd
  have h2 := State.noteOffence_keeps (u := u) h1
  unfold State.offend
  dsimp only
  split
  · exact State.suspect_keeps h2
  · refine Keeps.ite ?_ (Keeps.ite ?_ ?_)
    · exact State.quarCore_keeps (State.scrambleCore_keeps (State.loseOps_keeps (State.suspect_keeps h2)))
    · exact State.pendQuarantine_keeps (State.suspect_keeps h2)
    · exact State.suspect_keeps h2

theorem State.countResidue_keeps {orig s : State} (h : Keeps orig s)  :
    Keeps orig (State.countResidue s) := by
  unfold State.countResidue
  (try dsimp only)
  repeat' (first | with_reducible assumption | intro _ | with_reducible apply Keeps.ite | with_reducible apply Keeps.foldl | with_reducible apply Keeps.foldl_fst | with_reducible apply State.bump_keeps | simp only [Keeps.upd_iff] | refine Keeps.upd_regs ?_ swf_sset | refine Keeps.upd_cells ?_ swf_sset | refine Keeps.upd_shadow ?_ swf_sset | refine Keeps.upd_buf ?_ (wf_write _) | split | dsimp only)

theorem State.retryRecord_keeps {orig s : State} (h : Keeps orig s) {e : Event} {cleared : Bool} {tag : Nat} :
    Keeps orig (State.retryRecord s e cleared tag) := by
  unfold State.retryRecord
  (try dsimp only)
  repeat' (first | with_reducible assumption | intro _ | with_reducible apply Keeps.ite | with_reducible apply Keeps.foldl | with_reducible apply Keeps.foldl_fst | with_reducible apply State.bump_keeps | with_reducible apply State.event_keeps | simp only [Keeps.upd_iff] | refine Keeps.upd_regs ?_ swf_sset | refine Keeps.upd_cells ?_ swf_sset | refine Keeps.upd_shadow ?_ swf_sset | refine Keeps.upd_buf ?_ (wf_write _) | split | dsimp only)

theorem State.retryEvent_keeps {orig s : State} (h : Keeps orig s) {o : Op} {cleared : Bool} {unit loc : Nat} {pos : Option (Nat × Nat)} {cls : Nat} :
    Keeps orig (State.retryEvent s o cleared unit loc pos cls) := by
  unfold State.retryEvent
  (try dsimp only)
  repeat' (first | with_reducible assumption | intro _ | with_reducible apply Keeps.ite | with_reducible apply Keeps.foldl | with_reducible apply Keeps.foldl_fst | with_reducible apply State.retryRecord_keeps | simp only [Keeps.upd_iff] | refine Keeps.upd_regs ?_ swf_sset | refine Keeps.upd_cells ?_ swf_sset | refine Keeps.upd_shadow ?_ swf_sset | refine Keeps.upd_buf ?_ (wf_write _) | split | dsimp only)

end Sys2Proof.Machine
end

