-- ==== Sys2Proof/Laws/KeepArray.lean ====
section
/-! SUPPORT. The operations of Tree, Array, DrainOps, Reserved, Planner, Check, Price, Accept keep a good state good, the queue and the configuration. -/

namespace Sys2Proof.Machine

theorem State.putShadow_keeps {orig s : State} (h : Keeps orig s) {t : TileRef} {row : Nat} {es : List Code} {ps : List Bool} :
    Keeps orig (State.putShadow s t row es ps) := by
  unfold State.putShadow
  (try dsimp only)
  repeat' (first | with_reducible assumption | intro _ | with_reducible apply Keeps.ite | with_reducible apply Keeps.foldl | with_reducible apply Keeps.foldl_fst | simp only [Keeps.upd_iff] | refine Keeps.upd_regs ?_ swf_sset | refine Keeps.upd_cells ?_ swf_sset | refine Keeps.upd_shadow ?_ swf_sset | refine Keeps.upd_buf ?_ (wf_write _) | split | dsimp only)

theorem State.cellParity_keeps {orig s : State} (h : Keeps orig s) {tenant : Option Nat} {c : ChainId} {r cols : Nat} :
    Keeps orig (State.cellParity s tenant c r cols) := by
  unfold State.cellParity
  (try dsimp only)
  repeat' (first | with_reducible assumption | intro _ | with_reducible apply Keeps.ite | with_reducible apply Keeps.foldl | with_reducible apply Keeps.foldl_fst | with_reducible apply State.bump_keeps | with_reducible apply State.event_keeps | simp only [Keeps.upd_iff] | refine Keeps.upd_regs ?_ swf_sset | refine Keeps.upd_cells ?_ swf_sset | refine Keeps.upd_shadow ?_ swf_sset | refine Keeps.upd_buf ?_ (wf_write _) | split | dsimp only)

theorem State.swapCells_keeps {orig s : State} (h : Keeps orig s) {c : ChainId} {l : Load} {eng blk : Nat} :
    Keeps orig (State.swapCells s c l eng blk) := by
  unfold State.swapCells
  (try dsimp only)
  repeat' (first | with_reducible assumption | intro _ | with_reducible apply Keeps.ite | with_reducible apply Keeps.foldl | with_reducible apply Keeps.foldl_fst | simp only [Keeps.upd_iff] | refine Keeps.upd_regs ?_ swf_sset | refine Keeps.upd_cells ?_ swf_sset | refine Keeps.upd_shadow ?_ swf_sset | refine Keeps.upd_buf ?_ (wf_write _) | split | dsimp only)

theorem State.fillToks_keeps {orig s : State} (h : Keeps orig s) {c : ChainId} {l : LoadId} {rs : List Nat} :
    Keeps orig (State.fillToks s c l rs) := by
  unfold State.fillToks
  (try dsimp only)
  repeat' (first | with_reducible assumption | intro _ | with_reducible apply Keeps.ite | with_reducible apply Keeps.foldl | with_reducible apply Keeps.foldl_fst | with_reducible apply Keeps.setChain | with_reducible apply State.cellParity_keeps | simp only [Keeps.upd_iff] | refine Keeps.upd_regs ?_ swf_sset | refine Keeps.upd_cells ?_ swf_sset | refine Keeps.upd_shadow ?_ swf_sset | refine Keeps.upd_buf ?_ (wf_write _) | split | dsimp only)

theorem State.markSum_keeps {orig s : State} (h : Keeps orig s) {o : Op} {c : ChainId} {ci : Nat} {k : Tok} {col j : Nat} :
    Keeps orig (State.markSum s o c ci k col j) := by
  unfold State.markSum
  (try dsimp only)
  repeat' (first | with_reducible assumption | intro _ | with_reducible apply Keeps.ite | with_reducible apply Keeps.foldl | with_reducible apply Keeps.foldl_fst | with_reducible apply Keeps.setChain | with_reducible apply State.mapOp_keeps | simp only [Keeps.upd_iff] | refine Keeps.upd_regs ?_ swf_sset | refine Keeps.upd_cells ?_ swf_sset | refine Keeps.upd_shadow ?_ swf_sset | refine Keeps.upd_buf ?_ (wf_write _) | split | dsimp only)

theorem State.capture_keeps {orig s : State} (h : Keeps orig s) {e : Event} {d : CapData} :
    Keeps orig (State.capture s e d) := by
  unfold State.capture
  (try dsimp only)
  repeat' (first | with_reducible assumption | intro _ | with_reducible apply Keeps.ite | with_reducible apply Keeps.foldl | with_reducible apply Keeps.foldl_fst | with_reducible apply State.bump_keeps | with_reducible apply State.event_keeps | with_reducible apply State.countResidue_keeps | simp only [Keeps.upd_iff] | refine Keeps.upd_regs ?_ swf_sset | refine Keeps.upd_cells ?_ swf_sset | refine Keeps.upd_shadow ?_ swf_sset | refine Keeps.upd_buf ?_ (wf_write _) | split | dsimp only)

theorem State.capCleared_keeps {orig s : State} (h : Keeps orig s) {i : Nat} :
    Keeps orig (State.capCleared s i) := by
  unfold State.capCleared
  (try dsimp only)
  repeat' (first | with_reducible assumption | intro _ | with_reducible apply Keeps.ite | with_reducible apply Keeps.foldl | with_reducible apply Keeps.foldl_fst | simp only [Keeps.upd_iff] | refine Keeps.upd_regs ?_ swf_sset | refine Keeps.upd_cells ?_ swf_sset | refine Keeps.upd_shadow ?_ swf_sset | refine Keeps.upd_buf ?_ (wf_write _) | split | dsimp only)

theorem State.addReg_keeps {orig s : State} (h : Keeps orig s) {id : Option Nat} {tenant tag : Nat} {t : TileRef} {rk : Nat} {new : LongReg} :
    Keeps orig (State.addReg s id tenant tag t rk new) := by
  unfold State.addReg
  (try dsimp only)
  repeat' (first | with_reducible assumption | intro _ | with_reducible apply Keeps.ite | with_reducible apply Keeps.foldl | with_reducible apply Keeps.foldl_fst | with_reducible apply Keeps.setReg | with_reducible apply State.mapOp_keeps | with_reducible apply State.offend_keeps | with_reducible apply State.retryRecord_keeps | with_reducible apply State.capture_keeps | simp only [Keeps.upd_iff] | refine Keeps.upd_regs ?_ swf_sset | refine Keeps.upd_cells ?_ swf_sset | refine Keeps.upd_shadow ?_ swf_sset | refine Keeps.upd_buf ?_ (wf_write _) | split | dsimp only)

theorem State.failSum_keeps {orig s : State} (h : Keeps orig s) {o : Op} {c : ChainId} {ci : Nat} {k : Tok} {col j : Nat} {f : SumFail} {rk : Nat} :
    Keeps orig (State.failSum s o c ci k col j f rk) := by
  unfold State.failSum
  (try dsimp only)
  repeat' (first | with_reducible assumption | intro _ | with_reducible apply Keeps.ite | with_reducible apply Keeps.foldl | with_reducible apply Keeps.foldl_fst | with_reducible apply State.event_keeps | with_reducible apply Keeps.setReg | with_reducible apply Keeps.setChain | with_reducible apply State.mapChain_keeps | with_reducible apply State.mapOp_keeps | with_reducible apply State.offend_keeps | with_reducible apply State.retryEvent_keeps | with_reducible apply State.markSum_keeps | with_reducible apply State.capture_keeps | simp only [Keeps.upd_iff] | refine Keeps.upd_regs ?_ swf_sset | refine Keeps.upd_cells ?_ swf_sset | refine Keeps.upd_shadow ?_ swf_sset | refine Keeps.upd_buf ?_ (wf_write _) | split | dsimp only)

theorem State.clearRetry_keeps {orig s : State} (h : Keeps orig s) {o : Op} {c : ChainId} {k : Tok} {col j : Nat} :
    Keeps orig (State.clearRetry s o c k col j) := by
  unfold State.clearRetry
  (try dsimp only)
  repeat' (first | with_reducible assumption | intro _ | with_reducible apply Keeps.ite | with_reducible apply Keeps.foldl | with_reducible apply Keeps.foldl_fst | with_reducible apply Keeps.setChain | with_reducible apply State.retryEvent_keeps | with_reducible apply State.capCleared_keeps | simp only [Keeps.upd_iff] | refine Keeps.upd_regs ?_ swf_sset | refine Keeps.upd_cells ?_ swf_sset | refine Keeps.upd_shadow ?_ swf_sset | refine Keeps.upd_buf ?_ (wf_write _) | split | dsimp only)

theorem State.addSum_keeps {orig s : State} (h : Keeps orig s) {o : Op} {c : ChainId} {ci : Nat} {k : Tok} {col j : Nat} {fault : Option SumFault} {rk : Nat} :
    Keeps orig (State.addSum s o c ci k col j fault rk) := by
  unfold State.addSum
  (try dsimp only)
  repeat' (first | with_reducible assumption | intro _ | with_reducible apply Keeps.ite | with_reducible apply Keeps.foldl | with_reducible apply Keeps.foldl_fst | with_reducible apply Keeps.setReg | with_reducible apply State.markSum_keeps | with_reducible apply State.clearRetry_keeps | simp only [Keeps.upd_iff] | refine Keeps.upd_regs ?_ swf_sset | refine Keeps.upd_cells ?_ swf_sset | refine Keeps.upd_shadow ?_ swf_sset | refine Keeps.upd_buf ?_ (wf_write _) | split | dsimp only)

theorem State.laneParity_keeps {orig s : State} (h : Keeps orig s) {o : Op} {c : ChainId} {k : Tok} {col : Nat} :
    Keeps orig (State.laneParity s o c k col) := by
  unfold State.laneParity
  (try dsimp only)
  repeat' (first | with_reducible assumption | intro _ | with_reducible apply Keeps.ite | with_reducible apply Keeps.foldl | with_reducible apply Keeps.foldl_fst | with_reducible apply State.bump_keeps | with_reducible apply State.event_keeps | simp only [Keeps.upd_iff] | refine Keeps.upd_regs ?_ swf_sset | refine Keeps.upd_cells ?_ swf_sset | refine Keeps.upd_shadow ?_ swf_sset | refine Keeps.upd_buf ?_ (wf_write _) | split | dsimp only)

theorem State.againParity_keeps {orig s : State} (h : Keeps orig s) {c : ChainId} {k : Tok} :
    Keeps orig (State.againParity s c k) := by
  unfold State.againParity
  (try dsimp only)
  repeat' (first | with_reducible assumption | intro _ | with_reducible apply Keeps.ite | with_reducible apply Keeps.foldl | with_reducible apply Keeps.foldl_fst | with_reducible apply State.cellParity_keeps | simp only [Keeps.upd_iff] | refine Keeps.upd_regs ?_ swf_sset | refine Keeps.upd_cells ?_ swf_sset | refine Keeps.upd_shadow ?_ swf_sset | refine Keeps.upd_buf ?_ (wf_write _) | split | dsimp only)

theorem State.represent_keeps {orig : State} {c : ChainId} {l : List Tok} : ∀ {s : State}, Keeps orig s → Keeps orig (s.represent c l) := by
  induction l with
  | nil => intro s h; exact h
  | cons k r ih =>
    intro s h
    unfold State.represent
    exact Keeps.ite (ih (State.againParity_keeps (State.opToken_keeps (State.mapChain_keeps h)))) h

theorem State.readFailed_keeps {orig s : State} (h : Keeps orig s) {e : Event} {u : HwUnit} {twice : Bool} {tag : Nat} :
    Keeps orig (State.readFailed s e u twice tag) := by
  unfold State.readFailed
  (try dsimp only)
  repeat' (first | with_reducible assumption | intro _ | with_reducible apply Keeps.ite | with_reducible apply Keeps.foldl | with_reducible apply Keeps.foldl_fst | with_reducible apply State.event_keeps | with_reducible apply State.offend_keeps | with_reducible apply State.countResidue_keeps | with_reducible apply State.retryRecord_keeps | simp only [Keeps.upd_iff] | refine Keeps.upd_regs ?_ swf_sset | refine Keeps.upd_cells ?_ swf_sset | refine Keeps.upd_shadow ?_ swf_sset | refine Keeps.upd_buf ?_ (wf_write _) | split | dsimp only)

theorem State.drainReg_keeps {orig s : State} (h : Keeps orig s) {o : Op} {f : ReadForm} {rk : Nat} {t : TileRef} {g : Fusion} {x : ReadOutcome} :
    Keeps orig (State.drainReg s o f rk t g x) := by
  unfold State.drainReg
  (try dsimp only)
  repeat' (first | with_reducible assumption | intro _ | with_reducible apply Keeps.ite | with_reducible apply Keeps.foldl | with_reducible apply Keeps.foldl_fst | with_reducible apply Keeps.setReg | with_reducible apply State.mapOp_keeps | with_reducible apply State.drawFree_keeps | with_reducible apply State.readFailed_keeps | simp only [Keeps.upd_iff] | refine Keeps.upd_regs ?_ swf_sset | refine Keeps.upd_cells ?_ swf_sset | refine Keeps.upd_shadow ?_ swf_sset | refine Keeps.upd_buf ?_ (wf_write _) | split | dsimp only)

theorem State.drainCols_keeps {orig s : State} (h : Keeps orig s) {o : Op} {p : Part} {i : Nat} {keys : List Nat} {gs : List Fusion} {faults : List ReadFault} :
    Keeps orig (State.drainCols s o p i keys gs faults).1 := by
  unfold State.drainCols
  (try dsimp only)
  repeat' (first | with_reducible assumption | intro _ | with_reducible apply Keeps.ite | with_reducible apply Keeps.foldl | with_reducible apply Keeps.foldl_fst | with_reducible apply State.drainReg_keeps | simp only [Keeps.upd_iff] | refine Keeps.upd_regs ?_ swf_sset | refine Keeps.upd_cells ?_ swf_sset | refine Keeps.upd_shadow ?_ swf_sset | refine Keeps.upd_buf ?_ (wf_write _) | split | dsimp only)

theorem State.convertRow_keeps {orig s : State} (h : Keeps orig s) {o : Op} {ci : Nat} {p : Part} {i : Nat} {faults : List ReadFault} :
    Keeps orig (State.convertRow s o ci p i faults) := by
  unfold State.convertRow
  (try dsimp only)
  repeat' (first | with_reducible assumption | intro _ | with_reducible apply Keeps.ite | with_reducible apply Keeps.foldl | with_reducible apply Keeps.foldl_fst | with_reducible apply State.bump_keeps | with_reducible apply State.mapOp_keeps | with_reducible apply State.settleRing_keeps | with_reducible apply State.parityEvents_keeps | with_reducible apply State.writeTensor_keeps | with_reducible apply State.drainCols_keeps | simp only [Keeps.upd_iff] | refine Keeps.upd_regs ?_ swf_sset | refine Keeps.upd_cells ?_ swf_sset | refine Keeps.upd_shadow ?_ swf_sset | refine Keeps.upd_buf ?_ (wf_write _) | split | dsimp only)

theorem State.putPreload_keeps {orig s : State} (h : Keeps orig s) {keys : List Nat} {es : List Incoming} :
    Keeps orig (State.putPreload s keys es) := by
  unfold State.putPreload
  (try dsimp only)
  repeat' (first | with_reducible assumption | intro _ | with_reducible apply Keeps.ite | with_reducible apply Keeps.foldl | with_reducible apply Keeps.foldl_fst | with_reducible apply Keeps.setReg | simp only [Keeps.upd_iff] | refine Keeps.upd_regs ?_ swf_sset | refine Keeps.upd_cells ?_ swf_sset | refine Keeps.upd_shadow ?_ swf_sset | refine Keeps.upd_buf ?_ (wf_write _) | split | dsimp only)

theorem State.checkRead_keeps {orig s : State} (h : Keeps orig s) {o : Op} {rk : Nat} {t : TileRef} {faults : List ReadFault} {j : Nat} :
    Keeps orig (State.checkRead s o rk t faults j) := by
  unfold State.checkRead
  (try dsimp only)
  repeat' (first | with_reducible assumption | intro _ | with_reducible apply Keeps.ite | with_reducible apply Keeps.foldl | with_reducible apply Keeps.foldl_fst | with_reducible apply Keeps.setReg | with_reducible apply State.mapOp_keeps | with_reducible apply State.readFailed_keeps | simp only [Keeps.upd_iff] | refine Keeps.upd_regs ?_ swf_sset | refine Keeps.upd_cells ?_ swf_sset | refine Keeps.upd_shadow ?_ swf_sset | refine Keeps.upd_buf ?_ (wf_write _) | split | dsimp only)

theorem State.arrived_keeps {orig s : State} (h : Keeps orig s) {m : SpineMsg} :
    Keeps orig (State.arrived s m) := by
  unfold State.arrived
  (try dsimp only)
  repeat' (first | with_reducible assumption | intro _ | with_reducible apply Keeps.ite | with_reducible apply Keeps.foldl | with_reducible apply Keeps.foldl_fst | with_reducible apply State.mapOp_keeps | simp only [Keeps.upd_iff] | refine Keeps.upd_regs ?_ swf_sset | refine Keeps.upd_cells ?_ swf_sset | refine Keeps.upd_shadow ?_ swf_sset | refine Keeps.upd_buf ?_ (wf_write _) | split | dsimp only)

theorem State.spineTake_keeps {orig s : State} (h : Keeps orig s) {core : Nat} {o : Op} {m : SpineMsg} {ws : List W64} {rk : Nat} :
    Keeps orig (State.spineTake s core o m ws rk) := by
  unfold State.spineTake
  (try dsimp only)
  repeat' (first | with_reducible assumption | intro _ | with_reducible apply Keeps.ite | with_reducible apply Keeps.foldl | with_reducible apply Keeps.foldl_fst | with_reducible apply State.event_keeps | with_reducible apply Keeps.setReg | with_reducible apply Keeps.setLink | with_reducible apply State.mapOp_keeps | with_reducible apply State.offend_keeps | with_reducible apply State.countResidue_keeps | with_reducible apply State.retryEvent_keeps | with_reducible apply State.addReg_keeps | with_reducible apply State.arrived_keeps | simp only [Keeps.upd_iff] | refine Keeps.upd_regs ?_ swf_sset | refine Keeps.upd_cells ?_ swf_sset | refine Keeps.upd_shadow ?_ swf_sset | refine Keeps.upd_buf ?_ (wf_write _) | split | dsimp only)

theorem State.dictRead_keeps {orig s : State} (h : Keeps orig s) {f : ReadForm} {rk : Nat} {t : TileRef} {x : ReadOutcome} :
    Keeps orig (State.dictRead s f rk t x) := by
  unfold State.dictRead
  (try dsimp only)
  repeat' (first | with_reducible assumption | intro _ | with_reducible apply Keeps.ite | with_reducible apply Keeps.foldl | with_reducible apply Keeps.foldl_fst | with_reducible apply Keeps.setReg | with_reducible apply State.drawFree_keeps | with_reducible apply State.readFailed_keeps | simp only [Keeps.upd_iff] | refine Keeps.upd_regs ?_ swf_sset | refine Keeps.upd_cells ?_ swf_sset | refine Keeps.upd_shadow ?_ swf_sset | refine Keeps.upd_buf ?_ (wf_write _) | split | dsimp only)

theorem State.dictCols_keeps {orig s : State} (h : Keeps orig s) {q : DrainSlot} {t : TileRef} {keys : List Nat} {faults : List ReadFault} :
    Keeps orig (State.dictCols s q t keys faults).1 := by
  unfold State.dictCols
  (try dsimp only)
  repeat' (first | with_reducible assumption | intro _ | with_reducible apply Keeps.ite | with_reducible apply Keeps.foldl | with_reducible apply Keeps.foldl_fst | with_reducible apply State.dictRead_keeps | simp only [Keeps.upd_iff] | refine Keeps.upd_regs ?_ swf_sset | refine Keeps.upd_cells ?_ swf_sset | refine Keeps.upd_shadow ?_ swf_sset | refine Keeps.upd_buf ?_ (wf_write _) | split | dsimp only)

theorem State.setDrq_keeps {orig s : State} (h : Keeps orig s) {i : Nat} {q : DrainSlot} :
    Keeps orig (State.setDrq s i q) := by
  unfold State.setDrq
  (try dsimp only)
  repeat' (first | with_reducible assumption | intro _ | with_reducible apply Keeps.ite | with_reducible apply Keeps.foldl | with_reducible apply Keeps.foldl_fst | simp only [Keeps.upd_iff] | refine Keeps.upd_regs ?_ swf_sset | refine Keeps.upd_cells ?_ swf_sset | refine Keeps.upd_shadow ?_ swf_sset | refine Keeps.upd_buf ?_ (wf_write _) | split | dsimp only)

theorem State.addTerms_keeps {orig s : State} (h : Keeps orig s) {a : TileRef × Nat} :
    Keeps orig (State.addTerms s a) := by
  unfold State.addTerms
  (try dsimp only)
  repeat' (first | with_reducible assumption | intro _ | with_reducible apply Keeps.ite | with_reducible apply Keeps.foldl | with_reducible apply Keeps.foldl_fst | with_reducible apply State.mapTile_keeps | simp only [Keeps.upd_iff] | refine Keeps.upd_regs ?_ swf_sset | refine Keeps.upd_cells ?_ swf_sset | refine Keeps.upd_shadow ?_ swf_sset | refine Keeps.upd_buf ?_ (wf_write _) | split | dsimp only)

theorem State.planTiles_keeps {orig s : State} (h : Keeps orig s) {k : OpK} {d : Desc} {rd : Option Desc} :
    Keeps orig (State.planTiles s k d rd) := by
  unfold State.planTiles
  (try dsimp only)
  repeat' (first | with_reducible assumption | intro _ | with_reducible apply Keeps.ite | with_reducible apply Keeps.foldl | with_reducible apply Keeps.foldl_fst | with_reducible apply Keeps.setTile | with_reducible apply State.mapTile_keeps | with_reducible apply State.addTerms_keeps | simp only [Keeps.upd_iff] | refine Keeps.upd_regs ?_ swf_sset | refine Keeps.upd_cells ?_ swf_sset | refine Keeps.upd_shadow ?_ swf_sset | refine Keeps.upd_buf ?_ (wf_write _) | split | dsimp only)

theorem State.endRanges_keeps {orig s : State} (h : Keeps orig s) {f : Range → Bool} :
    Keeps orig (State.endRanges s f) := by
  unfold State.endRanges
  (try dsimp only)
  repeat' (first | with_reducible assumption | intro _ | with_reducible apply Keeps.ite | with_reducible apply Keeps.foldl | with_reducible apply Keeps.foldl_fst | with_reducible apply State.setObj_keeps | simp only [Keeps.upd_iff] | refine Keeps.upd_regs ?_ swf_sset | refine Keeps.upd_cells ?_ swf_sset | refine Keeps.upd_shadow ?_ swf_sset | refine Keeps.upd_buf ?_ (wf_write _) | split | dsimp only)

theorem State.planRanges_keeps {orig s : State} (h : Keeps orig s) {o : Op} :
    Keeps orig (State.planRanges s o) := by
  unfold State.planRanges
  (try dsimp only)
  repeat' (first | with_reducible assumption | intro _ | with_reducible apply Keeps.ite | with_reducible apply Keeps.foldl | with_reducible apply Keeps.foldl_fst | with_reducible apply State.endRanges_keeps | simp only [Keeps.upd_iff] | refine Keeps.upd_regs ?_ swf_sset | refine Keeps.upd_cells ?_ swf_sset | refine Keeps.upd_shadow ?_ swf_sset | refine Keeps.upd_buf ?_ (wf_write _) | split | dsimp only)

/-- Chains that lose their set in force leave a canonical table. -/
theorem swf_unset {cs : Sparse ChainSt} {p : Nat × ChainSt → Bool} (h : swf .zero cs = true) :
    swf .zero (cs.filterMap (fun e =>
      if p e then (let v := { e.2 with ws := none }; if v = ChainSt.zero then none else some (e.1, v)) else some e)) = true := by
  refine swf_filterMap h (fun e e' he hf => ?_)
  split at hf
  · simp only at hf
    split at hf
    · cases hf
    · next hz => cases hf; exact ⟨rfl, hz⟩
  · cases hf; exact ⟨rfl, he⟩

theorem State.regroup_keeps {s0 s : State} (h : Keeps s0 s) {c : Nat} {o : Op} : Keeps s0 (s.regroup c o) := by
  unfold State.regroup
  dsimp only
  split
  · exact h.upd_chains (fun hc => swf_unset (p := fun e => e.1 / 128 == c) hc)
  · exact h.upd_chains (fun hc => swf_unset (p := fun e => e.1 / 128 == c && _) hc)

theorem State.planSets_keeps {orig s : State} (h : Keeps orig s) {o : Op} :
    Keeps orig (State.planSets s o) := by
  unfold State.planSets
  (try dsimp only)
  repeat' (first | with_reducible assumption | intro _ | with_reducible apply Keeps.ite | with_reducible apply Keeps.foldl | with_reducible apply Keeps.foldl_fst | with_reducible apply Keeps.setChain | with_reducible apply State.regroup_keeps | simp only [Keeps.upd_iff] | refine Keeps.upd_regs ?_ swf_sset | refine Keeps.upd_cells ?_ swf_sset | refine Keeps.upd_shadow ?_ swf_sset | refine Keeps.upd_buf ?_ (wf_write _) | split | dsimp only)

theorem State.joinRegion_keeps {orig s : State} (h : Keeps orig s) {o : Op} :
    Keeps orig (State.joinRegion s o) := by
  unfold State.joinRegion
  (try dsimp only)
  repeat' (first | with_reducible assumption | intro _ | with_reducible apply Keeps.ite | with_reducible apply Keeps.foldl | with_reducible apply Keeps.foldl_fst | with_reducible apply State.mapTile_keeps | with_reducible apply State.mapRegion_keeps | simp only [Keeps.upd_iff] | refine Keeps.upd_regs ?_ swf_sset | refine Keeps.upd_cells ?_ swf_sset | refine Keeps.upd_shadow ?_ swf_sset | refine Keeps.upd_buf ?_ (wf_write _) | split | dsimp only)

theorem State.unbindTiles_keeps {orig s : State} (h : Keeps orig s) {t r : Nat} :
    Keeps orig (State.unbindTiles s t r) := by
  unfold State.unbindTiles
  (try dsimp only)
  repeat' (first | with_reducible assumption | intro _ | with_reducible apply Keeps.ite | with_reducible apply Keeps.foldl | with_reducible apply Keeps.foldl_fst | with_reducible apply Keeps.setTile | simp only [Keeps.upd_iff] | refine Keeps.upd_regs ?_ swf_sset | refine Keeps.upd_cells ?_ swf_sset | refine Keeps.upd_shadow ?_ swf_sset | refine Keeps.upd_buf ?_ (wf_write _) | split | dsimp only)

theorem State.putQuarter_keeps {orig s : State} (h : Keeps orig s) {q : Nat × Nat × TMode} :
    Keeps orig (State.putQuarter s q) := by
  unfold State.putQuarter
  (try dsimp only)
  repeat' (first | with_reducible assumption | intro _ | with_reducible apply Keeps.ite | with_reducible apply Keeps.foldl | with_reducible apply Keeps.foldl_fst | with_reducible apply Keeps.setTile | simp only [Keeps.upd_iff] | refine Keeps.upd_regs ?_ swf_sset | refine Keeps.upd_cells ?_ swf_sset | refine Keeps.upd_shadow ?_ swf_sset | refine Keeps.upd_buf ?_ (wf_write _) | split | dsimp only)

theorem State.squashRegion_keeps {orig s : State} (h : Keeps orig s) {t r : Nat} :
    Keeps orig (State.squashRegion s t r) := by
  unfold State.squashRegion
  (try dsimp only)
  repeat' (first | with_reducible assumption | intro _ | with_reducible apply Keeps.ite | with_reducible apply Keeps.foldl | with_reducible apply Keeps.foldl_fst | with_reducible apply State.mapRegion_keeps | with_reducible apply State.putQuarter_keeps | simp only [Keeps.upd_iff] | refine Keeps.upd_regs ?_ swf_sset | refine Keeps.upd_cells ?_ swf_sset | refine Keeps.upd_shadow ?_ swf_sset | refine Keeps.upd_buf ?_ (wf_write _) | split | dsimp only)

theorem State.declareRange_keeps {orig s : State} (h : Keeps orig s) {o : Op} :
    Keeps orig (State.declareRange s o) := by
  unfold State.declareRange
  (try dsimp only)
  repeat' (first | with_reducible assumption | intro _ | with_reducible apply Keeps.ite | with_reducible apply Keeps.foldl | with_reducible apply Keeps.foldl_fst | with_reducible apply State.setObj_keeps | simp only [Keeps.upd_iff] | refine Keeps.upd_regs ?_ swf_sset | refine Keeps.upd_cells ?_ swf_sset | refine Keeps.upd_shadow ?_ swf_sset | refine Keeps.upd_buf ?_ (wf_write _) | split | dsimp only)

theorem State.cutOps_keeps {orig s : State} (h : Keeps orig s) {t floor fep : Nat} :
    Keeps orig (State.cutOps s t floor fep) := by
  unfold State.cutOps
  (try dsimp only)
  repeat' (first | with_reducible assumption | intro _ | with_reducible apply Keeps.ite | with_reducible apply Keeps.foldl | with_reducible apply Keeps.foldl_fst | simp only [Keeps.upd_iff] | refine Keeps.upd_regs ?_ swf_sset | refine Keeps.upd_cells ?_ swf_sset | refine Keeps.upd_shadow ?_ swf_sset | refine Keeps.upd_buf ?_ (wf_write _) | split | dsimp only)

theorem State.takeFence_keeps {orig s : State} (h : Keeps orig s) {o : Op} :
    Keeps orig (State.takeFence s o) := by
  unfold State.takeFence
  (try dsimp only)
  repeat' (first | with_reducible assumption | intro _ | with_reducible apply Keeps.ite | with_reducible apply Keeps.foldl | with_reducible apply Keeps.foldl_fst | with_reducible apply State.setObj_keeps | with_reducible apply State.mapOp_keeps | with_reducible apply State.cutOps_keeps | simp only [Keeps.upd_iff] | refine Keeps.upd_regs ?_ swf_sset | refine Keeps.upd_cells ?_ swf_sset | refine Keeps.upd_shadow ?_ swf_sset | refine Keeps.upd_buf ?_ (wf_write _) | split | dsimp only)

theorem State.takeRamp_keeps {orig s : State} (h : Keeps orig s) {r : Ramp} :
    Keeps orig (State.takeRamp s r) := by
  unfold State.takeRamp
  (try dsimp only)
  repeat' (first | with_reducible assumption | intro _ | with_reducible apply Keeps.ite | with_reducible apply Keeps.foldl | with_reducible apply Keeps.foldl_fst | with_reducible apply State.emit_keeps | simp only [Keeps.upd_iff] | refine Keeps.upd_regs ?_ swf_sset | refine Keeps.upd_cells ?_ swf_sset | refine Keeps.upd_shadow ?_ swf_sset | refine Keeps.upd_buf ?_ (wf_write _) | split | dsimp only)

theorem State.acceptKind_keeps {orig s : State} (h : Keeps orig s) {o : Op} :
    Keeps orig (State.acceptKind s o) := by
  unfold State.acceptKind
  (try dsimp only)
  repeat' (first | with_reducible assumption | intro _ | with_reducible apply Keeps.ite | with_reducible apply Keeps.foldl | with_reducible apply Keeps.foldl_fst | with_reducible apply State.mapRegion_keeps | with_reducible apply State.squashRegion_keeps | with_reducible apply State.declareRange_keeps | with_reducible apply State.takeFence_keeps | simp only [Keeps.upd_iff] | refine Keeps.upd_regs ?_ swf_sset | refine Keeps.upd_cells ?_ swf_sset | refine Keeps.upd_shadow ?_ swf_sset | refine Keeps.upd_buf ?_ (wf_write _) | split | dsimp only)

theorem State.enterOp_keeps {orig s : State} (h : Keeps orig s) {o : Op} {p : Price} :
    Keeps orig (State.enterOp s o p) := by
  unfold State.enterOp
  (try dsimp only)
  repeat' (first | with_reducible assumption | intro _ | with_reducible apply Keeps.ite | with_reducible apply Keeps.foldl | with_reducible apply Keeps.foldl_fst | with_reducible apply State.planTiles_keeps | with_reducible apply State.planRanges_keeps | with_reducible apply State.planSets_keeps | with_reducible apply State.joinRegion_keeps | with_reducible apply State.takeRamp_keeps | with_reducible apply State.acceptKind_keeps | simp only [Keeps.upd_iff] | refine Keeps.upd_regs ?_ swf_sset | refine Keeps.upd_cells ?_ swf_sset | refine Keeps.upd_shadow ?_ swf_sset | refine Keeps.upd_buf ?_ (wf_write _) | split | dsimp only)

end Sys2Proof.Machine
end

