-- ==== Sys2Proof/Laws/KeepCascade.lean ====
section
/-! SUPPORT. The operations of Frames, Reduce, Contribute, Group keep a good state good, the queue and the configuration. -/

namespace Sys2Proof.Machine

theorem State.launch_keeps {orig s : State} (h : Keeps orig s) {q : Nat} {fl : Flight} {f : Frame} :
    Keeps orig (State.launch s q fl f) := by
  unfold State.launch
  (try dsimp only)
  repeat' (first | with_reducible assumption | intro _ | with_reducible apply Keeps.ite | with_reducible apply Keeps.foldl | with_reducible apply Keeps.foldl_fst | with_reducible apply State.emit_keeps | with_reducible apply Keeps.setPort | with_reducible apply Keeps.setGroup | with_reducible apply State.mapOp_keeps | simp only [Keeps.upd_iff] | refine Keeps.upd_regs ?_ swf_sset | refine Keeps.upd_cells ?_ swf_sset | refine Keeps.upd_shadow ?_ swf_sset | refine Keeps.upd_buf ?_ (wf_write _) | split | dsimp only)

theorem State.sendOn_keeps {orig s : State} (h : Keeps orig s) {q : Nat} {op tenant : Option Nat} {at' : Option (Nat × Nat)} {f : Frame} :
    Keeps orig (State.sendOn s q op tenant at' f) := by
  unfold State.sendOn
  (try dsimp only)
  repeat' (first | with_reducible assumption | intro _ | with_reducible apply Keeps.ite | with_reducible apply Keeps.foldl | with_reducible apply Keeps.foldl_fst | with_reducible apply Keeps.setPort | with_reducible apply State.launch_keeps | simp only [Keeps.upd_iff] | refine Keeps.upd_regs ?_ swf_sset | refine Keeps.upd_cells ?_ swf_sset | refine Keeps.upd_shadow ?_ swf_sset | refine Keeps.upd_buf ?_ (wf_write _) | split | dsimp only)

theorem State.sendFrame_keeps {orig s : State} (h : Keeps orig s) {g pp : Nat} {op tenant : Option Nat} {f : Frame} :
    Keeps orig (State.sendFrame s g pp op tenant f) := by
  unfold State.sendFrame
  (try dsimp only)
  repeat' (first | with_reducible assumption | intro _ | with_reducible apply Keeps.ite | with_reducible apply Keeps.foldl | with_reducible apply Keeps.foldl_fst | with_reducible apply State.sendOn_keeps | simp only [Keeps.upd_iff] | refine Keeps.upd_regs ?_ swf_sset | refine Keeps.upd_cells ?_ swf_sset | refine Keeps.upd_shadow ?_ swf_sset | refine Keeps.upd_buf ?_ (wf_write _) | split | dsimp only)

theorem State.flushPort_keeps {orig : State} {q : Nat} {n : Nat} : ∀ {s : State}, Keeps orig s → Keeps orig (State.flushPort s q n) := by
  induction n with
  | zero => intro s h; unfold State.flushPort; exact h
  | succ k ih =>
    intro s h
    unfold State.flushPort
    (try dsimp only)
    repeat' (first | with_reducible assumption | intro _ | with_reducible apply Keeps.ite | with_reducible apply ih | with_reducible apply Keeps.foldl | with_reducible apply Keeps.foldl_fst | with_reducible apply Keeps.setPort | with_reducible apply State.launch_keeps | simp only [Keeps.upd_iff] | refine Keeps.upd_regs ?_ swf_sset | refine Keeps.upd_cells ?_ swf_sset | refine Keeps.upd_shadow ?_ swf_sset | refine Keeps.upd_buf ?_ (wf_write _) | split | dsimp only)

theorem State.holdFrame_keeps {orig s : State} (h : Keeps orig s) {q : Nat} {f : Frame} :
    Keeps orig (State.holdFrame s q f) := by
  unfold State.holdFrame
  (try dsimp only)
  repeat' (first | with_reducible assumption | intro _ | with_reducible apply Keeps.ite | with_reducible apply Keeps.foldl | with_reducible apply Keeps.foldl_fst | with_reducible apply Keeps.setPort | simp only [Keeps.upd_iff] | refine Keeps.upd_regs ?_ swf_sset | refine Keeps.upd_cells ?_ swf_sset | refine Keeps.upd_shadow ?_ swf_sset | refine Keeps.upd_buf ?_ (wf_write _) | split | dsimp only)

theorem State.returnCredit_keeps {orig s : State} (h : Keeps orig s) {q : Nat} {f : Frame} :
    Keeps orig (State.returnCredit s q f) := by
  unfold State.returnCredit
  (try dsimp only)
  repeat' (first | with_reducible assumption | intro _ | with_reducible apply Keeps.ite | with_reducible apply Keeps.foldl | with_reducible apply Keeps.foldl_fst | with_reducible apply State.giveCredits_keeps | with_reducible apply Keeps.setPort | simp only [Keeps.upd_iff] | refine Keeps.upd_regs ?_ swf_sset | refine Keeps.upd_cells ?_ swf_sset | refine Keeps.upd_shadow ?_ swf_sset | refine Keeps.upd_buf ?_ (wf_write _) | split | dsimp only)

theorem State.addJob_keeps {orig s : State} (h : Keeps orig s) {op : Nat} {k : JobK} {g dest total : Nat} :
    Keeps orig (State.addJob s op k g dest total) := by
  unfold State.addJob
  (try dsimp only)
  repeat' (first | with_reducible assumption | intro _ | with_reducible apply Keeps.ite | with_reducible apply Keeps.foldl | with_reducible apply Keeps.foldl_fst | simp only [Keeps.upd_iff] | refine Keeps.upd_regs ?_ swf_sset | refine Keeps.upd_cells ?_ swf_sset | refine Keeps.upd_shadow ?_ swf_sset | refine Keeps.upd_buf ?_ (wf_write _) | split | dsimp only)

theorem State.mapJob_keeps {orig s : State} (h : Keeps orig s) {id : Nat} {f : Job → Job} :
    Keeps orig (State.mapJob s id f) := by
  unfold State.mapJob
  (try dsimp only)
  repeat' (first | with_reducible assumption | intro _ | with_reducible apply Keeps.ite | with_reducible apply Keeps.foldl | with_reducible apply Keeps.foldl_fst | simp only [Keeps.upd_iff] | refine Keeps.upd_regs ?_ swf_sset | refine Keeps.upd_cells ?_ swf_sset | refine Keeps.upd_shadow ?_ swf_sset | refine Keeps.upd_buf ?_ (wf_write _) | split | dsimp only)

theorem State.dropJobs_keeps {orig s : State} (h : Keeps orig s) {f : Job → Bool} :
    Keeps orig (State.dropJobs s f) := by
  unfold State.dropJobs
  (try dsimp only)
  repeat' (first | with_reducible assumption | intro _ | with_reducible apply Keeps.ite | with_reducible apply Keeps.foldl | with_reducible apply Keeps.foldl_fst | simp only [Keeps.upd_iff] | refine Keeps.upd_regs ?_ swf_sset | refine Keeps.upd_cells ?_ swf_sset | refine Keeps.upd_shadow ?_ swf_sset | refine Keeps.upd_buf ?_ (wf_write _) | split | dsimp only)

theorem State.rereads_keeps {orig s : State} (h : Keeps orig s) {id frame : Nat} :
    Keeps orig (State.rereads s id frame) := by
  unfold State.rereads
  (try dsimp only)
  repeat' (first | with_reducible assumption | intro _ | with_reducible apply Keeps.ite | with_reducible apply Keeps.foldl | with_reducible apply Keeps.foldl_fst | with_reducible apply State.mapOp_keeps | with_reducible apply State.requestAll_keeps | with_reducible apply State.dropStaging_keeps | simp only [Keeps.upd_iff] | refine Keeps.upd_regs ?_ swf_sset | refine Keeps.upd_cells ?_ swf_sset | refine Keeps.upd_shadow ?_ swf_sset | refine Keeps.upd_buf ?_ (wf_write _) | split | dsimp only)

theorem State.cascadeEvent_keeps {orig s : State} (h : Keeps orig s) {cls sev g pp : Nat} {tenant : Option Nat} {detail : Nat} :
    Keeps orig (State.cascadeEvent s cls sev g pp tenant detail) := by
  unfold State.cascadeEvent
  (try dsimp only)
  repeat' (first | with_reducible assumption | intro _ | with_reducible apply Keeps.ite | with_reducible apply Keeps.foldl | with_reducible apply Keeps.foldl_fst | with_reducible apply State.event_keeps | simp only [Keeps.upd_iff] | refine Keeps.upd_regs ?_ swf_sset | refine Keeps.upd_cells ?_ swf_sset | refine Keeps.upd_shadow ?_ swf_sset | refine Keeps.upd_buf ?_ (wf_write _) | split | dsimp only)

theorem State.mapRange_keeps {orig s : State} (h : Keeps orig s) {r : Range} {f : Range → Range} :
    Keeps orig (State.mapRange s r f) := by
  unfold State.mapRange
  (try dsimp only)
  repeat' (first | with_reducible assumption | intro _ | with_reducible apply Keeps.ite | with_reducible apply Keeps.foldl | with_reducible apply Keeps.foldl_fst | simp only [Keeps.upd_iff] | refine Keeps.upd_regs ?_ swf_sset | refine Keeps.upd_cells ?_ swf_sset | refine Keeps.upd_shadow ?_ swf_sset | refine Keeps.upd_buf ?_ (wf_write _) | split | dsimp only)

theorem State.mapSlot_keeps {orig s : State} (h : Keeps orig s) {r : Range} {i : Nat} {f : Slot → Slot} :
    Keeps orig (State.mapSlot s r i f) := by
  unfold State.mapSlot
  (try dsimp only)
  repeat' (first | with_reducible assumption | intro _ | with_reducible apply Keeps.ite | with_reducible apply Keeps.foldl | with_reducible apply Keeps.foldl_fst | with_reducible apply State.mapRange_keeps | simp only [Keeps.upd_iff] | refine Keeps.upd_regs ?_ swf_sset | refine Keeps.upd_cells ?_ swf_sset | refine Keeps.upd_shadow ?_ swf_sset | refine Keeps.upd_buf ?_ (wf_write _) | split | dsimp only)

theorem State.ack_keeps {orig s : State} (h : Keeps orig s) {g : Nat} {f : Frame} {code aframes : Nat} :
    Keeps orig (State.ack s g f code aframes) := by
  unfold State.ack
  (try dsimp only)
  repeat' (first | with_reducible assumption | intro _ | with_reducible apply Keeps.ite | with_reducible apply Keeps.foldl | with_reducible apply Keeps.foldl_fst | with_reducible apply State.sendFrame_keeps | simp only [Keeps.upd_iff] | refine Keeps.upd_regs ?_ swf_sset | refine Keeps.upd_cells ?_ swf_sset | refine Keeps.upd_shadow ?_ swf_sset | refine Keeps.upd_buf ?_ (wf_write _) | split | dsimp only)

theorem State.ackFail_keeps {orig s : State} (h : Keeps orig s) {g : Nat} {f : Frame} {code aframes : Nat} :
    Keeps orig (State.ackFail s g f code aframes) := by
  unfold State.ackFail
  (try dsimp only)
  repeat' (first | with_reducible assumption | intro _ | with_reducible apply Keeps.ite | with_reducible apply Keeps.foldl | with_reducible apply Keeps.foldl_fst | with_reducible apply State.cascadeEvent_keeps | with_reducible apply State.ack_keeps | simp only [Keeps.upd_iff] | refine Keeps.upd_regs ?_ swf_sset | refine Keeps.upd_cells ?_ swf_sset | refine Keeps.upd_shadow ?_ swf_sset | refine Keeps.upd_buf ?_ (wf_write _) | split | dsimp only)

theorem State.enterElt_keeps {orig s : State} (h : Keeps orig s) {r : Range} {k : Nat} {neg : Bool} {e : Elt} :
    Keeps orig (State.enterElt s r k neg e) := by
  unfold State.enterElt
  (try dsimp only)
  repeat' (first | with_reducible assumption | intro _ | with_reducible apply Keeps.ite | with_reducible apply Keeps.foldl | with_reducible apply Keeps.foldl_fst | with_reducible apply State.addReg_keeps | with_reducible apply Keeps.setReg | with_reducible apply State.addReg_keeps | simp only [Keeps.upd_iff] | refine Keeps.upd_regs ?_ swf_sset | refine Keeps.upd_cells ?_ swf_sset | refine Keeps.upd_shadow ?_ swf_sset | refine Keeps.upd_buf ?_ (wf_write _) | split | dsimp only)

theorem State.enterElts_keeps {orig s : State} (h : Keeps orig s) {r : Range} {feoff : Nat} {neg : Bool} {es : List Elt} :
    Keeps orig (State.enterElts s r feoff neg es) := by
  unfold State.enterElts
  (try dsimp only)
  repeat' (first | with_reducible assumption | intro _ | with_reducible apply Keeps.ite | with_reducible apply Keeps.foldl | with_reducible apply Keeps.foldl_fst | with_reducible apply State.enterElt_keeps | simp only [Keeps.upd_iff] | refine Keeps.upd_regs ?_ swf_sset | refine Keeps.upd_cells ?_ swf_sset | refine Keeps.upd_shadow ?_ swf_sset | refine Keeps.upd_buf ?_ (wf_write _) | split | dsimp only)

theorem State.raiseQuarter_keeps {orig s : State} (h : Keeps orig s) {q k : Nat} :
    Keeps orig (State.raiseQuarter s q k) := by
  unfold State.raiseQuarter
  (try dsimp only)
  repeat' (first | with_reducible assumption | intro _ | with_reducible apply Keeps.ite | with_reducible apply Keeps.foldl | with_reducible apply Keeps.foldl_fst | with_reducible apply Keeps.setTile | simp only [Keeps.upd_iff] | refine Keeps.upd_regs ?_ swf_sset | refine Keeps.upd_cells ?_ swf_sset | refine Keeps.upd_shadow ?_ swf_sset | refine Keeps.upd_buf ?_ (wf_write _) | split | dsimp only)

theorem State.takeTerms_keeps {orig s : State} (h : Keeps orig s) {ts : List (Nat × Nat)} :
    Keeps orig (State.takeTerms s ts) := by
  unfold State.takeTerms
  (try dsimp only)
  repeat' (first | with_reducible assumption | intro _ | with_reducible apply Keeps.ite | with_reducible apply Keeps.foldl | with_reducible apply Keeps.foldl_fst | with_reducible apply State.raiseQuarter_keeps | simp only [Keeps.upd_iff] | refine Keeps.upd_regs ?_ swf_sset | refine Keeps.upd_cells ?_ swf_sset | refine Keeps.upd_shadow ?_ swf_sset | refine Keeps.upd_buf ?_ (wf_write _) | split | dsimp only)

theorem State.noteRows_keeps {orig s : State} (h : Keeps orig s) {r : Range} {feoff n : Nat} :
    Keeps orig (State.noteRows s r feoff n) := by
  unfold State.noteRows
  (try dsimp only)
  repeat' (first | with_reducible assumption | intro _ | with_reducible apply Keeps.ite | with_reducible apply Keeps.foldl | with_reducible apply Keeps.foldl_fst | with_reducible apply State.mapOp_keeps | simp only [Keeps.upd_iff] | refine Keeps.upd_regs ?_ swf_sset | refine Keeps.upd_cells ?_ swf_sset | refine Keeps.upd_shadow ?_ swf_sset | refine Keeps.upd_buf ?_ (wf_write _) | split | dsimp only)

theorem State.poisonRange_keeps {orig s : State} (h : Keeps orig s) {r : Range} :
    Keeps orig (State.poisonRange s r) := by
  unfold State.poisonRange
  (try dsimp only)
  repeat' (first | with_reducible assumption | intro _ | with_reducible apply Keeps.ite | with_reducible apply Keeps.foldl | with_reducible apply Keeps.foldl_fst | with_reducible apply State.mapRegs_keeps | simp only [Keeps.upd_iff] | refine Keeps.upd_regs ?_ swf_sset | refine Keeps.upd_cells ?_ swf_sset | refine Keeps.upd_shadow ?_ swf_sset | refine Keeps.upd_buf ?_ (wf_write _) | split | dsimp only)

theorem State.checkComplete_keeps {orig s : State} (h : Keeps orig s) {r0 : Range} :
    Keeps orig (State.checkComplete s r0) := by
  unfold State.checkComplete
  (try dsimp only)
  repeat' (first | with_reducible assumption | intro _ | with_reducible apply Keeps.ite | with_reducible apply Keeps.foldl | with_reducible apply Keeps.foldl_fst | with_reducible apply State.mapOp_keeps | with_reducible apply State.cascadeEvent_keeps | with_reducible apply State.mapRange_keeps | simp only [Keeps.upd_iff] | refine Keeps.upd_regs ?_ swf_sset | refine Keeps.upd_cells ?_ swf_sset | refine Keeps.upd_shadow ?_ swf_sset | refine Keeps.upd_buf ?_ (wf_write _) | split | dsimp only)

theorem State.reopen_keeps {orig s : State} (h : Keeps orig s) {r : Range} :
    Keeps orig (State.reopen s r) := by
  unfold State.reopen
  (try dsimp only)
  repeat' (first | with_reducible assumption | intro _ | with_reducible apply Keeps.ite | with_reducible apply Keeps.foldl | with_reducible apply Keeps.foldl_fst | with_reducible apply State.mapOp_keeps | with_reducible apply State.dropJobs_keeps | simp only [Keeps.upd_iff] | refine Keeps.upd_regs ?_ swf_sset | refine Keeps.upd_cells ?_ swf_sset | refine Keeps.upd_shadow ?_ swf_sset | refine Keeps.upd_buf ?_ (wf_write _) | split | dsimp only)

theorem State.finalSlot_keeps {orig s : State} (h : Keeps orig s) {r : Range} {i : Nat} :
    Keeps orig (State.finalSlot s r i) := by
  unfold State.finalSlot
  (try dsimp only)
  repeat' (first | with_reducible assumption | intro _ | with_reducible apply Keeps.ite | with_reducible apply Keeps.foldl | with_reducible apply Keeps.foldl_fst | with_reducible apply State.bump_keeps | with_reducible apply Keeps.setReg | with_reducible apply State.cascadeEvent_keeps | with_reducible apply State.mapSlot_keeps | simp only [Keeps.upd_iff] | refine Keeps.upd_regs ?_ swf_sset | refine Keeps.upd_cells ?_ swf_sset | refine Keeps.upd_shadow ?_ swf_sset | refine Keeps.upd_buf ?_ (wf_write _) | split | dsimp only)

theorem State.reject_keeps {orig s : State} (h : Keeps orig s) {r : Range} {i : Nat} {f : Frame} {code : Nat} :
    Keeps orig (State.reject s r i f code) := by
  unfold State.reject
  (try dsimp only)
  repeat' (first | with_reducible assumption | intro _ | with_reducible apply Keeps.ite | with_reducible apply Keeps.foldl | with_reducible apply Keeps.foldl_fst | with_reducible apply State.mapSlot_keeps | with_reducible apply State.ack_keeps | with_reducible apply State.ackFail_keeps | simp only [Keeps.upd_iff] | refine Keeps.upd_regs ?_ swf_sset | refine Keeps.upd_cells ?_ swf_sset | refine Keeps.upd_shadow ?_ swf_sset | refine Keeps.upd_buf ?_ (wf_write _) | split | dsimp only)

theorem State.withdrawFails_keeps {orig s : State} (h : Keeps orig s) {r : Range} {i : Nat} {f : Frame} {code : Nat} :
    Keeps orig (State.withdrawFails s r i f code) := by
  unfold State.withdrawFails
  (try dsimp only)
  repeat' (first | with_reducible assumption | intro _ | with_reducible apply Keeps.ite | with_reducible apply Keeps.foldl | with_reducible apply Keeps.foldl_fst | with_reducible apply State.mapOp_keeps | with_reducible apply State.mapSlot_keeps | with_reducible apply State.ackFail_keeps | with_reducible apply State.poisonRange_keeps | simp only [Keeps.upd_iff] | refine Keeps.upd_regs ?_ swf_sset | refine Keeps.upd_cells ?_ swf_sset | refine Keeps.upd_shadow ?_ swf_sset | refine Keeps.upd_buf ?_ (wf_write _) | split | dsimp only)

theorem State.frameFault_keeps {orig s : State} (h : Keeps orig s) {r : Range} {i : Nat} {f : Frame} :
    Keeps orig (State.frameFault s r i f) := by
  unfold State.frameFault
  (try dsimp only)
  repeat' (first | with_reducible assumption | intro _ | with_reducible apply Keeps.ite | with_reducible apply Keeps.foldl | with_reducible apply Keeps.foldl_fst | with_reducible apply State.bump_keeps | with_reducible apply State.sendFrame_keeps | with_reducible apply State.cascadeEvent_keeps | with_reducible apply State.mapSlot_keeps | with_reducible apply State.ackFail_keeps | with_reducible apply State.reject_keeps | with_reducible apply State.withdrawFails_keeps | simp only [Keeps.upd_iff] | refine Keeps.upd_regs ?_ swf_sset | refine Keeps.upd_cells ?_ swf_sset | refine Keeps.upd_shadow ?_ swf_sset | refine Keeps.upd_buf ?_ (wf_write _) | split | dsimp only)

theorem State.formatEvent_keeps {orig s : State} (h : Keeps orig s) {r : Range} {f : Frame} :
    Keeps orig (State.formatEvent s r f) := by
  unfold State.formatEvent
  (try dsimp only)
  repeat' (first | with_reducible assumption | intro _ | with_reducible apply Keeps.ite | with_reducible apply Keeps.foldl | with_reducible apply Keeps.foldl_fst | with_reducible apply State.cascadeEvent_keeps | simp only [Keeps.upd_iff] | refine Keeps.upd_regs ?_ swf_sset | refine Keeps.upd_cells ?_ swf_sset | refine Keeps.upd_shadow ?_ swf_sset | refine Keeps.upd_buf ?_ (wf_write _) | split | dsimp only)

theorem State.takeData_keeps {orig s : State} (h : Keeps orig s) {r : Range} {i : Nat} {f : Frame} :
    Keeps orig (State.takeData s r i f) := by
  unfold State.takeData
  (try dsimp only)
  repeat' (first | with_reducible assumption | intro _ | with_reducible apply Keeps.ite | with_reducible apply Keeps.foldl | with_reducible apply Keeps.foldl_fst | with_reducible apply State.mapSlot_keeps | with_reducible apply State.enterElts_keeps | with_reducible apply State.takeTerms_keeps | with_reducible apply State.noteRows_keeps | with_reducible apply State.reject_keeps | with_reducible apply State.formatEvent_keeps | simp only [Keeps.upd_iff] | refine Keeps.upd_regs ?_ swf_sset | refine Keeps.upd_cells ?_ swf_sset | refine Keeps.upd_shadow ?_ swf_sset | refine Keeps.upd_buf ?_ (wf_write _) | split | dsimp only)

theorem State.undoRefused_keeps {orig s : State} (h : Keeps orig s) {r : Range} {i : Nat} {f : Frame} {code : Nat} :
    Keeps orig (State.undoRefused s r i f code) := by
  unfold State.undoRefused
  (try dsimp only)
  repeat' (first | with_reducible assumption | intro _ | with_reducible apply Keeps.ite | with_reducible apply Keeps.foldl | with_reducible apply Keeps.foldl_fst | with_reducible apply State.mapSlot_keeps | with_reducible apply State.ackFail_keeps | with_reducible apply State.withdrawFails_keeps | simp only [Keeps.upd_iff] | refine Keeps.upd_regs ?_ swf_sset | refine Keeps.upd_cells ?_ swf_sset | refine Keeps.upd_shadow ?_ swf_sset | refine Keeps.upd_buf ?_ (wf_write _) | split | dsimp only)

theorem State.undoData_keeps {orig s : State} (h : Keeps orig s) {r : Range} {i : Nat} {f : Frame} :
    Keeps orig (State.undoData s r i f) := by
  unfold State.undoData
  (try dsimp only)
  repeat' (first | with_reducible assumption | intro _ | with_reducible apply Keeps.ite | with_reducible apply Keeps.foldl | with_reducible apply Keeps.foldl_fst | with_reducible apply State.mapSlot_keeps | with_reducible apply State.enterElts_keeps | with_reducible apply State.takeTerms_keeps | with_reducible apply State.noteRows_keeps | with_reducible apply State.formatEvent_keeps | with_reducible apply State.undoRefused_keeps | simp only [Keeps.upd_iff] | refine Keeps.upd_regs ?_ swf_sset | refine Keeps.upd_cells ?_ swf_sset | refine Keeps.upd_shadow ?_ swf_sset | refine Keeps.upd_buf ?_ (wf_write _) | split | dsimp only)

theorem State.slotData_keeps {orig s0 : State} (h : Keeps orig s0) {r : Range} {i : Nat} {f : Frame} :
    Keeps orig (State.slotData s0 r i f) := by
  unfold State.slotData
  (try dsimp only)
  repeat' (first | with_reducible assumption | intro _ | with_reducible apply Keeps.ite | with_reducible apply Keeps.foldl | with_reducible apply Keeps.foldl_fst | with_reducible apply State.countResidue_keeps | with_reducible apply State.ackFail_keeps | with_reducible apply State.frameFault_keeps | with_reducible apply State.takeData_keeps | with_reducible apply State.undoData_keeps | simp only [Keeps.upd_iff] | refine Keeps.upd_regs ?_ swf_sset | refine Keeps.upd_cells ?_ swf_sset | refine Keeps.upd_shadow ?_ swf_sset | refine Keeps.upd_buf ?_ (wf_write _) | split | dsimp only)

theorem State.endContrib_keeps {orig s : State} (h : Keeps orig s) {r : Range} {i : Nat} {f : Frame} :
    Keeps orig (State.endContrib s r i f) := by
  unfold State.endContrib
  (try dsimp only)
  repeat' (first | with_reducible assumption | intro _ | with_reducible apply Keeps.ite | with_reducible apply Keeps.foldl | with_reducible apply Keeps.foldl_fst | with_reducible apply State.cascadeEvent_keeps | with_reducible apply State.mapRange_keeps | with_reducible apply State.mapSlot_keeps | with_reducible apply State.ack_keeps | with_reducible apply State.checkComplete_keeps | with_reducible apply State.finalSlot_keeps | with_reducible apply State.reject_keeps | simp only [Keeps.upd_iff] | refine Keeps.upd_regs ?_ swf_sset | refine Keeps.upd_cells ?_ swf_sset | refine Keeps.upd_shadow ?_ swf_sset | refine Keeps.upd_buf ?_ (wf_write _) | split | dsimp only)

theorem State.endWithdraw_keeps {orig s : State} (h : Keeps orig s) {r : Range} {i : Nat} {f : Frame} :
    Keeps orig (State.endWithdraw s r i f) := by
  unfold State.endWithdraw
  (try dsimp only)
  repeat' (first | with_reducible assumption | intro _ | with_reducible apply Keeps.ite | with_reducible apply Keeps.foldl | with_reducible apply Keeps.foldl_fst | with_reducible apply State.bump_keeps | with_reducible apply State.cascadeEvent_keeps | with_reducible apply State.mapSlot_keeps | with_reducible apply State.ack_keeps | with_reducible apply State.checkComplete_keeps | with_reducible apply State.withdrawFails_keeps | simp only [Keeps.upd_iff] | refine Keeps.upd_regs ?_ swf_sset | refine Keeps.upd_cells ?_ swf_sset | refine Keeps.upd_shadow ?_ swf_sset | refine Keeps.upd_buf ?_ (wf_write _) | split | dsimp only)

theorem State.rebuildFlags_keeps {orig s : State} (h : Keeps orig s) {r : Range} {i : Nat} {led : List (Nat × Nat)} :
    Keeps orig (State.rebuildFlags s r i led) := by
  unfold State.rebuildFlags
  (try dsimp only)
  repeat' (first | with_reducible assumption | intro _ | with_reducible apply Keeps.ite | with_reducible apply Keeps.foldl | with_reducible apply Keeps.foldl_fst | with_reducible apply Keeps.setReg | simp only [Keeps.upd_iff] | refine Keeps.upd_regs ?_ swf_sset | refine Keeps.upd_cells ?_ swf_sset | refine Keeps.upd_shadow ?_ swf_sset | refine Keeps.upd_buf ?_ (wf_write _) | split | dsimp only)

theorem State.endRetract_keeps {orig s : State} (h : Keeps orig s) {r : Range} {i : Nat} {f : Frame} :
    Keeps orig (State.endRetract s r i f) := by
  unfold State.endRetract
  (try dsimp only)
  repeat' (first | with_reducible assumption | intro _ | with_reducible apply Keeps.ite | with_reducible apply Keeps.foldl | with_reducible apply Keeps.foldl_fst | with_reducible apply State.cascadeEvent_keeps | with_reducible apply State.mapSlot_keeps | with_reducible apply State.ack_keeps | with_reducible apply State.ackFail_keeps | with_reducible apply State.reopen_keeps | with_reducible apply State.rebuildFlags_keeps | simp only [Keeps.upd_iff] | refine Keeps.upd_regs ?_ swf_sset | refine Keeps.upd_cells ?_ swf_sset | refine Keeps.upd_shadow ?_ swf_sset | refine Keeps.upd_buf ?_ (wf_write _) | split | dsimp only)

theorem State.endUndo_keeps {orig s : State} (h : Keeps orig s) {r : Range} {i : Nat} {f : Frame} :
    Keeps orig (State.endUndo s r i f) := by
  unfold State.endUndo
  (try dsimp only)
  repeat' (first | with_reducible assumption | intro _ | with_reducible apply Keeps.ite | with_reducible apply Keeps.foldl | with_reducible apply Keeps.foldl_fst | with_reducible apply State.mapSlot_keeps | with_reducible apply State.ack_keeps | with_reducible apply State.withdrawFails_keeps | simp only [Keeps.upd_iff] | refine Keeps.upd_regs ?_ swf_sset | refine Keeps.upd_cells ?_ swf_sset | refine Keeps.upd_shadow ?_ swf_sset | refine Keeps.upd_buf ?_ (wf_write _) | split | dsimp only)

theorem State.slotEnd_keeps {orig s : State} (h : Keeps orig s) {r : Range} {i : Nat} {f : Frame} :
    Keeps orig (State.slotEnd s r i f) := by
  unfold State.slotEnd
  (try dsimp only)
  repeat' (first | with_reducible assumption | intro _ | with_reducible apply Keeps.ite | with_reducible apply Keeps.foldl | with_reducible apply Keeps.foldl_fst | with_reducible apply State.mapSlot_keeps | with_reducible apply State.frameFault_keeps | with_reducible apply State.endContrib_keeps | with_reducible apply State.endWithdraw_keeps | with_reducible apply State.endRetract_keeps | with_reducible apply State.endUndo_keeps | simp only [Keeps.upd_iff] | refine Keeps.upd_regs ?_ swf_sset | refine Keeps.upd_cells ?_ swf_sset | refine Keeps.upd_shadow ?_ swf_sset | refine Keeps.upd_buf ?_ (wf_write _) | split | dsimp only)

theorem State.abortRange_keeps {orig s : State} (h : Keeps orig s) {r : Range} {reason : Nat} :
    Keeps orig (State.abortRange s r reason) := by
  unfold State.abortRange
  (try dsimp only)
  repeat' (first | with_reducible assumption | intro _ | with_reducible apply Keeps.ite | with_reducible apply Keeps.foldl | with_reducible apply Keeps.foldl_fst | with_reducible apply State.endRanges_keeps | with_reducible apply State.sendFrame_keeps | simp only [Keeps.upd_iff] | refine Keeps.upd_regs ?_ swf_sset | refine Keeps.upd_cells ?_ swf_sset | refine Keeps.upd_shadow ?_ swf_sset | refine Keeps.upd_buf ?_ (wf_write _) | split | dsimp only)

theorem State.loseRange_keeps {orig s : State} (h : Keeps orig s) {r : Range} {reason : Nat} :
    Keeps orig (State.loseRange s r reason) := by
  unfold State.loseRange
  (try dsimp only)
  repeat' (first | with_reducible assumption | intro _ | with_reducible apply Keeps.ite | with_reducible apply Keeps.foldl | with_reducible apply Keeps.foldl_fst | with_reducible apply State.loseOp_keeps | with_reducible apply State.dropJobs_keeps | with_reducible apply State.cascadeEvent_keeps | with_reducible apply State.abortRange_keeps | simp only [Keeps.upd_iff] | refine Keeps.upd_regs ?_ swf_sset | refine Keeps.upd_cells ?_ swf_sset | refine Keeps.upd_shadow ?_ swf_sset | refine Keeps.upd_buf ?_ (wf_write _) | split | dsimp only)

theorem State.losePosition_keeps {orig s : State} (h : Keeps orig s) {g pp : Nat} :
    Keeps orig (State.losePosition s g pp) := by
  unfold State.losePosition
  (try dsimp only)
  repeat' (first | with_reducible assumption | intro _ | with_reducible apply Keeps.ite | with_reducible apply Keeps.foldl | with_reducible apply Keeps.foldl_fst | with_reducible apply State.loseOps_keeps | with_reducible apply State.dropJobs_keeps | with_reducible apply State.loseRange_keeps | simp only [Keeps.upd_iff] | refine Keeps.upd_regs ?_ swf_sset | refine Keeps.upd_cells ?_ swf_sset | refine Keeps.upd_shadow ?_ swf_sset | refine Keeps.upd_buf ?_ (wf_write _) | split | dsimp only)

theorem State.countStraggler_keeps {orig s : State} (h : Keeps orig s) {f : Frame} :
    Keeps orig (State.countStraggler s f) := by
  unfold State.countStraggler
  (try dsimp only)
  repeat' (first | with_reducible assumption | intro _ | with_reducible apply Keeps.ite | with_reducible apply Keeps.foldl | with_reducible apply Keeps.foldl_fst | with_reducible apply State.bump_keeps | simp only [Keeps.upd_iff] | refine Keeps.upd_regs ?_ swf_sset | refine Keeps.upd_cells ?_ swf_sset | refine Keeps.upd_shadow ?_ swf_sset | refine Keeps.upd_buf ?_ (wf_write _) | split | dsimp only)

theorem State.touchRange_keeps {orig s : State} (h : Keeps orig s) {r : Range} :
    Keeps orig (State.touchRange s r) := by
  unfold State.touchRange
  (try dsimp only)
  repeat' (first | with_reducible assumption | intro _ | with_reducible apply Keeps.ite | with_reducible apply Keeps.foldl | with_reducible apply Keeps.foldl_fst | with_reducible apply State.mapRange_keeps | simp only [Keeps.upd_iff] | refine Keeps.upd_regs ?_ swf_sset | refine Keeps.upd_cells ?_ swf_sset | refine Keeps.upd_shadow ?_ swf_sset | refine Keeps.upd_buf ?_ (wf_write _) | split | dsimp only)

theorem State.dataIn_keeps {orig s : State} (h : Keeps orig s) {g : Nat} {f : Frame} :
    Keeps orig (State.dataIn s g f) := by
  unfold State.dataIn
  (try dsimp only)
  repeat' (first | with_reducible assumption | intro _ | with_reducible apply Keeps.ite | with_reducible apply Keeps.foldl | with_reducible apply Keeps.foldl_fst | with_reducible apply State.ackFail_keeps | with_reducible apply State.slotData_keeps | with_reducible apply State.countStraggler_keeps | with_reducible apply State.touchRange_keeps | simp only [Keeps.upd_iff] | refine Keeps.upd_regs ?_ swf_sset | refine Keeps.upd_cells ?_ swf_sset | refine Keeps.upd_shadow ?_ swf_sset | refine Keeps.upd_buf ?_ (wf_write _) | split | dsimp only)

theorem State.endIn_keeps {orig s : State} (h : Keeps orig s) {g : Nat} {f : Frame} :
    Keeps orig (State.endIn s g f) := by
  unfold State.endIn
  (try dsimp only)
  repeat' (first | with_reducible assumption | intro _ | with_reducible apply Keeps.ite | with_reducible apply Keeps.foldl | with_reducible apply Keeps.foldl_fst | with_reducible apply State.ackFail_keeps | with_reducible apply State.slotEnd_keeps | with_reducible apply State.countStraggler_keeps | with_reducible apply State.touchRange_keeps | simp only [Keeps.upd_iff] | refine Keeps.upd_regs ?_ swf_sset | refine Keeps.upd_cells ?_ swf_sset | refine Keeps.upd_shadow ?_ swf_sset | refine Keeps.upd_buf ?_ (wf_write _) | split | dsimp only)

theorem State.badCrc_keeps {orig s : State} (h : Keeps orig s) {f : Frame} :
    Keeps orig (State.badCrc s f) := by
  unfold State.badCrc
  (try dsimp only)
  repeat' (first | with_reducible assumption | intro _ | with_reducible apply Keeps.ite | with_reducible apply Keeps.foldl | with_reducible apply Keeps.foldl_fst | with_reducible apply State.frameFault_keeps | simp only [Keeps.upd_iff] | refine Keeps.upd_regs ?_ swf_sset | refine Keeps.upd_cells ?_ swf_sset | refine Keeps.upd_shadow ?_ swf_sset | refine Keeps.upd_buf ?_ (wf_write _) | split | dsimp only)

theorem State.collectIn_keeps {orig s : State} (h : Keeps orig s) {g : Nat} {f : Frame} :
    Keeps orig (State.collectIn s g f) := by
  unfold State.collectIn
  (try dsimp only)
  repeat' (first | with_reducible assumption | intro _ | with_reducible apply Keeps.ite | with_reducible apply Keeps.foldl | with_reducible apply Keeps.foldl_fst | with_reducible apply State.addJob_keeps | with_reducible apply State.mapRange_keeps | with_reducible apply State.ack_keeps | with_reducible apply State.ackFail_keeps | with_reducible apply State.countStraggler_keeps | with_reducible apply State.touchRange_keeps | simp only [Keeps.upd_iff] | refine Keeps.upd_regs ?_ swf_sset | refine Keeps.upd_cells ?_ swf_sset | refine Keeps.upd_shadow ?_ swf_sset | refine Keeps.upd_buf ?_ (wf_write _) | split | dsimp only)

theorem State.collectBad_keeps {orig s : State} (h : Keeps orig s) {f : Frame} :
    Keeps orig (State.collectBad s f) := by
  unfold State.collectBad
  (try dsimp only)
  repeat' (first | with_reducible assumption | intro _ | with_reducible apply Keeps.ite | with_reducible apply Keeps.foldl | with_reducible apply Keeps.foldl_fst | with_reducible apply State.bump_keeps | with_reducible apply State.sendFrame_keeps | with_reducible apply State.cascadeEvent_keeps | with_reducible apply State.mapRange_keeps | with_reducible apply State.ackFail_keeps | simp only [Keeps.upd_iff] | refine Keeps.upd_regs ?_ swf_sset | refine Keeps.upd_cells ?_ swf_sset | refine Keeps.upd_shadow ?_ swf_sset | refine Keeps.upd_buf ?_ (wf_write _) | split | dsimp only)

theorem State.commitIn_keeps {orig s : State} (h : Keeps orig s) {g : Nat} {f : Frame} :
    Keeps orig (State.commitIn s g f) := by
  unfold State.commitIn
  (try dsimp only)
  repeat' (first | with_reducible assumption | intro _ | with_reducible apply Keeps.ite | with_reducible apply Keeps.foldl | with_reducible apply Keeps.foldl_fst | with_reducible apply State.checkComplete_keeps | with_reducible apply State.finalSlot_keeps | with_reducible apply State.countStraggler_keeps | simp only [Keeps.upd_iff] | refine Keeps.upd_regs ?_ swf_sset | refine Keeps.upd_cells ?_ swf_sset | refine Keeps.upd_shadow ?_ swf_sset | refine Keeps.upd_buf ?_ (wf_write _) | split | dsimp only)

theorem State.afterRead_keeps {orig s : State} (h : Keeps orig s) {o : Op} {j : Job} {f : Frame} {faults : List ReadFault} :
    Keeps orig (State.afterRead s o j f faults) := by
  unfold State.afterRead
  (try dsimp only)
  repeat' (first | with_reducible assumption | intro _ | with_reducible apply Keeps.ite | with_reducible apply Keeps.foldl | with_reducible apply Keeps.foldl_fst | with_reducible apply State.settleRing_keeps | with_reducible apply State.parityEvents_keeps | with_reducible apply State.checkRead_keeps | with_reducible apply State.checkRead_keeps | simp only [Keeps.upd_iff] | refine Keeps.upd_regs ?_ swf_sset | refine Keeps.upd_cells ?_ swf_sset | refine Keeps.upd_shadow ?_ swf_sset | refine Keeps.upd_buf ?_ (wf_write _) | split | dsimp only)

theorem State.closeRegion_keeps {orig s : State} (h : Keeps orig s) {g : Region} :
    Keeps orig (State.closeRegion s g) := by
  unfold State.closeRegion
  (try dsimp only)
  repeat' (first | with_reducible assumption | intro _ | with_reducible apply Keeps.ite | with_reducible apply Keeps.foldl | with_reducible apply Keeps.foldl_fst | with_reducible apply State.finishOp_keeps | with_reducible apply State.unbindTiles_keeps | simp only [Keeps.upd_iff] | refine Keeps.upd_regs ?_ swf_sset | refine Keeps.upd_cells ?_ swf_sset | refine Keeps.upd_shadow ?_ swf_sset | refine Keeps.upd_buf ?_ (wf_write _) | split | dsimp only)

theorem State.closeRegions_keeps {orig s : State} (h : Keeps orig s)  :
    Keeps orig (State.closeRegions s) := by
  unfold State.closeRegions
  (try dsimp only)
  repeat' (first | with_reducible assumption | intro _ | with_reducible apply Keeps.ite | with_reducible apply Keeps.foldl | with_reducible apply Keeps.foldl_fst | with_reducible apply State.closeRegion_keeps | simp only [Keeps.upd_iff] | refine Keeps.upd_regs ?_ swf_sset | refine Keeps.upd_cells ?_ swf_sset | refine Keeps.upd_shadow ?_ swf_sset | refine Keeps.upd_buf ?_ (wf_write _) | split | dsimp only)

theorem State.failOp_keeps {orig s : State} (h : Keeps orig s) {id : Nat} :
    Keeps orig (State.failOp s id) := by
  unfold State.failOp
  (try dsimp only)
  repeat' (first | with_reducible assumption | intro _ | with_reducible apply Keeps.ite | with_reducible apply Keeps.foldl | with_reducible apply Keeps.foldl_fst | with_reducible apply State.mapOp_keeps | simp only [Keeps.upd_iff] | refine Keeps.upd_regs ?_ swf_sset | refine Keeps.upd_cells ?_ swf_sset | refine Keeps.upd_shadow ?_ swf_sset | refine Keeps.upd_buf ?_ (wf_write _) | split | dsimp only)

theorem State.endOp_keeps {orig s : State} (h : Keeps orig s) {id : Nat} :
    Keeps orig (State.endOp s id) := by
  unfold State.endOp
  (try dsimp only)
  repeat' (first | with_reducible assumption | intro _ | with_reducible apply Keeps.ite | with_reducible apply Keeps.foldl | with_reducible apply Keeps.foldl_fst | with_reducible apply State.mapOp_keeps | simp only [Keeps.upd_iff] | refine Keeps.upd_regs ?_ swf_sset | refine Keeps.upd_cells ?_ swf_sset | refine Keeps.upd_shadow ?_ swf_sset | refine Keeps.upd_buf ?_ (wf_write _) | split | dsimp only)

theorem State.takeBack_keeps {orig s : State} (h : Keeps orig s) {o : Op} {g n : Nat} {k : JobK} :
    Keeps orig (State.takeBack s o g n k) := by
  unfold State.takeBack
  (try dsimp only)
  repeat' (first | with_reducible assumption | intro _ | with_reducible apply Keeps.ite | with_reducible apply Keeps.foldl | with_reducible apply Keeps.foldl_fst | with_reducible apply State.addJob_keeps | with_reducible apply State.rereads_keeps | simp only [Keeps.upd_iff] | refine Keeps.upd_regs ?_ swf_sset | refine Keeps.upd_cells ?_ swf_sset | refine Keeps.upd_shadow ?_ swf_sset | refine Keeps.upd_buf ?_ (wf_write _) | split | dsimp only)

theorem State.undone_keeps {orig s : State} (h : Keeps orig s) {o : Op} {g code : Nat} :
    Keeps orig (State.undone s o g code) := by
  unfold State.undone
  (try dsimp only)
  repeat' (first | with_reducible assumption | intro _ | with_reducible apply Keeps.ite | with_reducible apply Keeps.foldl | with_reducible apply Keeps.foldl_fst | with_reducible apply State.mapOp_keeps | with_reducible apply State.dropOp_keeps | with_reducible apply State.addJob_keeps | with_reducible apply State.rereads_keeps | with_reducible apply State.failOp_keeps | with_reducible apply State.endOp_keeps | simp only [Keeps.upd_iff] | refine Keeps.upd_regs ?_ swf_sset | refine Keeps.upd_cells ?_ swf_sset | refine Keeps.upd_shadow ?_ swf_sset | refine Keeps.upd_buf ?_ (wf_write _) | split | dsimp only)

theorem State.answered_keeps {orig s : State} (h : Keeps orig s) {o : Op} {g code n : Nat} :
    Keeps orig (State.answered s o g code n) := by
  unfold State.answered
  (try dsimp only)
  repeat' (first | with_reducible assumption | intro _ | with_reducible apply Keeps.ite | with_reducible apply Keeps.foldl | with_reducible apply Keeps.foldl_fst | with_reducible apply State.mapOp_keeps | with_reducible apply State.failOp_keeps | with_reducible apply State.endOp_keeps | with_reducible apply State.takeBack_keeps | simp only [Keeps.upd_iff] | refine Keeps.upd_regs ?_ swf_sset | refine Keeps.upd_cells ?_ swf_sset | refine Keeps.upd_shadow ?_ swf_sset | refine Keeps.upd_buf ?_ (wf_write _) | split | dsimp only)

theorem State.ackIn_keeps {orig s : State} (h : Keeps orig s) {g : Nat} {f : Frame} :
    Keeps orig (State.ackIn s g f) := by
  unfold State.ackIn
  (try dsimp only)
  repeat' (first | with_reducible assumption | intro _ | with_reducible apply Keeps.ite | with_reducible apply Keeps.foldl | with_reducible apply Keeps.foldl_fst | with_reducible apply State.dropJobs_keeps | with_reducible apply State.countStraggler_keeps | with_reducible apply State.undone_keeps | with_reducible apply State.answered_keeps | simp only [Keeps.upd_iff] | refine Keeps.upd_regs ?_ swf_sset | refine Keeps.upd_cells ?_ swf_sset | refine Keeps.upd_shadow ?_ swf_sset | refine Keeps.upd_buf ?_ (wf_write _) | split | dsimp only)

theorem State.resendIn_keeps {orig s : State} (h : Keeps orig s) {g : Nat} {f : Frame} :
    Keeps orig (State.resendIn s g f) := by
  unfold State.resendIn
  (try dsimp only)
  repeat' (first | with_reducible assumption | intro _ | with_reducible apply Keeps.ite | with_reducible apply Keeps.foldl | with_reducible apply Keeps.foldl_fst | with_reducible apply State.mapJob_keeps | with_reducible apply State.rereads_keeps | with_reducible apply State.countStraggler_keeps | simp only [Keeps.upd_iff] | refine Keeps.upd_regs ?_ swf_sset | refine Keeps.upd_cells ?_ swf_sset | refine Keeps.upd_shadow ?_ swf_sset | refine Keeps.upd_buf ?_ (wf_write _) | split | dsimp only)

theorem State.takeResult_keeps {orig s t : State} (h : Keeps orig s) {o : Op} {f : Frame} (e : s.takeResult o f = some t) :
    Keeps orig t := by
  unfold State.takeResult at e
  dsimp only at e
  split at e
  · cases e
    exact Keeps.ite (State.mapOp_keeps (State.writeTensor_keeps h)) (State.bump_keeps (State.mapOp_keeps (State.writeTensor_keeps h)))
  · cases e

theorem State.takeResults_keeps {orig : State} {f : Frame} {os : List Op} :
    ∀ {s t : State}, Keeps orig s → s.takeResults f os = some t → Keeps orig t := by
  induction os with
  | nil => intro s t h e; cases e; exact h
  | cons o r ih =>
    intro s t h e
    unfold State.takeResults at e
    split at e
    · cases e
    · next s1 e1 => exact ih (State.takeResult_keeps h e1) e

theorem State.resultFault_keeps {orig s : State} (h : Keeps orig s) {g : Nat} {f : Frame} {os : List Op} {bad : Bool} :
    Keeps orig (State.resultFault s g f os bad) := by
  unfold State.resultFault
  (try dsimp only)
  repeat' (first | with_reducible assumption | intro _ | with_reducible apply Keeps.ite | with_reducible apply Keeps.foldl | with_reducible apply Keeps.foldl_fst | with_reducible apply State.bump_keeps | with_reducible apply State.mapOp_keeps | with_reducible apply State.sendFrame_keeps | with_reducible apply State.cascadeEvent_keeps | with_reducible apply State.failOp_keeps | simp only [Keeps.upd_iff] | refine Keeps.upd_regs ?_ swf_sset | refine Keeps.upd_cells ?_ swf_sset | refine Keeps.upd_shadow ?_ swf_sset | refine Keeps.upd_buf ?_ (wf_write _) | split | dsimp only)

theorem State.strayResult_keeps {orig s : State} (h : Keeps orig s) {g : Nat} {f : Frame} :
    Keeps orig (State.strayResult s g f) := by
  unfold State.strayResult
  (try dsimp only)
  repeat' (first | with_reducible assumption | intro _ | with_reducible apply Keeps.ite | with_reducible apply Keeps.foldl | with_reducible apply Keeps.foldl_fst | with_reducible apply State.bump_keeps | with_reducible apply State.cascadeEvent_keeps | simp only [Keeps.upd_iff] | refine Keeps.upd_regs ?_ swf_sset | refine Keeps.upd_cells ?_ swf_sset | refine Keeps.upd_shadow ?_ swf_sset | refine Keeps.upd_buf ?_ (wf_write _) | split | dsimp only)

theorem State.dropWaiting_keeps {orig s : State} (h : Keeps orig s) {t floor fep : Nat} :
    Keeps orig (State.dropWaiting s t floor fep) := by
  unfold State.dropWaiting
  (try dsimp only)
  repeat' (first | with_reducible assumption | intro _ | with_reducible apply Keeps.ite | with_reducible apply Keeps.foldl | with_reducible apply Keeps.foldl_fst | with_reducible apply Keeps.setPort | simp only [Keeps.upd_iff] | refine Keeps.upd_regs ?_ swf_sset | refine Keeps.upd_cells ?_ swf_sset | refine Keeps.upd_shadow ?_ swf_sset | refine Keeps.upd_buf ?_ (wf_write _) | split | dsimp only)

theorem State.fenceSends_keeps {orig s : State} (h : Keeps orig s)  :
    Keeps orig (State.fenceSends s) := by
  unfold State.fenceSends
  (try dsimp only)
  repeat' (first | with_reducible assumption | intro _ | with_reducible apply Keeps.ite | with_reducible apply Keeps.foldl | with_reducible apply Keeps.foldl_fst | with_reducible apply State.dropJobs_keeps | with_reducible apply State.abortRange_keeps | simp only [Keeps.upd_iff] | refine Keeps.upd_regs ?_ swf_sset | refine Keeps.upd_cells ?_ swf_sset | refine Keeps.upd_shadow ?_ swf_sset | refine Keeps.upd_buf ?_ (wf_write _) | split | dsimp only)

theorem State.sendRevokes_keeps {orig s : State} (h : Keeps orig s) {t epoch : Nat} :
    Keeps orig (State.sendRevokes s t epoch) := by
  unfold State.sendRevokes
  (try dsimp only)
  repeat' (first | with_reducible assumption | intro _ | with_reducible apply Keeps.ite | with_reducible apply Keeps.foldl | with_reducible apply Keeps.foldl_fst | with_reducible apply State.sendOn_keeps | with_reducible apply State.sendFrame_keeps | simp only [Keeps.upd_iff] | refine Keeps.upd_regs ?_ swf_sset | refine Keeps.upd_cells ?_ swf_sset | refine Keeps.upd_shadow ?_ swf_sset | refine Keeps.upd_buf ?_ (wf_write _) | split | dsimp only)

theorem State.squashOne_keeps {orig s : State} (h : Keeps orig s) {o : Op} :
    Keeps orig (State.squashOne s o) := by
  unfold State.squashOne
  (try dsimp only)
  repeat' (first | with_reducible assumption | intro _ | with_reducible apply Keeps.ite | with_reducible apply Keeps.foldl | with_reducible apply Keeps.foldl_fst | with_reducible apply State.mapOp_keeps | with_reducible apply State.dropOp_keeps | with_reducible apply State.mapJob_keeps | with_reducible apply State.dropJobs_keeps | with_reducible apply State.endOp_keeps | with_reducible apply State.takeBack_keeps | simp only [Keeps.upd_iff] | refine Keeps.upd_regs ?_ swf_sset | refine Keeps.upd_cells ?_ swf_sset | refine Keeps.upd_shadow ?_ swf_sset | refine Keeps.upd_buf ?_ (wf_write _) | split | dsimp only)

theorem State.squashOwner_keeps {orig s : State} (h : Keeps orig s) {o : Op} :
    Keeps orig (State.squashOwner s o) := by
  unfold State.squashOwner
  (try dsimp only)
  repeat' (first | with_reducible assumption | intro _ | with_reducible apply Keeps.ite | with_reducible apply Keeps.foldl | with_reducible apply Keeps.foldl_fst | with_reducible apply State.abortRange_keeps | with_reducible apply State.endOp_keeps | simp only [Keeps.upd_iff] | refine Keeps.upd_regs ?_ swf_sset | refine Keeps.upd_cells ?_ swf_sset | refine Keeps.upd_shadow ?_ swf_sset | refine Keeps.upd_buf ?_ (wf_write _) | split | dsimp only)

theorem State.squashSends_keeps {orig s : State} (h : Keeps orig s) {t r : Nat} :
    Keeps orig (State.squashSends s t r) := by
  unfold State.squashSends
  (try dsimp only)
  repeat' (first | with_reducible assumption | intro _ | with_reducible apply Keeps.ite | with_reducible apply Keeps.foldl | with_reducible apply Keeps.foldl_fst | with_reducible apply State.dropJobs_keeps | with_reducible apply State.endOp_keeps | with_reducible apply State.squashOne_keeps | with_reducible apply State.squashOwner_keeps | simp only [Keeps.upd_iff] | refine Keeps.upd_regs ?_ swf_sset | refine Keeps.upd_cells ?_ swf_sset | refine Keeps.upd_shadow ?_ swf_sset | refine Keeps.upd_buf ?_ (wf_write _) | split | dsimp only)

theorem State.mapGroup_keeps {orig s : State} (h : Keeps orig s) {g : Nat} {f : GroupSt → GroupSt} :
    Keeps orig (State.mapGroup s g f) := by
  unfold State.mapGroup
  (try dsimp only)
  repeat' (first | with_reducible assumption | intro _ | with_reducible apply Keeps.ite | with_reducible apply Keeps.foldl | with_reducible apply Keeps.foldl_fst | with_reducible apply Keeps.setGroup | simp only [Keeps.upd_iff] | refine Keeps.upd_regs ?_ swf_sset | refine Keeps.upd_cells ?_ swf_sset | refine Keeps.upd_shadow ?_ swf_sset | refine Keeps.upd_buf ?_ (wf_write _) | split | dsimp only)

theorem State.sendControl_keeps {orig s : State} (h : Keeps orig s) {g pp ftype ctl mask term : Nat} {payload : List Flit} :
    Keeps orig (State.sendControl s g pp ftype ctl mask term payload) := by
  unfold State.sendControl
  (try dsimp only)
  repeat' (first | with_reducible assumption | intro _ | with_reducible apply Keeps.ite | with_reducible apply Keeps.foldl | with_reducible apply Keeps.foldl_fst | with_reducible apply State.sendFrame_keeps | simp only [Keeps.upd_iff] | refine Keeps.upd_regs ?_ swf_sset | refine Keeps.upd_cells ?_ swf_sset | refine Keeps.upd_shadow ?_ swf_sset | refine Keeps.upd_buf ?_ (wf_write _) | split | dsimp only)

theorem State.sendReply_keeps {orig s : State} (h : Keeps orig s) {g pp term : Nat} {agree confirm : Bool} :
    Keeps orig (State.sendReply s g pp term agree confirm) := by
  unfold State.sendReply
  (try dsimp only)
  repeat' (first | with_reducible assumption | intro _ | with_reducible apply Keeps.ite | with_reducible apply Keeps.foldl | with_reducible apply Keeps.foldl_fst | with_reducible apply State.sendControl_keeps | simp only [Keeps.upd_iff] | refine Keeps.upd_regs ?_ swf_sset | refine Keeps.upd_cells ?_ swf_sset | refine Keeps.upd_shadow ?_ swf_sset | refine Keeps.upd_buf ?_ (wf_write _) | split | dsimp only)

theorem State.replyFirst_keeps {orig s : State} (h : Keeps orig s) {g : Nat} {confirm : Bool} :
    Keeps orig (State.replyFirst s g confirm) := by
  unfold State.replyFirst
  (try dsimp only)
  repeat' (first | with_reducible assumption | intro _ | with_reducible apply Keeps.ite | with_reducible apply Keeps.foldl | with_reducible apply Keeps.foldl_fst | with_reducible apply State.sendReply_keeps | simp only [Keeps.upd_iff] | refine Keeps.upd_regs ?_ swf_sset | refine Keeps.upd_cells ?_ swf_sset | refine Keeps.upd_shadow ?_ swf_sset | refine Keeps.upd_buf ?_ (wf_write _) | split | dsimp only)

theorem State.confirmNow_keeps {orig s : State} (h : Keeps orig s) {g : Nat} :
    Keeps orig (State.confirmNow s g) := by
  unfold State.confirmNow
  (try dsimp only)
  repeat' (first | with_reducible assumption | intro _ | with_reducible apply Keeps.ite | with_reducible apply Keeps.foldl | with_reducible apply Keeps.foldl_fst | with_reducible apply State.mapGroup_keeps | with_reducible apply State.replyFirst_keeps | simp only [Keeps.upd_iff] | refine Keeps.upd_regs ?_ swf_sset | refine Keeps.upd_cells ?_ swf_sset | refine Keeps.upd_shadow ?_ swf_sset | refine Keeps.upd_buf ?_ (wf_write _) | split | dsimp only)

theorem State.takeAllot_keeps {orig s : State} (h : Keeps orig s) {g : Nat} {es : List Nat} :
    Keeps orig (State.takeAllot s g es) := by
  unfold State.takeAllot
  (try dsimp only)
  repeat' (first | with_reducible assumption | intro _ | with_reducible apply Keeps.ite | with_reducible apply Keeps.foldl | with_reducible apply Keeps.foldl_fst | with_reducible apply State.setObj_keeps | with_reducible apply State.flushPort_keeps | with_reducible apply State.mapGroup_keeps | with_reducible apply State.confirmNow_keeps | simp only [Keeps.upd_iff] | refine Keeps.upd_regs ?_ swf_sset | refine Keeps.upd_cells ?_ swf_sset | refine Keeps.upd_shadow ?_ swf_sset | refine Keeps.upd_buf ?_ (wf_write _) | split | dsimp only)

theorem State.allot_keeps {orig s : State} (h : Keeps orig s) {g : Nat} :
    Keeps orig (State.allot s g) := by
  unfold State.allot
  (try dsimp only)
  repeat' (first | with_reducible assumption | intro _ | with_reducible apply Keeps.ite | with_reducible apply Keeps.foldl | with_reducible apply Keeps.foldl_fst | with_reducible apply Keeps.setGroup | with_reducible apply State.sendControl_keeps | with_reducible apply State.takeAllot_keeps | simp only [Keeps.upd_iff] | refine Keeps.upd_regs ?_ swf_sset | refine Keeps.upd_cells ?_ swf_sset | refine Keeps.upd_shadow ?_ swf_sset | refine Keeps.upd_buf ?_ (wf_write _) | split | dsimp only)

theorem State.recordFirst_keeps {orig s : State} (h : Keeps orig s) {g p term : Nat} :
    Keeps orig (State.recordFirst s g p term) := by
  unfold State.recordFirst
  (try dsimp only)
  repeat' (first | with_reducible assumption | intro _ | with_reducible apply Keeps.ite | with_reducible apply Keeps.foldl | with_reducible apply Keeps.foldl_fst | with_reducible apply State.cascadeEvent_keeps | with_reducible apply State.mapGroup_keeps | simp only [Keeps.upd_iff] | refine Keeps.upd_regs ?_ swf_sset | refine Keeps.upd_cells ?_ swf_sset | refine Keeps.upd_shadow ?_ swf_sset | refine Keeps.upd_buf ?_ (wf_write _) | split | dsimp only)

theorem State.checkClaim_keeps {orig s : State} (h : Keeps orig s) {g : Nat} :
    Keeps orig (State.checkClaim s g) := by
  unfold State.checkClaim
  (try dsimp only)
  repeat' (first | with_reducible assumption | intro _ | with_reducible apply Keeps.ite | with_reducible apply Keeps.foldl | with_reducible apply Keeps.foldl_fst | with_reducible apply State.sendControl_keeps | with_reducible apply State.allot_keeps | with_reducible apply State.recordFirst_keeps | simp only [Keeps.upd_iff] | refine Keeps.upd_regs ?_ swf_sset | refine Keeps.upd_cells ?_ swf_sset | refine Keeps.upd_shadow ?_ swf_sset | refine Keeps.upd_buf ?_ (wf_write _) | split | dsimp only)

theorem State.elect_keeps {orig s : State} (h : Keeps orig s) {g : Nat} :
    Keeps orig (State.elect s g) := by
  unfold State.elect
  (try dsimp only)
  repeat' (first | with_reducible assumption | intro _ | with_reducible apply Keeps.ite | with_reducible apply Keeps.foldl | with_reducible apply Keeps.foldl_fst | with_reducible apply State.mapGroup_keeps | with_reducible apply State.sendControl_keeps | with_reducible apply State.checkClaim_keeps | simp only [Keeps.upd_iff] | refine Keeps.upd_regs ?_ swf_sset | refine Keeps.upd_cells ?_ swf_sset | refine Keeps.upd_shadow ?_ swf_sset | refine Keeps.upd_buf ?_ (wf_write _) | split | dsimp only)

theorem State.headless_keeps {orig s : State} (h : Keeps orig s) {g pp : Nat} :
    Keeps orig (State.headless s g pp) := by
  unfold State.headless
  (try dsimp only)
  repeat' (first | with_reducible assumption | intro _ | with_reducible apply Keeps.ite | with_reducible apply Keeps.foldl | with_reducible apply Keeps.foldl_fst | with_reducible apply State.cascadeEvent_keeps | with_reducible apply State.mapGroup_keeps | simp only [Keeps.upd_iff] | refine Keeps.upd_regs ?_ swf_sset | refine Keeps.upd_cells ?_ swf_sset | refine Keeps.upd_shadow ?_ swf_sset | refine Keeps.upd_buf ?_ (wf_write _) | split | dsimp only)

theorem State.forgetPeer_keeps {orig s : State} (h : Keeps orig s) {g pp : Nat} :
    Keeps orig (State.forgetPeer s g pp) := by
  unfold State.forgetPeer
  (try dsimp only)
  repeat' (first | with_reducible assumption | intro _ | with_reducible apply Keeps.ite | with_reducible apply Keeps.foldl | with_reducible apply Keeps.foldl_fst | with_reducible apply Keeps.setPort | with_reducible apply State.mapOp_keeps | simp only [Keeps.upd_iff] | refine Keeps.upd_regs ?_ swf_sset | refine Keeps.upd_cells ?_ swf_sset | refine Keeps.upd_shadow ?_ swf_sset | refine Keeps.upd_buf ?_ (wf_write _) | split | dsimp only)

theorem State.loseMember_keeps {orig s : State} (h : Keeps orig s) {g pp : Nat} :
    Keeps orig (State.loseMember s g pp) := by
  unfold State.loseMember
  (try dsimp only)
  repeat' (first | with_reducible assumption | intro _ | with_reducible apply Keeps.ite | with_reducible apply Keeps.foldl | with_reducible apply Keeps.foldl_fst | with_reducible apply State.cascadeEvent_keeps | with_reducible apply State.losePosition_keeps | with_reducible apply State.closeRegions_keeps | with_reducible apply State.mapGroup_keeps | with_reducible apply State.allot_keeps | with_reducible apply State.elect_keeps | with_reducible apply State.headless_keeps | with_reducible apply State.forgetPeer_keeps | simp only [Keeps.upd_iff] | refine Keeps.upd_regs ?_ swf_sset | refine Keeps.upd_cells ?_ swf_sset | refine Keeps.upd_shadow ?_ swf_sset | refine Keeps.upd_buf ?_ (wf_write _) | split | dsimp only)

theorem State.hearBeacon_keeps {orig s : State} (h : Keeps orig s) {src group : Nat} :
    Keeps orig (State.hearBeacon s src group) := by
  unfold State.hearBeacon
  (try dsimp only)
  repeat' (first | with_reducible assumption | intro _ | with_reducible apply Keeps.ite | with_reducible apply Keeps.foldl | with_reducible apply Keeps.foldl_fst | with_reducible apply State.mapGroup_keeps | with_reducible apply State.elect_keeps | simp only [Keeps.upd_iff] | refine Keeps.upd_regs ?_ swf_sset | refine Keeps.upd_cells ?_ swf_sset | refine Keeps.upd_shadow ?_ swf_sset | refine Keeps.upd_buf ?_ (wf_write _) | split | dsimp only)

end Sys2Proof.Machine
end

