-- ==== Sys2Proof/Laws/KeepPorts.lean ====
section
/-! SUPPORT. The operations of Regions, Power, Ports, Admission, Start keep a good state good, the queue and the configuration. -/

namespace Sys2Proof.Machine

theorem State.squashNow_keeps {orig s : State} (h : Keeps orig s) {t r : Nat} :
    Keeps orig (State.squashNow s t r) := by
  unfold State.squashNow
  (try dsimp only)
  repeat' (first | with_reducible assumption | intro _ | with_reducible apply Keeps.ite | with_reducible apply Keeps.foldl | with_reducible apply Keeps.foldl_fst | with_reducible apply State.squashRegion_keeps | with_reducible apply State.closeRegions_keeps | with_reducible apply State.squashSends_keeps | simp only [Keeps.upd_iff] | refine Keeps.upd_regs ?_ swf_sset | refine Keeps.upd_cells ?_ swf_sset | refine Keeps.upd_shadow ?_ swf_sset | refine Keeps.upd_buf ?_ (wf_write _) | split | dsimp only)

theorem State.mapSnap_keeps {orig s : State} (h : Keeps orig s) {t r tile : Nat} {f : Snap → Snap} :
    Keeps orig (State.mapSnap s t r tile f) := by
  unfold State.mapSnap
  (try dsimp only)
  repeat' (first | with_reducible assumption | intro _ | with_reducible apply Keeps.ite | with_reducible apply Keeps.foldl | with_reducible apply Keeps.foldl_fst | with_reducible apply State.mapRegion_keeps | simp only [Keeps.upd_iff] | refine Keeps.upd_regs ?_ swf_sset | refine Keeps.upd_cells ?_ swf_sset | refine Keeps.upd_shadow ?_ swf_sset | refine Keeps.upd_buf ?_ (wf_write _) | split | dsimp only)

theorem State.putBuf_keeps {orig s : State} (h : Keeps orig s) {a : Nat} {bs : List Byte} :
    Keeps orig (State.putBuf s a bs) := by
  unfold State.putBuf
  (try dsimp only)
  repeat' (first | with_reducible assumption | intro _ | with_reducible apply Keeps.ite | with_reducible apply Keeps.foldl | with_reducible apply Keeps.foldl_fst | simp only [Keeps.upd_iff] | refine Keeps.upd_regs ?_ swf_sset | refine Keeps.upd_cells ?_ swf_sset | refine Keeps.upd_shadow ?_ swf_sset | refine Keeps.upd_buf ?_ (wf_write _) | split | dsimp only)

theorem State.snapRead_keeps {orig s : State} (h : Keeps orig s) {n : Snap} {t : TileRef} {bad : List RegFault} {p : Nat × Nat × Nat} :
    Keeps orig (State.snapRead s n t bad p).1 := by
  unfold State.snapRead
  (try dsimp only)
  repeat' (first | with_reducible assumption | intro _ | with_reducible apply Keeps.ite | with_reducible apply Keeps.foldl | with_reducible apply Keeps.foldl_fst | with_reducible apply Keeps.setReg | with_reducible apply State.mapOp_keeps | with_reducible apply State.readFailed_keeps | simp only [Keeps.upd_iff] | refine Keeps.upd_regs ?_ swf_sset | refine Keeps.upd_cells ?_ swf_sset | refine Keeps.upd_shadow ?_ swf_sset | refine Keeps.upd_buf ?_ (wf_write _) | split | dsimp only)

theorem State.takeSnap_keeps {orig s : State} (h : Keeps orig s) {t r : Nat} {n : Snap} {bad : List RegFault} :
    Keeps orig (State.takeSnap s t r n bad) := by
  unfold State.takeSnap
  (try dsimp only)
  repeat' (first | with_reducible assumption | intro _ | with_reducible apply Keeps.ite | with_reducible apply Keeps.foldl | with_reducible apply Keeps.foldl_fst | with_reducible apply State.mapSnap_keeps | with_reducible apply State.putBuf_keeps | with_reducible apply State.snapRead_keeps | simp only [Keeps.upd_iff] | refine Keeps.upd_regs ?_ swf_sset | refine Keeps.upd_cells ?_ swf_sset | refine Keeps.upd_shadow ?_ swf_sset | refine Keeps.upd_buf ?_ (wf_write _) | split | dsimp only)

theorem State.badRestore_keeps {orig s : State} (h : Keeps orig s) {tenant : Nat} {t : TileRef} {rk : Nat} {x : LongReg} :
    Keeps orig (State.badRestore s tenant t rk x) := by
  unfold State.badRestore
  (try dsimp only)
  repeat' (first | with_reducible assumption | intro _ | with_reducible apply Keeps.ite | with_reducible apply Keeps.foldl | with_reducible apply Keeps.foldl_fst | with_reducible apply State.event_keeps | with_reducible apply State.countResidue_keeps | simp only [Keeps.upd_iff] | refine Keeps.upd_regs ?_ swf_sset | refine Keeps.upd_cells ?_ swf_sset | refine Keeps.upd_shadow ?_ swf_sset | refine Keeps.upd_buf ?_ (wf_write _) | split | dsimp only)

theorem State.restoreReg_keeps {orig s : State} (h : Keeps orig s) {tenant path : Nat} {t : TileRef} {rk : Nat} {x : Option LongReg} {psn : Bool} :
    Keeps orig (State.restoreReg s tenant path t rk x psn) := by
  unfold State.restoreReg
  (try dsimp only)
  repeat' (first | with_reducible assumption | intro _ | with_reducible apply Keeps.ite | with_reducible apply Keeps.foldl | with_reducible apply Keeps.foldl_fst | with_reducible apply State.event_keeps | with_reducible apply Keeps.setReg | with_reducible apply State.badRestore_keeps | simp only [Keeps.upd_iff] | refine Keeps.upd_regs ?_ swf_sset | refine Keeps.upd_cells ?_ swf_sset | refine Keeps.upd_shadow ?_ swf_sset | refine Keeps.upd_buf ?_ (wf_write _) | split | dsimp only)

theorem State.restoreLong_keeps {orig s : State} (h : Keeps orig s) {tenant path : Nat} {t : TileRef} {rk : Nat} {x : Stored} {err : Int} :
    Keeps orig (State.restoreLong s tenant path t rk x err) := by
  unfold State.restoreLong
  (try dsimp only)
  repeat' (first | with_reducible assumption | intro _ | with_reducible apply Keeps.ite | with_reducible apply Keeps.foldl | with_reducible apply Keeps.foldl_fst | with_reducible apply State.restoreReg_keeps | simp only [Keeps.upd_iff] | refine Keeps.upd_regs ?_ swf_sset | refine Keeps.upd_cells ?_ swf_sset | refine Keeps.upd_shadow ?_ swf_sset | refine Keeps.upd_buf ?_ (wf_write _) | split | dsimp only)

theorem State.snapParity_keeps {orig s : State} (h : Keeps orig s) {tenant : Nat} {n : Snap} :
    Keeps orig (State.snapParity s tenant n) := by
  unfold State.snapParity
  (try dsimp only)
  repeat' (first | with_reducible assumption | intro _ | with_reducible apply Keeps.ite | with_reducible apply Keeps.foldl | with_reducible apply Keeps.foldl_fst | with_reducible apply State.parityEvents_keeps | simp only [Keeps.upd_iff] | refine Keeps.upd_regs ?_ swf_sset | refine Keeps.upd_cells ?_ swf_sset | refine Keeps.upd_shadow ?_ swf_sset | refine Keeps.upd_buf ?_ (wf_write _) | split | dsimp only)

theorem State.restoreSnap_keeps {orig s : State} (h : Keeps orig s) {tenant : Nat} {n : Snap} {bad : List RegFault} :
    Keeps orig (State.restoreSnap s tenant n bad) := by
  unfold State.restoreSnap
  (try dsimp only)
  repeat' (first | with_reducible assumption | intro _ | with_reducible apply Keeps.ite | with_reducible apply Keeps.foldl | with_reducible apply Keeps.foldl_fst | with_reducible apply State.mapRegs_keeps | with_reducible apply State.putQuarter_keeps | with_reducible apply State.restoreLong_keeps | with_reducible apply State.snapParity_keeps | simp only [Keeps.upd_iff] | refine Keeps.upd_regs ?_ swf_sset | refine Keeps.upd_cells ?_ swf_sset | refine Keeps.upd_shadow ?_ swf_sset | refine Keeps.upd_buf ?_ (wf_write _) | split | dsimp only)

theorem State.commitNotices_keeps {orig s : State} (h : Keeps orig s) {t r : Nat} :
    Keeps orig (State.commitNotices s t r) := by
  unfold State.commitNotices
  (try dsimp only)
  repeat' (first | with_reducible assumption | intro _ | with_reducible apply Keeps.ite | with_reducible apply Keeps.foldl | with_reducible apply Keeps.foldl_fst | with_reducible apply State.sendFrame_keeps | simp only [Keeps.upd_iff] | refine Keeps.upd_regs ?_ swf_sset | refine Keeps.upd_cells ?_ swf_sset | refine Keeps.upd_shadow ?_ swf_sset | refine Keeps.upd_buf ?_ (wf_write _) | split | dsimp only)

theorem State.commitRegion_keeps {orig s : State} (h : Keeps orig s) {g : Region} {o : Op} :
    Keeps orig (State.commitRegion s g o) := by
  unfold State.commitRegion
  (try dsimp only)
  repeat' (first | with_reducible assumption | intro _ | with_reducible apply Keeps.ite | with_reducible apply Keeps.foldl | with_reducible apply Keeps.foldl_fst | with_reducible apply State.finishOp_keeps | with_reducible apply State.unbindTiles_keeps | with_reducible apply State.commitNotices_keeps | simp only [Keeps.upd_iff] | refine Keeps.upd_regs ?_ swf_sset | refine Keeps.upd_cells ?_ swf_sset | refine Keeps.upd_shadow ?_ swf_sset | refine Keeps.upd_buf ?_ (wf_write _) | split | dsimp only)

theorem State.clearScratch_keeps {orig s : State} (h : Keeps orig s) {r : Op} :
    Keeps orig (State.clearScratch s r) := by
  unfold State.clearScratch
  (try dsimp only)
  repeat' (first | with_reducible assumption | intro _ | with_reducible apply Keeps.ite | with_reducible apply Keeps.foldl | with_reducible apply Keeps.foldl_fst | with_reducible apply State.mapRegs_keeps | with_reducible apply State.mapTile_keeps | simp only [Keeps.upd_iff] | refine Keeps.upd_regs ?_ swf_sset | refine Keeps.upd_cells ?_ swf_sset | refine Keeps.upd_shadow ?_ swf_sset | refine Keeps.upd_buf ?_ (wf_write _) | split | dsimp only)

theorem State.giveVerdict_keeps {orig s : State} (h : Keeps orig s) {r : Op} {d : Desc} {v diff : Nat} :
    Keeps orig (State.giveVerdict s r d v diff) := by
  unfold State.giveVerdict
  (try dsimp only)
  repeat' (first | with_reducible assumption | intro _ | with_reducible apply Keeps.ite | with_reducible apply Keeps.foldl | with_reducible apply Keeps.foldl_fst | with_reducible apply State.event_keeps | with_reducible apply State.mapOp_keeps | with_reducible apply State.dropOp_keeps | with_reducible apply State.mapRegion_keeps | with_reducible apply State.offend_keeps | with_reducible apply State.clearScratch_keeps | simp only [Keeps.upd_iff] | refine Keeps.upd_regs ?_ swf_sset | refine Keeps.upd_cells ?_ swf_sset | refine Keeps.upd_shadow ?_ swf_sset | refine Keeps.upd_buf ?_ (wf_write _) | split | dsimp only)

theorem State.seedReroll_keeps {orig s : State} (h : Keeps orig s) {r : Op} {d : Desc} :
    Keeps orig (State.seedReroll s r d) := by
  unfold State.seedReroll
  (try dsimp only)
  repeat' (first | with_reducible assumption | intro _ | with_reducible apply Keeps.ite | with_reducible apply Keeps.foldl | with_reducible apply Keeps.foldl_fst | with_reducible apply State.mapRegs_keeps | with_reducible apply State.restoreLong_keeps | with_reducible apply State.snapParity_keeps | simp only [Keeps.upd_iff] | refine Keeps.upd_regs ?_ swf_sset | refine Keeps.upd_cells ?_ swf_sset | refine Keeps.upd_shadow ?_ swf_sset | refine Keeps.upd_buf ?_ (wf_write _) | split | dsimp only)

theorem State.sendPower_keeps {orig s : State} (h : Keeps orig s) {type body : Nat} :
    Keeps orig (State.sendPower s type body) := by
  unfold State.sendPower
  (try dsimp only)
  repeat' (first | with_reducible assumption | intro _ | with_reducible apply Keeps.ite | with_reducible apply Keeps.foldl | with_reducible apply Keeps.foldl_fst | with_reducible apply State.emit_keeps | simp only [Keeps.upd_iff] | refine Keeps.upd_regs ?_ swf_sset | refine Keeps.upd_cells ?_ swf_sset | refine Keeps.upd_shadow ?_ swf_sset | refine Keeps.upd_buf ?_ (wf_write _) | split | dsimp only)

theorem State.sendEnvReq_keeps {orig s : State} (h : Keeps orig s) {env : Nat} :
    Keeps orig (State.sendEnvReq s env) := by
  unfold State.sendEnvReq
  (try dsimp only)
  repeat' (first | with_reducible assumption | intro _ | with_reducible apply Keeps.ite | with_reducible apply Keeps.foldl | with_reducible apply Keeps.foldl_fst | with_reducible apply State.sendPower_keeps | simp only [Keeps.upd_iff] | refine Keeps.upd_regs ?_ swf_sset | refine Keeps.upd_cells ?_ swf_sset | refine Keeps.upd_shadow ?_ swf_sset | refine Keeps.upd_buf ?_ (wf_write _) | split | dsimp only)

theorem State.sendGrant_keeps {orig s : State} (h : Keeps orig s) {env cap : Nat} :
    Keeps orig (State.sendGrant s env cap) := by
  unfold State.sendGrant
  (try dsimp only)
  repeat' (first | with_reducible assumption | intro _ | with_reducible apply Keeps.ite | with_reducible apply Keeps.foldl | with_reducible apply Keeps.foldl_fst | with_reducible apply State.sendPower_keeps | simp only [Keeps.upd_iff] | refine Keeps.upd_regs ?_ swf_sset | refine Keeps.upd_cells ?_ swf_sset | refine Keeps.upd_shadow ?_ swf_sset | refine Keeps.upd_buf ?_ (wf_write _) | split | dsimp only)

theorem State.sendVofs_keeps {orig s : State} (h : Keeps orig s) {core ofs : Nat} :
    Keeps orig (State.sendVofs s core ofs) := by
  unfold State.sendVofs
  (try dsimp only)
  repeat' (first | with_reducible assumption | intro _ | with_reducible apply Keeps.ite | with_reducible apply Keeps.foldl | with_reducible apply Keeps.foldl_fst | with_reducible apply State.sendPower_keeps | simp only [Keeps.upd_iff] | refine Keeps.upd_regs ?_ swf_sset | refine Keeps.upd_cells ?_ swf_sset | refine Keeps.upd_shadow ?_ swf_sset | refine Keeps.upd_buf ?_ (wf_write _) | split | dsimp only)

theorem State.mapPwr_keeps {orig s : State} (h : Keeps orig s) {f : Power → Power} :
    Keeps orig (State.mapPwr s f) := by
  unfold State.mapPwr
  (try dsimp only)
  repeat' (first | with_reducible assumption | intro _ | with_reducible apply Keeps.ite | with_reducible apply Keeps.foldl | with_reducible apply Keeps.foldl_fst | simp only [Keeps.upd_iff] | refine Keeps.upd_regs ?_ swf_sset | refine Keeps.upd_cells ?_ swf_sset | refine Keeps.upd_shadow ?_ swf_sset | refine Keeps.upd_buf ?_ (wf_write _) | split | dsimp only)

theorem State.badMessage_keeps {orig s : State} (h : Keeps orig s) {w : Nat} :
    Keeps orig (State.badMessage s w) := by
  unfold State.badMessage
  (try dsimp only)
  repeat' (first | with_reducible assumption | intro _ | with_reducible apply Keeps.ite | with_reducible apply Keeps.foldl | with_reducible apply Keeps.foldl_fst | with_reducible apply State.event_keeps | simp only [Keeps.upd_iff] | refine Keeps.upd_regs ?_ swf_sset | refine Keeps.upd_cells ?_ swf_sset | refine Keeps.upd_shadow ?_ swf_sset | refine Keeps.upd_buf ?_ (wf_write _) | split | dsimp only)

theorem State.remedyEvent_keeps {orig s : State} (h : Keeps orig s) {c margin v : Nat} :
    Keeps orig (State.remedyEvent s c margin v) := by
  unfold State.remedyEvent
  (try dsimp only)
  repeat' (first | with_reducible assumption | intro _ | with_reducible apply Keeps.ite | with_reducible apply Keeps.foldl | with_reducible apply Keeps.foldl_fst | with_reducible apply State.event_keeps | simp only [Keeps.upd_iff] | refine Keeps.upd_regs ?_ swf_sset | refine Keeps.upd_cells ?_ swf_sset | refine Keeps.upd_shadow ?_ swf_sset | refine Keeps.upd_buf ?_ (wf_write _) | split | dsimp only)

theorem State.noRemedy_keeps {orig s : State} (h : Keeps orig s) {c : Nat} :
    Keeps orig (State.noRemedy s c) := by
  unfold State.noRemedy
  (try dsimp only)
  repeat' (first | with_reducible assumption | intro _ | with_reducible apply Keeps.ite | with_reducible apply Keeps.foldl | with_reducible apply Keeps.foldl_fst | with_reducible apply State.pendQuarantine_keeps | simp only [Keeps.upd_iff] | refine Keeps.upd_regs ?_ swf_sset | refine Keeps.upd_cells ?_ swf_sset | refine Keeps.upd_shadow ?_ swf_sset | refine Keeps.upd_buf ?_ (wf_write _) | split | dsimp only)

theorem State.nextMargin_keeps {orig s : State} (h : Keeps orig s) {c : Nat} :
    Keeps orig (State.nextMargin s c) := by
  unfold State.nextMargin
  (try dsimp only)
  repeat' (first | with_reducible assumption | intro _ | with_reducible apply Keeps.ite | with_reducible apply Keeps.foldl | with_reducible apply Keeps.foldl_fst | with_reducible apply State.setObj_keeps | with_reducible apply State.remedyEvent_keeps | with_reducible apply State.noRemedy_keeps | simp only [Keeps.upd_iff] | refine Keeps.upd_regs ?_ swf_sset | refine Keeps.upd_cells ?_ swf_sset | refine Keeps.upd_shadow ?_ swf_sset | refine Keeps.upd_buf ?_ (wf_write _) | split | dsimp only)

theorem State.dropOffset_keeps {orig s : State} (h : Keeps orig s) {c : Nat} :
    Keeps orig (State.dropOffset s c) := by
  unfold State.dropOffset
  (try dsimp only)
  repeat' (first | with_reducible assumption | intro _ | with_reducible apply Keeps.ite | with_reducible apply Keeps.foldl | with_reducible apply Keeps.foldl_fst | with_reducible apply State.setObj_keeps | with_reducible apply State.mapPwr_keeps | simp only [Keeps.upd_iff] | refine Keeps.upd_regs ?_ swf_sset | refine Keeps.upd_cells ?_ swf_sset | refine Keeps.upd_shadow ?_ swf_sset | refine Keeps.upd_buf ?_ (wf_write _) | split | dsimp only)

theorem State.readmitOffsets_keeps {orig s : State} (h : Keeps orig s) {env : Nat} :
    Keeps orig (State.readmitOffsets s env) := by
  unfold State.readmitOffsets
  (try dsimp only)
  repeat' (first | with_reducible assumption | intro _ | with_reducible apply Keeps.ite | with_reducible apply Keeps.foldl | with_reducible apply Keeps.foldl_fst | with_reducible apply State.nextMargin_keeps | with_reducible apply State.dropOffset_keeps | with_reducible apply State.setObj_keeps | simp only [Keeps.upd_iff] | refine Keeps.upd_regs ?_ swf_sset | refine Keeps.upd_cells ?_ swf_sset | refine Keeps.upd_shadow ?_ swf_sset | refine Keeps.upd_buf ?_ (wf_write _) | split | dsimp only)

theorem State.setEnv_keeps {orig s : State} (h : Keeps orig s) {env : Nat} :
    Keeps orig (State.setEnv s env) := by
  unfold State.setEnv
  (try dsimp only)
  repeat' (first | with_reducible assumption | intro _ | with_reducible apply Keeps.ite | with_reducible apply Keeps.foldl | with_reducible apply Keeps.foldl_fst | with_reducible apply State.notify_keeps | with_reducible apply State.refreshCores_keeps | with_reducible apply State.mapPwr_keeps | with_reducible apply State.readmitOffsets_keeps | simp only [Keeps.upd_iff] | refine Keeps.upd_regs ?_ swf_sset | refine Keeps.upd_cells ?_ swf_sset | refine Keeps.upd_shadow ?_ swf_sset | refine Keeps.upd_buf ?_ (wf_write _) | split | dsimp only)

theorem State.stepUp_keeps {orig s : State} (h : Keeps orig s) {env : Nat} :
    Keeps orig (State.stepUp s env) := by
  unfold State.stepUp
  (try dsimp only)
  repeat' (first | with_reducible assumption | intro _ | with_reducible apply Keeps.ite | with_reducible apply Keeps.foldl | with_reducible apply Keeps.foldl_fst | with_reducible apply State.sendEnvReq_keeps | with_reducible apply State.mapPwr_keeps | simp only [Keeps.upd_iff] | refine Keeps.upd_regs ?_ swf_sset | refine Keeps.upd_cells ?_ swf_sset | refine Keeps.upd_shadow ?_ swf_sset | refine Keeps.upd_buf ?_ (wf_write _) | split | dsimp only)

theorem State.abandonUp_keeps {orig s : State} (h : Keeps orig s) {deny down : Bool} :
    Keeps orig (State.abandonUp s deny down) := by
  unfold State.abandonUp
  (try dsimp only)
  repeat' (first | with_reducible assumption | intro _ | with_reducible apply Keeps.ite | with_reducible apply Keeps.foldl | with_reducible apply Keeps.foldl_fst | with_reducible apply State.event_keeps | with_reducible apply State.sendEnvReq_keeps | with_reducible apply State.mapPwr_keeps | simp only [Keeps.upd_iff] | refine Keeps.upd_regs ?_ swf_sset | refine Keeps.upd_cells ?_ swf_sset | refine Keeps.upd_shadow ?_ swf_sset | refine Keeps.upd_buf ?_ (wf_write _) | split | dsimp only)

theorem State.pendDown_keeps {orig s : State} (h : Keeps orig s) {env cap : Option Nat} {stage : Bool} :
    Keeps orig (State.pendDown s env cap stage) := by
  unfold State.pendDown
  (try dsimp only)
  repeat' (first | with_reducible assumption | intro _ | with_reducible apply Keeps.ite | with_reducible apply Keeps.foldl | with_reducible apply Keeps.foldl_fst | with_reducible apply State.refreshCores_keeps | with_reducible apply State.mapPwr_keeps | with_reducible apply State.abandonUp_keeps | simp only [Keeps.upd_iff] | refine Keeps.upd_regs ?_ swf_sset | refine Keeps.upd_cells ?_ swf_sset | refine Keeps.upd_shadow ?_ swf_sset | refine Keeps.upd_buf ?_ (wf_write _) | split | dsimp only)

theorem State.requestEnv_keeps {orig s : State} (h : Keeps orig s) {v : Nat} :
    Keeps orig (State.requestEnv s v).1 := by
  unfold State.requestEnv
  (try dsimp only)
  repeat' (first | with_reducible assumption | intro _ | with_reducible apply Keeps.ite | with_reducible apply Keeps.foldl | with_reducible apply Keeps.foldl_fst | with_reducible apply State.stepUp_keeps | with_reducible apply State.pendDown_keeps | simp only [Keeps.upd_iff] | refine Keeps.upd_regs ?_ swf_sset | refine Keeps.upd_cells ?_ swf_sset | refine Keeps.upd_shadow ?_ swf_sset | refine Keeps.upd_buf ?_ (wf_write _) | split | dsimp only)

theorem State.setCooling_keeps {orig s : State} (h : Keeps orig s) {v : Nat} :
    Keeps orig (State.setCooling s v).1 := by
  unfold State.setCooling
  (try dsimp only)
  repeat' (first | with_reducible assumption | intro _ | with_reducible apply Keeps.ite | with_reducible apply Keeps.foldl | with_reducible apply Keeps.foldl_fst | with_reducible apply State.setObj_keeps | with_reducible apply State.abandonUp_keeps | with_reducible apply State.pendDown_keeps | simp only [Keeps.upd_iff] | refine Keeps.upd_regs ?_ swf_sset | refine Keeps.upd_cells ?_ swf_sset | refine Keeps.upd_shadow ?_ swf_sset | refine Keeps.upd_buf ?_ (wf_write _) | split | dsimp only)

theorem State.requestCap_keeps {orig s : State} (h : Keeps orig s) {v : Nat} :
    Keeps orig (State.requestCap s v).1 := by
  unfold State.requestCap
  (try dsimp only)
  repeat' (first | with_reducible assumption | intro _ | with_reducible apply Keeps.ite | with_reducible apply Keeps.foldl | with_reducible apply Keeps.foldl_fst | with_reducible apply State.setObj_keeps | with_reducible apply State.pendDown_keeps | simp only [Keeps.upd_iff] | refine Keeps.upd_regs ?_ swf_sset | refine Keeps.upd_cells ?_ swf_sset | refine Keeps.upd_shadow ?_ swf_sset | refine Keeps.upd_buf ?_ (wf_write _) | split | dsimp only)

theorem State.forceMargin_keeps {orig s : State} (h : Keeps orig s) {c v : Nat} :
    Keeps orig (State.forceMargin s c v).1 := by
  unfold State.forceMargin
  (try dsimp only)
  repeat' (first | with_reducible assumption | intro _ | with_reducible apply Keeps.ite | with_reducible apply Keeps.foldl | with_reducible apply Keeps.foldl_fst | with_reducible apply State.setObj_keeps | simp only [Keeps.upd_iff] | refine Keeps.upd_regs ?_ swf_sset | refine Keeps.upd_cells ?_ swf_sset | refine Keeps.upd_shadow ?_ swf_sset | refine Keeps.upd_buf ?_ (wf_write _) | split | dsimp only)

theorem State.pendMargin_keeps {orig s : State} (h : Keeps orig s) {c v : Nat} :
    Keeps orig (State.pendMargin s c v).1 := by
  unfold State.pendMargin
  (try dsimp only)
  repeat' (first | with_reducible assumption | intro _ | with_reducible apply Keeps.ite | with_reducible apply Keeps.foldl | with_reducible apply Keeps.foldl_fst | with_reducible apply State.setObj_keeps | simp only [Keeps.upd_iff] | refine Keeps.upd_regs ?_ swf_sset | refine Keeps.upd_cells ?_ swf_sset | refine Keeps.upd_shadow ?_ swf_sset | refine Keeps.upd_buf ?_ (wf_write _) | split | dsimp only)

theorem State.report_keeps {orig s : State} (h : Keeps orig s) {c mv tj rail env : Nat} :
    Keeps orig (State.report s c mv tj rail env) := by
  unfold State.report
  (try dsimp only)
  repeat' (first | with_reducible assumption | intro _ | with_reducible apply Keeps.ite | with_reducible apply Keeps.foldl | with_reducible apply Keeps.foldl_fst | with_reducible apply State.mapPwr_keeps | simp only [Keeps.upd_iff] | refine Keeps.upd_regs ?_ swf_sset | refine Keeps.upd_cells ?_ swf_sset | refine Keeps.upd_shadow ?_ swf_sset | refine Keeps.upd_buf ?_ (wf_write _) | split | dsimp only)

theorem State.settleOffset_keeps {orig s : State} (h : Keeps orig s) {c rail : Nat} :
    Keeps orig (State.settleOffset s c rail) := by
  unfold State.settleOffset
  (try dsimp only)
  repeat' (first | with_reducible assumption | intro _ | with_reducible apply Keeps.ite | with_reducible apply Keeps.foldl | with_reducible apply Keeps.foldl_fst | with_reducible apply State.setObj_keeps | with_reducible apply State.mapPwr_keeps | with_reducible apply State.nextMargin_keeps | with_reducible apply State.dropOffset_keeps | simp only [Keeps.upd_iff] | refine Keeps.upd_regs ?_ swf_sset | refine Keeps.upd_cells ?_ swf_sset | refine Keeps.upd_shadow ?_ swf_sset | refine Keeps.upd_buf ?_ (wf_write _) | split | dsimp only)

theorem State.startEnvelope_keeps {orig s : State} (h : Keeps orig s)  :
    Keeps orig (State.startEnvelope s) := by
  unfold State.startEnvelope
  (try dsimp only)
  repeat' (first | with_reducible assumption | intro _ | with_reducible apply Keeps.ite | with_reducible apply Keeps.foldl | with_reducible apply Keeps.foldl_fst | with_reducible apply State.stepUp_keeps | simp only [Keeps.upd_iff] | refine Keeps.upd_regs ?_ swf_sset | refine Keeps.upd_cells ?_ swf_sset | refine Keeps.upd_shadow ?_ swf_sset | refine Keeps.upd_buf ?_ (wf_write _) | split | dsimp only)

theorem State.askAgain_keeps {orig s : State} (h : Keeps orig s)  :
    Keeps orig (State.askAgain s) := by
  unfold State.askAgain
  (try dsimp only)
  repeat' (first | with_reducible assumption | intro _ | with_reducible apply Keeps.ite | with_reducible apply Keeps.foldl | with_reducible apply Keeps.foldl_fst | with_reducible apply State.sendVofs_keeps | simp only [Keeps.upd_iff] | refine Keeps.upd_regs ?_ swf_sset | refine Keeps.upd_cells ?_ swf_sset | refine Keeps.upd_shadow ?_ swf_sset | refine Keeps.upd_buf ?_ (wf_write _) | split | dsimp only)

theorem State.stageBack_keeps {orig s : State} (h : Keeps orig s)  :
    Keeps orig (State.stageBack s) := by
  unfold State.stageBack
  (try dsimp only)
  repeat' (first | with_reducible assumption | intro _ | with_reducible apply Keeps.ite | with_reducible apply Keeps.foldl | with_reducible apply Keeps.foldl_fst | with_reducible apply State.refreshCores_keeps | with_reducible apply State.mapPwr_keeps | with_reducible apply State.setEnv_keeps | with_reducible apply State.startEnvelope_keeps | with_reducible apply State.askAgain_keeps | simp only [Keeps.upd_iff] | refine Keeps.upd_regs ?_ swf_sset | refine Keeps.upd_cells ?_ swf_sset | refine Keeps.upd_shadow ?_ swf_sset | refine Keeps.upd_buf ?_ (wf_write _) | split | dsimp only)

theorem State.settleEnv_keeps {orig s : State} (h : Keeps orig s)  :
    Keeps orig (State.settleEnv s) := by
  unfold State.settleEnv
  (try dsimp only)
  repeat' (first | with_reducible assumption | intro _ | with_reducible apply Keeps.ite | with_reducible apply Keeps.foldl | with_reducible apply Keeps.foldl_fst | with_reducible apply State.setObj_keeps | with_reducible apply State.mapPwr_keeps | with_reducible apply State.setEnv_keeps | simp only [Keeps.upd_iff] | refine Keeps.upd_regs ?_ swf_sset | refine Keeps.upd_cells ?_ swf_sset | refine Keeps.upd_shadow ?_ swf_sset | refine Keeps.upd_buf ?_ (wf_write _) | split | dsimp only)

theorem State.takeVt_keeps {orig s : State} (h : Keeps orig s) {c mv tj rail env : Nat} :
    Keeps orig (State.takeVt s c mv tj rail env) := by
  unfold State.takeVt
  (try dsimp only)
  repeat' (first | with_reducible assumption | intro _ | with_reducible apply Keeps.ite | with_reducible apply Keeps.foldl | with_reducible apply Keeps.foldl_fst | with_reducible apply State.mapPwr_keeps | with_reducible apply State.report_keeps | with_reducible apply State.settleOffset_keeps | with_reducible apply State.stageBack_keeps | with_reducible apply State.settleEnv_keeps | simp only [Keeps.upd_iff] | refine Keeps.upd_regs ?_ swf_sset | refine Keeps.upd_cells ?_ swf_sset | refine Keeps.upd_shadow ?_ swf_sset | refine Keeps.upd_buf ?_ (wf_write _) | split | dsimp only)

theorem State.stageDefaults_keeps {orig s : State} (h : Keeps orig s)  :
    Keeps orig (State.stageDefaults s) := by
  unfold State.stageDefaults
  (try dsimp only)
  repeat' (first | with_reducible assumption | intro _ | with_reducible apply Keeps.ite | with_reducible apply Keeps.foldl | with_reducible apply Keeps.foldl_fst | simp only [Keeps.upd_iff] | refine Keeps.upd_regs ?_ swf_sset | refine Keeps.upd_cells ?_ swf_sset | refine Keeps.upd_shadow ?_ swf_sset | refine Keeps.upd_buf ?_ (wf_write _) | split | dsimp only)

theorem State.beginExcursion_keeps {orig s : State} (h : Keeps orig s) {core : Nat} :
    Keeps orig (State.beginExcursion s core) := by
  unfold State.beginExcursion
  (try dsimp only)
  repeat' (first | with_reducible assumption | intro _ | with_reducible apply Keeps.ite | with_reducible apply Keeps.foldl | with_reducible apply Keeps.foldl_fst | with_reducible apply State.mapPwr_keeps | simp only [Keeps.upd_iff] | refine Keeps.upd_regs ?_ swf_sset | refine Keeps.upd_cells ?_ swf_sset | refine Keeps.upd_shadow ?_ swf_sset | refine Keeps.upd_buf ?_ (wf_write _) | split | dsimp only)

theorem State.forceDown_keeps {orig s : State} (h : Keeps orig s) {env cap : Nat} :
    Keeps orig (State.forceDown s env cap) := by
  unfold State.forceDown
  (try dsimp only)
  repeat' (first | with_reducible assumption | intro _ | with_reducible apply Keeps.ite | with_reducible apply Keeps.foldl | with_reducible apply Keeps.foldl_fst | with_reducible apply State.setObj_keeps | with_reducible apply State.mapPwr_keeps | with_reducible apply State.setEnv_keeps | simp only [Keeps.upd_iff] | refine Keeps.upd_regs ?_ swf_sset | refine Keeps.upd_cells ?_ swf_sset | refine Keeps.upd_shadow ?_ swf_sset | refine Keeps.upd_buf ?_ (wf_write _) | split | dsimp only)

theorem State.takeStepdn_keeps {orig s : State} (h : Keeps orig s) {env cap : Nat} {force : Bool} :
    Keeps orig (State.takeStepdn s env cap force) := by
  unfold State.takeStepdn
  (try dsimp only)
  repeat' (first | with_reducible assumption | intro _ | with_reducible apply Keeps.ite | with_reducible apply Keeps.foldl | with_reducible apply Keeps.foldl_fst | with_reducible apply State.mapPwr_keeps | with_reducible apply State.pendDown_keeps | with_reducible apply State.stageDefaults_keeps | with_reducible apply State.forceDown_keeps | simp only [Keeps.upd_iff] | refine Keeps.upd_regs ?_ swf_sset | refine Keeps.upd_cells ?_ swf_sset | refine Keeps.upd_shadow ?_ swf_sset | refine Keeps.upd_buf ?_ (wf_write _) | split | dsimp only)

theorem State.grantMargins_keeps {orig s : State} (h : Keeps orig s)  :
    Keeps orig (State.grantMargins s) := by
  unfold State.grantMargins
  (try dsimp only)
  repeat' (first | with_reducible assumption | intro _ | with_reducible apply Keeps.ite | with_reducible apply Keeps.foldl | with_reducible apply Keeps.foldl_fst | with_reducible apply State.setObj_keeps | simp only [Keeps.upd_iff] | refine Keeps.upd_regs ?_ swf_sset | refine Keeps.upd_cells ?_ swf_sset | refine Keeps.upd_shadow ?_ swf_sset | refine Keeps.upd_buf ?_ (wf_write _) | split | dsimp only)

theorem State.grantDown_keeps {orig s : State} (h : Keeps orig s)  :
    Keeps orig (State.grantDown s) := by
  unfold State.grantDown
  (try dsimp only)
  repeat' (first | with_reducible assumption | intro _ | with_reducible apply Keeps.ite | with_reducible apply Keeps.foldl | with_reducible apply Keeps.foldl_fst | with_reducible apply State.setObj_keeps | with_reducible apply State.sendGrant_keeps | with_reducible apply State.mapPwr_keeps | simp only [Keeps.upd_iff] | refine Keeps.upd_regs ?_ swf_sset | refine Keeps.upd_cells ?_ swf_sset | refine Keeps.upd_shadow ?_ swf_sset | refine Keeps.upd_buf ?_ (wf_write _) | split | dsimp only)

theorem State.endHold_keeps {orig s : State} (h : Keeps orig s) {ended : PlanCore → Bool} :
    Keeps orig (State.endHold s ended) := by
  unfold State.endHold
  (try dsimp only)
  repeat' (first | with_reducible assumption | intro _ | with_reducible apply Keeps.ite | with_reducible apply Keeps.foldl | with_reducible apply Keeps.foldl_fst | with_reducible apply State.mapPwr_keeps | simp only [Keeps.upd_iff] | refine Keeps.upd_regs ?_ swf_sset | refine Keeps.upd_cells ?_ swf_sset | refine Keeps.upd_shadow ?_ swf_sset | refine Keeps.upd_buf ?_ (wf_write _) | split | dsimp only)

theorem State.ballastFault_keeps {orig s : State} (h : Keeps orig s) {c : ChainId} {level col : Nat} {f : SumFault} :
    Keeps orig (State.ballastFault s c level col f) := by
  unfold State.ballastFault
  (try dsimp only)
  repeat' (first | with_reducible assumption | intro _ | with_reducible apply Keeps.ite | with_reducible apply Keeps.foldl | with_reducible apply Keeps.foldl_fst | with_reducible apply State.event_keeps | with_reducible apply State.offend_keeps | with_reducible apply State.capture_keeps | simp only [Keeps.upd_iff] | refine Keeps.upd_regs ?_ swf_sset | refine Keeps.upd_cells ?_ swf_sset | refine Keeps.upd_shadow ?_ swf_sset | refine Keeps.upd_buf ?_ (wf_write _) | split | dsimp only)

theorem State.ballastParity_keeps {orig s : State} (h : Keeps orig s) {c : ChainId} {level : Nat} :
    Keeps orig (State.ballastParity s c level) := by
  unfold State.ballastParity
  (try dsimp only)
  repeat' (first | with_reducible assumption | intro _ | with_reducible apply Keeps.ite | with_reducible apply Keeps.foldl | with_reducible apply Keeps.foldl_fst | with_reducible apply State.cellParity_keeps | simp only [Keeps.upd_iff] | refine Keeps.upd_regs ?_ swf_sset | refine Keeps.upd_cells ?_ swf_sset | refine Keeps.upd_shadow ?_ swf_sset | refine Keeps.upd_buf ?_ (wf_write _) | split | dsimp only)

theorem State.enterBallast_keeps {orig s : State} (h : Keeps orig s) {c : ChainId} {level : Nat} {fault : Option (Nat × SumFault)} :
    Keeps orig (State.enterBallast s c level fault) := by
  unfold State.enterBallast
  (try dsimp only)
  repeat' (first | with_reducible assumption | intro _ | with_reducible apply Keeps.ite | with_reducible apply Keeps.foldl | with_reducible apply Keeps.foldl_fst | with_reducible apply State.enter_keeps | with_reducible apply State.ballastFault_keeps | with_reducible apply State.ballastParity_keeps | simp only [Keeps.upd_iff] | refine Keeps.upd_regs ?_ swf_sset | refine Keeps.upd_cells ?_ swf_sset | refine Keeps.upd_shadow ?_ swf_sset | refine Keeps.upd_buf ?_ (wf_write _) | split | dsimp only)

theorem State.reopenRegions_keeps {orig s : State} (h : Keeps orig s)  :
    Keeps orig (State.reopenRegions s) := by
  unfold State.reopenRegions
  (try dsimp only)
  repeat' (first | with_reducible assumption | intro _ | with_reducible apply Keeps.ite | with_reducible apply Keeps.foldl | with_reducible apply Keeps.foldl_fst | simp only [Keeps.upd_iff] | refine Keeps.upd_regs ?_ swf_sset | refine Keeps.upd_cells ?_ swf_sset | refine Keeps.upd_shadow ?_ swf_sset | refine Keeps.upd_buf ?_ (wf_write _) | split | dsimp only)

theorem State.loseAll_keeps {orig s : State} (h : Keeps orig s) {f : Op → Bool} :
    Keeps orig (State.loseAll s f) := by
  unfold State.loseAll
  (try dsimp only)
  repeat' (first | with_reducible assumption | intro _ | with_reducible apply Keeps.ite | with_reducible apply Keeps.foldl | with_reducible apply Keeps.foldl_fst | with_reducible apply State.loseOps_keeps | with_reducible apply State.closeRegions_keeps | with_reducible apply State.reopenRegions_keeps | simp only [Keeps.upd_iff] | refine Keeps.upd_regs ?_ swf_sset | refine Keeps.upd_cells ?_ swf_sset | refine Keeps.upd_shadow ?_ swf_sset | refine Keeps.upd_buf ?_ (wf_write _) | split | dsimp only)

theorem State.losePower_keeps {orig s : State} (h : Keeps orig s)  :
    Keeps orig (State.losePower s) := by
  unfold State.losePower
  (try dsimp only)
  repeat' (first | with_reducible assumption | intro _ | with_reducible apply Keeps.ite | with_reducible apply Keeps.foldl | with_reducible apply Keeps.foldl_fst | with_reducible apply State.mapPwr_keeps | with_reducible apply State.loseAll_keeps | simp only [Keeps.upd_iff] | refine Keeps.upd_regs ?_ swf_sset | refine Keeps.upd_cells ?_ swf_sset | refine Keeps.upd_shadow ?_ swf_sset | refine Keeps.upd_buf ?_ (wf_write _) | split | dsimp only)

theorem State.portEvent_keeps {orig s : State} (h : Keeps orig s) {q cls sev detail : Nat} :
    Keeps orig (State.portEvent s q cls sev detail) := by
  unfold State.portEvent
  (try dsimp only)
  repeat' (first | with_reducible assumption | intro _ | with_reducible apply Keeps.ite | with_reducible apply Keeps.foldl | with_reducible apply Keeps.foldl_fst | with_reducible apply State.event_keeps | simp only [Keeps.upd_iff] | refine Keeps.upd_regs ?_ swf_sset | refine Keeps.upd_cells ?_ swf_sset | refine Keeps.upd_shadow ?_ swf_sset | refine Keeps.upd_buf ?_ (wf_write _) | split | dsimp only)

theorem State.dropFlights_keeps {orig s : State} (h : Keeps orig s) {q : Nat} :
    Keeps orig (State.dropFlights s q) := by
  unfold State.dropFlights
  (try dsimp only)
  repeat' (first | with_reducible assumption | intro _ | with_reducible apply Keeps.ite | with_reducible apply Keeps.foldl | with_reducible apply Keeps.foldl_fst | with_reducible apply Keeps.setPort | with_reducible apply Keeps.setGroup | with_reducible apply State.mapOp_keeps | simp only [Keeps.upd_iff] | refine Keeps.upd_regs ?_ swf_sset | refine Keeps.upd_cells ?_ swf_sset | refine Keeps.upd_shadow ?_ swf_sset | refine Keeps.upd_buf ?_ (wf_write _) | split | dsimp only)

theorem State.loseWork_keeps {orig s : State} (h : Keeps orig s)  :
    Keeps orig (State.loseWork s) := by
  unfold State.loseWork
  (try dsimp only)
  repeat' (first | with_reducible assumption | intro _ | with_reducible apply Keeps.ite | with_reducible apply Keeps.foldl | with_reducible apply Keeps.foldl_fst | simp only [Keeps.upd_iff] | refine Keeps.upd_regs ?_ swf_sset | refine Keeps.upd_cells ?_ swf_sset | refine Keeps.upd_shadow ?_ swf_sset | refine Keeps.upd_buf ?_ (wf_write _) | split | dsimp only)

theorem State.loseMemory_keeps {orig s : State} (h : Keeps orig s) {q : Nat} :
    Keeps orig (State.loseMemory s q) := by
  unfold State.loseMemory
  (try dsimp only)
  repeat' (first | with_reducible assumption | intro _ | with_reducible apply Keeps.ite | with_reducible apply Keeps.foldl | with_reducible apply Keeps.foldl_fst | with_reducible apply State.loseAll_keeps | simp only [Keeps.upd_iff] | refine Keeps.upd_regs ?_ swf_sset | refine Keeps.upd_cells ?_ swf_sset | refine Keeps.upd_shadow ?_ swf_sset | refine Keeps.upd_buf ?_ (wf_write _) | split | dsimp only)

theorem State.losePeers_keeps {orig s : State} (h : Keeps orig s) {p : Nat} :
    Keeps orig (State.losePeers s p) := by
  unfold State.losePeers
  (try dsimp only)
  repeat' (first | with_reducible assumption | intro _ | with_reducible apply Keeps.ite | with_reducible apply Keeps.foldl | with_reducible apply Keeps.foldl_fst | with_reducible apply State.losePosition_keeps | with_reducible apply State.loseMember_keeps | simp only [Keeps.upd_iff] | refine Keeps.upd_regs ?_ swf_sset | refine Keeps.upd_cells ?_ swf_sset | refine Keeps.upd_shadow ?_ swf_sset | refine Keeps.upd_buf ?_ (wf_write _) | split | dsimp only)

theorem State.partnerLost_keeps {orig s : State} (h : Keeps orig s) {q : Nat} :
    Keeps orig (State.partnerLost s q) := by
  unfold State.partnerLost
  (try dsimp only)
  repeat' (first | with_reducible assumption | intro _ | with_reducible apply Keeps.ite | with_reducible apply Keeps.foldl | with_reducible apply Keeps.foldl_fst | with_reducible apply State.closeRegions_keeps | with_reducible apply State.losePower_keeps | with_reducible apply State.loseWork_keeps | with_reducible apply State.loseMemory_keeps | with_reducible apply State.losePeers_keeps | simp only [Keeps.upd_iff] | refine Keeps.upd_regs ?_ swf_sset | refine Keeps.upd_cells ?_ swf_sset | refine Keeps.upd_shadow ?_ swf_sset | refine Keeps.upd_buf ?_ (wf_write _) | split | dsimp only)

theorem State.portDown_keeps {orig s : State} (h : Keeps orig s) {q st reason : Nat} {word : Bool} :
    Keeps orig (State.portDown s q st reason word) := by
  unfold State.portDown
  (try dsimp only)
  repeat' (first | with_reducible assumption | intro _ | with_reducible apply Keeps.ite | with_reducible apply Keeps.foldl | with_reducible apply Keeps.foldl_fst | with_reducible apply State.emit_keeps | with_reducible apply Keeps.setPort | with_reducible apply State.portEvent_keeps | with_reducible apply State.dropFlights_keeps | with_reducible apply State.partnerLost_keeps | simp only [Keeps.upd_iff] | refine Keeps.upd_regs ?_ swf_sset | refine Keeps.upd_cells ?_ swf_sset | refine Keeps.upd_shadow ?_ swf_sset | refine Keeps.upd_buf ?_ (wf_write _) | split | dsimp only)

theorem State.quarantinePort_keeps {orig s : State} (h : Keeps orig s) {q : Nat} {word : Bool} :
    Keeps orig (State.quarantinePort s q word) := by
  unfold State.quarantinePort
  (try dsimp only)
  repeat' (first | with_reducible assumption | intro _ | with_reducible apply Keeps.ite | with_reducible apply Keeps.foldl | with_reducible apply Keeps.foldl_fst | with_reducible apply Keeps.setPort | with_reducible apply State.portEvent_keeps | with_reducible apply State.portDown_keeps | simp only [Keeps.upd_iff] | refine Keeps.upd_regs ?_ swf_sset | refine Keeps.upd_cells ?_ swf_sset | refine Keeps.upd_shadow ?_ swf_sset | refine Keeps.upd_buf ?_ (wf_write _) | split | dsimp only)

theorem State.portFault_keeps {orig s : State} (h : Keeps orig s) {q chan kind : Nat} :
    Keeps orig (State.portFault s q chan kind) := by
  unfold State.portFault
  (try dsimp only)
  repeat' (first | with_reducible assumption | intro _ | with_reducible apply Keeps.ite | with_reducible apply Keeps.foldl | with_reducible apply Keeps.foldl_fst | with_reducible apply State.portEvent_keeps | with_reducible apply State.portDown_keeps | with_reducible apply State.quarantinePort_keeps | simp only [Keeps.upd_iff] | refine Keeps.upd_regs ?_ swf_sset | refine Keeps.upd_cells ?_ swf_sset | refine Keeps.upd_shadow ?_ swf_sset | refine Keeps.upd_buf ?_ (wf_write _) | split | dsimp only)

theorem State.overrun_keeps {orig s : State} (h : Keeps orig s) {q : Nat} :
    Keeps orig (State.overrun s q) := by
  unfold State.overrun
  (try dsimp only)
  repeat' (first | with_reducible assumption | intro _ | with_reducible apply Keeps.ite | with_reducible apply Keeps.foldl | with_reducible apply Keeps.foldl_fst | with_reducible apply State.bump_keeps | with_reducible apply State.portEvent_keeps | with_reducible apply State.quarantinePort_keeps | simp only [Keeps.upd_iff] | refine Keeps.upd_regs ?_ swf_sset | refine Keeps.upd_cells ?_ swf_sset | refine Keeps.upd_shadow ?_ swf_sset | refine Keeps.upd_buf ?_ (wf_write _) | split | dsimp only)

theorem State.beginExchange_keeps {orig s : State} (h : Keeps orig s) {q : Nat} :
    Keeps orig (State.beginExchange s q) := by
  unfold State.beginExchange
  (try dsimp only)
  repeat' (first | with_reducible assumption | intro _ | with_reducible apply Keeps.ite | with_reducible apply Keeps.foldl | with_reducible apply Keeps.foldl_fst | with_reducible apply State.emit_keeps | with_reducible apply Keeps.setPort | with_reducible apply State.portEvent_keeps | simp only [Keeps.upd_iff] | refine Keeps.upd_regs ?_ swf_sset | refine Keeps.upd_cells ?_ swf_sset | refine Keeps.upd_shadow ?_ swf_sset | refine Keeps.upd_buf ?_ (wf_write _) | split | dsimp only)

theorem State.bringPort_keeps {orig s : State} (h : Keeps orig s) {q : Nat} :
    Keeps orig (State.bringPort s q) := by
  unfold State.bringPort
  (try dsimp only)
  repeat' (first | with_reducible assumption | intro _ | with_reducible apply Keeps.ite | with_reducible apply Keeps.foldl | with_reducible apply Keeps.foldl_fst | with_reducible apply State.emit_keeps | with_reducible apply Keeps.setPort | with_reducible apply State.beginExchange_keeps | simp only [Keeps.upd_iff] | refine Keeps.upd_regs ?_ swf_sset | refine Keeps.upd_cells ?_ swf_sset | refine Keeps.upd_shadow ?_ swf_sset | refine Keeps.upd_buf ?_ (wf_write _) | split | dsimp only)

theorem State.resetPort_keeps {orig s : State} (h : Keeps orig s) {q : Nat} :
    Keeps orig (State.resetPort s q) := by
  unfold State.resetPort
  (try dsimp only)
  repeat' (first | with_reducible assumption | intro _ | with_reducible apply Keeps.ite | with_reducible apply Keeps.foldl | with_reducible apply Keeps.foldl_fst | with_reducible apply Keeps.setPort | with_reducible apply State.leaveDebug_keeps | with_reducible apply State.portEvent_keeps | with_reducible apply State.portDown_keeps | with_reducible apply State.bringPort_keeps | simp only [Keeps.upd_iff] | refine Keeps.upd_regs ?_ swf_sset | refine Keeps.upd_cells ?_ swf_sset | refine Keeps.upd_shadow ?_ swf_sset | refine Keeps.upd_buf ?_ (wf_write _) | split | dsimp only)

theorem State.failPort_keeps {orig s : State} (h : Keeps orig s) {q reason : Nat} :
    Keeps orig (State.failPort s q reason) := by
  unfold State.failPort
  (try dsimp only)
  repeat' (first | with_reducible assumption | intro _ | with_reducible apply Keeps.ite | with_reducible apply Keeps.foldl | with_reducible apply Keeps.foldl_fst | with_reducible apply State.portDown_keeps | simp only [Keeps.upd_iff] | refine Keeps.upd_regs ?_ swf_sset | refine Keeps.upd_cells ?_ swf_sset | refine Keeps.upd_shadow ?_ swf_sset | refine Keeps.upd_buf ?_ (wf_write _) | split | dsimp only)

theorem State.checkSel_keeps {orig s : State} (h : Keeps orig s) {q : Nat} :
    Keeps orig (State.checkSel s q) := by
  unfold State.checkSel
  (try dsimp only)
  repeat' (first | with_reducible assumption | intro _ | with_reducible apply Keeps.ite | with_reducible apply Keeps.foldl | with_reducible apply Keeps.foldl_fst | with_reducible apply State.giveCredits_keeps | with_reducible apply Keeps.setPort | with_reducible apply State.portEvent_keeps | with_reducible apply State.failPort_keeps | simp only [Keeps.upd_iff] | refine Keeps.upd_regs ?_ swf_sset | refine Keeps.upd_cells ?_ swf_sset | refine Keeps.upd_shadow ?_ swf_sset | refine Keeps.upd_buf ?_ (wf_write _) | split | dsimp only)

theorem State.takeCap_keeps {orig s : State} (h : Keeps orig s) {q : Nat} {w : W64} :
    Keeps orig (State.takeCap s q w) := by
  unfold State.takeCap
  (try dsimp only)
  repeat' (first | with_reducible assumption | intro _ | with_reducible apply Keeps.ite | with_reducible apply Keeps.foldl | with_reducible apply Keeps.foldl_fst | with_reducible apply State.emit_keeps | with_reducible apply Keeps.setPort | with_reducible apply State.failPort_keeps | with_reducible apply State.checkSel_keeps | simp only [Keeps.upd_iff] | refine Keeps.upd_regs ?_ swf_sset | refine Keeps.upd_cells ?_ swf_sset | refine Keeps.upd_shadow ?_ swf_sset | refine Keeps.upd_buf ?_ (wf_write _) | split | dsimp only)

theorem State.landFlights_keeps {orig s : State} (h : Keeps orig s) {fs : List Flight} :
    Keeps orig (State.landFlights s fs) := by
  unfold State.landFlights
  (try dsimp only)
  repeat' (first | with_reducible assumption | intro _ | with_reducible apply Keeps.ite | with_reducible apply Keeps.foldl | with_reducible apply Keeps.foldl_fst | with_reducible apply Keeps.setGroup | with_reducible apply State.mapOp_keeps | simp only [Keeps.upd_iff] | refine Keeps.upd_regs ?_ swf_sset | refine Keeps.upd_cells ?_ swf_sset | refine Keeps.upd_shadow ?_ swf_sset | refine Keeps.upd_buf ?_ (wf_write _) | split | dsimp only)

theorem State.takeCredits_keeps {orig s : State} (h : Keeps orig s) {q n : Nat} :
    Keeps orig (State.takeCredits s q n) := by
  unfold State.takeCredits
  (try dsimp only)
  repeat' (first | with_reducible assumption | intro _ | with_reducible apply Keeps.ite | with_reducible apply Keeps.foldl | with_reducible apply Keeps.foldl_fst | with_reducible apply Keeps.setPort | with_reducible apply State.flushPort_keeps | with_reducible apply State.landFlights_keeps | simp only [Keeps.upd_iff] | refine Keeps.upd_regs ?_ swf_sset | refine Keeps.upd_cells ?_ swf_sset | refine Keeps.upd_shadow ?_ swf_sset | refine Keeps.upd_buf ?_ (wf_write _) | split | dsimp only)

theorem State.refuse_keeps {orig s : State} (h : Keeps orig s) {d : Desc} {r : Reason} {credits : Nat} :
    Keeps orig (State.refuse s d r credits) := by
  unfold State.refuse
  (try dsimp only)
  repeat' (first | with_reducible assumption | intro _ | with_reducible apply Keeps.ite | with_reducible apply Keeps.foldl | with_reducible apply Keeps.foldl_fst | with_reducible apply State.respond_keeps | simp only [Keeps.upd_iff] | refine Keeps.upd_regs ?_ swf_sset | refine Keeps.upd_cells ?_ swf_sset | refine Keeps.upd_shadow ?_ swf_sset | refine Keeps.upd_buf ?_ (wf_write _) | split | dsimp only)

theorem State.refuseOwn_keeps {orig s : State} (h : Keeps orig s) {d : Desc} {rolled : Option Desc} :
    Keeps orig (State.refuseOwn s d rolled) := by
  unfold State.refuseOwn
  (try dsimp only)
  repeat' (first | with_reducible assumption | intro _ | with_reducible apply Keeps.ite | with_reducible apply Keeps.foldl | with_reducible apply Keeps.foldl_fst | with_reducible apply State.refuse_keeps | simp only [Keeps.upd_iff] | refine Keeps.upd_regs ?_ swf_sset | refine Keeps.upd_cells ?_ swf_sset | refine Keeps.upd_shadow ?_ swf_sset | refine Keeps.upd_buf ?_ (wf_write _) | split | dsimp only)

theorem State.trial_keeps {orig s : State} (h : Keeps orig s) {k : OpK} {d : Desc} {rolled : Option Nat} {rd : Option Desc} :
    Keeps orig (State.trial s k d rolled rd) := by
  unfold State.trial
  (try dsimp only)
  repeat' (first | with_reducible assumption | intro _ | with_reducible apply Keeps.ite | with_reducible apply Keeps.foldl | with_reducible apply Keeps.foldl_fst | with_reducible apply State.enterOp_keeps | simp only [Keeps.upd_iff] | refine Keeps.upd_regs ?_ swf_sset | refine Keeps.upd_cells ?_ swf_sset | refine Keeps.upd_shadow ?_ swf_sset | refine Keeps.upd_buf ?_ (wf_write _) | split | dsimp only)

theorem State.refuseGroup_keeps {orig s : State} (h : Keeps orig s) {lead : Desc} {r : Reason} {credits : Nat} {comps : List (Desc × Option Reason)} :
    Keeps orig (State.refuseGroup s lead r credits comps) := by
  unfold State.refuseGroup
  (try dsimp only)
  repeat' (first | with_reducible assumption | intro _ | with_reducible apply Keeps.ite | with_reducible apply Keeps.foldl | with_reducible apply Keeps.foldl_fst | with_reducible apply State.refuse_keeps | simp only [Keeps.upd_iff] | refine Keeps.upd_regs ?_ swf_sset | refine Keeps.upd_cells ?_ swf_sset | refine Keeps.upd_shadow ?_ swf_sset | refine Keeps.upd_buf ?_ (wf_write _) | split | dsimp only)

theorem State.afterAccept_keeps {orig s : State} (h : Keeps orig s) {k : OpK} {d : Desc} {id : Nat} {discard : Option Nat} :
    Keeps orig (State.afterAccept s k d id discard) := by
  unfold State.afterAccept
  (try dsimp only)
  repeat' (first | with_reducible assumption | intro _ | with_reducible apply Keeps.ite | with_reducible apply Keeps.foldl | with_reducible apply Keeps.foldl_fst | with_reducible apply State.finishOp_keeps | with_reducible apply State.closeRegions_keeps | with_reducible apply State.dropWaiting_keeps | with_reducible apply State.fenceSends_keeps | with_reducible apply State.sendRevokes_keeps | with_reducible apply State.squashSends_keeps | with_reducible apply State.dropWaiting_keeps | simp only [Keeps.upd_iff] | refine Keeps.upd_regs ?_ swf_sset | refine Keeps.upd_cells ?_ swf_sset | refine Keeps.upd_shadow ?_ swf_sset | refine Keeps.upd_buf ?_ (wf_write _) | split | dsimp only)

/-- What follows a planned reroll comes from the state that it was planned in. -/
theorem State.planReroll_keeps {orig s : State} (h : Keeps orig s) {o : Op} {d2 : Desc} {b : Nat} {t : State}
    (e : s.planReroll o d2 b = some t) : Keeps orig t := by
  unfold State.planReroll at e
  dsimp only at e
  split at e
  · cases e
  · split at e
    · cases e
    · cases e
      exact State.enterOp_keeps h

/-- What follows a plan comes from the state that it was made in. -/
theorem State.plan_keeps {orig s : State} (h : Keeps orig s) {k : OpK} {d : Desc} {form : Bool} {rolled : Option Nat}
    {rd : Option Desc} {b : Nat} {p : Plan} (e : s.plan k d form rolled rd b = some p) : Keeps orig p.after := by
  unfold State.plan at e
  dsimp only at e
  split at e
  · cases e
  · obtain ⟨pr, -, e⟩ := Option.bind_eq_some_iff.mp e
    split at e
    · obtain ⟨t, ht, rfl⟩ := Option.map_eq_some_iff.mp e
      obtain ⟨d2, -, hd⟩ := List.exists_of_findSome?_eq_some ht
      exact State.planReroll_keeps (State.enterOp_keeps h) hd
    · cases e
      exact State.enterOp_keeps h

/-- The plan of the form chosen. -/
theorem State.chooseForm_keeps {orig s : State} (h : Keeps orig s) {k : OpK} {lead : Desc} {alt : Option Desc} {b : Nat} {p : Plan}
    (e : (s.chooseForm k lead alt b).2 = some p) : Keeps orig p.after := by
  unfold State.chooseForm at e
  dsimp only at e
  split at e
  · exact State.plan_keeps h e
  · split at e
    · exact State.plan_keeps h e
    · split at e
      · exact State.plan_keeps h e
      · split at e
        · exact State.plan_keeps h e
        · exact State.plan_keeps h e
        · split at e
          · exact State.plan_keeps h e
          · exact State.plan_keeps h e

/-- The plans of companions. -/
theorem planComps_keeps {orig : State} {id : Nat} {run : Desc} {cs : List Desc} :
    ∀ {s : Option State}, (∀ t, s = some t → Keeps orig t) → ∀ x ∈ planComps id run s cs, ∀ p, x.2 = some p → Keeps orig p.after := by
  induction cs with
  | nil => simp [planComps]
  | cons c r ih =>
    rintro (_ | t) hs
    · exact List.forall_mem_cons.mpr ⟨(fun _ e => by cases e), ih (fun _ e => by cases e)⟩
    · have ht : ∀ y, t.plan .drain c false (some id) (some run) 0 = some y → Keeps orig y.after :=
        fun _ e => State.plan_keeps (hs t rfl) e
      exact List.forall_mem_cons.mpr ⟨ht, ih fun u e =>
        (Option.map_eq_some_iff.mp e).elim fun y hy => hy.2 ▸ ht y hy.1⟩

/-- All of a list of optional values are some of them. -/
theorem mem_allSome {α : Type} {l : List (Option α)} {r : List α} (e : allSome l = some r) : ∀ x ∈ r, some x ∈ l := by
  unfold allSome at e
  split at e
  · cases e; simp
  · cases e

theorem State.acceptGroup_keeps {orig s : State} {k : OpK} {lead : Desc} {credits : Nat} {p : Plan} {cs : List Plan}
    (hp : Keeps orig p.after) (hc : ∀ c ∈ cs, Keeps orig c.after) : Keeps orig (s.acceptGroup k lead credits p cs) := by
  have h1 : Keeps orig ((cs.getLast?).getD p).after := by
    cases e : cs.getLast? with
    | none => exact hp
    | some c => exact hc c (List.mem_of_getLast? e)
  unfold State.acceptGroup
  dsimp only
  exact State.afterAccept_keeps (Keeps.foldl (fun s b hs => State.respond_keeps hs) (State.respond_keeps (State.mapOp_keeps h1)))

theorem State.refuseWindows_keeps {orig s : State} (h : Keeps orig s) {ws : List (Desc × Nat × Option Nat)} :
    Keeps orig (State.refuseWindows s ws) := by
  unfold State.refuseWindows
  (try dsimp only)
  repeat' (first | with_reducible assumption | intro _ | with_reducible apply Keeps.ite | with_reducible apply Keeps.foldl | with_reducible apply Keeps.foldl_fst | with_reducible apply State.respond_keeps | simp only [Keeps.upd_iff] | refine Keeps.upd_regs ?_ swf_sset | refine Keeps.upd_cells ?_ swf_sset | refine Keeps.upd_shadow ?_ swf_sset | refine Keeps.upd_buf ?_ (wf_write _) | split | dsimp only)

theorem State.admitGroup_keeps {orig s : State} (h : Keeps orig s) {lead : Desc} {alt : Option Desc} {comps : List Desc} :
    Keeps orig (s.admitGroup lead alt comps) := by
  unfold State.admitGroup
  dsimp only
  split
  · exact State.refuseGroup_keeps h
  · split
    · exact State.refuseGroup_keeps h
    · split
      · next p ps e1 e2 =>
        split
        · have hp := State.chooseForm_keeps h e1
          refine State.acceptGroup_keeps hp (fun c hcm => ?_)
          obtain ⟨x, hx, e⟩ := List.mem_map.mp (mem_allSome e2 c hcm)
          refine planComps_keeps (fun t et => ?_) x hx c e
          obtain ⟨y, hy, rfl⟩ := Option.map_eq_some_iff.mp et
          exact State.chooseForm_keeps h hy
        · exact State.refuseWindows_keeps h
      · exact State.refuseWindows_keeps h

theorem State.startDesc_keeps {orig s : State} (h : Keeps orig s) {d : Desc} :
    Keeps orig (State.startDesc s d) := by
  unfold State.startDesc
  (try dsimp only)
  repeat' (first | with_reducible assumption | intro _ | with_reducible apply Keeps.ite | with_reducible apply Keeps.foldl | with_reducible apply Keeps.foldl_fst | with_reducible apply State.refuse_keeps | with_reducible apply State.admitGroup_keeps | simp only [Keeps.upd_iff] | refine Keeps.upd_regs ?_ swf_sset | refine Keeps.upd_cells ?_ swf_sset | refine Keeps.upd_shadow ?_ swf_sset | refine Keeps.upd_buf ?_ (wf_write _) | split | dsimp only)

theorem State.unhold_keeps {orig s : State} (h : Keeps orig s)  :
    Keeps orig (State.unhold s) := by
  unfold State.unhold
  (try dsimp only)
  repeat' (first | with_reducible assumption | intro _ | with_reducible apply Keeps.ite | with_reducible apply Keeps.foldl | with_reducible apply Keeps.foldl_fst | simp only [Keeps.upd_iff] | refine Keeps.upd_regs ?_ swf_sset | refine Keeps.upd_cells ?_ swf_sset | refine Keeps.upd_shadow ?_ swf_sset | refine Keeps.upd_buf ?_ (wf_write _) | split | dsimp only)

theorem State.noAlt_keeps {orig s : State} (h : Keeps orig s) {lead d : Desc} :
    Keeps orig (State.noAlt s lead d) := by
  unfold State.noAlt
  (try dsimp only)
  repeat' (first | with_reducible assumption | intro _ | with_reducible apply Keeps.ite | with_reducible apply Keeps.foldl | with_reducible apply Keeps.foldl_fst | with_reducible apply State.refuse_keeps | with_reducible apply State.refuseOwn_keeps | with_reducible apply State.startDesc_keeps | with_reducible apply State.unhold_keeps | simp only [Keeps.upd_iff] | refine Keeps.upd_regs ?_ swf_sset | refine Keeps.upd_cells ?_ swf_sset | refine Keeps.upd_shadow ?_ swf_sset | refine Keeps.upd_buf ?_ (wf_write _) | split | dsimp only)

theorem State.noCompanion_keeps {orig s : State} (h : Keeps orig s) {lead : Desc} {alt : Option Desc} {comps : List Desc} {d : Desc} :
    Keeps orig (State.noCompanion s lead alt comps d) := by
  unfold State.noCompanion
  (try dsimp only)
  repeat' (first | with_reducible assumption | intro _ | with_reducible apply Keeps.ite | with_reducible apply Keeps.foldl | with_reducible apply Keeps.foldl_fst | with_reducible apply State.refuse_keeps | with_reducible apply State.refuseOwn_keeps | with_reducible apply State.unhold_keeps | simp only [Keeps.upd_iff] | refine Keeps.upd_regs ?_ swf_sset | refine Keeps.upd_cells ?_ swf_sset | refine Keeps.upd_shadow ?_ swf_sset | refine Keeps.upd_buf ?_ (wf_write _) | split | dsimp only)

theorem State.nextDesc_keeps {orig s : State} (h : Keeps orig s) {held : List Desc} {d : Desc} :
    Keeps orig (State.nextDesc s held d) := by
  unfold State.nextDesc
  (try dsimp only)
  repeat' (first | with_reducible assumption | intro _ | with_reducible apply Keeps.ite | with_reducible apply Keeps.foldl | with_reducible apply Keeps.foldl_fst | with_reducible apply State.admitGroup_keeps | with_reducible apply State.startDesc_keeps | with_reducible apply State.unhold_keeps | with_reducible apply State.noAlt_keeps | with_reducible apply State.noCompanion_keeps | simp only [Keeps.upd_iff] | refine Keeps.upd_regs ?_ swf_sset | refine Keeps.upd_cells ?_ swf_sset | refine Keeps.upd_shadow ?_ swf_sset | refine Keeps.upd_buf ?_ (wf_write _) | split | dsimp only)

theorem State.receive_keeps {orig s : State} (h : Keeps orig s) {d : Desc} :
    Keeps orig (State.receive s d) := by
  unfold State.receive
  (try dsimp only)
  repeat' (first | with_reducible assumption | intro _ | with_reducible apply Keeps.ite | with_reducible apply Keeps.foldl | with_reducible apply Keeps.foldl_fst | with_reducible apply State.overrun_keeps | with_reducible apply State.nextDesc_keeps | simp only [Keeps.upd_iff] | refine Keeps.upd_regs ?_ swf_sset | refine Keeps.upd_cells ?_ swf_sset | refine Keeps.upd_shadow ?_ swf_sset | refine Keeps.upd_buf ?_ (wf_write _) | split | dsimp only)

theorem State.admitWaiting_keeps {orig : State}  {n : Nat} : ∀ {s : State}, Keeps orig s → Keeps orig (State.admitWaiting s n) := by
  induction n with
  | zero => intro s h; unfold State.admitWaiting; exact h
  | succ k ih =>
    intro s h
    unfold State.admitWaiting
    (try dsimp only)
    repeat' (first | with_reducible assumption | intro _ | with_reducible apply Keeps.ite | with_reducible apply ih | with_reducible apply Keeps.foldl | with_reducible apply Keeps.foldl_fst | with_reducible apply State.nextDesc_keeps | simp only [Keeps.upd_iff] | refine Keeps.upd_regs ?_ swf_sset | refine Keeps.upd_cells ?_ swf_sset | refine Keeps.upd_shadow ?_ swf_sset | refine Keeps.upd_buf ?_ (wf_write _) | split | dsimp only)

theorem State.arrange_keeps {orig s : State} (h : Keeps orig s) {o : Op} {c : Nat} :
    Keeps orig (State.arrange s o c) := by
  unfold State.arrange
  (try dsimp only)
  repeat' (first | with_reducible assumption | intro _ | with_reducible apply Keeps.ite | with_reducible apply Keeps.foldl | with_reducible apply Keeps.foldl_fst | with_reducible apply Keeps.setCore | simp only [Keeps.upd_iff] | refine Keeps.upd_regs ?_ swf_sset | refine Keeps.upd_cells ?_ swf_sset | refine Keeps.upd_shadow ?_ swf_sset | refine Keeps.upd_buf ?_ (wf_write _) | split | dsimp only)

theorem State.requestImage_keeps {orig s : State} (h : Keeps orig s) {id : Nat} :
    Keeps orig (State.requestImage s id) := by
  unfold State.requestImage
  (try dsimp only)
  repeat' (first | with_reducible assumption | intro _ | with_reducible apply Keeps.ite | with_reducible apply Keeps.foldl | with_reducible apply Keeps.foldl_fst | with_reducible apply State.emit_keeps | simp only [Keeps.upd_iff] | refine Keeps.upd_regs ?_ swf_sset | refine Keeps.upd_cells ?_ swf_sset | refine Keeps.upd_shadow ?_ swf_sset | refine Keeps.upd_buf ?_ (wf_write _) | split | dsimp only)

theorem State.startGroup_keeps {orig s : State} (h : Keeps orig s) {o : Op} :
    Keeps orig (State.startGroup s o) := by
  unfold State.startGroup
  (try dsimp only)
  repeat' (first | with_reducible assumption | intro _ | with_reducible apply Keeps.ite | with_reducible apply Keeps.foldl | with_reducible apply Keeps.foldl_fst | with_reducible apply State.addJob_keeps | with_reducible apply State.checkComplete_keeps | simp only [Keeps.upd_iff] | refine Keeps.upd_regs ?_ swf_sset | refine Keeps.upd_cells ?_ swf_sset | refine Keeps.upd_shadow ?_ swf_sset | refine Keeps.upd_buf ?_ (wf_write _) | split | dsimp only)

theorem State.startOp_keeps {orig s : State} (h : Keeps orig s) {o : Op} :
    Keeps orig (State.startOp s o) := by
  unfold State.startOp
  (try dsimp only)
  repeat' (first | with_reducible assumption | intro _ | with_reducible apply Keeps.ite | with_reducible apply Keeps.foldl | with_reducible apply Keeps.foldl_fst | with_reducible apply State.mapOp_keeps | with_reducible apply State.requestAll_keeps | with_reducible apply State.seedReroll_keeps | with_reducible apply State.arrange_keeps | with_reducible apply State.requestImage_keeps | with_reducible apply State.startGroup_keeps | simp only [Keeps.upd_iff] | refine Keeps.upd_regs ?_ swf_sset | refine Keeps.upd_cells ?_ swf_sset | refine Keeps.upd_shadow ?_ swf_sset | refine Keeps.upd_buf ?_ (wf_write _) | split | dsimp only)

theorem State.eccEvent_keeps {orig s : State} (h : Keeps orig s) {q : Nat} {tenant : Option Nat} {line : Nat} {ecc : Nat} :
    Keeps orig (State.eccEvent s q tenant line ecc) := by
  unfold State.eccEvent
  (try dsimp only)
  repeat' (first | with_reducible assumption | intro _ | with_reducible apply Keeps.ite | with_reducible apply Keeps.foldl | with_reducible apply Keeps.foldl_fst | with_reducible apply State.bump_keeps | with_reducible apply State.event_keeps | simp only [Keeps.upd_iff] | refine Keeps.upd_regs ?_ swf_sset | refine Keeps.upd_cells ?_ swf_sset | refine Keeps.upd_shadow ?_ swf_sset | refine Keeps.upd_buf ?_ (wf_write _) | split | dsimp only)

theorem State.landLine_keeps {orig s : State} (h : Keeps orig s) {o : Op} {r : ReadReq} {l : ReadLine} :
    Keeps orig (State.landLine s o r l) := by
  unfold State.landLine
  (try dsimp only)
  repeat' (first | with_reducible assumption | intro _ | with_reducible apply Keeps.ite | with_reducible apply Keeps.foldl | with_reducible apply Keeps.foldl_fst | with_reducible apply State.giveCredits_keeps | with_reducible apply State.mapOp_keeps | simp only [Keeps.upd_iff] | refine Keeps.upd_regs ?_ swf_sset | refine Keeps.upd_cells ?_ swf_sset | refine Keeps.upd_shadow ?_ swf_sset | refine Keeps.upd_buf ?_ (wf_write _) | split | dsimp only)

theorem State.advanceRead_keeps {orig s : State} (h : Keeps orig s) {r : ReadReq} :
    Keeps orig (State.advanceRead s r) := by
  unfold State.advanceRead
  (try dsimp only)
  repeat' (first | with_reducible assumption | intro _ | with_reducible apply Keeps.ite | with_reducible apply Keeps.foldl | with_reducible apply Keeps.foldl_fst | simp only [Keeps.upd_iff] | refine Keeps.upd_regs ?_ swf_sset | refine Keeps.upd_cells ?_ swf_sset | refine Keeps.upd_shadow ?_ swf_sset | refine Keeps.upd_buf ?_ (wf_write _) | split | dsimp only)

theorem State.takeLine_keeps {orig s : State} (h : Keeps orig s) {q tag : Nat} {l : ReadLine} :
    Keeps orig (State.takeLine s q tag l) := by
  unfold State.takeLine
  (try dsimp only)
  repeat' (first | with_reducible assumption | intro _ | with_reducible apply Keeps.ite | with_reducible apply Keeps.foldl | with_reducible apply Keeps.foldl_fst | with_reducible apply State.giveCredits_keeps | with_reducible apply State.eccEvent_keeps | with_reducible apply State.landLine_keeps | with_reducible apply State.advanceRead_keeps | simp only [Keeps.upd_iff] | refine Keeps.upd_regs ?_ swf_sset | refine Keeps.upd_cells ?_ swf_sset | refine Keeps.upd_shadow ?_ swf_sset | refine Keeps.upd_buf ?_ (wf_write _) | split | dsimp only)

end Sys2Proof.Machine
end

