-- ==== Sys2Proof/Laws/KeepBoot.lean ====
section
/-! SUPPORT. The operations of Contain, Crypto, Trust, Boot, Cascade keep a good state good, the queue and the configuration. -/

namespace Sys2Proof.Machine

theorem State.forgive_keeps {orig s : State} (h : Keeps orig s) {u : HwUnit} :
    Keeps orig (State.forgive s u) := by
  unfold State.forgive
  (try dsimp only)
  repeat' (first | with_reducible assumption | intro _ | with_reducible apply Keeps.ite | with_reducible apply Keeps.foldl | with_reducible apply Keeps.foldl_fst | with_reducible apply State.setObj_keeps | simp only [Keeps.upd_iff] | refine Keeps.upd_regs ?_ swf_sset | refine Keeps.upd_cells ?_ swf_sset | refine Keeps.upd_shadow ?_ swf_sset | refine Keeps.upd_buf ?_ (wf_write _) | split | dsimp only)

theorem State.heal_keeps {orig s : State} (h : Keeps orig s) {u : HwUnit} :
    Keeps orig (State.heal s u) := by
  unfold State.heal
  (try dsimp only)
  repeat' (first | with_reducible assumption | intro _ | with_reducible apply Keeps.ite | with_reducible apply Keeps.foldl | with_reducible apply Keeps.foldl_fst | with_reducible apply State.setObj_keeps | simp only [Keeps.upd_iff] | refine Keeps.upd_regs ?_ swf_sset | refine Keeps.upd_cells ?_ swf_sset | refine Keeps.upd_shadow ?_ swf_sset | refine Keeps.upd_buf ?_ (wf_write _) | split | dsimp only)

theorem State.askOffset_keeps {orig s : State} (h : Keeps orig s) {c o : Nat} :
    Keeps orig (State.askOffset s c o) := by
  unfold State.askOffset
  (try dsimp only)
  repeat' (first | with_reducible assumption | intro _ | with_reducible apply Keeps.ite | with_reducible apply Keeps.foldl | with_reducible apply Keeps.foldl_fst | with_reducible apply State.sendVofs_keeps | with_reducible apply State.mapPwr_keeps | simp only [Keeps.upd_iff] | refine Keeps.upd_regs ?_ swf_sset | refine Keeps.upd_cells ?_ swf_sset | refine Keeps.upd_shadow ?_ swf_sset | refine Keeps.upd_buf ?_ (wf_write _) | split | dsimp only)

theorem State.raiseOffset_keeps {orig s : State} (h : Keeps orig s) {c o : Nat} :
    Keeps orig (State.raiseOffset s c o) := by
  unfold State.raiseOffset
  (try dsimp only)
  repeat' (first | with_reducible assumption | intro _ | with_reducible apply Keeps.ite | with_reducible apply Keeps.foldl | with_reducible apply Keeps.foldl_fst | with_reducible apply State.remedyEvent_keeps | with_reducible apply State.nextMargin_keeps | with_reducible apply State.askOffset_keeps | simp only [Keeps.upd_iff] | refine Keeps.upd_regs ?_ swf_sset | refine Keeps.upd_cells ?_ swf_sset | refine Keeps.upd_shadow ?_ swf_sset | refine Keeps.upd_buf ?_ (wf_write _) | split | dsimp only)

theorem State.remedy_keeps {orig s : State} (h : Keeps orig s) {c : Nat} :
    Keeps orig (State.remedy s c) := by
  unfold State.remedy
  (try dsimp only)
  repeat' (first | with_reducible assumption | intro _ | with_reducible apply Keeps.ite | with_reducible apply Keeps.foldl | with_reducible apply Keeps.foldl_fst | with_reducible apply State.noRemedy_keeps | with_reducible apply State.nextMargin_keeps | with_reducible apply State.raiseOffset_keeps | simp only [Keeps.upd_iff] | refine Keeps.upd_regs ?_ swf_sset | refine Keeps.upd_cells ?_ swf_sset | refine Keeps.upd_shadow ?_ swf_sset | refine Keeps.upd_buf ?_ (wf_write _) | split | dsimp only)

theorem State.pendMap_keeps {orig s : State} (h : Keeps orig s) {n v : Nat} :
    Keeps orig (State.pendMap s n v) := by
  unfold State.pendMap
  (try dsimp only)
  repeat' (first | with_reducible assumption | intro _ | with_reducible apply Keeps.ite | with_reducible apply Keeps.foldl | with_reducible apply Keeps.foldl_fst | with_reducible apply State.setObj_keeps | with_reducible apply State.event_keeps | simp only [Keeps.upd_iff] | refine Keeps.upd_regs ?_ swf_sset | refine Keeps.upd_cells ?_ swf_sset | refine Keeps.upd_shadow ?_ swf_sset | refine Keeps.upd_buf ?_ (wf_write _) | split | dsimp only)

theorem State.clearTile_keeps {orig s : State} (h : Keeps orig s) {n : Nat} : Keeps orig (s.clearTile n) := by
  refine (State.endRanges_keeps (f := fun r => r.onTiles [⟨n, 0⟩]) h).trans ⟨rfl, rfl, fun g => ?_, Or.inl rfl, List.prefix_rfl⟩
  obtain ⟨⟨b, r, t, c, sh, co, ch, p, sp, gr⟩, e⟩ := good_iff.mp g
  exact good_iff.mpr ⟨⟨b, swf_filter r, swf_filter t, c, sh, co, ch, p, sp, gr⟩, e⟩

theorem State.setMap_keeps {orig s : State} (h : Keeps orig s) {n v : Nat} :
    Keeps orig (State.setMap s n v) := by
  unfold State.setMap
  (try dsimp only)
  repeat' (first | with_reducible assumption | intro _ | with_reducible apply Keeps.ite | with_reducible apply Keeps.foldl | with_reducible apply Keeps.foldl_fst | with_reducible apply State.setObj_keeps | with_reducible apply State.clearWeights_keeps | with_reducible apply State.clearTile_keeps | simp only [Keeps.upd_iff] | refine Keeps.upd_regs ?_ swf_sset | refine Keeps.upd_cells ?_ swf_sset | refine Keeps.upd_shadow ?_ swf_sset | refine Keeps.upd_buf ?_ (wf_write _) | split | dsimp only)

theorem State.applyMap_keeps {orig s : State} (h : Keeps orig s) {n : Nat} :
    Keeps orig (State.applyMap s n) := by
  unfold State.applyMap
  (try dsimp only)
  repeat' (first | with_reducible assumption | intro _ | with_reducible apply Keeps.ite | with_reducible apply Keeps.foldl | with_reducible apply Keeps.foldl_fst | with_reducible apply State.setMap_keeps | simp only [Keeps.upd_iff] | refine Keeps.upd_regs ?_ swf_sset | refine Keeps.upd_cells ?_ swf_sset | refine Keeps.upd_shadow ?_ swf_sset | refine Keeps.upd_buf ?_ (wf_write _) | split | dsimp only)

theorem State.forceMap_keeps {orig s : State} (h : Keeps orig s) {n v : Nat} :
    Keeps orig (State.forceMap s n v).1 := by
  unfold State.forceMap
  (try dsimp only)
  repeat' (first | with_reducible assumption | intro _ | with_reducible apply Keeps.ite | with_reducible apply Keeps.foldl | with_reducible apply Keeps.foldl_fst | with_reducible apply State.setObj_keeps | with_reducible apply State.setMap_keeps | simp only [Keeps.upd_iff] | refine Keeps.upd_regs ?_ swf_sset | refine Keeps.upd_cells ?_ swf_sset | refine Keeps.upd_shadow ?_ swf_sset | refine Keeps.upd_buf ?_ (wf_write _) | split | dsimp only)

theorem State.pendTest_keeps {orig s : State} (h : Keeps orig s) {c : Nat} {rel : Option Nat} {byPrio : Bool} :
    Keeps orig (State.pendTest s c rel byPrio) := by
  unfold State.pendTest
  (try dsimp only)
  repeat' (first | with_reducible assumption | intro _ | with_reducible apply Keeps.ite | with_reducible apply Keeps.foldl | with_reducible apply Keeps.foldl_fst | with_reducible apply State.refreshCores_keeps | simp only [Keeps.upd_iff] | refine Keeps.upd_regs ?_ swf_sset | refine Keeps.upd_cells ?_ swf_sset | refine Keeps.upd_shadow ?_ swf_sset | refine Keeps.upd_buf ?_ (wf_write _) | split | dsimp only)

theorem State.rotate_keeps {orig s : State} (h : Keeps orig s)  :
    Keeps orig (State.rotate s) := by
  unfold State.rotate
  (try dsimp only)
  repeat' (first | with_reducible assumption | intro _ | with_reducible apply Keeps.ite | with_reducible apply Keeps.foldl | with_reducible apply Keeps.foldl_fst | with_reducible apply State.pendTest_keeps | simp only [Keeps.upd_iff] | refine Keeps.upd_regs ?_ swf_sset | refine Keeps.upd_cells ?_ swf_sset | refine Keeps.upd_shadow ?_ swf_sset | refine Keeps.upd_buf ?_ (wf_write _) | split | dsimp only)

theorem State.switchSlot_keeps {orig s : State} (h : Keeps orig s) {kind : Nat} :
    Keeps orig (State.switchSlot s kind) := by
  unfold State.switchSlot
  (try dsimp only)
  repeat' (first | with_reducible assumption | intro _ | with_reducible apply Keeps.ite | with_reducible apply Keeps.foldl | with_reducible apply Keeps.foldl_fst | with_reducible apply State.setObj_keeps | simp only [Keeps.upd_iff] | refine Keeps.upd_regs ?_ swf_sset | refine Keeps.upd_cells ?_ swf_sset | refine Keeps.upd_shadow ?_ swf_sset | refine Keeps.upd_buf ?_ (wf_write _) | split | dsimp only)

theorem State.takeNewer_keeps {orig s : State} (h : Keeps orig s) {kind : Nat} :
    Keeps orig (State.takeNewer s kind) := by
  unfold State.takeNewer
  (try dsimp only)
  repeat' (first | with_reducible assumption | intro _ | with_reducible apply Keeps.ite | with_reducible apply Keeps.foldl | with_reducible apply Keeps.foldl_fst | with_reducible apply State.switchSlot_keeps | simp only [Keeps.upd_iff] | refine Keeps.upd_regs ?_ swf_sset | refine Keeps.upd_cells ?_ swf_sset | refine Keeps.upd_shadow ?_ swf_sset | refine Keeps.upd_buf ?_ (wf_write _) | split | dsimp only)

theorem State.poisonRows_keeps {orig s : State} (h : Keeps orig s) {core : Nat} {rows : List (Nat × Nat)} :
    Keeps orig (State.poisonRows s core rows) := by
  unfold State.poisonRows
  (try dsimp only)
  repeat' (first | with_reducible assumption | intro _ | with_reducible apply Keeps.ite | with_reducible apply Keeps.foldl | with_reducible apply Keeps.foldl_fst | with_reducible apply State.mapRegs_keeps | simp only [Keeps.upd_iff] | refine Keeps.upd_regs ?_ swf_sset | refine Keeps.upd_cells ?_ swf_sset | refine Keeps.upd_shadow ?_ swf_sset | refine Keeps.upd_buf ?_ (wf_write _) | split | dsimp only)

theorem State.failEvent_keeps {orig s : State} (h : Keeps orig s) {core : Nat} {f : DeckFail} :
    Keeps orig (State.failEvent s core f) := by
  unfold State.failEvent
  (try dsimp only)
  repeat' (first | with_reducible assumption | intro _ | with_reducible apply Keeps.ite | with_reducible apply Keeps.foldl | with_reducible apply Keeps.foldl_fst | with_reducible apply State.event_keeps | simp only [Keeps.upd_iff] | refine Keeps.upd_regs ?_ swf_sset | refine Keeps.upd_cells ?_ swf_sset | refine Keeps.upd_shadow ?_ swf_sset | refine Keeps.upd_buf ?_ (wf_write _) | split | dsimp only)

theorem State.passEvent_keeps {orig s : State} (h : Keeps orig s) {core : Nat} :
    Keeps orig (State.passEvent s core) := by
  unfold State.passEvent
  (try dsimp only)
  repeat' (first | with_reducible assumption | intro _ | with_reducible apply Keeps.ite | with_reducible apply Keeps.foldl | with_reducible apply Keeps.foldl_fst | with_reducible apply State.event_keeps | simp only [Keeps.upd_iff] | refine Keeps.upd_regs ?_ swf_sset | refine Keeps.upd_cells ?_ swf_sset | refine Keeps.upd_shadow ?_ swf_sset | refine Keeps.upd_buf ?_ (wf_write _) | split | dsimp only)

theorem State.chargeDeck_keeps {orig s : State} (h : Keeps orig s) {u : HwUnit} :
    Keeps orig (State.chargeDeck s u) := by
  unfold State.chargeDeck
  (try dsimp only)
  repeat' (first | with_reducible assumption | intro _ | with_reducible apply Keeps.ite | with_reducible apply Keeps.foldl | with_reducible apply Keeps.foldl_fst | with_reducible apply State.setObj_keeps | with_reducible apply State.event_keeps | with_reducible apply State.priorityTest_keeps | with_reducible apply State.noteOffence_keeps | simp only [Keeps.upd_iff] | refine Keeps.upd_regs ?_ swf_sset | refine Keeps.upd_cells ?_ swf_sset | refine Keeps.upd_shadow ?_ swf_sset | refine Keeps.upd_buf ?_ (wf_write _) | split | dsimp only)

theorem State.deckFails_keeps {orig s : State} (h : Keeps orig s) {core : Nat} {f : DeckFail} :
    Keeps orig (State.deckFails s core f) := by
  unfold State.deckFails
  (try dsimp only)
  repeat' (first | with_reducible assumption | intro _ | with_reducible apply Keeps.ite | with_reducible apply Keeps.foldl | with_reducible apply Keeps.foldl_fst | with_reducible apply State.pendQuarantine_keeps | with_reducible apply State.loseOps_keeps | with_reducible apply State.scrambleCore_keeps | with_reducible apply State.quarCore_keeps | with_reducible apply State.forgive_keeps | with_reducible apply State.pendMap_keeps | with_reducible apply State.poisonRows_keeps | with_reducible apply State.failEvent_keeps | with_reducible apply State.chargeDeck_keeps | simp only [Keeps.upd_iff] | refine Keeps.upd_regs ?_ swf_sset | refine Keeps.upd_cells ?_ swf_sset | refine Keeps.upd_shadow ?_ swf_sset | refine Keeps.upd_buf ?_ (wf_write _) | split | dsimp only)

theorem State.testPassed_keeps {orig s : State} (h : Keeps orig s) {core : Nat} :
    Keeps orig (State.testPassed s core) := by
  unfold State.testPassed
  (try dsimp only)
  repeat' (first | with_reducible assumption | intro _ | with_reducible apply Keeps.ite | with_reducible apply Keeps.foldl | with_reducible apply Keeps.foldl_fst | with_reducible apply State.heal_keeps | with_reducible apply State.passEvent_keeps | simp only [Keeps.upd_iff] | refine Keeps.upd_regs ?_ swf_sset | refine Keeps.upd_cells ?_ swf_sset | refine Keeps.upd_shadow ?_ swf_sset | refine Keeps.upd_buf ?_ (wf_write _) | split | dsimp only)

theorem State.deckPasses_keeps {orig s : State} (h : Keeps orig s) {core : Nat} {byPrio : Bool} :
    Keeps orig (State.deckPasses s core byPrio) := by
  unfold State.deckPasses
  (try dsimp only)
  repeat' (first | with_reducible assumption | intro _ | with_reducible apply Keeps.ite | with_reducible apply Keeps.foldl | with_reducible apply Keeps.foldl_fst | with_reducible apply State.remedy_keeps | with_reducible apply State.testPassed_keeps | with_reducible apply State.heal_keeps | with_reducible apply State.passEvent_keeps | simp only [Keeps.upd_iff] | refine Keeps.upd_regs ?_ swf_sset | refine Keeps.upd_cells ?_ swf_sset | refine Keeps.upd_shadow ?_ swf_sset | refine Keeps.upd_buf ?_ (wf_write _) | split | dsimp only)

theorem State.releaseEvent_keeps {orig s : State} (h : Keeps orig s) {u : HwUnit} {ok : Bool} :
    Keeps orig (State.releaseEvent s u ok) := by
  unfold State.releaseEvent
  (try dsimp only)
  repeat' (first | with_reducible assumption | intro _ | with_reducible apply Keeps.ite | with_reducible apply Keeps.foldl | with_reducible apply Keeps.foldl_fst | with_reducible apply State.event_keeps | simp only [Keeps.upd_iff] | refine Keeps.upd_regs ?_ swf_sset | refine Keeps.upd_cells ?_ swf_sset | refine Keeps.upd_shadow ?_ swf_sset | refine Keeps.upd_buf ?_ (wf_write _) | split | dsimp only)

theorem State.release_keeps {orig s : State} (h : Keeps orig s) {u : HwUnit} :
    Keeps orig (State.release s u) := by
  unfold State.release
  (try dsimp only)
  repeat' (first | with_reducible assumption | intro _ | with_reducible apply Keeps.ite | with_reducible apply Keeps.foldl | with_reducible apply Keeps.foldl_fst | with_reducible apply State.setObj_keeps | with_reducible apply State.refreshCores_keeps | with_reducible apply State.forgive_keeps | with_reducible apply State.askOffset_keeps | with_reducible apply State.releaseEvent_keeps | simp only [Keeps.upd_iff] | refine Keeps.upd_regs ?_ swf_sset | refine Keeps.upd_cells ?_ swf_sset | refine Keeps.upd_shadow ?_ swf_sset | refine Keeps.upd_buf ?_ (wf_write _) | split | dsimp only)

theorem State.releaseFails_keeps {orig s : State} (h : Keeps orig s) {core : Nat} {f : DeckFail} {u : HwUnit} :
    Keeps orig (State.releaseFails s core f u) := by
  unfold State.releaseFails
  (try dsimp only)
  repeat' (first | with_reducible assumption | intro _ | with_reducible apply Keeps.ite | with_reducible apply Keeps.foldl | with_reducible apply Keeps.foldl_fst | with_reducible apply State.poisonRows_keeps | with_reducible apply State.failEvent_keeps | with_reducible apply State.chargeDeck_keeps | with_reducible apply State.deckFails_keeps | with_reducible apply State.releaseEvent_keeps | simp only [Keeps.upd_iff] | refine Keeps.upd_regs ?_ swf_sset | refine Keeps.upd_cells ?_ swf_sset | refine Keeps.upd_shadow ?_ swf_sset | refine Keeps.upd_buf ?_ (wf_write _) | split | dsimp only)

theorem State.requestRelease_keeps {orig s : State} (h : Keeps orig s) {v : Nat} :
    Keeps orig (State.requestRelease s v).1 := by
  unfold State.requestRelease
  (try dsimp only)
  repeat' (first | with_reducible assumption | intro _ | with_reducible apply Keeps.ite | with_reducible apply Keeps.foldl | with_reducible apply Keeps.foldl_fst | with_reducible apply State.setObj_keeps | with_reducible apply State.priorityTest_keeps | simp only [Keeps.upd_iff] | refine Keeps.upd_regs ?_ swf_sset | refine Keeps.upd_cells ?_ swf_sset | refine Keeps.upd_shadow ?_ swf_sset | refine Keeps.upd_buf ?_ (wf_write _) | split | dsimp only)

theorem State.requestSweep_keeps {orig s : State} (h : Keeps orig s) {u v : Nat} :
    Keeps orig (State.requestSweep s u v).1 := by
  unfold State.requestSweep
  (try dsimp only)
  repeat' (first | with_reducible assumption | intro _ | with_reducible apply Keeps.ite | with_reducible apply Keeps.foldl | with_reducible apply Keeps.foldl_fst | with_reducible apply State.startSweep_keeps | simp only [Keeps.upd_iff] | refine Keeps.upd_regs ?_ swf_sset | refine Keeps.upd_cells ?_ swf_sset | refine Keeps.upd_shadow ?_ swf_sset | refine Keeps.upd_buf ?_ (wf_write _) | split | dsimp only)

theorem State.openTransfer_keeps {orig s : State} (h : Keeps orig s) {v : Nat} :
    Keeps orig (State.openTransfer s v).1 := by
  unfold State.openTransfer
  (try dsimp only)
  repeat' (first | with_reducible assumption | intro _ | with_reducible apply Keeps.ite | with_reducible apply Keeps.foldl | with_reducible apply Keeps.foldl_fst | with_reducible apply State.setObj_keeps | simp only [Keeps.upd_iff] | refine Keeps.upd_regs ?_ swf_sset | refine Keeps.upd_cells ?_ swf_sset | refine Keeps.upd_shadow ?_ swf_sset | refine Keeps.upd_buf ?_ (wf_write _) | split | dsimp only)

theorem State.takeChunk_keeps {orig s : State} (h : Keeps orig s) {bs : List Byte} :
    Keeps orig (State.takeChunk s bs).1 := by
  unfold State.takeChunk
  (try dsimp only)
  repeat' (first | with_reducible assumption | intro _ | with_reducible apply Keeps.ite | with_reducible apply Keeps.foldl | with_reducible apply Keeps.foldl_fst | simp only [Keeps.upd_iff] | refine Keeps.upd_regs ?_ swf_sset | refine Keeps.upd_cells ?_ swf_sset | refine Keeps.upd_shadow ?_ swf_sset | refine Keeps.upd_buf ?_ (wf_write _) | split | dsimp only)

theorem State.startDebug_keeps {orig s : State} (h : Keeps orig s) {bs : List Byte} :
    Keeps orig (State.startDebug s bs) := by
  unfold State.startDebug
  (try dsimp only)
  repeat' (first | with_reducible assumption | intro _ | with_reducible apply Keeps.ite | with_reducible apply Keeps.foldl | with_reducible apply Keeps.foldl_fst | with_reducible apply State.setObj_keeps | simp only [Keeps.upd_iff] | refine Keeps.upd_regs ?_ swf_sset | refine Keeps.upd_cells ?_ swf_sset | refine Keeps.upd_shadow ?_ swf_sset | refine Keeps.upd_buf ?_ (wf_write _) | split | dsimp only)

theorem State.storeImage_keeps {orig s : State} (h : Keeps orig s) {bs : List Byte} :
    Keeps orig (State.storeImage s bs) := by
  unfold State.storeImage
  (try dsimp only)
  repeat' (first | with_reducible assumption | intro _ | with_reducible apply Keeps.ite | with_reducible apply Keeps.foldl | with_reducible apply Keeps.foldl_fst | with_reducible apply State.startDebug_keeps | simp only [Keeps.upd_iff] | refine Keeps.upd_regs ?_ swf_sset | refine Keeps.upd_cells ?_ swf_sset | refine Keeps.upd_shadow ?_ swf_sset | refine Keeps.upd_buf ?_ (wf_write _) | split | dsimp only)

theorem State.deckOutcome_keeps {orig s : State} (h : Keeps orig s) {status ver : Nat} :
    Keeps orig (State.deckOutcome s status ver) := by
  unfold State.deckOutcome
  (try dsimp only)
  repeat' (first | with_reducible assumption | intro _ | with_reducible apply Keeps.ite | with_reducible apply Keeps.foldl | with_reducible apply Keeps.foldl_fst | with_reducible apply State.setObj_keeps | with_reducible apply State.event_keeps | simp only [Keeps.upd_iff] | refine Keeps.upd_regs ?_ swf_sset | refine Keeps.upd_cells ?_ swf_sset | refine Keeps.upd_shadow ?_ swf_sset | refine Keeps.upd_buf ?_ (wf_write _) | split | dsimp only)

theorem State.verifyTransfer_keeps {orig s : State} (h : Keeps orig s) {v : Nat} :
    Keeps orig (State.verifyTransfer s v).1 := by
  unfold State.verifyTransfer
  (try dsimp only)
  repeat' (first | with_reducible assumption | intro _ | with_reducible apply Keeps.ite | with_reducible apply Keeps.foldl | with_reducible apply Keeps.foldl_fst | with_reducible apply State.storeImage_keeps | with_reducible apply State.deckOutcome_keeps | simp only [Keeps.upd_iff] | refine Keeps.upd_regs ?_ swf_sset | refine Keeps.upd_cells ?_ swf_sset | refine Keeps.upd_shadow ?_ swf_sset | refine Keeps.upd_buf ?_ (wf_write _) | split | dsimp only)

theorem State.reopenAdm_keeps {orig s : State} (h : Keeps orig s)  :
    Keeps orig (State.reopenAdm s) := by
  unfold State.reopenAdm
  (try dsimp only)
  repeat' (first | with_reducible assumption | intro _ | with_reducible apply Keeps.ite | with_reducible apply Keeps.foldl | with_reducible apply Keeps.foldl_fst | simp only [Keeps.upd_iff] | refine Keeps.upd_regs ?_ swf_sset | refine Keeps.upd_cells ?_ swf_sset | refine Keeps.upd_shadow ?_ swf_sset | refine Keeps.upd_buf ?_ (wf_write _) | split | dsimp only)

theorem State.shut_keeps {orig s : State} (h : Keeps orig s)  :
    Keeps orig (State.shut s) := by
  unfold State.shut
  (try dsimp only)
  repeat' (first | with_reducible assumption | intro _ | with_reducible apply Keeps.ite | with_reducible apply Keeps.foldl | with_reducible apply Keeps.foldl_fst | simp only [Keeps.upd_iff] | refine Keeps.upd_regs ?_ swf_sset | refine Keeps.upd_cells ?_ swf_sset | refine Keeps.upd_shadow ?_ swf_sset | refine Keeps.upd_buf ?_ (wf_write _) | split | dsimp only)

theorem State.activate_keeps {orig s : State} (h : Keeps orig s) {v : Nat} :
    Keeps orig (State.activate s v).1 := by
  unfold State.activate
  (try dsimp only)
  repeat' (first | with_reducible assumption | intro _ | with_reducible apply Keeps.ite | with_reducible apply Keeps.foldl | with_reducible apply Keeps.foldl_fst | with_reducible apply State.setObj_keeps | with_reducible apply State.shut_keeps | simp only [Keeps.upd_iff] | refine Keeps.upd_regs ?_ swf_sset | refine Keeps.upd_cells ?_ swf_sset | refine Keeps.upd_shadow ?_ swf_sset | refine Keeps.upd_buf ?_ (wf_write _) | split | dsimp only)

theorem State.restartGfw_keeps {orig s : State} (h : Keeps orig s)  :
    Keeps orig (State.restartGfw s) := by
  unfold State.restartGfw
  (try dsimp only)
  repeat' (first | with_reducible assumption | intro _ | with_reducible apply Keeps.ite | with_reducible apply Keeps.foldl | with_reducible apply Keeps.foldl_fst | with_reducible apply State.shut_keeps | simp only [Keeps.upd_iff] | refine Keeps.upd_regs ?_ swf_sset | refine Keeps.upd_cells ?_ swf_sset | refine Keeps.upd_shadow ?_ swf_sset | refine Keeps.upd_buf ?_ (wf_write _) | split | dsimp only)

theorem State.startWarm_keeps {orig s : State} (h : Keeps orig s) {cause : Nat} :
    Keeps orig (State.startWarm s cause) := by
  unfold State.startWarm
  (try dsimp only)
  repeat' (first | with_reducible assumption | intro _ | with_reducible apply Keeps.ite | with_reducible apply Keeps.foldl | with_reducible apply Keeps.foldl_fst | with_reducible apply State.loseOps_keeps | with_reducible apply State.shut_keeps | simp only [Keeps.upd_iff] | refine Keeps.upd_regs ?_ swf_sset | refine Keeps.upd_cells ?_ swf_sset | refine Keeps.upd_shadow ?_ swf_sset | refine Keeps.upd_buf ?_ (wf_write _) | split | dsimp only)

theorem State.writeDebug_keeps {orig s : State} (h : Keeps orig s) {role : Role} {v : Nat} :
    Keeps orig (State.writeDebug s role v).1 := by
  unfold State.writeDebug
  (try dsimp only)
  repeat' (first | with_reducible assumption | intro _ | with_reducible apply Keeps.ite | with_reducible apply Keeps.foldl | with_reducible apply Keeps.foldl_fst | with_reducible apply State.setObj_keeps | with_reducible apply State.endDebug_keeps | simp only [Keeps.upd_iff] | refine Keeps.upd_regs ?_ swf_sset | refine Keeps.upd_cells ?_ swf_sset | refine Keeps.upd_shadow ?_ swf_sset | refine Keeps.upd_buf ?_ (wf_write _) | split | dsimp only)

theorem State.pendMove_keeps {orig s : State} (h : Keeps orig s) {k v : Nat} :
    Keeps orig (State.pendMove s k v) := by
  unfold State.pendMove
  (try dsimp only)
  repeat' (first | with_reducible assumption | intro _ | with_reducible apply Keeps.ite | with_reducible apply Keeps.foldl | with_reducible apply Keeps.foldl_fst | simp only [Keeps.upd_iff] | refine Keeps.upd_regs ?_ swf_sset | refine Keeps.upd_cells ?_ swf_sset | refine Keeps.upd_shadow ?_ swf_sset | refine Keeps.upd_buf ?_ (wf_write _) | split | dsimp only)

theorem State.moveCore_keeps {orig s : State} (h : Keeps orig s) {c v : Nat} :
    Keeps orig (State.moveCore s c v).1 := by
  unfold State.moveCore
  (try dsimp only)
  repeat' (first | with_reducible assumption | intro _ | with_reducible apply Keeps.ite | with_reducible apply Keeps.foldl | with_reducible apply Keeps.foldl_fst | with_reducible apply State.pendMove_keeps | simp only [Keeps.upd_iff] | refine Keeps.upd_regs ?_ swf_sset | refine Keeps.upd_cells ?_ swf_sset | refine Keeps.upd_shadow ?_ swf_sset | refine Keeps.upd_buf ?_ (wf_write _) | split | dsimp only)

theorem State.moveQuads_keeps {orig s : State} (h : Keeps orig s) {n v : Nat} :
    Keeps orig (State.moveQuads s n v).1 := by
  unfold State.moveQuads
  (try dsimp only)
  repeat' (first | with_reducible assumption | intro _ | with_reducible apply Keeps.ite | with_reducible apply Keeps.foldl | with_reducible apply Keeps.foldl_fst | with_reducible apply State.pendMove_keeps | simp only [Keeps.upd_iff] | refine Keeps.upd_regs ?_ swf_sset | refine Keeps.upd_cells ?_ swf_sset | refine Keeps.upd_shadow ?_ swf_sset | refine Keeps.upd_buf ?_ (wf_write _) | split | dsimp only)

/-- Zeroing a range keeps the canonical form of the buffer. -/
theorem wf_zeroRange {b : Buffer} (lo hi : Nat) (h : Memory.wf b = true) : Memory.wf (b.zeroRange lo hi) = true := by
  unfold Memory.wf Buffer.zeroRange at *
  simp only [Bool.and_eq_true] at *
  exact ⟨⟨swf_filter h.1.1, rising_filter h.1.2⟩, rising_filter h.2⟩

theorem State.vacate_keeps {orig s : State} (h : Keeps orig s) {cl : Nat} {a b : Nat × Nat} : Keeps orig (s.vacate cl a b) := by
  unfold State.vacate
  dsimp only
  exact h.upd_buf (fun g => wf_zeroRange _ _ (wf_zeroRange _ _ g))

theorem State.settleRange_keeps {orig s : State} (h : Keeps orig s) {t cl : Nat} :
    Keeps orig (State.settleRange s t cl) := by
  unfold State.settleRange
  (try dsimp only)
  repeat' (first | with_reducible assumption | intro _ | with_reducible apply Keeps.ite | with_reducible apply Keeps.foldl | with_reducible apply Keeps.foldl_fst | with_reducible apply State.setObj_keeps | with_reducible apply State.vacate_keeps | simp only [Keeps.upd_iff] | refine Keeps.upd_regs ?_ swf_sset | refine Keeps.upd_cells ?_ swf_sset | refine Keeps.upd_shadow ?_ swf_sset | refine Keeps.upd_buf ?_ (wf_write _) | split | dsimp only)

theorem State.settleRanges_keeps {orig s : State} (h : Keeps orig s)  :
    Keeps orig (State.settleRanges s) := by
  unfold State.settleRanges
  (try dsimp only)
  repeat' (first | with_reducible assumption | intro _ | with_reducible apply Keeps.ite | with_reducible apply Keeps.foldl | with_reducible apply Keeps.foldl_fst | with_reducible apply State.settleRange_keeps | simp only [Keeps.upd_iff] | refine Keeps.upd_regs ?_ swf_sset | refine Keeps.upd_cells ?_ swf_sset | refine Keeps.upd_shadow ?_ swf_sset | refine Keeps.upd_buf ?_ (wf_write _) | split | dsimp only)

theorem State.moveRange_keeps {orig s : State} (h : Keeps orig s) {t sub v : Nat} :
    Keeps orig (State.moveRange s t sub v).1 := by
  unfold State.moveRange
  (try dsimp only)
  repeat' (first | with_reducible assumption | intro _ | with_reducible apply Keeps.ite | with_reducible apply Keeps.foldl | with_reducible apply Keeps.foldl_fst | with_reducible apply State.pendMove_keeps | with_reducible apply State.settleRange_keeps | simp only [Keeps.upd_iff] | refine Keeps.upd_regs ?_ swf_sset | refine Keeps.upd_cells ?_ swf_sset | refine Keeps.upd_shadow ?_ swf_sset | refine Keeps.upd_buf ?_ (wf_write _) | split | dsimp only)

theorem State.clearCore_keeps {orig s : State} (h : Keeps orig s) {core : Nat} : Keeps orig (s.clearCore core) := by
  unfold State.clearCore
  exact (Keeps.setCore (v := .zero) (k := core)
    (Keeps.foldl (fun s e hs => State.clearTile_keeps (State.clearWeights_keeps hs)) h)).upd_chains swf_emptyChains

theorem State.writeTenant_keeps {orig s : State} (h : Keeps orig s) {t v : Nat} :
    Keeps orig (State.writeTenant s t v).1 := by
  unfold State.writeTenant
  (try dsimp only)
  repeat' (first | with_reducible assumption | intro _ | with_reducible apply Keeps.ite | with_reducible apply Keeps.foldl | with_reducible apply Keeps.foldl_fst | with_reducible apply State.setObj_keeps | simp only [Keeps.upd_iff] | refine Keeps.upd_regs ?_ swf_sset | refine Keeps.upd_cells ?_ swf_sset | refine Keeps.upd_shadow ?_ swf_sset | refine Keeps.upd_buf ?_ (wf_write _) | split | dsimp only)

theorem State.releaseTenant_keeps {orig s : State} (h : Keeps orig s) {t : Nat} :
    Keeps orig (State.releaseTenant s t) := by
  unfold State.releaseTenant
  (try dsimp only)
  repeat' (first | with_reducible assumption | intro _ | with_reducible apply Keeps.ite | with_reducible apply Keeps.foldl | with_reducible apply Keeps.foldl_fst | with_reducible apply State.setObj_keeps | with_reducible apply State.pendMove_keeps | with_reducible apply State.settleRange_keeps | simp only [Keeps.upd_iff] | refine Keeps.upd_regs ?_ swf_sset | refine Keeps.upd_cells ?_ swf_sset | refine Keeps.upd_shadow ?_ swf_sset | refine Keeps.upd_buf ?_ (wf_write _) | split | dsimp only)

theorem State.commitAll_keeps {orig s : State} (h : Keeps orig s)  :
    Keeps orig (State.commitAll s) := by
  unfold State.commitAll
  (try dsimp only)
  repeat' (first | with_reducible assumption | intro _ | with_reducible apply Keeps.ite | with_reducible apply Keeps.foldl | with_reducible apply Keeps.foldl_fst | simp only [Keeps.upd_iff] | refine Keeps.upd_regs ?_ swf_sset | refine Keeps.upd_cells ?_ swf_sset | refine Keeps.upd_shadow ?_ swf_sset | refine Keeps.upd_buf ?_ (wf_write _) | split | dsimp only)

theorem State.loadFlash_keeps {orig s : State} (h : Keeps orig s) {e : Nat × Nat} :
    Keeps orig (State.loadFlash s e) := by
  unfold State.loadFlash
  (try dsimp only)
  repeat' (first | with_reducible assumption | intro _ | with_reducible apply Keeps.ite | with_reducible apply Keeps.foldl | with_reducible apply Keeps.foldl_fst | simp only [Keeps.upd_iff] | refine Keeps.upd_regs ?_ swf_sset | refine Keeps.upd_cells ?_ swf_sset | refine Keeps.upd_shadow ?_ swf_sset | refine Keeps.upd_buf ?_ (wf_write _) | split | dsimp only)

theorem State.carry_keeps {orig s : State} (h : Keeps orig s) {k v : Nat} :
    Keeps orig (State.carry s k v) := by
  unfold State.carry
  (try dsimp only)
  repeat' (first | with_reducible assumption | intro _ | with_reducible apply Keeps.ite | with_reducible apply Keeps.foldl | with_reducible apply Keeps.foldl_fst | with_reducible apply State.setObj_keeps | simp only [Keeps.upd_iff] | refine Keeps.upd_regs ?_ swf_sset | refine Keeps.upd_cells ?_ swf_sset | refine Keeps.upd_shadow ?_ swf_sset | refine Keeps.upd_buf ?_ (wf_write _) | split | dsimp only)

/-- The ports whose partners are live, in the state of a cold reset. -/
theorem swf_livePorts {ps : Sparse PortSt} (h : swf .zero ps = true) :
    swf .zero (ps.filterMap (fun e => if e.2.liveI then some (e.1, { PortSt.zero with liveI := true }) else none)) = true := by
  refine swf_filterMap h (fun e e' _ he => ?_)
  split at he
  · cases he; exact ⟨rfl, fun h0 => Bool.noConfusion (congrArg PortSt.liveI h0)⟩
  · cases he

theorem State.coldState_keeps {orig s : State} (h : Keeps orig s) : Keeps orig s.coldState := by
  unfold State.coldState
  refine Keeps.foldl (fun s c hs => State.carry_keeps (State.carry_keeps hs))
    (Keeps.foldl (fun s b hs => State.loadFlash_keeps hs) (h.trans ⟨rfl, rfl, fun g => ?_, Or.inr rfl, List.prefix_rfl⟩))
  obtain ⟨⟨_, _, _, _, _, _, _, p, _, _⟩, _⟩ := good_iff.mp g
  exact good_iff.mpr ⟨⟨rfl, rfl, rfl, rfl, rfl, rfl, rfl, swf_livePorts p, rfl, rfl⟩, (by decide : Safety.recordsKept State.reset.errs = true)⟩

theorem State.clampAll_keeps {orig s : State} (h : Keeps orig s)  :
    Keeps orig (State.clampAll s) := by
  unfold State.clampAll
  (try dsimp only)
  repeat' (first | with_reducible assumption | intro _ | with_reducible apply Keeps.ite | with_reducible apply Keeps.foldl | with_reducible apply Keeps.foldl_fst | with_reducible apply State.emitAll_keeps | simp only [Keeps.upd_iff] | refine Keeps.upd_regs ?_ swf_sset | refine Keeps.upd_cells ?_ swf_sset | refine Keeps.upd_shadow ?_ swf_sset | refine Keeps.upd_buf ?_ (wf_write _) | split | dsimp only)

theorem State.speedEvents_keeps {orig s : State} (h : Keeps orig s)  :
    Keeps orig (State.speedEvents s) := by
  unfold State.speedEvents
  (try dsimp only)
  repeat' (first | with_reducible assumption | intro _ | with_reducible apply Keeps.ite | with_reducible apply Keeps.foldl | with_reducible apply Keeps.foldl_fst | with_reducible apply State.event_keeps | simp only [Keeps.upd_iff] | refine Keeps.upd_regs ?_ swf_sset | refine Keeps.upd_cells ?_ swf_sset | refine Keeps.upd_shadow ?_ swf_sset | refine Keeps.upd_buf ?_ (wf_write _) | split | dsimp only)

theorem State.bootSlot_keeps {orig s : State} (h : Keeps orig s) {kind : Nat} :
    Keeps orig (State.bootSlot s kind) := by
  unfold State.bootSlot
  (try dsimp only)
  repeat' (first | with_reducible assumption | intro _ | with_reducible apply Keeps.ite | with_reducible apply Keeps.foldl | with_reducible apply Keeps.foldl_fst | with_reducible apply State.switchSlot_keeps | simp only [Keeps.upd_iff] | refine Keeps.upd_regs ?_ swf_sset | refine Keeps.upd_cells ?_ swf_sset | refine Keeps.upd_shadow ?_ swf_sset | refine Keeps.upd_buf ?_ (wf_write _) | split | dsimp only)

theorem State.applyPending_keeps {orig s : State} (h : Keeps orig s)  :
    Keeps orig (State.applyPending s) := by
  unfold State.applyPending
  (try dsimp only)
  repeat' (first | with_reducible assumption | intro _ | with_reducible apply Keeps.ite | with_reducible apply Keeps.foldl | with_reducible apply Keeps.foldl_fst | with_reducible apply State.quarEngine_keeps | with_reducible apply State.quarCore_keeps | with_reducible apply State.applyMap_keeps | simp only [Keeps.upd_iff] | refine Keeps.upd_regs ?_ swf_sset | refine Keeps.upd_cells ?_ swf_sset | refine Keeps.upd_shadow ?_ swf_sset | refine Keeps.upd_buf ?_ (wf_write _) | split | dsimp only)

theorem State.electAll_keeps {orig s : State} (h : Keeps orig s)  :
    Keeps orig (State.electAll s) := by
  unfold State.electAll
  (try dsimp only)
  repeat' (first | with_reducible assumption | intro _ | with_reducible apply Keeps.ite | with_reducible apply Keeps.foldl | with_reducible apply Keeps.foldl_fst | with_reducible apply State.elect_keeps | simp only [Keeps.upd_iff] | refine Keeps.upd_regs ?_ swf_sset | refine Keeps.upd_cells ?_ swf_sset | refine Keeps.upd_shadow ?_ swf_sset | refine Keeps.upd_buf ?_ (wf_write _) | split | dsimp only)

theorem State.bringPorts_keeps {orig s : State} (h : Keeps orig s) {qs : List Nat} :
    Keeps orig (State.bringPorts s qs) := by
  unfold State.bringPorts
  (try dsimp only)
  repeat' (first | with_reducible assumption | intro _ | with_reducible apply Keeps.ite | with_reducible apply Keeps.foldl | with_reducible apply Keeps.foldl_fst | with_reducible apply State.bringPort_keeps | simp only [Keeps.upd_iff] | refine Keeps.upd_regs ?_ swf_sset | refine Keeps.upd_cells ?_ swf_sset | refine Keeps.upd_shadow ?_ swf_sset | refine Keeps.upd_buf ?_ (wf_write _) | split | dsimp only)

theorem State.enterPorts_keeps {orig s : State} (h : Keeps orig s)  :
    Keeps orig (State.enterPorts s) := by
  unfold State.enterPorts
  (try dsimp only)
  repeat' (first | with_reducible assumption | intro _ | with_reducible apply Keeps.ite | with_reducible apply Keeps.foldl | with_reducible apply Keeps.foldl_fst | with_reducible apply State.refreshCores_keeps | with_reducible apply State.electAll_keeps | with_reducible apply State.bringPorts_keeps | simp only [Keeps.upd_iff] | refine Keeps.upd_regs ?_ swf_sset | refine Keeps.upd_cells ?_ swf_sset | refine Keeps.upd_shadow ?_ swf_sset | refine Keeps.upd_buf ?_ (wf_write _) | split | dsimp only)

theorem State.verifyAll_keeps {orig s : State} (h : Keeps orig s)  :
    Keeps orig (State.verifyAll s) := by
  unfold State.verifyAll
  (try dsimp only)
  repeat' (first | with_reducible assumption | intro _ | with_reducible apply Keeps.ite | with_reducible apply Keeps.foldl | with_reducible apply Keeps.foldl_fst | with_reducible apply State.bringPort_keeps | with_reducible apply State.takeNewer_keeps | with_reducible apply State.deckFails_keeps | with_reducible apply State.speedEvents_keeps | with_reducible apply State.bootSlot_keeps | with_reducible apply State.applyPending_keeps | with_reducible apply State.enterPorts_keeps | simp only [Keeps.upd_iff] | refine Keeps.upd_regs ?_ swf_sset | refine Keeps.upd_cells ?_ swf_sset | refine Keeps.upd_shadow ?_ swf_sset | refine Keeps.upd_buf ?_ (wf_write _) | split | dsimp only)

theorem State.bootOn_keeps {orig s : State} (h : Keeps orig s)  :
    Keeps orig (State.bootOn s) := by
  unfold State.bootOn
  (try dsimp only)
  repeat' (first | with_reducible assumption | intro _ | with_reducible apply Keeps.ite | with_reducible apply Keeps.foldl | with_reducible apply Keeps.foldl_fst | with_reducible apply State.askAgain_keeps | with_reducible apply State.bringPort_keeps | with_reducible apply State.verifyAll_keeps | simp only [Keeps.upd_iff] | refine Keeps.upd_regs ?_ swf_sset | refine Keeps.upd_cells ?_ swf_sset | refine Keeps.upd_shadow ?_ swf_sset | refine Keeps.upd_buf ?_ (wf_write _) | split | dsimp only)

theorem State.resetEvent_keeps {orig s : State} (h : Keeps orig s) {cls cause : Nat} :
    Keeps orig (State.resetEvent s cls cause) := by
  unfold State.resetEvent
  (try dsimp only)
  repeat' (first | with_reducible assumption | intro _ | with_reducible apply Keeps.ite | with_reducible apply Keeps.foldl | with_reducible apply Keeps.foldl_fst | with_reducible apply State.setObj_keeps | with_reducible apply State.event_keeps | simp only [Keeps.upd_iff] | refine Keeps.upd_regs ?_ swf_sset | refine Keeps.upd_cells ?_ swf_sset | refine Keeps.upd_shadow ?_ swf_sset | refine Keeps.upd_buf ?_ (wf_write _) | split | dsimp only)

theorem State.coldStart_keeps {orig s : State} (h : Keeps orig s) {cause : Nat} {deck : List OpeningFail} :
    Keeps orig (State.coldStart s cause deck) := by
  unfold State.coldStart
  (try dsimp only)
  repeat' (first | with_reducible assumption | intro _ | with_reducible apply Keeps.ite | with_reducible apply Keeps.foldl | with_reducible apply Keeps.foldl_fst | with_reducible apply State.coldState_keeps | with_reducible apply State.bootOn_keeps | with_reducible apply State.resetEvent_keeps | simp only [Keeps.upd_iff] | refine Keeps.upd_regs ?_ swf_sset | refine Keeps.upd_cells ?_ swf_sset | refine Keeps.upd_shadow ?_ swf_sset | refine Keeps.upd_buf ?_ (wf_write _) | split | dsimp only)

theorem State.finishMoves_keeps {orig s : State} (h : Keeps orig s)  :
    Keeps orig (State.finishMoves s) := by
  unfold State.finishMoves
  (try dsimp only)
  repeat' (first | with_reducible assumption | intro _ | with_reducible apply Keeps.ite | with_reducible apply Keeps.foldl | with_reducible apply Keeps.foldl_fst | with_reducible apply State.setObj_keeps | with_reducible apply State.vacate_keeps | simp only [Keeps.upd_iff] | refine Keeps.upd_regs ?_ swf_sset | refine Keeps.upd_cells ?_ swf_sset | refine Keeps.upd_shadow ?_ swf_sset | refine Keeps.upd_buf ?_ (wf_write _) | split | dsimp only)

theorem State.downPorts_keeps {orig s : State} (h : Keeps orig s) {qs : List Nat} :
    Keeps orig (State.downPorts s qs) := by
  unfold State.downPorts
  (try dsimp only)
  repeat' (first | with_reducible assumption | intro _ | with_reducible apply Keeps.ite | with_reducible apply Keeps.foldl | with_reducible apply Keeps.foldl_fst | with_reducible apply State.portDown_keeps | simp only [Keeps.upd_iff] | refine Keeps.upd_regs ?_ swf_sset | refine Keeps.upd_cells ?_ swf_sset | refine Keeps.upd_shadow ?_ swf_sset | refine Keeps.upd_buf ?_ (wf_write _) | split | dsimp only)

theorem State.coldRequest_keeps {orig s : State} (h : Keeps orig s)  :
    Keeps orig (State.coldRequest s) := by
  unfold State.coldRequest
  (try dsimp only)
  repeat' (first | with_reducible assumption | intro _ | with_reducible apply Keeps.ite | with_reducible apply Keeps.foldl | with_reducible apply Keeps.foldl_fst | with_reducible apply State.drawFree_keeps | with_reducible apply State.commitAll_keeps | with_reducible apply State.clampAll_keeps | with_reducible apply State.coldStart_keeps | with_reducible apply State.finishMoves_keeps | with_reducible apply State.downPorts_keeps | simp only [Keeps.upd_iff] | refine Keeps.upd_regs ?_ swf_sset | refine Keeps.upd_cells ?_ swf_sset | refine Keeps.upd_shadow ?_ swf_sset | refine Keeps.upd_buf ?_ (wf_write _) | split | dsimp only)

theorem State.requestReset_keeps {orig s : State} (h : Keeps orig s) {v : Nat} :
    Keeps orig (State.requestReset s v) := by
  unfold State.requestReset
  (try dsimp only)
  repeat' (first | with_reducible assumption | intro _ | with_reducible apply Keeps.ite | with_reducible apply Keeps.foldl | with_reducible apply Keeps.foldl_fst | with_reducible apply State.startWarm_keeps | with_reducible apply State.coldRequest_keeps | simp only [Keeps.upd_iff] | refine Keeps.upd_regs ?_ swf_sset | refine Keeps.upd_cells ?_ swf_sset | refine Keeps.upd_shadow ?_ swf_sset | refine Keeps.upd_buf ?_ (wf_write _) | split | dsimp only)

theorem State.warmClear_keeps {orig s : State} (h : Keeps orig s) : Keeps orig s.warmClear := by
  refine (State.endRanges_keeps (f := fun _ => true) (State.endDebug_keeps h)).trans ⟨rfl, rfl, fun g => ?_, Or.inl rfl, List.prefix_rfl⟩
  obtain ⟨⟨b, _, _, _, _, co, _, p, _, gr⟩, e⟩ := good_iff.mp g
  exact good_iff.mpr ⟨⟨b, rfl, rfl, rfl, rfl, co, rfl, p, rfl, gr⟩, e⟩

theorem State.warmImage_keeps {orig s : State} (h : Keeps orig s) {act : Bool} :
    Keeps orig (State.warmImage s act) := by
  unfold State.warmImage
  (try dsimp only)
  repeat' (first | with_reducible assumption | intro _ | with_reducible apply Keeps.ite | with_reducible apply Keeps.foldl | with_reducible apply Keeps.foldl_fst | with_reducible apply State.setObj_keeps | with_reducible apply State.switchSlot_keeps | with_reducible apply State.bootSlot_keeps | simp only [Keeps.upd_iff] | refine Keeps.upd_regs ?_ swf_sset | refine Keeps.upd_cells ?_ swf_sset | refine Keeps.upd_shadow ?_ swf_sset | refine Keeps.upd_buf ?_ (wf_write _) | split | dsimp only)

theorem State.warmNow_keeps {orig s : State} (h : Keeps orig s) {cause : Nat} {act : Bool} :
    Keeps orig (State.warmNow s cause act) := by
  unfold State.warmNow
  (try dsimp only)
  repeat' (first | with_reducible assumption | intro _ | with_reducible apply Keeps.ite | with_reducible apply Keeps.foldl | with_reducible apply Keeps.foldl_fst | with_reducible apply State.applyPending_keeps | with_reducible apply State.enterPorts_keeps | with_reducible apply State.resetEvent_keeps | with_reducible apply State.finishMoves_keeps | with_reducible apply State.downPorts_keeps | with_reducible apply State.warmClear_keeps | with_reducible apply State.warmImage_keeps | simp only [Keeps.upd_iff] | refine Keeps.upd_regs ?_ swf_sset | refine Keeps.upd_cells ?_ swf_sset | refine Keeps.upd_shadow ?_ swf_sset | refine Keeps.upd_buf ?_ (wf_write _) | split | dsimp only)

end Sys2Proof.Machine
end

