-- ==== Sys2Proof/Laws/KeepDict.lean ====
section
/-! SUPPORT. The operations of Dict, Image, Deliver, Clock keep a good state good, the queue and the configuration. -/

namespace Sys2Proof.Machine

theorem State.store_keeps {orig s : State} (h : Keeps orig s) {index sub v : Nat} :
    Keeps orig (State.store s index sub v).1 := by
  unfold State.store
  (try dsimp only)
  repeat' (first | with_reducible assumption | intro _ | with_reducible apply Keeps.ite | with_reducible apply Keeps.foldl | with_reducible apply Keeps.foldl_fst | with_reducible apply State.setObj_keeps | simp only [Keeps.upd_iff] | refine Keeps.upd_regs ?_ swf_sset | refine Keeps.upd_cells ?_ swf_sset | refine Keeps.upd_shadow ?_ swf_sset | refine Keeps.upd_buf ?_ (wf_write _) | split | dsimp only)

theorem State.storeIf_keeps {orig s : State} (h : Keeps orig s) {ok : Bool} {index sub v : Nat} :
    Keeps orig (State.storeIf s ok index sub v).1 := by
  unfold State.storeIf
  (try dsimp only)
  repeat' (first | with_reducible assumption | intro _ | with_reducible apply Keeps.ite | with_reducible apply Keeps.foldl | with_reducible apply Keeps.foldl_fst | with_reducible apply State.store_keeps | simp only [Keeps.upd_iff] | refine Keeps.upd_regs ?_ swf_sset | refine Keeps.upd_cells ?_ swf_sset | refine Keeps.upd_shadow ?_ swf_sset | refine Keeps.upd_buf ?_ (wf_write _) | split | dsimp only)

theorem State.requestDrain_keeps {orig s : State} (h : Keeps orig s) {sub v tenant : Nat} :
    Keeps orig (State.requestDrain s sub v tenant).1 := by
  unfold State.requestDrain
  (try dsimp only)
  repeat' (first | with_reducible assumption | intro _ | with_reducible apply Keeps.ite | with_reducible apply Keeps.foldl | with_reducible apply Keeps.foldl_fst | with_reducible apply State.setDrq_keeps | simp only [Keeps.upd_iff] | refine Keeps.upd_regs ?_ swf_sset | refine Keeps.upd_cells ?_ swf_sset | refine Keeps.upd_shadow ?_ swf_sset | refine Keeps.upd_buf ?_ (wf_write _) | split | dsimp only)

theorem State.writeOffset_keeps {orig s : State} (h : Keeps orig s) {c v : Nat} :
    Keeps orig (State.writeOffset s c v).1 := by
  unfold State.writeOffset
  (try dsimp only)
  repeat' (first | with_reducible assumption | intro _ | with_reducible apply Keeps.ite | with_reducible apply Keeps.foldl | with_reducible apply Keeps.foldl_fst | with_reducible apply State.askOffset_keeps | simp only [Keeps.upd_iff] | refine Keeps.upd_regs ?_ swf_sset | refine Keeps.upd_cells ?_ swf_sset | refine Keeps.upd_shadow ?_ swf_sset | refine Keeps.upd_buf ?_ (wf_write _) | split | dsimp only)

theorem State.writeSnapArea_keeps {orig s : State} (h : Keeps orig s) {t v : Nat} :
    Keeps orig (State.writeSnapArea s t v).1 := by
  unfold State.writeSnapArea
  (try dsimp only)
  repeat' (first | with_reducible assumption | intro _ | with_reducible apply Keeps.ite | with_reducible apply Keeps.foldl | with_reducible apply Keeps.foldl_fst | with_reducible apply State.store_keeps | simp only [Keeps.upd_iff] | refine Keeps.upd_regs ?_ swf_sset | refine Keeps.upd_cells ?_ swf_sset | refine Keeps.upd_shadow ?_ swf_sset | refine Keeps.upd_buf ?_ (wf_write _) | split | dsimp only)

theorem State.writeSaved_keeps {orig s : State} (h : Keeps orig s) {t v : Nat} :
    Keeps orig (State.writeSaved s t v).1 := by
  unfold State.writeSaved
  (try dsimp only)
  repeat' (first | with_reducible assumption | intro _ | with_reducible apply Keeps.ite | with_reducible apply Keeps.foldl | with_reducible apply Keeps.foldl_fst | with_reducible apply State.storeIf_keeps | simp only [Keeps.upd_iff] | refine Keeps.upd_regs ?_ swf_sset | refine Keeps.upd_cells ?_ swf_sset | refine Keeps.upd_shadow ?_ swf_sset | refine Keeps.upd_buf ?_ (wf_write _) | split | dsimp only)

theorem State.resetGroup_keeps {orig s : State} (h : Keeps orig s) {g : Nat} :
    Keeps orig (State.resetGroup s g) := by
  unfold State.resetGroup
  (try dsimp only)
  repeat' (first | with_reducible assumption | intro _ | with_reducible apply Keeps.ite | with_reducible apply Keeps.foldl | with_reducible apply Keeps.foldl_fst | with_reducible apply State.setObj_keeps | with_reducible apply State.mapGroup_keeps | with_reducible apply State.elect_keeps | simp only [Keeps.upd_iff] | refine Keeps.upd_regs ?_ swf_sset | refine Keeps.upd_cells ?_ swf_sset | refine Keeps.upd_shadow ?_ swf_sset | refine Keeps.upd_buf ?_ (wf_write _) | split | dsimp only)

theorem State.rerouted_keeps {orig s : State} (h : Keeps orig s) {g : Nat} :
    Keeps orig (State.rerouted s g) := by
  unfold State.rerouted
  (try dsimp only)
  repeat' (first | with_reducible assumption | intro _ | with_reducible apply Keeps.ite | with_reducible apply Keeps.foldl | with_reducible apply Keeps.foldl_fst | with_reducible apply State.replyFirst_keeps | with_reducible apply State.allot_keeps | simp only [Keeps.upd_iff] | refine Keeps.upd_regs ?_ swf_sset | refine Keeps.upd_cells ?_ swf_sset | refine Keeps.upd_shadow ?_ swf_sset | refine Keeps.upd_buf ?_ (wf_write _) | split | dsimp only)

theorem State.writeGroup_keeps {orig s : State} (h : Keeps orig s) {g sub v : Nat} :
    Keeps orig (State.writeGroup s g sub v).1 := by
  unfold State.writeGroup
  (try dsimp only)
  repeat' (first | with_reducible assumption | intro _ | with_reducible apply Keeps.ite | with_reducible apply Keeps.foldl | with_reducible apply Keeps.foldl_fst | with_reducible apply State.setObj_keeps | with_reducible apply State.resetGroup_keeps | simp only [Keeps.upd_iff] | refine Keeps.upd_regs ?_ swf_sset | refine Keeps.upd_cells ?_ swf_sset | refine Keeps.upd_shadow ?_ swf_sset | refine Keeps.upd_buf ?_ (wf_write _) | split | dsimp only)

theorem State.writeRoute_keeps {orig s : State} (h : Keeps orig s) {g pp v : Nat} :
    Keeps orig (State.writeRoute s g pp v).1 := by
  unfold State.writeRoute
  (try dsimp only)
  repeat' (first | with_reducible assumption | intro _ | with_reducible apply Keeps.ite | with_reducible apply Keeps.foldl | with_reducible apply Keeps.foldl_fst | with_reducible apply State.setObj_keeps | with_reducible apply State.rerouted_keeps | simp only [Keeps.upd_iff] | refine Keeps.upd_regs ?_ swf_sset | refine Keeps.upd_cells ?_ swf_sset | refine Keeps.upd_shadow ?_ swf_sset | refine Keeps.upd_buf ?_ (wf_write _) | split | dsimp only)

theorem State.writeMode_keeps {orig s : State} (h : Keeps orig s) {p v : Nat} :
    Keeps orig (State.writeMode s p v).1 := by
  unfold State.writeMode
  (try dsimp only)
  repeat' (first | with_reducible assumption | intro _ | with_reducible apply Keeps.ite | with_reducible apply Keeps.foldl | with_reducible apply Keeps.foldl_fst | with_reducible apply State.setObj_keeps | with_reducible apply State.rerouted_keeps | simp only [Keeps.upd_iff] | refine Keeps.upd_regs ?_ swf_sset | refine Keeps.upd_cells ?_ swf_sset | refine Keeps.upd_shadow ?_ swf_sset | refine Keeps.upd_buf ?_ (wf_write _) | split | dsimp only)

theorem State.writePorts_keeps {orig s : State} (h : Keeps orig s) {index sub v : Nat} {r : State × Nat} (e : s.writePorts index sub v = some r) :
    Keeps orig r.1 := by
  unfold State.writePorts at e
  repeat' split at e
  all_goals first | obtain rfl := Option.some.inj e | exact absurd e (by simp)
  all_goals first
    | with_reducible assumption
    | (repeat' first | with_reducible assumption | with_reducible apply State.storeIf_keeps)

theorem State.writePower_keeps {orig s : State} (h : Keeps orig s) {index sub v : Nat} {r : State × Nat} (e : s.writePower index sub v = some r) :
    Keeps orig r.1 := by
  unfold State.writePower at e
  repeat' split at e
  all_goals first | obtain rfl := Option.some.inj e | exact absurd e (by simp)
  all_goals first
    | with_reducible assumption
    | (repeat' first | with_reducible assumption | with_reducible apply State.setCooling_keeps | with_reducible apply State.requestEnv_keeps | with_reducible apply State.requestCap_keeps | with_reducible apply State.refreshCores_keeps | with_reducible apply State.setObj_keeps | with_reducible apply State.requestRelease_keeps | with_reducible apply State.storeIf_keeps | with_reducible apply State.forceMargin_keeps | with_reducible apply State.pendMargin_keeps | with_reducible apply State.writeOffset_keeps | with_reducible apply State.requestSweep_keeps | with_reducible apply State.pendMap_keeps | with_reducible apply State.forceMap_keeps)

theorem State.writeTrust_keeps {orig s : State} (h : Keeps orig s) {x : Tran} {v : Nat} {r : State × Nat} (e : s.writeTrust x v = some r) :
    Keeps orig r.1 := by
  unfold State.writeTrust at e
  repeat' split at e
  all_goals first | obtain rfl := Option.some.inj e | exact absurd e (by simp)
  all_goals first
    | with_reducible assumption
    | (repeat' first | with_reducible assumption | with_reducible apply State.activate_keeps | with_reducible apply State.openTransfer_keeps | with_reducible apply State.verifyTransfer_keeps | with_reducible apply State.takeChunk_keeps | with_reducible apply State.writeDebug_keeps | with_reducible apply State.requestDrain_keeps | with_reducible apply State.writeMode_keeps | with_reducible apply State.writeTenant_keeps | with_reducible apply State.writeSnapArea_keeps | with_reducible apply State.writeSaved_keeps | with_reducible apply State.moveRange_keeps | with_reducible apply State.moveCore_keeps | with_reducible apply State.writeGroup_keeps | with_reducible apply State.writeRoute_keeps | with_reducible apply State.moveQuads_keeps)

theorem State.applyWrite_keeps {orig s : State} (h : Keeps orig s) {x : Tran} : Keeps orig (s.applyWrite x).1 := by
  unfold State.applyWrite
  dsimp only
  split
  · next r e => exact State.writePorts_keeps h e
  · split
    · next r e => exact State.writePower_keeps h e
    · split
      · next r e => exact State.writeTrust_keeps h e
      · exact State.store_keeps h

theorem State.tran_keeps {orig s : State} (h : Keeps orig s) {x : Tran} :
    Keeps orig (State.tran s x).1 := by
  unfold State.tran
  (try dsimp only)
  repeat' (first | with_reducible assumption | intro _ | with_reducible apply Keeps.ite | with_reducible apply Keeps.foldl | with_reducible apply Keeps.foldl_fst | with_reducible apply State.applyWrite_keeps | simp only [Keeps.upd_iff] | refine Keeps.upd_regs ?_ swf_sset | refine Keeps.upd_cells ?_ swf_sset | refine Keeps.upd_shadow ?_ swf_sset | refine Keeps.upd_buf ?_ (wf_write _) | split | dsimp only)

theorem State.afterAnswer_keeps {orig s : State} (h : Keeps orig s) {x : Tran} {status : Nat} :
    Keeps orig (State.afterAnswer s x status) := by
  unfold State.afterAnswer
  (try dsimp only)
  repeat' (first | with_reducible assumption | intro _ | with_reducible apply Keeps.ite | with_reducible apply Keeps.foldl | with_reducible apply Keeps.foldl_fst | with_reducible apply State.resetPort_keeps | with_reducible apply State.requestReset_keeps | simp only [Keeps.upd_iff] | refine Keeps.upd_regs ?_ swf_sset | refine Keeps.upd_cells ?_ swf_sset | refine Keeps.upd_shadow ?_ swf_sset | refine Keeps.upd_buf ?_ (wf_write _) | split | dsimp only)

theorem State.hearSource_keeps {orig s : State} (h : Keeps orig s) {src : Nat} :
    Keeps orig (State.hearSource s src) := by
  unfold State.hearSource
  (try dsimp only)
  repeat' (first | with_reducible assumption | intro _ | with_reducible apply Keeps.ite | with_reducible apply Keeps.foldl | with_reducible apply Keeps.foldl_fst | simp only [Keeps.upd_iff] | refine Keeps.upd_regs ?_ swf_sset | refine Keeps.upd_cells ?_ swf_sset | refine Keeps.upd_shadow ?_ swf_sset | refine Keeps.upd_buf ?_ (wf_write _) | split | dsimp only)

theorem State.putBucket_keeps {orig s : State} (h : Keeps orig s) {own : Bool} {b : Bucket} :
    Keeps orig (State.putBucket s own b) := by
  unfold State.putBucket
  (try dsimp only)
  repeat' (first | with_reducible assumption | intro _ | with_reducible apply Keeps.ite | with_reducible apply Keeps.foldl | with_reducible apply Keeps.foldl_fst | simp only [Keeps.upd_iff] | refine Keeps.upd_regs ?_ swf_sset | refine Keeps.upd_cells ?_ swf_sset | refine Keeps.upd_shadow ?_ swf_sset | refine Keeps.upd_buf ?_ (wf_write _) | split | dsimp only)

theorem State.flood_keeps {orig s : State} (h : Keeps orig s) {kind src : Nat} :
    Keeps orig (State.flood s kind src) := by
  unfold State.flood
  (try dsimp only)
  repeat' (first | with_reducible assumption | intro _ | with_reducible apply Keeps.ite | with_reducible apply Keeps.foldl | with_reducible apply Keeps.foldl_fst | with_reducible apply State.portEvent_keeps | simp only [Keeps.upd_iff] | refine Keeps.upd_regs ?_ swf_sset | refine Keeps.upd_cells ?_ swf_sset | refine Keeps.upd_shadow ?_ swf_sset | refine Keeps.upd_buf ?_ (wf_write _) | split | dsimp only)

theorem State.drawM_keeps {orig s : State} (h : Keeps orig s) {src : Nat} : Keeps orig (s.drawM src).1 := by
  unfold State.drawM
  extract_lets own r recent first m s1
  have h1 : Keeps orig s1 := h.upd
  clear_value s1 first recent
  split
  · exact State.putBucket_keeps h
  · exact State.flood_keeps (State.bump_keeps (State.putBucket_keeps h1))

theorem State.drawH_keeps {orig s : State} (h : Keeps orig s) {t : Nat} : Keeps orig (s.drawH t).1 := by
  unfold State.drawH
  extract_lets b r m s1
  have h1 : Keeps orig s1 := h.upd
  split
  · exact h1
  · exact State.bump_keeps h1

theorem State.keep_keeps {orig s : State} (h : Keeps orig s) {src xid w0 w1 : Nat} :
    Keeps orig (State.keep s src xid w0 w1) := by
  unfold State.keep
  (try dsimp only)
  repeat' (first | with_reducible assumption | intro _ | with_reducible apply Keeps.ite | with_reducible apply Keeps.foldl | with_reducible apply Keeps.foldl_fst | simp only [Keeps.upd_iff] | refine Keeps.upd_regs ?_ swf_sset | refine Keeps.upd_cells ?_ swf_sset | refine Keeps.upd_shadow ?_ swf_sset | refine Keeps.upd_buf ?_ (wf_write _) | split | dsimp only)

theorem State.serveM_keeps {orig s : State} (h : Keeps orig s) {src sport xid : Nat} {x : Tran} :
    Keeps orig (State.serveM s src sport xid x) := by
  unfold State.serveM
  (try dsimp only)
  repeat' (first | with_reducible assumption | intro _ | with_reducible apply Keeps.ite | with_reducible apply Keeps.foldl | with_reducible apply Keeps.foldl_fst | with_reducible apply State.emit_keeps | with_reducible apply State.tran_keeps | with_reducible apply State.afterAnswer_keeps | with_reducible apply State.drawM_keeps | with_reducible apply State.keep_keeps | simp only [Keeps.upd_iff] | refine Keeps.upd_regs ?_ swf_sset | refine Keeps.upd_cells ?_ swf_sset | refine Keeps.upd_shadow ?_ swf_sset | refine Keeps.upd_buf ?_ (wf_write _) | split | dsimp only)

theorem State.answerBad_keeps {orig s : State} (h : Keeps orig s) {dg : Datagram} {status w0 w1 : Nat} :
    Keeps orig (State.answerBad s dg status w0 w1) := by
  unfold State.answerBad
  (try dsimp only)
  repeat' (first | with_reducible assumption | intro _ | with_reducible apply Keeps.ite | with_reducible apply Keeps.foldl | with_reducible apply Keeps.foldl_fst | with_reducible apply State.emit_keeps | simp only [Keeps.upd_iff] | refine Keeps.upd_regs ?_ swf_sset | refine Keeps.upd_cells ?_ swf_sset | refine Keeps.upd_shadow ?_ swf_sset | refine Keeps.upd_buf ?_ (wf_write _) | split | dsimp only)

theorem State.retire_keeps {orig s : State} (h : Keeps orig s) {qs : List Nat} : Keeps orig (s.retire qs) := by
  unfold State.retire
  refine State.flushLoss_keeps (Keeps.upd_errs h (fun g => ?_))
  obtain ⟨h1, h2, h3, h4, h5⟩ := recordsKept_iff.mp g
  exact recordsKept_iff.mpr ⟨h1, h2, (List.filter_sublist.map _).nodup h3, fun u hu => h4 u ((List.mem_filter.mp hu).1), h5⟩

theorem State.takeEvack_keeps {orig s : State} (h : Keeps orig s) {src w0 w1 : Nat} :
    Keeps orig (State.takeEvack s src w0 w1) := by
  unfold State.takeEvack
  (try dsimp only)
  repeat' (first | with_reducible assumption | intro _ | with_reducible apply Keeps.ite | with_reducible apply Keeps.foldl | with_reducible apply Keeps.foldl_fst | with_reducible apply State.retire_keeps | simp only [Keeps.upd_iff] | refine Keeps.upd_regs ?_ swf_sset | refine Keeps.upd_cells ?_ swf_sset | refine Keeps.upd_shadow ?_ swf_sset | refine Keeps.upd_buf ?_ (wf_write _) | split | dsimp only)

theorem State.takeDatagram_keeps {orig s : State} (h : Keeps orig s) {dg : Datagram} :
    Keeps orig (State.takeDatagram s dg) := by
  unfold State.takeDatagram
  (try dsimp only)
  repeat' (first | with_reducible assumption | intro _ | with_reducible apply Keeps.ite | with_reducible apply Keeps.foldl | with_reducible apply Keeps.foldl_fst | with_reducible apply State.bump_keeps | with_reducible apply State.flood_keeps | with_reducible apply State.serveM_keeps | with_reducible apply State.answerBad_keeps | with_reducible apply State.takeEvack_keeps | simp only [Keeps.upd_iff] | refine Keeps.upd_regs ?_ swf_sset | refine Keeps.upd_cells ?_ swf_sset | refine Keeps.upd_shadow ?_ swf_sset | refine Keeps.upd_buf ?_ (wf_write _) | split | dsimp only)

theorem State.datagram_keeps {orig s : State} (h : Keeps orig s) {dg : Datagram} :
    Keeps orig (State.datagram s dg) := by
  unfold State.datagram
  (try dsimp only)
  repeat' (first | with_reducible assumption | intro _ | with_reducible apply Keeps.ite | with_reducible apply Keeps.foldl | with_reducible apply Keeps.foldl_fst | with_reducible apply State.hearSource_keeps | with_reducible apply State.takeDatagram_keeps | with_reducible apply State.bump_keeps | with_reducible apply State.flood_keeps | with_reducible apply State.serveM_keeps | with_reducible apply State.answerBad_keeps | with_reducible apply State.takeEvack_keeps | simp only [Keeps.upd_iff] | refine Keeps.upd_regs ?_ swf_sset | refine Keeps.upd_cells ?_ swf_sset | refine Keeps.upd_shadow ?_ swf_sset | refine Keeps.upd_buf ?_ (wf_write _) | split | dsimp only)

theorem State.toHub_keeps {orig s : State} (h : Keeps orig s) {f : Flying} :
    Keeps orig (State.toHub s f) := by
  unfold State.toHub
  (try dsimp only)
  repeat' (first | with_reducible assumption | intro _ | with_reducible apply Keeps.ite | with_reducible apply Keeps.foldl | with_reducible apply Keeps.foldl_fst | with_reducible apply State.emit_keeps | simp only [Keeps.upd_iff] | refine Keeps.upd_regs ?_ swf_sset | refine Keeps.upd_cells ?_ swf_sset | refine Keeps.upd_shadow ?_ swf_sset | refine Keeps.upd_buf ?_ (wf_write _) | split | dsimp only)

theorem State.sendNew_keeps {orig s : State} (h : Keeps orig s) {f : Flying} :
    Keeps orig (State.sendNew s f) := by
  unfold State.sendNew
  (try dsimp only)
  repeat' (first | with_reducible assumption | intro _ | with_reducible apply Keeps.ite | with_reducible apply Keeps.foldl | with_reducible apply Keeps.foldl_fst | with_reducible apply State.bump_keeps | with_reducible apply State.toHub_keeps | simp only [Keeps.upd_iff] | refine Keeps.upd_regs ?_ swf_sset | refine Keeps.upd_cells ?_ swf_sset | refine Keeps.upd_shadow ?_ swf_sset | refine Keeps.upd_buf ?_ (wf_write _) | split | dsimp only)

theorem State.noticed_keeps {orig s : State} (h : Keeps orig s) {k : Nat} :
    Keeps orig (State.noticed s k) := by
  unfold State.noticed
  (try dsimp only)
  repeat' (first | with_reducible assumption | intro _ | with_reducible apply Keeps.ite | with_reducible apply Keeps.foldl | with_reducible apply Keeps.foldl_fst | simp only [Keeps.upd_iff] | refine Keeps.upd_regs ?_ swf_sset | refine Keeps.upd_cells ?_ swf_sset | refine Keeps.upd_shadow ?_ swf_sset | refine Keeps.upd_buf ?_ (wf_write _) | split | dsimp only)

theorem State.answerIcmp_keeps {orig s : State} (h : Keeps orig s) {src : Nat} {o : Out} :
    Keeps orig (State.answerIcmp s src o) := by
  unfold State.answerIcmp
  (try dsimp only)
  repeat' (first | with_reducible assumption | intro _ | with_reducible apply Keeps.ite | with_reducible apply Keeps.foldl | with_reducible apply Keeps.foldl_fst | with_reducible apply State.emit_keeps | with_reducible apply State.flood_keeps | simp only [Keeps.upd_iff] | refine Keeps.upd_regs ?_ swf_sset | refine Keeps.upd_cells ?_ swf_sset | refine Keeps.upd_shadow ?_ swf_sset | refine Keeps.upd_buf ?_ (wf_write _) | split | dsimp only)

theorem State.request_keeps {orig s : State} (h : Keeps orig s) {r : Req} {index sub : Nat} :
    Keeps orig (State.request s r index sub) := by
  unfold State.request
  (try dsimp only)
  repeat' (first | with_reducible assumption | intro _ | with_reducible apply Keeps.ite | with_reducible apply Keeps.foldl | with_reducible apply Keeps.foldl_fst | with_reducible apply State.emit_keeps | with_reducible apply State.tran_keeps | with_reducible apply State.afterAnswer_keeps | with_reducible apply State.drawH_keeps | with_reducible apply State.serveM_keeps | simp only [Keeps.upd_iff] | refine Keeps.upd_regs ?_ swf_sset | refine Keeps.upd_cells ?_ swf_sset | refine Keeps.upd_shadow ?_ swf_sset | refine Keeps.upd_buf ?_ (wf_write _) | split | dsimp only)

theorem State.sendImage_keeps {orig : State} {id : Nat} {k : Nat} :
    ∀ {s : State} {i : Nat}, Keeps orig s → Keeps orig (s.sendImage id i k).1 := by
  induction k with
  | zero => intro s i h; exact h
  | succ k ih =>
    intro s i h
    unfold State.sendImage
    split
    · exact h
    · dsimp only
      split
      · exact ih (State.sendWrites_keeps h)
      · exact h

theorem State.savedCell_keeps {orig s : State} (h : Keeps orig s) {tenant q : Nat} {t : TileRef} {row j : Nat} {k : Cell} :
    Keeps orig (State.savedCell s tenant q t row j k) := by
  unfold State.savedCell
  (try dsimp only)
  repeat' (first | with_reducible assumption | intro _ | with_reducible apply Keeps.ite | with_reducible apply Keeps.foldl | with_reducible apply Keeps.foldl_fst | with_reducible apply State.bump_keeps | with_reducible apply State.event_keeps | simp only [Keeps.upd_iff] | refine Keeps.upd_regs ?_ swf_sset | refine Keeps.upd_cells ?_ swf_sset | refine Keeps.upd_shadow ?_ swf_sset | refine Keeps.upd_buf ?_ (wf_write _) | split | dsimp only)

theorem State.savedPart_keeps {orig s : State} (h : Keeps orig s) {o : Op} {faults : List ReadFault} {t : TileRef} :
    Keeps orig (State.savedPart s o faults t) := by
  unfold State.savedPart
  (try dsimp only)
  repeat' (first | with_reducible assumption | intro _ | with_reducible apply Keeps.ite | with_reducible apply Keeps.foldl | with_reducible apply Keeps.foldl_fst | with_reducible apply State.checkRead_keeps | with_reducible apply State.savedCell_keeps | with_reducible apply State.checkRead_keeps | simp only [Keeps.upd_iff] | refine Keeps.upd_regs ?_ swf_sset | refine Keeps.upd_cells ?_ swf_sset | refine Keeps.upd_shadow ?_ swf_sset | refine Keeps.upd_buf ?_ (wf_write _) | split | dsimp only)

theorem State.savedChecks_keeps {orig s : State} (h : Keeps orig s) {o : Op} {faults : List ReadFault} :
    Keeps orig (State.savedChecks s o faults) := by
  unfold State.savedChecks
  (try dsimp only)
  repeat' (first | with_reducible assumption | intro _ | with_reducible apply Keeps.ite | with_reducible apply Keeps.foldl | with_reducible apply Keeps.foldl_fst | with_reducible apply State.parityEvents_keeps | with_reducible apply State.savedPart_keeps | simp only [Keeps.upd_iff] | refine Keeps.upd_regs ?_ swf_sset | refine Keeps.upd_cells ?_ swf_sset | refine Keeps.upd_shadow ?_ swf_sset | refine Keeps.upd_buf ?_ (wf_write _) | split | dsimp only)

theorem State.beginSave_keeps {orig s : State} (h : Keeps orig s) {o : Op} {faults : List ReadFault} :
    Keeps orig (State.beginSave s o faults) := by
  unfold State.beginSave
  (try dsimp only)
  repeat' (first | with_reducible assumption | intro _ | with_reducible apply Keeps.ite | with_reducible apply Keeps.foldl | with_reducible apply Keeps.foldl_fst | with_reducible apply State.mapOp_keeps | with_reducible apply State.savedChecks_keeps | simp only [Keeps.upd_iff] | refine Keeps.upd_regs ?_ swf_sset | refine Keeps.upd_cells ?_ swf_sset | refine Keeps.upd_shadow ?_ swf_sset | refine Keeps.upd_buf ?_ (wf_write _) | split | dsimp only)

theorem State.workSave_keeps {orig s : State} (h : Keeps orig s) {o : Op} {faults : List ReadFault} :
    Keeps orig (s.workSave o faults) := by
  have h1 : Keeps orig (if o.got = 0 then s.beginSave o faults else s) := Keeps.ite (State.beginSave_keeps h) h
  unfold State.workSave
  dsimp only
  split
  · exact h1
  · exact State.mapOp_keeps (State.sendImage_keeps h1)

/-- Weights placed keep the canonical form of their table. -/
theorem swf_placeCells {s : State} {tbl : Sparse Cell} {t : TileRef} {cs : List Cell} (h : swf .zero tbl = true) :
    swf .zero (s.placeCells tbl t cs) = true := by
  unfold State.placeCells
  refine List.foldlRecOn _ _ h (motive := fun m => swf Cell.zero m = true) fun m hm c _ => ?_
  split
  · exact hm
  · exact swf_sset hm

theorem State.takePart_keeps {orig s old : State} (h : Keeps orig s) {tenant : Nat} {p : PartRead} : Keeps orig (s.takePart old tenant p) := by
  have h1 : Keeps orig ({ s with cells := s.placeCells s.cells p.t p.st, shadow := s.placeCells s.shadow p.t p.sh } : State) := by
    refine h.trans ⟨rfl, rfl, fun g => ?_, Or.inl rfl, List.prefix_rfl⟩
    obtain ⟨⟨b, r, t, c, sh, co, ch, q, sp, gr⟩, e⟩ := good_iff.mp g
    exact good_iff.mpr ⟨⟨b, r, t, swf_placeCells c, swf_placeCells sh, co, ch, q, sp, gr⟩, e⟩
  unfold State.takePart
  exact State.mapTile_keeps (Keeps.foldl (fun s x hs => State.restoreReg_keeps (Keeps.setReg hs)) h1)

theorem State.takeSwr_keeps {orig s : State} (h : Keeps orig s) {swr : Nat} {ts : List TileRef} :
    Keeps orig (State.takeSwr s swr ts) := by
  unfold State.takeSwr
  (try dsimp only)
  repeat' (first | with_reducible assumption | intro _ | with_reducible apply Keeps.ite | with_reducible apply Keeps.foldl | with_reducible apply Keeps.foldl_fst | simp only [Keeps.upd_iff] | refine Keeps.upd_regs ?_ swf_sset | refine Keeps.upd_cells ?_ swf_sset | refine Keeps.upd_shadow ?_ swf_sset | refine Keeps.upd_buf ?_ (wf_write _) | split | dsimp only)

theorem State.takeChain_keeps {orig s : State} (h : Keeps orig s) {id : Nat} {ch : ChainId} {w0 w1 : W64} :
    Keeps orig (State.takeChain s id ch w0 w1) := by
  unfold State.takeChain
  (try dsimp only)
  repeat' (first | with_reducible assumption | intro _ | with_reducible apply Keeps.ite | with_reducible apply Keeps.foldl | with_reducible apply Keeps.foldl_fst | with_reducible apply Keeps.setChain | simp only [Keeps.upd_iff] | refine Keeps.upd_regs ?_ swf_sset | refine Keeps.upd_cells ?_ swf_sset | refine Keeps.upd_shadow ?_ swf_sset | refine Keeps.upd_buf ?_ (wf_write _) | split | dsimp only)

theorem State.takeChains_keeps {orig s : State} (h : Keeps orig s) {id : Nat} {bs : List Byte} {x : Section} {c : Nat} :
    Keeps orig (State.takeChains s id bs x c) := by
  unfold State.takeChains
  (try dsimp only)
  repeat' (first | with_reducible assumption | intro _ | with_reducible apply Keeps.ite | with_reducible apply Keeps.foldl | with_reducible apply Keeps.foldl_fst | with_reducible apply State.takeChain_keeps | simp only [Keeps.upd_iff] | refine Keeps.upd_regs ?_ swf_sset | refine Keeps.upd_cells ?_ swf_sset | refine Keeps.upd_shadow ?_ swf_sset | refine Keeps.upd_buf ?_ (wf_write _) | split | dsimp only)

theorem State.takeSection_keeps {orig s : State} (h : Keeps orig s) {old : State} {o : Op} {bs : List Byte} {x : Section} {c : Nat} {ps : List (EngRec × List PartRead)} :
    Keeps orig (State.takeSection s old o bs x c ps) := by
  unfold State.takeSection
  (try dsimp only)
  repeat' (first | with_reducible assumption | intro _ | with_reducible apply Keeps.ite | with_reducible apply Keeps.foldl | with_reducible apply Keeps.foldl_fst | with_reducible apply Keeps.setCore | with_reducible apply State.takePart_keeps | with_reducible apply State.takeSwr_keeps | with_reducible apply State.takeChains_keeps | simp only [Keeps.upd_iff] | refine Keeps.upd_regs ?_ swf_sset | refine Keeps.upd_cells ?_ swf_sset | refine Keeps.upd_shadow ?_ swf_sset | refine Keeps.upd_buf ?_ (wf_write _) | split | dsimp only)

theorem State.clearPart_keeps {orig s : State} (h : Keeps orig s) {t : TileRef} : Keeps orig (s.clearPart t) := by
  refine h.trans ⟨rfl, rfl, fun g => ?_, Or.inl rfl, List.prefix_rfl⟩
  obtain ⟨⟨b, r, q, c, sh, co, ch, p, sp, gr⟩, e⟩ := good_iff.mp g
  unfold State.clearPart
  exact good_iff.mpr ⟨⟨b, swf_filter r, swf_filter q, swf_filter c, swf_filter sh, co, swf_emptyChains (f := fun k => if k % 8 = 0 then s.chainHas k t.n
    else k / 128 * 16 + k / 8 % 16 == t.n && (t.q == 0 || k % 8 == t.q)) ch, p, sp, gr⟩, e⟩

theorem State.clearHeld_keeps {orig s : State} (h : Keeps orig s) {o : Op} :
    Keeps orig (State.clearHeld s o) := by
  unfold State.clearHeld
  (try dsimp only)
  repeat' (first | with_reducible assumption | intro _ | with_reducible apply Keeps.ite | with_reducible apply Keeps.foldl | with_reducible apply Keeps.foldl_fst | with_reducible apply State.clearCore_keeps | with_reducible apply State.clearPart_keeps | simp only [Keeps.upd_iff] | refine Keeps.upd_regs ?_ swf_sset | refine Keeps.upd_cells ?_ swf_sset | refine Keeps.upd_shadow ?_ swf_sset | refine Keeps.upd_buf ?_ (wf_write _) | split | dsimp only)

theorem State.takeBuffers_keeps {orig s : State} (h : Keeps orig s) {o : Op} {im : ImgRead} {bs : List Byte} {bad : Nat → Bool} :
    Keeps orig (State.takeBuffers s o im bs bad) := by
  unfold State.takeBuffers
  (try dsimp only)
  repeat' (first | with_reducible assumption | intro _ | with_reducible apply Keeps.ite | with_reducible apply Keeps.foldl | with_reducible apply Keeps.foldl_fst | simp only [Keeps.upd_iff] | refine Keeps.upd_regs ?_ swf_sset | refine Keeps.upd_cells ?_ swf_sset | refine Keeps.upd_shadow ?_ swf_sset | refine Keeps.upd_buf ?_ (wf_write _) | split | dsimp only)

theorem State.replanLater_keeps {orig s : State} (h : Keeps orig s) {id t : Nat} :
    Keeps orig (State.replanLater s id t) := by
  unfold State.replanLater
  (try dsimp only)
  repeat' (first | with_reducible assumption | intro _ | with_reducible apply Keeps.ite | with_reducible apply Keeps.foldl | with_reducible apply Keeps.foldl_fst | with_reducible apply State.planTiles_keeps | with_reducible apply State.planSets_keeps | simp only [Keeps.upd_iff] | refine Keeps.upd_regs ?_ swf_sset | refine Keeps.upd_cells ?_ swf_sset | refine Keeps.upd_shadow ?_ swf_sset | refine Keeps.upd_buf ?_ (wf_write _) | split | dsimp only)

theorem State.doRestore_keeps {orig s : State} (h : Keeps orig s) {o : Op} :
    Keeps orig (State.doRestore s o) := by
  unfold State.doRestore
  (try dsimp only)
  repeat' (first | with_reducible assumption | intro _ | with_reducible apply Keeps.ite | with_reducible apply Keeps.foldl | with_reducible apply Keeps.foldl_fst | with_reducible apply State.setObj_keeps | with_reducible apply State.mapOp_keeps | with_reducible apply State.takeSection_keeps | with_reducible apply State.clearHeld_keeps | with_reducible apply State.takeBuffers_keeps | with_reducible apply State.replanLater_keeps | simp only [Keeps.upd_iff] | refine Keeps.upd_regs ?_ swf_sset | refine Keeps.upd_cells ?_ swf_sset | refine Keeps.upd_shadow ?_ swf_sset | refine Keeps.upd_buf ?_ (wf_write _) | split | dsimp only)

theorem State.deliver_keeps {orig s : State} (h : Keeps orig s) {o : Op} :
    Keeps orig (State.deliver s o) := by
  unfold State.deliver
  (try dsimp only)
  repeat' (first | with_reducible assumption | intro _ | with_reducible apply Keeps.ite | with_reducible apply Keeps.foldl | with_reducible apply Keeps.foldl_fst | with_reducible apply State.mapOp_keeps | with_reducible apply State.respond_keeps | with_reducible apply State.finishOp_keeps | with_reducible apply State.dropJobs_keeps | simp only [Keeps.upd_iff] | refine Keeps.upd_regs ?_ swf_sset | refine Keeps.upd_cells ?_ swf_sset | refine Keeps.upd_shadow ?_ swf_sset | refine Keeps.upd_buf ?_ (wf_write _) | split | dsimp only)

theorem State.workClear_keeps {orig s : State} (h : Keeps orig s) {o : Op} :
    Keeps orig (State.workClear s o) := by
  unfold State.workClear
  (try dsimp only)
  repeat' (first | with_reducible assumption | intro _ | with_reducible apply Keeps.ite | with_reducible apply Keeps.foldl | with_reducible apply Keeps.foldl_fst | with_reducible apply State.mapOp_keeps | with_reducible apply State.dropOp_keeps | with_reducible apply State.clearRows_keeps | simp only [Keeps.upd_iff] | refine Keeps.upd_regs ?_ swf_sset | refine Keeps.upd_cells ?_ swf_sset | refine Keeps.upd_shadow ?_ swf_sset | refine Keeps.upd_buf ?_ (wf_write _) | split | dsimp only)

theorem State.settle_keeps {orig s : State} (h : Keeps orig s)  :
    Keeps orig (State.settle s) := by
  unfold State.settle
  (try dsimp only)
  repeat' (first | with_reducible assumption | intro _ | with_reducible apply Keeps.ite | with_reducible apply Keeps.foldl | with_reducible apply Keeps.foldl_fst | with_reducible apply State.closeRegions_keeps | with_reducible apply State.confirmNow_keeps | with_reducible apply State.settleRanges_keeps | with_reducible apply State.workClear_keeps | simp only [Keeps.upd_iff] | refine Keeps.upd_regs ?_ swf_sset | refine Keeps.upd_cells ?_ swf_sset | refine Keeps.upd_shadow ?_ swf_sset | refine Keeps.upd_buf ?_ (wf_write _) | split | dsimp only)

theorem State.poisonEntered_keeps {orig s : State} (h : Keeps orig s) {o : Op} :
    Keeps orig (State.poisonEntered s o) := by
  unfold State.poisonEntered
  (try dsimp only)
  repeat' (first | with_reducible assumption | intro _ | with_reducible apply Keeps.ite | with_reducible apply Keeps.foldl | with_reducible apply Keeps.foldl_fst | with_reducible apply State.mapRegs_keeps | with_reducible apply State.poisonRecords_keeps | simp only [Keeps.upd_iff] | refine Keeps.upd_regs ?_ swf_sset | refine Keeps.upd_cells ?_ swf_sset | refine Keeps.upd_shadow ?_ swf_sset | refine Keeps.upd_buf ?_ (wf_write _) | split | dsimp only)

theorem State.endStopped_keeps {orig s : State} (h : Keeps orig s) {o : Op} :
    Keeps orig (State.endStopped s o) := by
  unfold State.endStopped
  (try dsimp only)
  repeat' (first | with_reducible assumption | intro _ | with_reducible apply Keeps.ite | with_reducible apply Keeps.foldl | with_reducible apply Keeps.foldl_fst | with_reducible apply State.finishOp_keeps | with_reducible apply State.sweepUnread_keeps | with_reducible apply State.clearScratch_keeps | with_reducible apply State.reopenRegions_keeps | with_reducible apply State.poisonEntered_keeps | simp only [Keeps.upd_iff] | refine Keeps.upd_regs ?_ swf_sset | refine Keeps.upd_cells ?_ swf_sset | refine Keeps.upd_shadow ?_ swf_sset | refine Keeps.upd_buf ?_ (wf_write _) | split | dsimp only)

theorem State.ownerRead_keeps {orig s : State} (h : Keeps orig s) {o : Op} {t : TileRef} {rk : Nat} {x : ReadOutcome} :
    Keeps orig (State.ownerRead s o t rk x) := by
  unfold State.ownerRead
  (try dsimp only)
  repeat' (first | with_reducible assumption | intro _ | with_reducible apply Keeps.ite | with_reducible apply Keeps.foldl | with_reducible apply Keeps.foldl_fst | with_reducible apply Keeps.setReg | with_reducible apply State.mapOp_keeps | with_reducible apply State.drawFree_keeps | with_reducible apply State.readFailed_keeps | simp only [Keeps.upd_iff] | refine Keeps.upd_regs ?_ swf_sset | refine Keeps.upd_cells ?_ swf_sset | refine Keeps.upd_shadow ?_ swf_sset | refine Keeps.upd_buf ?_ (wf_write _) | split | dsimp only)

theorem State.resultElem_keeps {orig s : State} (h : Keeps orig s) {o : Op} {r : Range} {faults : List ReadFault} {k : Nat} :
    Keeps orig (State.resultElem s o r faults k).1 := by
  unfold State.resultElem
  (try dsimp only)
  repeat' (first | with_reducible assumption | intro _ | with_reducible apply Keeps.ite | with_reducible apply Keeps.foldl | with_reducible apply Keeps.foldl_fst | with_reducible apply State.ownerRead_keeps | simp only [Keeps.upd_iff] | refine Keeps.upd_regs ?_ swf_sset | refine Keeps.upd_cells ?_ swf_sset | refine Keeps.upd_shadow ?_ swf_sset | refine Keeps.upd_buf ?_ (wf_write _) | split | dsimp only)

theorem State.resultElems_keeps {orig s : State} (h : Keeps orig s) {o : Op} {r : Range} {faults : List ReadFault} {off n : Nat} :
    Keeps orig (State.resultElems s o r faults off n).1 := by
  unfold State.resultElems
  (try dsimp only)
  repeat' (first | with_reducible assumption | intro _ | with_reducible apply Keeps.ite | with_reducible apply Keeps.foldl | with_reducible apply Keeps.foldl_fst | with_reducible apply State.resultElem_keeps | simp only [Keeps.upd_iff] | refine Keeps.upd_regs ?_ swf_sset | refine Keeps.upd_cells ?_ swf_sset | refine Keeps.upd_shadow ?_ swf_sset | refine Keeps.upd_buf ?_ (wf_write _) | split | dsimp only)

theorem State.convertRange_keeps {orig s : State} (h : Keeps orig s) {o : Op} {r : Range} {faults : List ReadFault} :
    Keeps orig (State.convertRange s o r faults) := by
  unfold State.convertRange
  (try dsimp only)
  repeat' (first | with_reducible assumption | intro _ | with_reducible apply Keeps.ite | with_reducible apply Keeps.foldl | with_reducible apply Keeps.foldl_fst | with_reducible apply State.bump_keeps | with_reducible apply State.mapOp_keeps | with_reducible apply State.addJob_keeps | with_reducible apply State.resultElems_keeps | simp only [Keeps.upd_iff] | refine Keeps.upd_regs ?_ swf_sset | refine Keeps.upd_cells ?_ swf_sset | refine Keeps.upd_shadow ?_ swf_sset | refine Keeps.upd_buf ?_ (wf_write _) | split | dsimp only)

theorem State.writeResults_keeps {orig : State} {id : Nat} {n : Nat} : ∀ {s : State}, Keeps orig s → Keeps orig (State.writeResults s id n) := by
  induction n with
  | zero => intro s h; unfold State.writeResults; exact h
  | succ k ih =>
    intro s h
    unfold State.writeResults
    (try dsimp only)
    repeat' (first | with_reducible assumption | intro _ | with_reducible apply Keeps.ite | with_reducible apply ih | with_reducible apply Keeps.foldl | with_reducible apply Keeps.foldl_fst | with_reducible apply State.mapOp_keeps | with_reducible apply State.writeTensor_keeps | simp only [Keeps.upd_iff] | refine Keeps.upd_regs ?_ swf_sset | refine Keeps.upd_cells ?_ swf_sset | refine Keeps.upd_shadow ?_ swf_sset | refine Keeps.upd_buf ?_ (wf_write _) | split | dsimp only)

theorem State.finishOwner_keeps {orig s : State} (h : Keeps orig s) {o : Op} {r : Range} :
    Keeps orig (State.finishOwner s o r) := by
  unfold State.finishOwner
  (try dsimp only)
  repeat' (first | with_reducible assumption | intro _ | with_reducible apply Keeps.ite | with_reducible apply Keeps.foldl | with_reducible apply Keeps.foldl_fst | with_reducible apply State.endRanges_keeps | with_reducible apply State.mapRange_keeps | with_reducible apply State.deliver_keeps | simp only [Keeps.upd_iff] | refine Keeps.upd_regs ?_ swf_sset | refine Keeps.upd_cells ?_ swf_sset | refine Keeps.upd_shadow ?_ swf_sset | refine Keeps.upd_buf ?_ (wf_write _) | split | dsimp only)

theorem State.workOwner_keeps {orig s : State} (h : Keeps orig s) {o : Op} {faults : List ReadFault} :
    Keeps orig (State.workOwner s o faults) := by
  unfold State.workOwner
  (try dsimp only)
  repeat' (first | with_reducible assumption | intro _ | with_reducible apply Keeps.ite | with_reducible apply Keeps.foldl | with_reducible apply Keeps.foldl_fst | with_reducible apply State.deliver_keeps | with_reducible apply State.convertRange_keeps | with_reducible apply State.writeResults_keeps | with_reducible apply State.finishOwner_keeps | simp only [Keeps.upd_iff] | refine Keeps.upd_regs ?_ swf_sset | refine Keeps.upd_cells ?_ swf_sset | refine Keeps.upd_shadow ?_ swf_sset | refine Keeps.upd_buf ?_ (wf_write _) | split | dsimp only)

theorem State.answerDict_keeps {orig s : State} (h : Keeps orig s) {o : Op} {status : Nat} :
    Keeps orig (State.answerDict s o status) := by
  unfold State.answerDict
  (try dsimp only)
  repeat' (first | with_reducible assumption | intro _ | with_reducible apply Keeps.ite | with_reducible apply Keeps.foldl | with_reducible apply Keeps.foldl_fst | with_reducible apply State.mapOp_keeps | with_reducible apply State.deliver_keeps | simp only [Keeps.upd_iff] | refine Keeps.upd_regs ?_ swf_sset | refine Keeps.upd_cells ?_ swf_sset | refine Keeps.upd_shadow ?_ swf_sset | refine Keeps.upd_buf ?_ (wf_write _) | split | dsimp only)

theorem State.readWords_keeps {orig s : State} (h : Keeps orig s) {v : List Byte} :
    Keeps orig (State.readWords s v) := by
  unfold State.readWords
  (try dsimp only)
  repeat' (first | with_reducible assumption | intro _ | with_reducible apply Keeps.ite | with_reducible apply Keeps.foldl | with_reducible apply Keeps.foldl_fst | simp only [Keeps.upd_iff] | refine Keeps.upd_regs ?_ swf_sset | refine Keeps.upd_cells ?_ swf_sset | refine Keeps.upd_shadow ?_ swf_sset | refine Keeps.upd_buf ?_ (wf_write _) | split | dsimp only)

theorem State.dictReads_keeps {orig s : State} (h : Keeps orig s) {o : Op} {status : Nat} {v : List Byte} :
    Keeps orig (State.dictReads s o status v) := by
  unfold State.dictReads
  (try dsimp only)
  repeat' (first | with_reducible assumption | intro _ | with_reducible apply Keeps.ite | with_reducible apply Keeps.foldl | with_reducible apply Keeps.foldl_fst | with_reducible apply State.mapOp_keeps | with_reducible apply State.writeTensor_keeps | with_reducible apply State.answerDict_keeps | with_reducible apply State.readWords_keeps | simp only [Keeps.upd_iff] | refine Keeps.upd_regs ?_ swf_sset | refine Keeps.upd_cells ?_ swf_sset | refine Keeps.upd_shadow ?_ swf_sset | refine Keeps.upd_buf ?_ (wf_write _) | split | dsimp only)

theorem State.dictParity_keeps {orig s : State} (h : Keeps orig s) {o : Op} :
    Keeps orig (State.dictParity s o) := by
  unfold State.dictParity
  (try dsimp only)
  repeat' (first | with_reducible assumption | intro _ | with_reducible apply Keeps.ite | with_reducible apply Keeps.foldl | with_reducible apply Keeps.foldl_fst | with_reducible apply State.parityEvents_keeps | simp only [Keeps.upd_iff] | refine Keeps.upd_regs ?_ swf_sset | refine Keeps.upd_cells ?_ swf_sset | refine Keeps.upd_shadow ?_ swf_sset | refine Keeps.upd_buf ?_ (wf_write _) | split | dsimp only)

theorem State.workDict_keeps {orig s : State} (h : Keeps orig s) {o : Op} :
    Keeps orig (State.workDict s o) := by
  unfold State.workDict
  (try dsimp only)
  repeat' (first | with_reducible assumption | intro _ | with_reducible apply Keeps.ite | with_reducible apply Keeps.foldl | with_reducible apply Keeps.foldl_fst | with_reducible apply State.tran_keeps | with_reducible apply State.afterAnswer_keeps | with_reducible apply State.drawH_keeps | with_reducible apply State.deliver_keeps | with_reducible apply State.answerDict_keeps | with_reducible apply State.dictReads_keeps | with_reducible apply State.dictParity_keeps | simp only [Keeps.upd_iff] | refine Keeps.upd_regs ?_ swf_sset | refine Keeps.upd_cells ?_ swf_sset | refine Keeps.upd_shadow ?_ swf_sset | refine Keeps.upd_buf ?_ (wf_write _) | split | dsimp only)

theorem State.workContext_keeps {orig s : State} (h : Keeps orig s) {o : Op} {faults : List ReadFault} :
    Keeps orig (State.workContext s o faults) := by
  unfold State.workContext
  (try dsimp only)
  repeat' (first | with_reducible assumption | intro _ | with_reducible apply Keeps.ite | with_reducible apply Keeps.foldl | with_reducible apply Keeps.foldl_fst | with_reducible apply State.workSave_keeps | with_reducible apply State.doRestore_keeps | with_reducible apply State.deliver_keeps | simp only [Keeps.upd_iff] | refine Keeps.upd_regs ?_ swf_sset | refine Keeps.upd_cells ?_ swf_sset | refine Keeps.upd_shadow ?_ swf_sset | refine Keeps.upd_buf ?_ (wf_write _) | split | dsimp only)

theorem State.workOp_keeps {orig s : State} (h : Keeps orig s) {o : Op} {faults : List ReadFault} :
    Keeps orig (State.workOp s o faults) := by
  unfold State.workOp
  (try dsimp only)
  repeat' (first | with_reducible assumption | intro _ | with_reducible apply Keeps.ite | with_reducible apply Keeps.foldl | with_reducible apply Keeps.foldl_fst | with_reducible apply State.deliver_keeps | with_reducible apply State.workClear_keeps | with_reducible apply State.endStopped_keeps | with_reducible apply State.workOwner_keeps | with_reducible apply State.workDict_keeps | with_reducible apply State.workContext_keeps | simp only [Keeps.upd_iff] | refine Keeps.upd_regs ?_ swf_sset | refine Keeps.upd_cells ?_ swf_sset | refine Keeps.upd_shadow ?_ swf_sset | refine Keeps.upd_buf ?_ (wf_write _) | split | dsimp only)

theorem State.slip_keeps {orig s : State} (h : Keeps orig s)  :
    Keeps orig (State.slip s) := by
  unfold State.slip
  (try dsimp only)
  repeat' (first | with_reducible assumption | intro _ | with_reducible apply Keeps.ite | with_reducible apply Keeps.foldl | with_reducible apply Keeps.foldl_fst | with_reducible apply State.slipUp_keeps | simp only [Keeps.upd_iff] | refine Keeps.upd_regs ?_ swf_sset | refine Keeps.upd_cells ?_ swf_sset | refine Keeps.upd_shadow ?_ swf_sset | refine Keeps.upd_buf ?_ (wf_write _) | split | dsimp only)

theorem State.meterStep_keeps {orig s : State} (h : Keeps orig s)  :
    Keeps orig (State.meterStep s) := by
  unfold State.meterStep
  (try dsimp only)
  repeat' (first | with_reducible assumption | intro _ | with_reducible apply Keeps.ite | with_reducible apply Keeps.foldl | with_reducible apply Keeps.foldl_fst | simp only [Keeps.upd_iff] | refine Keeps.upd_regs ?_ swf_sset | refine Keeps.upd_cells ?_ swf_sset | refine Keeps.upd_shadow ?_ swf_sset | refine Keeps.upd_buf ?_ (wf_write _) | split | dsimp only)

end Sys2Proof.Machine
end

