-- ==== Sys2Proof/Laws/KeepExec.lean ====
section
/-! SUPPORT. Every command keeps a good state good, the queue and the configuration. -/

namespace Sys2Proof.Machine

/-- What a command answers keeps: its next state, if it has one. -/
def OutKeeps (orig : State) : Host.Outcome State Fault Refusal → Prop
  | .next t => Keeps orig t
  | _ => True

/-- A next state that keeps. -/
theorem OutKeeps.next {orig t : State} (h : Keeps orig t) : OutKeeps orig (.next t) := h

/-- A fault has no next state. -/
theorem OutKeeps.fault {orig : State} {f : Fault} : OutKeeps orig (.fault f) := trivial

/-- A choice of two answers that keep. -/
theorem OutKeeps.ite {orig : State} {a b : Host.Outcome State Fault Refusal} {c : Prop} [Decidable c] (ha : OutKeeps orig a)
    (hb : OutKeeps orig b) : OutKeeps orig (if c then a else b) := by
  split <;> assumption

theorem execShadowRowWrite_keeps {orig s : State} (h : Keeps orig s) {ch : ChainId} {eng row : Nat} :
    OutKeeps orig (execShadowRowWrite ch eng row s) := by
  unfold execShadowRowWrite
  (try dsimp only)
  repeat' (first | with_reducible assumption | intro _ | with_reducible exact OutKeeps.fault | with_reducible apply OutKeeps.ite | with_reducible apply OutKeeps.next | with_reducible apply Keeps.ite | with_reducible apply Keeps.foldl | with_reducible apply Keeps.setChain | with_reducible apply State.mapOp_keeps | with_reducible apply State.settleRing_keeps | with_reducible apply State.parityEvents_keeps | with_reducible apply State.putShadow_keeps | simp only [Keeps.upd_iff] | split | dsimp only)

theorem execSwapFront_keeps {orig s : State} (h : Keeps orig s) {ch : ChainId} {eng blk : Nat} :
    OutKeeps orig (execSwapFront ch eng blk s) := by
  unfold execSwapFront
  (try dsimp only)
  repeat' (first | with_reducible assumption | intro _ | with_reducible exact OutKeeps.fault | with_reducible apply OutKeeps.ite | with_reducible apply OutKeeps.next | with_reducible apply Keeps.ite | with_reducible apply Keeps.foldl | with_reducible apply State.mapChain_keeps | with_reducible apply State.mapOp_keeps | with_reducible apply State.swapCells_keeps | with_reducible apply State.fillToks_keeps | simp only [Keeps.upd_iff] | split | dsimp only)

theorem execTokenPresent_keeps {orig s : State} (h : Keeps orig s) {ch : ChainId} :
    OutKeeps orig (execTokenPresent ch s) := by
  unfold execTokenPresent
  (try dsimp only)
  repeat' (first | with_reducible assumption | intro _ | with_reducible exact OutKeeps.fault | with_reducible apply OutKeeps.ite | with_reducible apply OutKeeps.next | with_reducible apply Keeps.ite | with_reducible apply Keeps.foldl | with_reducible apply Keeps.setChain | with_reducible apply State.mapOp_keeps | with_reducible apply State.opToken_keeps | with_reducible apply State.settleRing_keeps | with_reducible apply State.parityEvents_keeps | with_reducible apply State.cellParity_keeps | simp only [Keeps.upd_iff] | split | dsimp only)

theorem execRunningSumAdd_keeps {orig s : State} (h : Keeps orig s) {ch : ChainId} {col term : Nat} {fault : Option SumFault} :
    OutKeeps orig (execRunningSumAdd ch col term fault s) := by
  unfold execRunningSumAdd
  (try dsimp only)
  repeat' (first | with_reducible assumption | intro _ | with_reducible exact OutKeeps.fault | with_reducible apply OutKeeps.ite | with_reducible apply OutKeeps.next | with_reducible apply Keeps.ite | with_reducible apply Keeps.foldl | with_reducible apply State.failSum_keeps | with_reducible apply State.addSum_keeps | with_reducible apply State.laneParity_keeps | simp only [Keeps.upd_iff] | split | dsimp only)

theorem execLocalRetry_keeps {orig s : State} (h : Keeps orig s) {ch : ChainId} :
    OutKeeps orig (execLocalRetry ch s) := by
  unfold execLocalRetry
  (try dsimp only)
  repeat' (first | with_reducible assumption | intro _ | with_reducible exact OutKeeps.fault | with_reducible apply OutKeeps.ite | with_reducible apply OutKeeps.next | with_reducible apply Keeps.ite | with_reducible apply Keeps.foldl | with_reducible apply State.represent_keeps | simp only [Keeps.upd_iff] | split | dsimp only)

theorem execDrainRowConvert_keeps {orig s : State} (h : Keeps orig s) {op row ci : Nat} {faults : List ReadFault} :
    OutKeeps orig (execDrainRowConvert op row ci faults s) := by
  unfold execDrainRowConvert
  (try dsimp only)
  repeat' (first | with_reducible assumption | intro _ | with_reducible exact OutKeeps.fault | with_reducible apply OutKeeps.ite | with_reducible apply OutKeeps.next | with_reducible apply Keeps.ite | with_reducible apply Keeps.foldl | with_reducible apply State.convertRow_keeps | simp only [Keeps.upd_iff] | split | dsimp only)

theorem execPreloadRowWrite_keeps {orig s : State} (h : Keeps orig s) {op row : Nat} :
    OutKeeps orig (execPreloadRowWrite op row s) := by
  unfold execPreloadRowWrite
  (try dsimp only)
  repeat' (first | with_reducible assumption | intro _ | with_reducible exact OutKeeps.fault | with_reducible apply OutKeeps.ite | with_reducible apply OutKeeps.next | with_reducible apply Keeps.ite | with_reducible apply Keeps.foldl | with_reducible apply State.mapOp_keeps | with_reducible apply State.settleRing_keeps | with_reducible apply State.parityEvents_keeps | with_reducible apply State.putPreload_keeps | simp only [Keeps.upd_iff] | split | dsimp only)

theorem execSpineSend_keeps {orig s : State} (h : Keeps orig s) {op : Reads} {sc ci row col : Nat} :
    OutKeeps orig (execSpineSend op sc ci row col s) := by
  unfold execSpineSend
  (try dsimp only)
  repeat' (first | with_reducible assumption | intro _ | with_reducible exact OutKeeps.fault | with_reducible apply OutKeeps.ite | with_reducible apply OutKeeps.next | with_reducible apply Keeps.ite | with_reducible apply Keeps.foldl | with_reducible apply Keeps.setReg | with_reducible apply Keeps.setLink | with_reducible apply State.mapOp_keeps | with_reducible apply State.checkRead_keeps | simp only [Keeps.upd_iff] | split | dsimp only)

theorem execSpineReceive_keeps {orig s : State} (h : Keeps orig s) {core : Nat} {err : Nat} :
    OutKeeps orig (execSpineReceive core err s) := by
  unfold execSpineReceive
  (try dsimp only)
  repeat' (first | with_reducible assumption | intro _ | with_reducible exact OutKeeps.fault | with_reducible apply OutKeeps.ite | with_reducible apply OutKeeps.next | with_reducible apply Keeps.ite | with_reducible apply Keeps.foldl | with_reducible apply State.bump_keeps | with_reducible apply Keeps.setLink | with_reducible apply State.retryEvent_keeps | with_reducible apply State.spineTake_keeps | simp only [Keeps.upd_iff] | split | dsimp only)

theorem execSpineResend_keeps {orig s : State} (h : Keeps orig s) {core : Nat} :
    OutKeeps orig (execSpineResend core s) := by
  unfold execSpineResend
  (try dsimp only)
  repeat' (first | with_reducible assumption | intro _ | with_reducible exact OutKeeps.fault | with_reducible apply OutKeeps.ite | with_reducible apply OutKeeps.next | with_reducible apply Keeps.ite | with_reducible apply Keeps.foldl | with_reducible apply Keeps.setLink | simp only [Keeps.upd_iff] | split | dsimp only)

theorem execDictionaryDrain_keeps {orig s : State} (h : Keeps orig s) {role : Role} {faults : List ReadFault} :
    OutKeeps orig (execDictionaryDrain role faults s) := by
  unfold execDictionaryDrain
  (try dsimp only)
  repeat' (first | with_reducible assumption | intro _ | with_reducible exact OutKeeps.fault | with_reducible apply OutKeeps.ite | with_reducible apply OutKeeps.next | with_reducible apply Keeps.ite | with_reducible apply Keeps.foldl | with_reducible apply State.dictCols_keeps | with_reducible apply State.setDrq_keeps | simp only [Keeps.upd_iff] | split | dsimp only)

theorem execRangeTimeout_keeps {orig s : State} (h : Keeps orig s) {group bucket eoff : Nat} :
    OutKeeps orig (execRangeTimeout group bucket eoff s) := by
  unfold execRangeTimeout
  (try dsimp only)
  repeat' (first | with_reducible assumption | intro _ | with_reducible exact OutKeeps.fault | with_reducible apply OutKeeps.ite | with_reducible apply OutKeeps.next | with_reducible apply Keeps.ite | with_reducible apply Keeps.foldl | with_reducible apply State.loseRange_keeps | simp only [Keeps.upd_iff] | split | dsimp only)

theorem execFrameSend_keeps {orig s : State} (h : Keeps orig s) {job : Reads} :
    OutKeeps orig (execFrameSend job s) := by
  unfold execFrameSend
  (try dsimp only)
  repeat' (first | with_reducible assumption | intro _ | with_reducible exact OutKeeps.fault | with_reducible apply OutKeeps.ite | with_reducible apply OutKeeps.next | with_reducible apply Keeps.ite | with_reducible apply Keeps.foldl | with_reducible apply State.mapOp_keeps | with_reducible apply State.sendFrame_keeps | with_reducible apply State.mapJob_keeps | with_reducible apply State.afterRead_keeps | simp only [Keeps.upd_iff] | split | dsimp only)

theorem execClaimRetry_keeps {orig s : State} (h : Keeps orig s) {g : Nat} :
    OutKeeps orig (execClaimRetry g s) := by
  unfold execClaimRetry
  (try dsimp only)
  repeat' (first | with_reducible assumption | intro _ | with_reducible exact OutKeeps.fault | with_reducible apply OutKeeps.ite | with_reducible apply OutKeeps.next | with_reducible apply Keeps.ite | with_reducible apply Keeps.foldl | with_reducible apply State.mapGroup_keeps | with_reducible apply State.elect_keeps | simp only [Keeps.upd_iff] | split | dsimp only)

theorem execMemberLost_keeps {orig s : State} (h : Keeps orig s) {g pos : Nat} :
    OutKeeps orig (execMemberLost g pos s) := by
  unfold execMemberLost
  (try dsimp only)
  repeat' (first | with_reducible assumption | intro _ | with_reducible exact OutKeeps.fault | with_reducible apply OutKeeps.ite | with_reducible apply OutKeeps.next | with_reducible apply Keeps.ite | with_reducible apply Keeps.foldl | with_reducible apply State.loseMember_keeps | simp only [Keeps.upd_iff] | split | dsimp only)

theorem execBeaconPeriod_keeps {orig s : State} (h : Keeps orig s)  :
    OutKeeps orig (execBeaconPeriod s) := by
  unfold execBeaconPeriod
  (try dsimp only)
  repeat' (first | with_reducible assumption | intro _ | with_reducible exact OutKeeps.fault | with_reducible apply OutKeeps.ite | with_reducible apply OutKeeps.next | with_reducible apply Keeps.ite | with_reducible apply Keeps.foldl | with_reducible apply State.emitAll_keeps | with_reducible apply State.confirmNow_keeps | simp only [Keeps.upd_iff] | split | dsimp only)

theorem execSnapshotTake_keeps {orig s : State} (h : Keeps orig s) {tenant region : Nat} {tile : BitVec 16} {bad : List RegFault} :
    OutKeeps orig (execSnapshotTake tenant region tile bad s) := by
  unfold execSnapshotTake
  (try dsimp only)
  repeat' (first | with_reducible assumption | intro _ | with_reducible exact OutKeeps.fault | with_reducible apply OutKeeps.ite | with_reducible apply OutKeeps.next | with_reducible apply Keeps.ite | with_reducible apply Keeps.foldl | with_reducible apply State.takeSnap_keeps | simp only [Keeps.upd_iff] | split | dsimp only)

theorem execSnapshotRestore_keeps {orig s : State} (h : Keeps orig s) {tenant region : Nat} {tile : BitVec 16} {bad : List RegFault} :
    OutKeeps orig (execSnapshotRestore tenant region tile bad s) := by
  unfold execSnapshotRestore
  (try dsimp only)
  repeat' (first | with_reducible assumption | intro _ | with_reducible exact OutKeeps.fault | with_reducible apply OutKeeps.ite | with_reducible apply OutKeeps.next | with_reducible apply Keeps.ite | with_reducible apply Keeps.foldl | with_reducible apply State.closeRegions_keeps | with_reducible apply State.mapSnap_keeps | with_reducible apply State.restoreSnap_keeps | simp only [Keeps.upd_iff] | split | dsimp only)

theorem execCommitTakesEffect_keeps {orig s : State} (h : Keeps orig s) {tenant region : Nat} :
    OutKeeps orig (execCommitTakesEffect tenant region s) := by
  unfold execCommitTakesEffect
  (try dsimp only)
  repeat' (first | with_reducible assumption | intro _ | with_reducible exact OutKeeps.fault | with_reducible apply OutKeeps.ite | with_reducible apply OutKeeps.next | with_reducible apply Keeps.ite | with_reducible apply Keeps.foldl | with_reducible apply State.mapOp_keeps | with_reducible apply State.squashNow_keeps | with_reducible apply State.commitRegion_keeps | simp only [Keeps.upd_iff] | split | dsimp only)

theorem execRegionTtlExpiry_keeps {orig s : State} (h : Keeps orig s) {tenant region : Nat} :
    OutKeeps orig (execRegionTtlExpiry tenant region s) := by
  unfold execRegionTtlExpiry
  (try dsimp only)
  repeat' (first | with_reducible assumption | intro _ | with_reducible exact OutKeeps.fault | with_reducible apply OutKeeps.ite | with_reducible apply OutKeeps.next | with_reducible apply Keeps.ite | with_reducible apply Keeps.foldl | with_reducible apply State.event_keeps | with_reducible apply State.squashNow_keeps | simp only [Keeps.upd_iff] | split | dsimp only)

theorem execRerollVerdict_keeps {orig s : State} (h : Keeps orig s) {op : Nat} :
    OutKeeps orig (execRerollVerdict op s) := by
  unfold execRerollVerdict
  (try dsimp only)
  repeat' (first | with_reducible assumption | intro _ | with_reducible exact OutKeeps.fault | with_reducible apply OutKeeps.ite | with_reducible apply OutKeeps.next | with_reducible apply Keeps.ite | with_reducible apply Keeps.foldl | with_reducible apply State.closeRegions_keeps | with_reducible apply State.giveVerdict_keeps | simp only [Keeps.upd_iff] | split | dsimp only)

theorem execBadMessage_keeps {orig s : State} (h : Keeps orig s) {w : W64} :
    OutKeeps orig (execBadMessage w s) := by
  unfold execBadMessage
  (try dsimp only)
  repeat' (first | with_reducible assumption | intro _ | with_reducible exact OutKeeps.fault | with_reducible apply OutKeeps.ite | with_reducible apply OutKeeps.next | with_reducible apply Keeps.ite | with_reducible apply Keeps.foldl | with_reducible apply State.badMessage_keeps | simp only [Keeps.upd_iff] | split | dsimp only)

theorem execExcursion_keeps {orig s : State} (h : Keeps orig s) {core : Nat} :
    OutKeeps orig (execExcursion core s) := by
  unfold execExcursion
  (try dsimp only)
  repeat' (first | with_reducible assumption | intro _ | with_reducible exact OutKeeps.fault | with_reducible apply OutKeeps.ite | with_reducible apply OutKeeps.next | with_reducible apply Keeps.ite | with_reducible apply Keeps.foldl | with_reducible apply State.event_keeps | with_reducible apply State.stageDefaults_keeps | with_reducible apply State.beginExcursion_keeps | simp only [Keeps.upd_iff] | split | dsimp only)

theorem execExcursionEnd_keeps {orig s : State} (h : Keeps orig s)  :
    OutKeeps orig (execExcursionEnd s) := by
  unfold execExcursionEnd
  (try dsimp only)
  repeat' (first | with_reducible assumption | intro _ | with_reducible exact OutKeeps.fault | with_reducible apply OutKeeps.ite | with_reducible apply OutKeeps.next | with_reducible apply Keeps.ite | with_reducible apply Keeps.foldl | with_reducible apply State.mapPwr_keeps | simp only [Keeps.upd_iff] | split | dsimp only)

theorem execStepdn_keeps {orig s : State} (h : Keeps orig s) {env : BitVec 2} {cap : BitVec 12} {force : Bool} :
    OutKeeps orig (execStepdn env cap force s) := by
  unfold execStepdn
  (try dsimp only)
  repeat' (first | with_reducible assumption | intro _ | with_reducible exact OutKeeps.fault | with_reducible apply OutKeeps.ite | with_reducible apply OutKeeps.next | with_reducible apply Keeps.ite | with_reducible apply Keeps.foldl | with_reducible apply State.badMessage_keeps | with_reducible apply State.takeStepdn_keeps | simp only [Keeps.upd_iff] | split | dsimp only)

theorem execDeny_keeps {orig s : State} (h : Keeps orig s) {type : BitVec 4} {core : BitVec 6} :
    OutKeeps orig (execDeny type core s) := by
  unfold execDeny
  (try dsimp only)
  repeat' (first | with_reducible assumption | intro _ | with_reducible exact OutKeeps.fault | with_reducible apply OutKeeps.ite | with_reducible apply OutKeeps.next | with_reducible apply Keeps.ite | with_reducible apply Keeps.foldl | with_reducible apply State.mapPwr_keeps | with_reducible apply State.badMessage_keeps | with_reducible apply State.nextMargin_keeps | with_reducible apply State.abandonUp_keeps | simp only [Keeps.upd_iff] | split | dsimp only)

theorem execStepUpTimeout_keeps {orig s : State} (h : Keeps orig s)  :
    OutKeeps orig (execStepUpTimeout s) := by
  unfold execStepUpTimeout
  (try dsimp only)
  repeat' (first | with_reducible assumption | intro _ | with_reducible exact OutKeeps.fault | with_reducible apply OutKeeps.ite | with_reducible apply OutKeeps.next | with_reducible apply Keeps.ite | with_reducible apply Keeps.foldl | with_reducible apply State.abandonUp_keeps | simp only [Keeps.upd_iff] | split | dsimp only)

theorem execPromiseFloorEvaluation_keeps {orig s : State} (h : Keeps orig s)  :
    OutKeeps orig (execPromiseFloorEvaluation s) := by
  unfold execPromiseFloorEvaluation
  (try dsimp only)
  repeat' (first | with_reducible assumption | intro _ | with_reducible exact OutKeeps.fault | with_reducible apply OutKeeps.ite | with_reducible apply OutKeeps.next | with_reducible apply Keeps.ite | with_reducible apply Keeps.foldl | with_reducible apply State.grantMargins_keeps | with_reducible apply State.grantDown_keeps | simp only [Keeps.upd_iff] | split | dsimp only)

theorem execForecastLeadExpiry_keeps {orig s : State} (h : Keeps orig s)  :
    OutKeeps orig (execForecastLeadExpiry s) := by
  unfold execForecastLeadExpiry
  (try dsimp only)
  repeat' (first | with_reducible assumption | intro _ | with_reducible exact OutKeeps.fault | with_reducible apply OutKeeps.ite | with_reducible apply OutKeeps.next | with_reducible apply Keeps.ite | with_reducible apply Keeps.foldl | with_reducible apply State.mapPwr_keeps | simp only [Keeps.upd_iff] | split | dsimp only)

theorem execBallastHoldExpiry_keeps {orig s : State} (h : Keeps orig s) {core : Nat} :
    OutKeeps orig (execBallastHoldExpiry core s) := by
  unfold execBallastHoldExpiry
  (try dsimp only)
  repeat' (first | with_reducible assumption | intro _ | with_reducible exact OutKeeps.fault | with_reducible apply OutKeeps.ite | with_reducible apply OutKeeps.next | with_reducible apply Keeps.ite | with_reducible apply Keeps.foldl | with_reducible apply State.sendPower_keeps | with_reducible apply State.mapPwr_keeps | with_reducible apply State.endHold_keeps | simp only [Keeps.upd_iff] | split | dsimp only)

theorem execBallastToken_keeps {orig s : State} (h : Keeps orig s) {ch : ChainId} {fault : Option (Nat × SumFault)} :
    OutKeeps orig (execBallastToken ch fault s) := by
  unfold execBallastToken
  (try dsimp only)
  repeat' (first | with_reducible assumption | intro _ | with_reducible exact OutKeeps.fault | with_reducible apply OutKeeps.ite | with_reducible apply OutKeeps.next | with_reducible apply Keeps.ite | with_reducible apply Keeps.foldl | with_reducible apply State.enterBallast_keeps | simp only [Keeps.upd_iff] | split | dsimp only)

theorem execQuarantineHoldExpiry_keeps {orig s : State} (h : Keeps orig s) {q : Nat} :
    OutKeeps orig (execQuarantineHoldExpiry q s) := by
  unfold execQuarantineHoldExpiry
  (try dsimp only)
  repeat' (first | with_reducible assumption | intro _ | with_reducible exact OutKeeps.fault | with_reducible apply OutKeeps.ite | with_reducible apply OutKeeps.next | with_reducible apply Keeps.ite | with_reducible apply Keeps.foldl | with_reducible apply State.resetPort_keeps | simp only [Keeps.upd_iff] | split | dsimp only)

theorem execLiveRise_keeps {orig s : State} (h : Keeps orig s) {q : Nat} :
    OutKeeps orig (execLiveRise q s) := by
  unfold execLiveRise
  (try dsimp only)
  repeat' (first | with_reducible assumption | intro _ | with_reducible exact OutKeeps.fault | with_reducible apply OutKeeps.ite | with_reducible apply OutKeeps.next | with_reducible apply Keeps.ite | with_reducible apply Keeps.foldl | with_reducible apply Keeps.setPort | with_reducible apply State.beginExchange_keeps | with_reducible apply State.resetPort_keeps | with_reducible apply State.portEvent_keeps | simp only [Keeps.upd_iff] | split | dsimp only)

theorem execLiveLoss_keeps {orig s : State} (h : Keeps orig s) {q : Nat} :
    OutKeeps orig (execLiveLoss q s) := by
  unfold execLiveLoss
  (try dsimp only)
  repeat' (first | with_reducible assumption | intro _ | with_reducible exact OutKeeps.fault | with_reducible apply OutKeeps.ite | with_reducible apply OutKeeps.next | with_reducible apply Keeps.ite | with_reducible apply Keeps.foldl | with_reducible apply Keeps.setPort | with_reducible apply State.portFault_keeps | simp only [Keeps.upd_iff] | split | dsimp only)

theorem State.onLink_keeps {orig s : State} (h : Keeps orig s) {q : Nat} {w : W64} {ltype : Nat} {body : State → State} (hb : ∀ s, Keeps orig s → Keeps orig (body s)) :
    OutKeeps orig (State.onLink s q w ltype body) := by
  unfold State.onLink
  (try dsimp only)
  repeat' (first | with_reducible assumption | intro _ | with_reducible exact OutKeeps.fault | with_reducible apply OutKeeps.ite | with_reducible apply OutKeeps.next | with_reducible apply Keeps.ite | with_reducible apply Keeps.foldl | with_reducible apply State.portFault_keeps | with_reducible apply hb | simp only [Keeps.upd_iff] | split | dsimp only)

theorem execCap_keeps {orig s : State} (h : Keeps orig s) {q : Nat} {w : W64} :
    OutKeeps orig (execCap q w s) := by
  unfold execCap
  (try dsimp only)
  repeat' (first | with_reducible assumption | intro _ | with_reducible exact OutKeeps.fault | with_reducible apply OutKeeps.ite | with_reducible apply OutKeeps.next | with_reducible apply Keeps.ite | with_reducible apply Keeps.foldl | with_reducible apply State.takeCap_keeps | with_reducible apply State.onLink_keeps | with_reducible apply State.onLink_keeps | simp only [Keeps.upd_iff] | split | dsimp only)

theorem execBeacon_keeps {orig s : State} (h : Keeps orig s) {q : Nat} {w : W64} :
    OutKeeps orig (execBeacon q w s) := by
  unfold execBeacon
  (try dsimp only)
  repeat' (first | with_reducible assumption | intro _ | with_reducible exact OutKeeps.fault | with_reducible apply OutKeeps.ite | with_reducible apply OutKeeps.next | with_reducible apply Keeps.ite | with_reducible apply Keeps.foldl | with_reducible apply State.hearBeacon_keeps | with_reducible apply State.onLink_keeps | with_reducible apply State.onLink_keeps | simp only [Keeps.upd_iff] | split | dsimp only)

theorem execDown_keeps {orig s : State} (h : Keeps orig s) {q : Nat} {w : W64} :
    OutKeeps orig (execDown q w s) := by
  unfold execDown
  (try dsimp only)
  repeat' (first | with_reducible assumption | intro _ | with_reducible exact OutKeeps.fault | with_reducible apply OutKeeps.ite | with_reducible apply OutKeeps.next | with_reducible apply Keeps.ite | with_reducible apply Keeps.foldl | with_reducible apply State.portDown_keeps | with_reducible apply State.onLink_keeps | with_reducible apply State.onLink_keeps | simp only [Keeps.upd_iff] | split | dsimp only)

theorem execExchangeTimeout_keeps {orig s : State} (h : Keeps orig s) {q : Nat} :
    OutKeeps orig (execExchangeTimeout q s) := by
  unfold execExchangeTimeout
  (try dsimp only)
  repeat' (first | with_reducible assumption | intro _ | with_reducible exact OutKeeps.fault | with_reducible apply OutKeeps.ite | with_reducible apply OutKeeps.next | with_reducible apply Keeps.ite | with_reducible apply Keeps.foldl | with_reducible apply State.failPort_keeps | simp only [Keeps.upd_iff] | split | dsimp only)

theorem execRacingFault_keeps {orig s : State} (h : Keeps orig s) {q chan kind : Nat} :
    OutKeeps orig (execRacingFault q chan kind s) := by
  unfold execRacingFault
  (try dsimp only)
  repeat' (first | with_reducible assumption | intro _ | with_reducible exact OutKeeps.fault | with_reducible apply OutKeeps.ite | with_reducible apply OutKeeps.next | with_reducible apply Keeps.ite | with_reducible apply Keeps.foldl | with_reducible apply State.portFault_keeps | simp only [Keeps.upd_iff] | split | dsimp only)

theorem execSilenceBoundExpiry_keeps {orig s : State} (h : Keeps orig s) {q chan kind : Nat} :
    OutKeeps orig (execSilenceBoundExpiry q chan kind s) := by
  unfold execSilenceBoundExpiry
  (try dsimp only)
  repeat' (first | with_reducible assumption | intro _ | with_reducible exact OutKeeps.fault | with_reducible apply OutKeeps.ite | with_reducible apply OutKeeps.next | with_reducible apply Keeps.ite | with_reducible apply Keeps.foldl | with_reducible apply State.portFault_keeps | simp only [Keeps.upd_iff] | split | dsimp only)

theorem execCreditBoundExpiry_keeps {orig s : State} (h : Keeps orig s) {q chan : Nat} :
    OutKeeps orig (execCreditBoundExpiry q chan s) := by
  unfold execCreditBoundExpiry
  (try dsimp only)
  repeat' (first | with_reducible assumption | intro _ | with_reducible exact OutKeeps.fault | with_reducible apply OutKeeps.ite | with_reducible apply OutKeeps.next | with_reducible apply Keeps.ite | with_reducible apply Keeps.foldl | with_reducible apply State.portFault_keeps | simp only [Keeps.upd_iff] | split | dsimp only)

theorem execCreditReturn_keeps {orig s : State} (h : Keeps orig s) {q chan : Nat} {n : BitVec 8} :
    OutKeeps orig (execCreditReturn q chan n s) := by
  unfold execCreditReturn
  (try dsimp only)
  repeat' (first | with_reducible assumption | intro _ | with_reducible exact OutKeeps.fault | with_reducible apply OutKeeps.ite | with_reducible apply OutKeeps.next | with_reducible apply Keeps.ite | with_reducible apply Keeps.foldl | with_reducible apply State.takeCredits_keeps | simp only [Keeps.upd_iff] | split | dsimp only)

theorem execStrobeLost_keeps {orig s : State} (h : Keeps orig s) : OutKeeps orig (execStrobeLost s) := by
  have h1 : Keeps orig ({ s with clk := { s.clk with lost := true } } : State) := h.trans ⟨rfl, rfl, id, Or.inl rfl, List.prefix_rfl⟩
  exact OutKeeps.ite h (State.portEvent_keeps h1)

theorem execResponseCredit_keeps {orig s : State} (h : Keeps orig s) {n : BitVec 8} :
    OutKeeps orig (execResponseCredit n s) := by
  unfold execResponseCredit
  (try dsimp only)
  repeat' (first | with_reducible assumption | intro _ | with_reducible exact OutKeeps.fault | with_reducible apply OutKeeps.ite | with_reducible apply OutKeeps.next | with_reducible apply Keeps.ite | with_reducible apply Keeps.foldl | with_reducible apply State.drainResp_keeps | with_reducible apply State.admitWaiting_keeps | simp only [Keeps.upd_iff] | split | dsimp only)

theorem execLoadw_keeps {orig s : State} (h : Keeps orig s) {d : Desc} :
    OutKeeps orig (execLoadw d s) := by
  unfold execLoadw
  (try dsimp only)
  repeat' (first | with_reducible assumption | intro _ | with_reducible exact OutKeeps.fault | with_reducible apply OutKeeps.ite | with_reducible apply OutKeeps.next | with_reducible apply Keeps.ite | with_reducible apply Keeps.foldl | with_reducible apply State.receive_keeps | simp only [Keeps.upd_iff] | split | dsimp only)

theorem execStream_keeps {orig s : State} (h : Keeps orig s) {d : Desc} :
    OutKeeps orig (execStream d s) := by
  unfold execStream
  (try dsimp only)
  repeat' (first | with_reducible assumption | intro _ | with_reducible exact OutKeeps.fault | with_reducible apply OutKeeps.ite | with_reducible apply OutKeeps.next | with_reducible apply Keeps.ite | with_reducible apply Keeps.foldl | with_reducible apply State.receive_keeps | simp only [Keeps.upd_iff] | split | dsimp only)

theorem execPreload_keeps {orig s : State} (h : Keeps orig s) {d : Desc} :
    OutKeeps orig (execPreload d s) := by
  unfold execPreload
  (try dsimp only)
  repeat' (first | with_reducible assumption | intro _ | with_reducible exact OutKeeps.fault | with_reducible apply OutKeeps.ite | with_reducible apply OutKeeps.next | with_reducible apply Keeps.ite | with_reducible apply Keeps.foldl | with_reducible apply State.receive_keeps | simp only [Keeps.upd_iff] | split | dsimp only)

theorem execDrain_keeps {orig s : State} (h : Keeps orig s) {d : Desc} :
    OutKeeps orig (execDrain d s) := by
  unfold execDrain
  (try dsimp only)
  repeat' (first | with_reducible assumption | intro _ | with_reducible exact OutKeeps.fault | with_reducible apply OutKeeps.ite | with_reducible apply OutKeeps.next | with_reducible apply Keeps.ite | with_reducible apply Keeps.foldl | with_reducible apply State.receive_keeps | simp only [Keeps.upd_iff] | split | dsimp only)

theorem execScan_keeps {orig s : State} (h : Keeps orig s) {d : Desc} :
    OutKeeps orig (execScan d s) := by
  unfold execScan
  (try dsimp only)
  repeat' (first | with_reducible assumption | intro _ | with_reducible exact OutKeeps.fault | with_reducible apply OutKeeps.ite | with_reducible apply OutKeeps.next | with_reducible apply Keeps.ite | with_reducible apply Keeps.foldl | with_reducible apply State.receive_keeps | simp only [Keeps.upd_iff] | split | dsimp only)

theorem execMpass_keeps {orig s : State} (h : Keeps orig s) {d : Desc} :
    OutKeeps orig (execMpass d s) := by
  unfold execMpass
  (try dsimp only)
  repeat' (first | with_reducible assumption | intro _ | with_reducible exact OutKeeps.fault | with_reducible apply OutKeeps.ite | with_reducible apply OutKeeps.next | with_reducible apply Keeps.ite | with_reducible apply Keeps.foldl | with_reducible apply State.receive_keeps | simp only [Keeps.upd_iff] | split | dsimp only)

theorem execOwnerXred_keeps {orig s : State} (h : Keeps orig s) {d : Desc} :
    OutKeeps orig (execOwnerXred d s) := by
  unfold execOwnerXred
  (try dsimp only)
  repeat' (first | with_reducible assumption | intro _ | with_reducible exact OutKeeps.fault | with_reducible apply OutKeeps.ite | with_reducible apply OutKeeps.next | with_reducible apply Keeps.ite | with_reducible apply Keeps.foldl | with_reducible apply State.receive_keeps | simp only [Keeps.upd_iff] | split | dsimp only)

theorem execContribution_keeps {orig s : State} (h : Keeps orig s) {d : Desc} :
    OutKeeps orig (execContribution d s) := by
  unfold execContribution
  (try dsimp only)
  repeat' (first | with_reducible assumption | intro _ | with_reducible exact OutKeeps.fault | with_reducible apply OutKeeps.ite | with_reducible apply OutKeeps.next | with_reducible apply Keeps.ite | with_reducible apply Keeps.foldl | with_reducible apply State.receive_keeps | simp only [Keeps.upd_iff] | split | dsimp only)

theorem execTrimmedLongContribution_keeps {orig s : State} (h : Keeps orig s) {d : Desc} :
    OutKeeps orig (execTrimmedLongContribution d s) := by
  unfold execTrimmedLongContribution
  (try dsimp only)
  repeat' (first | with_reducible assumption | intro _ | with_reducible exact OutKeeps.fault | with_reducible apply OutKeeps.ite | with_reducible apply OutKeeps.next | with_reducible apply Keeps.ite | with_reducible apply Keeps.foldl | with_reducible apply State.receive_keeps | simp only [Keeps.upd_iff] | split | dsimp only)

theorem execCollection_keeps {orig s : State} (h : Keeps orig s) {d : Desc} :
    OutKeeps orig (execCollection d s) := by
  unfold execCollection
  (try dsimp only)
  repeat' (first | with_reducible assumption | intro _ | with_reducible exact OutKeeps.fault | with_reducible apply OutKeeps.ite | with_reducible apply OutKeeps.next | with_reducible apply Keeps.ite | with_reducible apply Keeps.foldl | with_reducible apply State.receive_keeps | simp only [Keeps.upd_iff] | split | dsimp only)

theorem execRetract_keeps {orig s : State} (h : Keeps orig s) {d : Desc} :
    OutKeeps orig (execRetract d s) := by
  unfold execRetract
  (try dsimp only)
  repeat' (first | with_reducible assumption | intro _ | with_reducible exact OutKeeps.fault | with_reducible apply OutKeeps.ite | with_reducible apply OutKeeps.next | with_reducible apply Keeps.ite | with_reducible apply Keeps.foldl | with_reducible apply State.receive_keeps | simp only [Keeps.upd_iff] | split | dsimp only)

theorem execFenceOrder_keeps {orig s : State} (h : Keeps orig s) {d : Desc} :
    OutKeeps orig (execFenceOrder d s) := by
  unfold execFenceOrder
  (try dsimp only)
  repeat' (first | with_reducible assumption | intro _ | with_reducible exact OutKeeps.fault | with_reducible apply OutKeeps.ite | with_reducible apply OutKeeps.next | with_reducible apply Keeps.ite | with_reducible apply Keeps.foldl | with_reducible apply State.receive_keeps | simp only [Keeps.upd_iff] | split | dsimp only)

theorem execFenceEpoch_keeps {orig s : State} (h : Keeps orig s) {d : Desc} :
    OutKeeps orig (execFenceEpoch d s) := by
  unfold execFenceEpoch
  (try dsimp only)
  repeat' (first | with_reducible assumption | intro _ | with_reducible exact OutKeeps.fault | with_reducible apply OutKeeps.ite | with_reducible apply OutKeeps.next | with_reducible apply Keeps.ite | with_reducible apply Keeps.foldl | with_reducible apply State.receive_keeps | simp only [Keeps.upd_iff] | split | dsimp only)

theorem execFenceQuiesce_keeps {orig s : State} (h : Keeps orig s) {d : Desc} :
    OutKeeps orig (execFenceQuiesce d s) := by
  unfold execFenceQuiesce
  (try dsimp only)
  repeat' (first | with_reducible assumption | intro _ | with_reducible exact OutKeeps.fault | with_reducible apply OutKeeps.ite | with_reducible apply OutKeeps.next | with_reducible apply Keeps.ite | with_reducible apply Keeps.foldl | with_reducible apply State.receive_keeps | simp only [Keeps.upd_iff] | split | dsimp only)

theorem execGate_keeps {orig s : State} (h : Keeps orig s) {d : Desc} :
    OutKeeps orig (execGate d s) := by
  unfold execGate
  (try dsimp only)
  repeat' (first | with_reducible assumption | intro _ | with_reducible exact OutKeeps.fault | with_reducible apply OutKeeps.ite | with_reducible apply OutKeeps.next | with_reducible apply Keeps.ite | with_reducible apply Keeps.foldl | with_reducible apply State.receive_keeps | simp only [Keeps.upd_iff] | split | dsimp only)

theorem execCommit_keeps {orig s : State} (h : Keeps orig s) {d : Desc} :
    OutKeeps orig (execCommit d s) := by
  unfold execCommit
  (try dsimp only)
  repeat' (first | with_reducible assumption | intro _ | with_reducible exact OutKeeps.fault | with_reducible apply OutKeeps.ite | with_reducible apply OutKeeps.next | with_reducible apply Keeps.ite | with_reducible apply Keeps.foldl | with_reducible apply State.receive_keeps | simp only [Keeps.upd_iff] | split | dsimp only)

theorem execSquash_keeps {orig s : State} (h : Keeps orig s) {d : Desc} :
    OutKeeps orig (execSquash d s) := by
  unfold execSquash
  (try dsimp only)
  repeat' (first | with_reducible assumption | intro _ | with_reducible exact OutKeeps.fault | with_reducible apply OutKeeps.ite | with_reducible apply OutKeeps.next | with_reducible apply Keeps.ite | with_reducible apply Keeps.foldl | with_reducible apply State.receive_keeps | simp only [Keeps.upd_iff] | split | dsimp only)

theorem execSave_keeps {orig s : State} (h : Keeps orig s) {d : Desc} :
    OutKeeps orig (execSave d s) := by
  unfold execSave
  (try dsimp only)
  repeat' (first | with_reducible assumption | intro _ | with_reducible exact OutKeeps.fault | with_reducible apply OutKeeps.ite | with_reducible apply OutKeeps.next | with_reducible apply Keeps.ite | with_reducible apply Keeps.foldl | with_reducible apply State.receive_keeps | simp only [Keeps.upd_iff] | split | dsimp only)

theorem execRestore_keeps {orig s : State} (h : Keeps orig s) {d : Desc} :
    OutKeeps orig (execRestore d s) := by
  unfold execRestore
  (try dsimp only)
  repeat' (first | with_reducible assumption | intro _ | with_reducible exact OutKeeps.fault | with_reducible apply OutKeeps.ite | with_reducible apply OutKeeps.next | with_reducible apply Keeps.ite | with_reducible apply Keeps.foldl | with_reducible apply State.receive_keeps | simp only [Keeps.upd_iff] | split | dsimp only)

theorem execDictRead_keeps {orig s : State} (h : Keeps orig s) {d : Desc} :
    OutKeeps orig (execDictRead d s) := by
  unfold execDictRead
  (try dsimp only)
  repeat' (first | with_reducible assumption | intro _ | with_reducible exact OutKeeps.fault | with_reducible apply OutKeeps.ite | with_reducible apply OutKeeps.next | with_reducible apply Keeps.ite | with_reducible apply Keeps.foldl | with_reducible apply State.receive_keeps | simp only [Keeps.upd_iff] | split | dsimp only)

theorem execDictWrite_keeps {orig s : State} (h : Keeps orig s) {d : Desc} :
    OutKeeps orig (execDictWrite d s) := by
  unfold execDictWrite
  (try dsimp only)
  repeat' (first | with_reducible assumption | intro _ | with_reducible exact OutKeeps.fault | with_reducible apply OutKeeps.ite | with_reducible apply OutKeeps.next | with_reducible apply Keeps.ite | with_reducible apply Keeps.foldl | with_reducible apply State.receive_keeps | simp only [Keeps.upd_iff] | split | dsimp only)

theorem execBallast_keeps {orig s : State} (h : Keeps orig s) {d : Desc} :
    OutKeeps orig (execBallast d s) := by
  unfold execBallast
  (try dsimp only)
  repeat' (first | with_reducible assumption | intro _ | with_reducible exact OutKeeps.fault | with_reducible apply OutKeeps.ite | with_reducible apply OutKeeps.next | with_reducible apply Keeps.ite | with_reducible apply Keeps.foldl | with_reducible apply State.receive_keeps | simp only [Keeps.upd_iff] | split | dsimp only)

theorem execUnlistedOpDescriptor_keeps {orig s : State} (h : Keeps orig s) {d : Desc} :
    OutKeeps orig (execUnlistedOpDescriptor d s) := by
  unfold execUnlistedOpDescriptor
  (try dsimp only)
  repeat' (first | with_reducible assumption | intro _ | with_reducible exact OutKeeps.fault | with_reducible apply OutKeeps.ite | with_reducible apply OutKeeps.next | with_reducible apply Keeps.ite | with_reducible apply Keeps.foldl | with_reducible apply State.receive_keeps | simp only [Keeps.upd_iff] | split | dsimp only)

theorem execOpStart_keeps {orig s : State} (h : Keeps orig s) {op : Nat} :
    OutKeeps orig (execOpStart op s) := by
  unfold execOpStart
  (try dsimp only)
  repeat' (first | with_reducible assumption | intro _ | with_reducible exact OutKeeps.fault | with_reducible apply OutKeeps.ite | with_reducible apply OutKeeps.next | with_reducible apply Keeps.ite | with_reducible apply Keeps.foldl | with_reducible apply State.startOp_keeps | simp only [Keeps.upd_iff] | split | dsimp only)

theorem execMemoryReadLines_keeps {orig s : State} (h : Keeps orig s) {q tag : Nat} {lines : List ReadLine} :
    OutKeeps orig (execMemoryReadLines q tag lines s) := by
  unfold execMemoryReadLines
  (try dsimp only)
  repeat' (first | with_reducible assumption | intro _ | with_reducible exact OutKeeps.fault | with_reducible apply OutKeeps.ite | with_reducible apply OutKeeps.next | with_reducible apply Keeps.ite | with_reducible apply Keeps.foldl | with_reducible apply State.overrun_keeps | with_reducible apply State.requestImage_keeps | with_reducible apply State.takeLine_keeps | simp only [Keeps.upd_iff] | split | dsimp only)

/-- An edge of the strobe: as every command, but that the counter advances. -/
theorem execSiderealCounterAdvance_edge {s t : State} (e : execSiderealCounterAdvance s = .next t) :
    t.pending = s.pending ∧ t.conf = s.conf ∧ (Safety.good s = true → Safety.good t = true) ∧ s.out <+: t.out := by
  unfold execSiderealCounterAdvance at e
  split at e
  · cases e; exact ⟨rfl, rfl, id, List.prefix_rfl⟩
  split at e
  · cases e; exact ⟨rfl, rfl, id, List.prefix_rfl⟩
  · have h := State.meterStep_keeps (State.slip_keeps (Keeps.refl s))
    obtain rfl := Host.Outcome.next.inj e
    exact ⟨h.pending, h.conf, h.good, h.sent⟩

theorem execBypassMapApply_keeps {orig s : State} (h : Keeps orig s) {n : Nat} :
    OutKeeps orig (execBypassMapApply n s) := by
  unfold execBypassMapApply
  (try dsimp only)
  repeat' (first | with_reducible assumption | intro _ | with_reducible exact OutKeeps.fault | with_reducible apply OutKeeps.ite | with_reducible apply OutKeeps.next | with_reducible apply Keeps.ite | with_reducible apply Keeps.foldl | with_reducible apply State.applyMap_keeps | simp only [Keeps.upd_iff] | split | dsimp only)

theorem execDeckRotation_keeps {orig s : State} (h : Keeps orig s)  :
    OutKeeps orig (execDeckRotation s) := by
  unfold execDeckRotation
  (try dsimp only)
  repeat' (first | with_reducible assumption | intro _ | with_reducible exact OutKeeps.fault | with_reducible apply OutKeeps.ite | with_reducible apply OutKeeps.next | with_reducible apply Keeps.ite | with_reducible apply Keeps.foldl | with_reducible apply State.pendTest_keeps | with_reducible apply State.rotate_keeps | simp only [Keeps.upd_iff] | split | dsimp only)

theorem execCoreTestStart_keeps {orig s : State} (h : Keeps orig s) {core : Nat} :
    OutKeeps orig (execCoreTestStart core s) := by
  unfold execCoreTestStart
  (try dsimp only)
  repeat' (first | with_reducible assumption | intro _ | with_reducible exact OutKeeps.fault | with_reducible apply OutKeeps.ite | with_reducible apply OutKeeps.next | with_reducible apply Keeps.ite | with_reducible apply Keeps.foldl | with_reducible apply State.takeNewer_keeps | simp only [Keeps.upd_iff] | split | dsimp only)

theorem execCoreTestEnd_keeps {orig s : State} (h : Keeps orig s) {core : Nat} {res : Option DeckFail} :
    OutKeeps orig (execCoreTestEnd core res s) := by
  unfold execCoreTestEnd
  (try dsimp only)
  repeat' (first | with_reducible assumption | intro _ | with_reducible exact OutKeeps.fault | with_reducible apply OutKeeps.ite | with_reducible apply OutKeeps.next | with_reducible apply Keeps.ite | with_reducible apply Keeps.foldl | with_reducible apply State.refreshCores_keeps | with_reducible apply State.deckFails_keeps | with_reducible apply State.testPassed_keeps | with_reducible apply State.deckPasses_keeps | with_reducible apply State.release_keeps | with_reducible apply State.releaseFails_keeps | with_reducible apply State.poisonRows_keeps | with_reducible apply State.failEvent_keeps | with_reducible apply State.passEvent_keeps | with_reducible apply State.releaseEvent_keeps | simp only [Keeps.upd_iff] | split | dsimp only)

theorem execQuarantine_keeps {orig s : State} (h : Keeps orig s) {u : HwUnit} :
    OutKeeps orig (execQuarantine u s) := by
  unfold execQuarantine
  (try dsimp only)
  repeat' (first | with_reducible assumption | intro _ | with_reducible exact OutKeeps.fault | with_reducible apply OutKeeps.ite | with_reducible apply OutKeeps.next | with_reducible apply Keeps.ite | with_reducible apply Keeps.foldl | with_reducible apply State.quarEngine_keeps | with_reducible apply State.quarCore_keeps | simp only [Keeps.upd_iff] | split | dsimp only)

theorem execOffenceDecay_keeps {orig s : State} (h : Keeps orig s) {u : HwUnit} :
    OutKeeps orig (execOffenceDecay u s) := by
  unfold execOffenceDecay
  (try dsimp only)
  repeat' (first | with_reducible assumption | intro _ | with_reducible exact OutKeeps.fault | with_reducible apply OutKeeps.ite | with_reducible apply OutKeeps.next | with_reducible apply Keeps.ite | with_reducible apply Keeps.foldl | with_reducible apply State.setObj_keeps | with_reducible apply State.heal_keeps | simp only [Keeps.upd_iff] | split | dsimp only)

theorem execAgeingSweep_keeps {orig s : State} (h : Keeps orig s) {u : Nat} {f : Option (BitVec 4)} :
    OutKeeps orig (execAgeingSweep u f s) := by
  unfold execAgeingSweep
  (try dsimp only)
  repeat' (first | with_reducible assumption | intro _ | with_reducible exact OutKeeps.fault | with_reducible apply OutKeeps.ite | with_reducible apply OutKeeps.next | with_reducible apply Keeps.ite | with_reducible apply Keeps.foldl | with_reducible apply State.setObj_keeps | with_reducible apply State.event_keeps | simp only [Keeps.upd_iff] | split | dsimp only)

theorem execGfwHeartbeat_keeps {orig s : State} (h : Keeps orig s)  :
    OutKeeps orig (execGfwHeartbeat s) := by
  unfold execGfwHeartbeat
  (try dsimp only)
  repeat' (first | with_reducible assumption | intro _ | with_reducible exact OutKeeps.fault | with_reducible apply OutKeeps.ite | with_reducible apply OutKeeps.next | with_reducible apply Keeps.ite | with_reducible apply Keeps.foldl | with_reducible apply State.reopenAdm_keeps | simp only [Keeps.upd_iff] | split | dsimp only)

theorem execGfwHeartbeatTimeout_keeps {orig s : State} (h : Keeps orig s)  :
    OutKeeps orig (execGfwHeartbeatTimeout s) := by
  unfold execGfwHeartbeatTimeout
  (try dsimp only)
  repeat' (first | with_reducible assumption | intro _ | with_reducible exact OutKeeps.fault | with_reducible apply OutKeeps.ite | with_reducible apply OutKeeps.next | with_reducible apply Keeps.ite | with_reducible apply Keeps.foldl | with_reducible apply State.setObj_keeps | with_reducible apply State.bump_keeps | with_reducible apply State.switchSlot_keeps | with_reducible apply State.restartGfw_keeps | with_reducible apply State.startWarm_keeps | simp only [Keeps.upd_iff] | split | dsimp only)

theorem execDebugExpiry_keeps {orig s : State} (h : Keeps orig s)  :
    OutKeeps orig (execDebugExpiry s) := by
  unfold execDebugExpiry
  (try dsimp only)
  repeat' (first | with_reducible assumption | intro _ | with_reducible exact OutKeeps.fault | with_reducible apply OutKeeps.ite | with_reducible apply OutKeeps.next | with_reducible apply Keeps.ite | with_reducible apply Keeps.foldl | with_reducible apply State.endDebug_keeps | simp only [Keeps.upd_iff] | split | dsimp only)

theorem execFlashCommit_keeps {orig s : State} (h : Keeps orig s) {key_ : Nat} {ok : Bool} :
    OutKeeps orig (execFlashCommit key_ ok s) := by
  unfold execFlashCommit
  (try dsimp only)
  repeat' (first | with_reducible assumption | intro _ | with_reducible exact OutKeeps.fault | with_reducible apply OutKeeps.ite | with_reducible apply OutKeeps.next | with_reducible apply Keeps.ite | with_reducible apply Keeps.foldl | with_reducible apply State.bump_keeps | simp only [Keeps.upd_iff] | split | dsimp only)

theorem execCoreMoveComplete_keeps {orig s : State} (h : Keeps orig s) {core : Nat} :
    OutKeeps orig (execCoreMoveComplete core s) := by
  unfold execCoreMoveComplete
  (try dsimp only)
  repeat' (first | with_reducible assumption | intro _ | with_reducible exact OutKeeps.fault | with_reducible apply OutKeeps.ite | with_reducible apply OutKeeps.next | with_reducible apply Keeps.ite | with_reducible apply Keeps.foldl | with_reducible apply State.setObj_keeps | with_reducible apply State.clearCore_keeps | simp only [Keeps.upd_iff] | split | dsimp only)

theorem execTenantRelease_keeps {orig s : State} (h : Keeps orig s) {t : Nat} :
    OutKeeps orig (execTenantRelease t s) := by
  unfold execTenantRelease
  (try dsimp only)
  repeat' (first | with_reducible assumption | intro _ | with_reducible exact OutKeeps.fault | with_reducible apply OutKeeps.ite | with_reducible apply OutKeeps.next | with_reducible apply Keeps.ite | with_reducible apply Keeps.foldl | with_reducible apply State.releaseTenant_keeps | simp only [Keeps.upd_iff] | split | dsimp only)

theorem execPowerGood_keeps {orig s : State} (h : Keeps orig s) {deck : List OpeningFail} :
    OutKeeps orig (execPowerGood deck s) := by
  unfold execPowerGood
  (try dsimp only)
  repeat' (first | with_reducible assumption | intro _ | with_reducible exact OutKeeps.fault | with_reducible apply OutKeeps.ite | with_reducible apply OutKeeps.next | with_reducible apply Keeps.ite | with_reducible apply Keeps.foldl | with_reducible apply State.coldStart_keeps | simp only [Keeps.upd_iff] | split | dsimp only)

theorem execPowerGoodLoss_keeps {orig s : State} (h : Keeps orig s)  :
    OutKeeps orig (execPowerGoodLoss s) := by
  unfold execPowerGoodLoss
  (try dsimp only)
  repeat' (first | with_reducible assumption | intro _ | with_reducible exact OutKeeps.fault | with_reducible apply OutKeeps.ite | with_reducible apply OutKeeps.next | with_reducible apply Keeps.ite | with_reducible apply Keeps.foldl | with_reducible apply State.coldState_keeps | with_reducible apply State.clampAll_keeps | simp only [Keeps.upd_iff] | split | dsimp only)

theorem execVt_keeps {orig s : State} (h : Keeps orig s) {core : BitVec 6} {mv : BitVec 12} {tj : BitVec 8} {rail env : BitVec 2} :
    OutKeeps orig (execVt core mv tj rail env s) := by
  unfold execVt
  (try dsimp only)
  repeat' (first | with_reducible assumption | intro _ | with_reducible exact OutKeeps.fault | with_reducible apply OutKeeps.ite | with_reducible apply OutKeeps.next | with_reducible apply Keeps.ite | with_reducible apply Keeps.foldl | with_reducible apply State.badMessage_keeps | with_reducible apply State.takeVt_keeps | with_reducible apply State.bootOn_keeps | simp only [Keeps.upd_iff] | split | dsimp only)

theorem execCapsel_keeps {orig s : State} (h : Keeps orig s) {q : Nat} {w : W64} :
    OutKeeps orig (execCapsel q w s) := by
  unfold execCapsel
  (try dsimp only)
  repeat' (first | with_reducible assumption | intro _ | with_reducible exact OutKeeps.fault | with_reducible apply OutKeeps.ite | with_reducible apply OutKeeps.next | with_reducible apply Keeps.ite | with_reducible apply Keeps.foldl | with_reducible apply Keeps.setPort | with_reducible apply State.checkSel_keeps | with_reducible apply State.bootOn_keeps | with_reducible apply State.onLink_keeps | with_reducible apply State.onLink_keeps | simp only [Keeps.upd_iff] | split | dsimp only)

theorem execStrobeRestored_keeps {orig s : State} (h : Keeps orig s) : OutKeeps orig (execStrobeRestored s) := by
  have h1 : Keeps orig ({ s with clk := { s.clk with lost := false } } : State) := h.trans ⟨rfl, rfl, id, Or.inl rfl, List.prefix_rfl⟩
  exact OutKeeps.ite (State.bootOn_keeps (State.portEvent_keeps h1)) h

theorem execAdmissionOpen_keeps {orig s : State} (h : Keeps orig s)  :
    OutKeeps orig (execAdmissionOpen s) := by
  unfold execAdmissionOpen
  (try dsimp only)
  repeat' (first | with_reducible assumption | intro _ | with_reducible exact OutKeeps.fault | with_reducible apply OutKeeps.ite | with_reducible apply OutKeeps.next | with_reducible apply Keeps.ite | with_reducible apply Keeps.foldl | with_reducible apply State.event_keeps | with_reducible apply State.startEnvelope_keeps | simp only [Keeps.upd_iff] | split | dsimp only)

theorem execWarmReset_keeps {orig s : State} (h : Keeps orig s)  :
    OutKeeps orig (execWarmReset s) := by
  unfold execWarmReset
  (try dsimp only)
  repeat' (first | with_reducible assumption | intro _ | with_reducible exact OutKeeps.fault | with_reducible apply OutKeeps.ite | with_reducible apply OutKeeps.next | with_reducible apply Keeps.ite | with_reducible apply Keeps.foldl | with_reducible apply State.warmNow_keeps | simp only [Keeps.upd_iff] | split | dsimp only)

theorem State.onFrame_keeps {orig s : State} (h : Keeps orig s) {q ftype : Nat} {f : Frame} {body : State → Nat → State} (hb : ∀ s g, Keeps orig s → Keeps orig (body s g)) :
    OutKeeps orig (State.onFrame s q ftype f body) := by
  unfold State.onFrame
  (try dsimp only)
  repeat' (first | with_reducible assumption | intro _ | with_reducible exact OutKeeps.fault | with_reducible apply OutKeeps.ite | with_reducible apply OutKeeps.next | with_reducible apply Keeps.ite | with_reducible apply Keeps.foldl | with_reducible apply State.returnCredit_keeps | with_reducible apply State.overrun_keeps | with_reducible apply hb | simp only [Keeps.upd_iff] | split | dsimp only)

theorem execData_keeps {orig s : State} (h : Keeps orig s) {q : Nat} {f : Frame} :
    OutKeeps orig (execData q f s) := by
  unfold execData
  (try dsimp only)
  repeat' (first | with_reducible assumption | intro _ | with_reducible exact OutKeeps.fault | with_reducible apply OutKeeps.ite | with_reducible apply OutKeeps.next | with_reducible apply Keeps.ite | with_reducible apply Keeps.foldl | with_reducible apply State.holdFrame_keeps | with_reducible apply State.returnCredit_keeps | with_reducible apply State.dataIn_keeps | with_reducible apply State.badCrc_keeps | with_reducible apply State.onFrame_keeps | with_reducible apply State.onFrame_keeps | simp only [Keeps.upd_iff] | split | dsimp only)

theorem execEnd_keeps {orig s : State} (h : Keeps orig s) {q : Nat} {f : Frame} :
    OutKeeps orig (execEnd q f s) := by
  unfold execEnd
  (try dsimp only)
  repeat' (first | with_reducible assumption | intro _ | with_reducible exact OutKeeps.fault | with_reducible apply OutKeeps.ite | with_reducible apply OutKeeps.next | with_reducible apply Keeps.ite | with_reducible apply Keeps.foldl | with_reducible apply State.holdFrame_keeps | with_reducible apply State.returnCredit_keeps | with_reducible apply State.endIn_keeps | with_reducible apply State.badCrc_keeps | with_reducible apply State.onFrame_keeps | with_reducible apply State.onFrame_keeps | simp only [Keeps.upd_iff] | split | dsimp only)

theorem execCollect_keeps {orig s : State} (h : Keeps orig s) {q : Nat} {f : Frame} :
    OutKeeps orig (execCollect q f s) := by
  unfold execCollect
  (try dsimp only)
  repeat' (first | with_reducible assumption | intro _ | with_reducible exact OutKeeps.fault | with_reducible apply OutKeeps.ite | with_reducible apply OutKeeps.next | with_reducible apply Keeps.ite | with_reducible apply Keeps.foldl | with_reducible apply State.returnCredit_keeps | with_reducible apply State.collectIn_keeps | with_reducible apply State.collectBad_keeps | with_reducible apply State.onFrame_keeps | with_reducible apply State.onFrame_keeps | simp only [Keeps.upd_iff] | split | dsimp only)

theorem execCommitNotice_keeps {orig s : State} (h : Keeps orig s) {q : Nat} {f : Frame} :
    OutKeeps orig (execCommitNotice q f s) := by
  unfold execCommitNotice
  (try dsimp only)
  repeat' (first | with_reducible assumption | intro _ | with_reducible exact OutKeeps.fault | with_reducible apply OutKeeps.ite | with_reducible apply OutKeeps.next | with_reducible apply Keeps.ite | with_reducible apply Keeps.foldl | with_reducible apply State.commitIn_keeps | with_reducible apply State.onFrame_keeps | with_reducible apply State.onFrame_keeps | simp only [Keeps.upd_iff] | split | dsimp only)

theorem execAck_keeps {orig s : State} (h : Keeps orig s) {q : Nat} {f : Frame} :
    OutKeeps orig (execAck q f s) := by
  unfold execAck
  (try dsimp only)
  repeat' (first | with_reducible assumption | intro _ | with_reducible exact OutKeeps.fault | with_reducible apply OutKeeps.ite | with_reducible apply OutKeeps.next | with_reducible apply Keeps.ite | with_reducible apply Keeps.foldl | with_reducible apply State.closeRegions_keeps | with_reducible apply State.ackIn_keeps | with_reducible apply State.onFrame_keeps | with_reducible apply State.onFrame_keeps | simp only [Keeps.upd_iff] | split | dsimp only)

theorem execResend_keeps {orig s : State} (h : Keeps orig s) {q : Nat} {f : Frame} :
    OutKeeps orig (execResend q f s) := by
  unfold execResend
  (try dsimp only)
  repeat' (first | with_reducible assumption | intro _ | with_reducible exact OutKeeps.fault | with_reducible apply OutKeeps.ite | with_reducible apply OutKeeps.next | with_reducible apply Keeps.ite | with_reducible apply Keeps.foldl | with_reducible apply State.resendIn_keeps | with_reducible apply State.onFrame_keeps | with_reducible apply State.onFrame_keeps | simp only [Keeps.upd_iff] | split | dsimp only)

theorem execResult_keeps {orig s : State} (h : Keeps orig s) {q : Nat} {f : Frame} : OutKeeps orig (execResult q f s) := by
  have h1 : Keeps orig (s.returnCredit q f) := State.returnCredit_keeps h
  unfold execResult
  dsimp only
  refine OutKeeps.ite OutKeeps.fault (OutKeeps.ite (OutKeeps.next (State.overrun_keeps h)) (OutKeeps.ite (OutKeeps.next h) ?_))
  split
  · exact OutKeeps.next h1
  · refine OutKeeps.ite h1 (OutKeeps.ite (State.resultFault_keeps h1) (OutKeeps.ite (State.countStraggler_keeps h1)
      (OutKeeps.ite (State.strayResult_keeps h1) (OutKeeps.ite (State.holdFrame_keeps h)
        (OutKeeps.ite (State.resultFault_keeps h1) ?_)))))
    split
    · exact OutKeeps.next (State.holdFrame_keeps h)
    · next s1 e => exact OutKeeps.next (State.takeResults_keeps h1 e)

theorem execAbort_keeps {orig s : State} (h : Keeps orig s) {q : Nat} {f : Frame} :
    OutKeeps orig (execAbort q f s) := by
  unfold execAbort
  (try dsimp only)
  repeat' (first | with_reducible assumption | intro _ | with_reducible exact OutKeeps.fault | with_reducible apply OutKeeps.ite | with_reducible apply OutKeeps.next | with_reducible apply Keeps.ite | with_reducible apply Keeps.foldl | with_reducible apply State.loseOps_keeps | with_reducible apply State.countStraggler_keeps | with_reducible apply State.closeRegions_keeps | with_reducible apply State.onFrame_keeps | with_reducible apply State.onFrame_keeps | simp only [Keeps.upd_iff] | split | dsimp only)

theorem execRevoke_keeps {orig s : State} (h : Keeps orig s) {q : Nat} {f : Frame} :
    OutKeeps orig (execRevoke q f s) := by
  unfold execRevoke
  (try dsimp only)
  repeat' (first | with_reducible assumption | intro _ | with_reducible exact OutKeeps.fault | with_reducible apply OutKeeps.ite | with_reducible apply OutKeeps.next | with_reducible apply Keeps.ite | with_reducible apply Keeps.foldl | with_reducible apply State.setObj_keeps | with_reducible apply State.cutOps_keeps | with_reducible apply State.dropWaiting_keeps | with_reducible apply State.fenceSends_keeps | with_reducible apply State.onFrame_keeps | with_reducible apply State.onFrame_keeps | simp only [Keeps.upd_iff] | split | dsimp only)

theorem execClaim_keeps {orig s : State} (h : Keeps orig s) {q : Nat} {f : Frame} :
    OutKeeps orig (execClaim q f s) := by
  unfold execClaim
  (try dsimp only)
  repeat' (first | with_reducible assumption | intro _ | with_reducible exact OutKeeps.fault | with_reducible apply OutKeeps.ite | with_reducible apply OutKeeps.next | with_reducible apply Keeps.ite | with_reducible apply Keeps.foldl | with_reducible apply State.sendReply_keeps | with_reducible apply State.onFrame_keeps | with_reducible apply State.onFrame_keeps | simp only [Keeps.upd_iff] | split | dsimp only)

theorem execClaimreply_keeps {orig s : State} (h : Keeps orig s) {q : Nat} {f : Frame} :
    OutKeeps orig (execClaimreply q f s) := by
  unfold execClaimreply
  (try dsimp only)
  repeat' (first | with_reducible assumption | intro _ | with_reducible exact OutKeeps.fault | with_reducible apply OutKeeps.ite | with_reducible apply OutKeeps.next | with_reducible apply Keeps.ite | with_reducible apply Keeps.foldl | with_reducible apply State.mapGroup_keeps | with_reducible apply State.allot_keeps | with_reducible apply State.checkClaim_keeps | with_reducible apply State.onFrame_keeps | with_reducible apply State.onFrame_keeps | simp only [Keeps.upd_iff] | split | dsimp only)

theorem execElected_keeps {orig s : State} (h : Keeps orig s) {q : Nat} {f : Frame} :
    OutKeeps orig (execElected q f s) := by
  unfold execElected
  (try dsimp only)
  repeat' (first | with_reducible assumption | intro _ | with_reducible exact OutKeeps.fault | with_reducible apply OutKeeps.ite | with_reducible apply OutKeeps.next | with_reducible apply Keeps.ite | with_reducible apply Keeps.foldl | with_reducible apply State.sendReply_keeps | with_reducible apply State.recordFirst_keeps | with_reducible apply State.onFrame_keeps | with_reducible apply State.onFrame_keeps | simp only [Keeps.upd_iff] | split | dsimp only)

theorem execAllot_keeps {orig s : State} (h : Keeps orig s) {q : Nat} {f : Frame} :
    OutKeeps orig (execAllot q f s) := by
  unfold execAllot
  (try dsimp only)
  repeat' (first | with_reducible assumption | intro _ | with_reducible exact OutKeeps.fault | with_reducible apply OutKeeps.ite | with_reducible apply OutKeeps.next | with_reducible apply Keeps.ite | with_reducible apply Keeps.foldl | with_reducible apply State.takeAllot_keeps | with_reducible apply State.onFrame_keeps | with_reducible apply State.onFrame_keeps | simp only [Keeps.upd_iff] | split | dsimp only)

theorem execReservedFrameType_keeps {orig s : State} (h : Keeps orig s) {q : Nat} {f : Frame} :
    OutKeeps orig (execReservedFrameType q f s) := by
  unfold execReservedFrameType
  (try dsimp only)
  repeat' (first | with_reducible assumption | intro _ | with_reducible exact OutKeeps.fault | with_reducible apply OutKeeps.ite | with_reducible apply OutKeeps.next | with_reducible apply Keeps.ite | with_reducible apply Keeps.foldl | with_reducible apply State.returnCredit_keeps | with_reducible apply State.overrun_keeps | simp only [Keeps.upd_iff] | split | dsimp only)

theorem execWrite_keeps {orig s : State} (h : Keeps orig s) {dg : Datagram} :
    OutKeeps orig (execWrite dg s) := by
  unfold execWrite
  (try dsimp only)
  repeat' (first | with_reducible assumption | intro _ | with_reducible exact OutKeeps.fault | with_reducible apply OutKeeps.ite | with_reducible apply OutKeeps.next | with_reducible apply Keeps.ite | with_reducible apply Keeps.foldl | with_reducible apply State.datagram_keeps | simp only [Keeps.upd_iff] | split | dsimp only)

theorem execEvack_keeps {orig s : State} (h : Keeps orig s) {dg : Datagram} :
    OutKeeps orig (execEvack dg s) := by
  unfold execEvack
  (try dsimp only)
  repeat' (first | with_reducible assumption | intro _ | with_reducible exact OutKeeps.fault | with_reducible apply OutKeeps.ite | with_reducible apply OutKeeps.next | with_reducible apply Keeps.ite | with_reducible apply Keeps.foldl | with_reducible apply State.datagram_keeps | simp only [Keeps.upd_iff] | split | dsimp only)

theorem execEventSend_keeps {orig s : State} (h : Keeps orig s)  :
    OutKeeps orig (execEventSend s) := by
  unfold execEventSend
  (try dsimp only)
  repeat' (first | with_reducible assumption | intro _ | with_reducible exact OutKeeps.fault | with_reducible apply OutKeeps.ite | with_reducible apply OutKeeps.next | with_reducible apply Keeps.ite | with_reducible apply Keeps.foldl | with_reducible apply State.sendNew_keeps | with_reducible apply State.noticed_keeps | simp only [Keeps.upd_iff] | split | dsimp only)

theorem execEventRetry_keeps {orig s : State} (h : Keeps orig s) {xid : Nat} :
    OutKeeps orig (execEventRetry xid s) := by
  unfold execEventRetry
  (try dsimp only)
  repeat' (first | with_reducible assumption | intro _ | with_reducible exact OutKeeps.fault | with_reducible apply OutKeeps.ite | with_reducible apply OutKeeps.next | with_reducible apply Keeps.ite | with_reducible apply Keeps.foldl | with_reducible apply State.bump_keeps | with_reducible apply State.toHub_keeps | with_reducible apply State.noticed_keeps | simp only [Keeps.upd_iff] | split | dsimp only)

theorem execCoalescingIntervalExpiry_keeps {orig s : State} (h : Keeps orig s) {k : Nat} :
    OutKeeps orig (execCoalescingIntervalExpiry k s) := by
  unfold execCoalescingIntervalExpiry
  split
  · exact h
  · refine OutKeeps.ite (State.closeKey_keeps (Keeps.upd_errs h (fun g => ?_))) h
    obtain ⟨h1, h2, h3, h4, h5⟩ := recordsKept_iff.mp g
    exact recordsKept_iff.mpr ⟨h1, h2, h3, h4, Nat.le_trans (List.length_eraseIdx_le ..) h5⟩

theorem execNeighbourSolicitation_keeps {orig s : State} (h : Keeps orig s) {src target : Nat} :
    OutKeeps orig (execNeighbourSolicitation src target s) := by
  unfold execNeighbourSolicitation
  (try dsimp only)
  repeat' (first | with_reducible assumption | intro _ | with_reducible exact OutKeeps.fault | with_reducible apply OutKeeps.ite | with_reducible apply OutKeeps.next | with_reducible apply Keeps.ite | with_reducible apply Keeps.foldl | with_reducible apply State.hearSource_keeps | with_reducible apply State.answerIcmp_keeps | simp only [Keeps.upd_iff] | split | dsimp only)

theorem execEchoRequest_keeps {orig s : State} (h : Keeps orig s) {src dst ident seq : Nat} {data : List Byte} :
    OutKeeps orig (execEchoRequest src dst ident seq data s) := by
  unfold execEchoRequest
  (try dsimp only)
  repeat' (first | with_reducible assumption | intro _ | with_reducible exact OutKeeps.fault | with_reducible apply OutKeeps.ite | with_reducible apply OutKeeps.next | with_reducible apply Keeps.ite | with_reducible apply Keeps.foldl | with_reducible apply State.hearSource_keeps | with_reducible apply State.answerIcmp_keeps | simp only [Keeps.upd_iff] | split | dsimp only)

theorem execEnvelopeStepUpRequest_keeps {orig s : State} (h : Keeps orig s) {r : Req} :
    OutKeeps orig (execEnvelopeStepUpRequest r s) := by
  unfold execEnvelopeStepUpRequest
  (try dsimp only)
  repeat' (first | with_reducible assumption | intro _ | with_reducible exact OutKeeps.fault | with_reducible apply OutKeeps.ite | with_reducible apply OutKeeps.next | with_reducible apply Keeps.ite | with_reducible apply Keeps.foldl | with_reducible apply State.request_keeps | simp only [Keeps.upd_iff] | split | dsimp only)

theorem execEnvelopeStepDownRequest_keeps {orig s : State} (h : Keeps orig s) {r : Req} :
    OutKeeps orig (execEnvelopeStepDownRequest r s) := by
  unfold execEnvelopeStepDownRequest
  (try dsimp only)
  repeat' (first | with_reducible assumption | intro _ | with_reducible exact OutKeeps.fault | with_reducible apply OutKeeps.ite | with_reducible apply OutKeeps.next | with_reducible apply Keeps.ite | with_reducible apply Keeps.foldl | with_reducible apply State.request_keeps | simp only [Keeps.upd_iff] | split | dsimp only)

theorem execCoolingClass_keeps {orig s : State} (h : Keeps orig s) {r : Req} :
    OutKeeps orig (execCoolingClass r s) := by
  unfold execCoolingClass
  (try dsimp only)
  repeat' (first | with_reducible assumption | intro _ | with_reducible exact OutKeeps.fault | with_reducible apply OutKeeps.ite | with_reducible apply OutKeeps.next | with_reducible apply Keeps.ite | with_reducible apply Keeps.foldl | with_reducible apply State.request_keeps | simp only [Keeps.upd_iff] | split | dsimp only)

theorem execPowerCap_keeps {orig s : State} (h : Keeps orig s) {r : Req} :
    OutKeeps orig (execPowerCap r s) := by
  unfold execPowerCap
  (try dsimp only)
  repeat' (first | with_reducible assumption | intro _ | with_reducible exact OutKeeps.fault | with_reducible apply OutKeeps.ite | with_reducible apply OutKeeps.next | with_reducible apply Keeps.ite | with_reducible apply Keeps.foldl | with_reducible apply State.request_keeps | simp only [Keeps.upd_iff] | split | dsimp only)

theorem execPendingMarginStep_keeps {orig s : State} (h : Keeps orig s) {core : Nat} {r : Req} :
    OutKeeps orig (execPendingMarginStep core r s) := by
  unfold execPendingMarginStep
  (try dsimp only)
  repeat' (first | with_reducible assumption | intro _ | with_reducible exact OutKeeps.fault | with_reducible apply OutKeeps.ite | with_reducible apply OutKeeps.next | with_reducible apply Keeps.ite | with_reducible apply Keeps.foldl | with_reducible apply State.request_keeps | simp only [Keeps.upd_iff] | split | dsimp only)

theorem execMarginStepInForce_keeps {orig s : State} (h : Keeps orig s) {core : Nat} {r : Req} :
    OutKeeps orig (execMarginStepInForce core r s) := by
  unfold execMarginStepInForce
  (try dsimp only)
  repeat' (first | with_reducible assumption | intro _ | with_reducible exact OutKeeps.fault | with_reducible apply OutKeeps.ite | with_reducible apply OutKeeps.next | with_reducible apply Keeps.ite | with_reducible apply Keeps.foldl | with_reducible apply State.request_keeps | simp only [Keeps.upd_iff] | split | dsimp only)

theorem execPendingBypassMap_keeps {orig s : State} (h : Keeps orig s) {n : Nat} {r : Req} :
    OutKeeps orig (execPendingBypassMap n r s) := by
  unfold execPendingBypassMap
  (try dsimp only)
  repeat' (first | with_reducible assumption | intro _ | with_reducible exact OutKeeps.fault | with_reducible apply OutKeeps.ite | with_reducible apply OutKeeps.next | with_reducible apply Keeps.ite | with_reducible apply Keeps.foldl | with_reducible apply State.request_keeps | simp only [Keeps.upd_iff] | split | dsimp only)

theorem execTenantState_keeps {orig s : State} (h : Keeps orig s) {t : Nat} {r : Req} :
    OutKeeps orig (execTenantState t r s) := by
  unfold execTenantState
  (try dsimp only)
  repeat' (first | with_reducible assumption | intro _ | with_reducible exact OutKeeps.fault | with_reducible apply OutKeeps.ite | with_reducible apply OutKeeps.next | with_reducible apply Keeps.ite | with_reducible apply Keeps.foldl | with_reducible apply State.request_keeps | simp only [Keeps.upd_iff] | split | dsimp only)

theorem execCoreOwner_keeps {orig s : State} (h : Keeps orig s) {core : Nat} {r : Req} :
    OutKeeps orig (execCoreOwner core r s) := by
  unfold execCoreOwner
  (try dsimp only)
  repeat' (first | with_reducible assumption | intro _ | with_reducible exact OutKeeps.fault | with_reducible apply OutKeeps.ite | with_reducible apply OutKeeps.next | with_reducible apply Keeps.ite | with_reducible apply Keeps.foldl | with_reducible apply State.request_keeps | simp only [Keeps.upd_iff] | split | dsimp only)

theorem execQuadrantOwners_keeps {orig s : State} (h : Keeps orig s) {n : Nat} {r : Req} :
    OutKeeps orig (execQuadrantOwners n r s) := by
  unfold execQuadrantOwners
  (try dsimp only)
  repeat' (first | with_reducible assumption | intro _ | with_reducible exact OutKeeps.fault | with_reducible apply OutKeeps.ite | with_reducible apply OutKeeps.next | with_reducible apply Keeps.ite | with_reducible apply Keeps.foldl | with_reducible apply State.request_keeps | simp only [Keeps.upd_iff] | split | dsimp only)

theorem execBufferRange_keeps {orig s : State} (h : Keeps orig s) {t sub : Nat} {r : Req} :
    OutKeeps orig (execBufferRange t sub r s) := by
  unfold execBufferRange
  (try dsimp only)
  repeat' (first | with_reducible assumption | intro _ | with_reducible exact OutKeeps.fault | with_reducible apply OutKeeps.ite | with_reducible apply OutKeeps.next | with_reducible apply Keeps.ite | with_reducible apply Keeps.foldl | with_reducible apply State.request_keeps | simp only [Keeps.upd_iff] | split | dsimp only)

theorem execDebugMode_keeps {orig s : State} (h : Keeps orig s) {r : Req} :
    OutKeeps orig (execDebugMode r s) := by
  unfold execDebugMode
  (try dsimp only)
  repeat' (first | with_reducible assumption | intro _ | with_reducible exact OutKeeps.fault | with_reducible apply OutKeeps.ite | with_reducible apply OutKeeps.next | with_reducible apply Keeps.ite | with_reducible apply Keeps.foldl | with_reducible apply State.request_keeps | simp only [Keeps.upd_iff] | split | dsimp only)

theorem execTransferOpen_keeps {orig s : State} (h : Keeps orig s) {r : Req} :
    OutKeeps orig (execTransferOpen r s) := by
  unfold execTransferOpen
  (try dsimp only)
  repeat' (first | with_reducible assumption | intro _ | with_reducible exact OutKeeps.fault | with_reducible apply OutKeeps.ite | with_reducible apply OutKeeps.next | with_reducible apply Keeps.ite | with_reducible apply Keeps.foldl | with_reducible apply State.request_keeps | simp only [Keeps.upd_iff] | split | dsimp only)

theorem execTransferChunk_keeps {orig s : State} (h : Keeps orig s) {r : Req} :
    OutKeeps orig (execTransferChunk r s) := by
  unfold execTransferChunk
  (try dsimp only)
  repeat' (first | with_reducible assumption | intro _ | with_reducible exact OutKeeps.fault | with_reducible apply OutKeeps.ite | with_reducible apply OutKeeps.next | with_reducible apply Keeps.ite | with_reducible apply Keeps.foldl | with_reducible apply State.request_keeps | simp only [Keeps.upd_iff] | split | dsimp only)

theorem execTransferVerify_keeps {orig s : State} (h : Keeps orig s) {r : Req} :
    OutKeeps orig (execTransferVerify r s) := by
  unfold execTransferVerify
  (try dsimp only)
  repeat' (first | with_reducible assumption | intro _ | with_reducible exact OutKeeps.fault | with_reducible apply OutKeeps.ite | with_reducible apply OutKeeps.next | with_reducible apply Keeps.ite | with_reducible apply Keeps.foldl | with_reducible apply State.request_keeps | simp only [Keeps.upd_iff] | split | dsimp only)

theorem execGfwActivate_keeps {orig s : State} (h : Keeps orig s) {r : Req} :
    OutKeeps orig (execGfwActivate r s) := by
  unfold execGfwActivate
  (try dsimp only)
  repeat' (first | with_reducible assumption | intro _ | with_reducible exact OutKeeps.fault | with_reducible apply OutKeeps.ite | with_reducible apply OutKeeps.next | with_reducible apply Keeps.ite | with_reducible apply Keeps.foldl | with_reducible apply State.request_keeps | simp only [Keeps.upd_iff] | split | dsimp only)

theorem execColdResetRequest_keeps {orig s : State} (h : Keeps orig s) {r : Req} :
    OutKeeps orig (execColdResetRequest r s) := by
  unfold execColdResetRequest
  (try dsimp only)
  repeat' (first | with_reducible assumption | intro _ | with_reducible exact OutKeeps.fault | with_reducible apply OutKeeps.ite | with_reducible apply OutKeeps.next | with_reducible apply Keeps.ite | with_reducible apply Keeps.foldl | with_reducible apply State.request_keeps | simp only [Keeps.upd_iff] | split | dsimp only)

theorem execWarmResetRequest_keeps {orig s : State} (h : Keeps orig s) {r : Req} :
    OutKeeps orig (execWarmResetRequest r s) := by
  unfold execWarmResetRequest
  (try dsimp only)
  repeat' (first | with_reducible assumption | intro _ | with_reducible exact OutKeeps.fault | with_reducible apply OutKeeps.ite | with_reducible apply OutKeeps.next | with_reducible apply Keeps.ite | with_reducible apply Keeps.foldl | with_reducible apply State.request_keeps | simp only [Keeps.upd_iff] | split | dsimp only)

theorem execPortReset_keeps {orig s : State} (h : Keeps orig s) {q : Nat} {r : Req} :
    OutKeeps orig (execPortReset q r s) := by
  unfold execPortReset
  (try dsimp only)
  repeat' (first | with_reducible assumption | intro _ | with_reducible exact OutKeeps.fault | with_reducible apply OutKeeps.ite | with_reducible apply OutKeeps.next | with_reducible apply Keeps.ite | with_reducible apply Keeps.foldl | with_reducible apply State.request_keeps | simp only [Keeps.upd_iff] | split | dsimp only)

theorem execDrainRequest_keeps {orig s : State} (h : Keeps orig s) {r : Req} :
    OutKeeps orig (execDrainRequest r s) := by
  unfold execDrainRequest
  (try dsimp only)
  repeat' (first | with_reducible assumption | intro _ | with_reducible exact OutKeeps.fault | with_reducible apply OutKeeps.ite | with_reducible apply OutKeeps.next | with_reducible apply Keeps.ite | with_reducible apply Keeps.foldl | with_reducible apply State.request_keeps | simp only [Keeps.upd_iff] | split | dsimp only)

theorem execDeckPause_keeps {orig s : State} (h : Keeps orig s) {r : Req} :
    OutKeeps orig (execDeckPause r s) := by
  unfold execDeckPause
  (try dsimp only)
  repeat' (first | with_reducible assumption | intro _ | with_reducible exact OutKeeps.fault | with_reducible apply OutKeeps.ite | with_reducible apply OutKeeps.next | with_reducible apply Keeps.ite | with_reducible apply Keeps.foldl | with_reducible apply State.request_keeps | simp only [Keeps.upd_iff] | split | dsimp only)

theorem execReleaseRequest_keeps {orig s : State} (h : Keeps orig s) {r : Req} :
    OutKeeps orig (execReleaseRequest r s) := by
  unfold execReleaseRequest
  (try dsimp only)
  repeat' (first | with_reducible assumption | intro _ | with_reducible exact OutKeeps.fault | with_reducible apply OutKeeps.ite | with_reducible apply OutKeeps.next | with_reducible apply Keeps.ite | with_reducible apply Keeps.foldl | with_reducible apply State.request_keeps | simp only [Keeps.upd_iff] | split | dsimp only)

theorem execSweepRequest_keeps {orig s : State} (h : Keeps orig s) {u : Nat} {r : Req} :
    OutKeeps orig (execSweepRequest u r s) := by
  unfold execSweepRequest
  (try dsimp only)
  repeat' (first | with_reducible assumption | intro _ | with_reducible exact OutKeeps.fault | with_reducible apply OutKeeps.ite | with_reducible apply OutKeeps.next | with_reducible apply Keeps.ite | with_reducible apply Keeps.foldl | with_reducible apply State.request_keeps | simp only [Keeps.upd_iff] | split | dsimp only)

theorem execOpDelivery_keeps {orig s : State} (h : Keeps orig s) {op : Reads} :
    OutKeeps orig (execOpDelivery op s) := by
  unfold execOpDelivery
  (try dsimp only)
  repeat' (first | with_reducible assumption | intro _ | with_reducible exact OutKeeps.fault | with_reducible apply OutKeeps.ite | with_reducible apply OutKeeps.next | with_reducible apply Keeps.ite | with_reducible apply Keeps.foldl | with_reducible apply State.settle_keeps | with_reducible apply State.workOp_keeps | simp only [Keeps.upd_iff] | split | dsimp only)

end Sys2Proof.Machine
end

