-- ==== Sys2Proof/Laws/State.lean ====
section
/-! SUPPORT. The fields of the state after each named update: one lemma for each field and update, and what a read gives
after a write. -/

namespace Sys2Proof.Machine

variable (s : State)

/-! ### setReg -/

@[simp] theorem State.setReg_pending (k : Nat) (r : LongReg) : (s.setReg k r).pending = s.pending := rfl
@[simp] theorem State.setReg_conf (k : Nat) (r : LongReg) : (s.setReg k r).conf = s.conf := rfl
@[simp] theorem State.setReg_pwrGood (k : Nat) (r : LongReg) : (s.setReg k r).pwrGood = s.pwrGood := rfl
@[simp] theorem State.setReg_clk (k : Nat) (r : LongReg) : (s.setReg k r).clk = s.clk := rfl
@[simp] theorem State.setReg_boot (k : Nat) (r : LongReg) : (s.setReg k r).boot = s.boot := rfl
@[simp] theorem State.setReg_dict (k : Nat) (r : LongReg) : (s.setReg k r).dict = s.dict := rfl
@[simp] theorem State.setReg_speed (k : Nat) (r : LongReg) : (s.setReg k r).speed = s.speed := rfl
@[simp] theorem State.setReg_regs (k : Nat) (r : LongReg) : (s.setReg k r).regs = sset .zero s.regs k r := rfl
@[simp] theorem State.setReg_tiles (k : Nat) (r : LongReg) : (s.setReg k r).tiles = s.tiles := rfl
@[simp] theorem State.setReg_cells (k : Nat) (r : LongReg) : (s.setReg k r).cells = s.cells := rfl
@[simp] theorem State.setReg_shadow (k : Nat) (r : LongReg) : (s.setReg k r).shadow = s.shadow := rfl
@[simp] theorem State.setReg_swr (k : Nat) (r : LongReg) : (s.setReg k r).swr = s.swr := rfl
@[simp] theorem State.setReg_cores (k : Nat) (r : LongReg) : (s.setReg k r).cores = s.cores := rfl
@[simp] theorem State.setReg_chains (k : Nat) (r : LongReg) : (s.setReg k r).chains = s.chains := rfl
@[simp] theorem State.setReg_buf (k : Nat) (r : LongReg) : (s.setReg k r).buf = s.buf := rfl
@[simp] theorem State.setReg_stg (k : Nat) (r : LongReg) : (s.setReg k r).stg = s.stg := rfl
@[simp] theorem State.setReg_spine (k : Nat) (r : LongReg) : (s.setReg k r).spine = s.spine := rfl
@[simp] theorem State.setReg_adm (k : Nat) (r : LongReg) : (s.setReg k r).adm = s.adm := rfl
@[simp] theorem State.setReg_ops (k : Nat) (r : LongReg) : (s.setReg k r).ops = s.ops := rfl
@[simp] theorem State.setReg_slips (k : Nat) (r : LongReg) : (s.setReg k r).slips = s.slips := rfl
@[simp] theorem State.setReg_regions (k : Nat) (r : LongReg) : (s.setReg k r).regions = s.regions := rfl
@[simp] theorem State.setReg_drq (k : Nat) (r : LongReg) : (s.setReg k r).drq = s.drq := rfl
@[simp] theorem State.setReg_groups (k : Nat) (r : LongReg) : (s.setReg k r).groups = s.groups := rfl
@[simp] theorem State.setReg_ranges (k : Nat) (r : LongReg) : (s.setReg k r).ranges = s.ranges := rfl
@[simp] theorem State.setReg_jobs (k : Nat) (r : LongReg) : (s.setReg k r).jobs = s.jobs := rfl
@[simp] theorem State.setReg_nextJob (k : Nat) (r : LongReg) : (s.setReg k r).nextJob = s.nextJob := rfl
@[simp] theorem State.setReg_loop (k : Nat) (r : LongReg) : (s.setReg k r).loop = s.loop := rfl
@[simp] theorem State.setReg_pwr (k : Nat) (r : LongReg) : (s.setReg k r).pwr = s.pwr := rfl
@[simp] theorem State.setReg_ports (k : Nat) (r : LongReg) : (s.setReg k r).ports = s.ports := rfl
@[simp] theorem State.setReg_con (k : Nat) (r : LongReg) : (s.setReg k r).con = s.con := rfl
@[simp] theorem State.setReg_tru (k : Nat) (r : LongReg) : (s.setReg k r).tru = s.tru := rfl
@[simp] theorem State.setReg_moves (k : Nat) (r : LongReg) : (s.setReg k r).moves = s.moves := rfl
@[simp] theorem State.setReg_mg (k : Nat) (r : LongReg) : (s.setReg k r).mg = s.mg := rfl
@[simp] theorem State.setReg_errs (k : Nat) (r : LongReg) : (s.setReg k r).errs = s.errs := rfl
@[simp] theorem State.setReg_out (k : Nat) (r : LongReg) : (s.setReg k r).out = s.out := rfl
@[simp] theorem State.setReg_freeCtr (k : Nat) (r : LongReg) : (s.setReg k r).freeCtr = s.freeCtr := rfl

/-! ### setTile -/

@[simp] theorem State.setTile_pending (k : Nat) (q : TileQ) : (s.setTile k q).pending = s.pending := rfl
@[simp] theorem State.setTile_conf (k : Nat) (q : TileQ) : (s.setTile k q).conf = s.conf := rfl
@[simp] theorem State.setTile_pwrGood (k : Nat) (q : TileQ) : (s.setTile k q).pwrGood = s.pwrGood := rfl
@[simp] theorem State.setTile_clk (k : Nat) (q : TileQ) : (s.setTile k q).clk = s.clk := rfl
@[simp] theorem State.setTile_boot (k : Nat) (q : TileQ) : (s.setTile k q).boot = s.boot := rfl
@[simp] theorem State.setTile_dict (k : Nat) (q : TileQ) : (s.setTile k q).dict = s.dict := rfl
@[simp] theorem State.setTile_speed (k : Nat) (q : TileQ) : (s.setTile k q).speed = s.speed := rfl
@[simp] theorem State.setTile_regs (k : Nat) (q : TileQ) : (s.setTile k q).regs = s.regs := rfl
@[simp] theorem State.setTile_tiles (k : Nat) (q : TileQ) : (s.setTile k q).tiles = sset .zero s.tiles k q := rfl
@[simp] theorem State.setTile_cells (k : Nat) (q : TileQ) : (s.setTile k q).cells = s.cells := rfl
@[simp] theorem State.setTile_shadow (k : Nat) (q : TileQ) : (s.setTile k q).shadow = s.shadow := rfl
@[simp] theorem State.setTile_swr (k : Nat) (q : TileQ) : (s.setTile k q).swr = s.swr := rfl
@[simp] theorem State.setTile_cores (k : Nat) (q : TileQ) : (s.setTile k q).cores = s.cores := rfl
@[simp] theorem State.setTile_chains (k : Nat) (q : TileQ) : (s.setTile k q).chains = s.chains := rfl
@[simp] theorem State.setTile_buf (k : Nat) (q : TileQ) : (s.setTile k q).buf = s.buf := rfl
@[simp] theorem State.setTile_stg (k : Nat) (q : TileQ) : (s.setTile k q).stg = s.stg := rfl
@[simp] theorem State.setTile_spine (k : Nat) (q : TileQ) : (s.setTile k q).spine = s.spine := rfl
@[simp] theorem State.setTile_adm (k : Nat) (q : TileQ) : (s.setTile k q).adm = s.adm := rfl
@[simp] theorem State.setTile_ops (k : Nat) (q : TileQ) : (s.setTile k q).ops = s.ops := rfl
@[simp] theorem State.setTile_slips (k : Nat) (q : TileQ) : (s.setTile k q).slips = s.slips := rfl
@[simp] theorem State.setTile_regions (k : Nat) (q : TileQ) : (s.setTile k q).regions = s.regions := rfl
@[simp] theorem State.setTile_drq (k : Nat) (q : TileQ) : (s.setTile k q).drq = s.drq := rfl
@[simp] theorem State.setTile_groups (k : Nat) (q : TileQ) : (s.setTile k q).groups = s.groups := rfl
@[simp] theorem State.setTile_ranges (k : Nat) (q : TileQ) : (s.setTile k q).ranges = s.ranges := rfl
@[simp] theorem State.setTile_jobs (k : Nat) (q : TileQ) : (s.setTile k q).jobs = s.jobs := rfl
@[simp] theorem State.setTile_nextJob (k : Nat) (q : TileQ) : (s.setTile k q).nextJob = s.nextJob := rfl
@[simp] theorem State.setTile_loop (k : Nat) (q : TileQ) : (s.setTile k q).loop = s.loop := rfl
@[simp] theorem State.setTile_pwr (k : Nat) (q : TileQ) : (s.setTile k q).pwr = s.pwr := rfl
@[simp] theorem State.setTile_ports (k : Nat) (q : TileQ) : (s.setTile k q).ports = s.ports := rfl
@[simp] theorem State.setTile_con (k : Nat) (q : TileQ) : (s.setTile k q).con = s.con := rfl
@[simp] theorem State.setTile_tru (k : Nat) (q : TileQ) : (s.setTile k q).tru = s.tru := rfl
@[simp] theorem State.setTile_moves (k : Nat) (q : TileQ) : (s.setTile k q).moves = s.moves := rfl
@[simp] theorem State.setTile_mg (k : Nat) (q : TileQ) : (s.setTile k q).mg = s.mg := rfl
@[simp] theorem State.setTile_errs (k : Nat) (q : TileQ) : (s.setTile k q).errs = s.errs := rfl
@[simp] theorem State.setTile_out (k : Nat) (q : TileQ) : (s.setTile k q).out = s.out := rfl
@[simp] theorem State.setTile_freeCtr (k : Nat) (q : TileQ) : (s.setTile k q).freeCtr = s.freeCtr := rfl

/-! ### setCore -/

@[simp] theorem State.setCore_pending (c : Nat) (v : CoreSt) : (s.setCore c v).pending = s.pending := rfl
@[simp] theorem State.setCore_conf (c : Nat) (v : CoreSt) : (s.setCore c v).conf = s.conf := rfl
@[simp] theorem State.setCore_pwrGood (c : Nat) (v : CoreSt) : (s.setCore c v).pwrGood = s.pwrGood := rfl
@[simp] theorem State.setCore_clk (c : Nat) (v : CoreSt) : (s.setCore c v).clk = s.clk := rfl
@[simp] theorem State.setCore_boot (c : Nat) (v : CoreSt) : (s.setCore c v).boot = s.boot := rfl
@[simp] theorem State.setCore_dict (c : Nat) (v : CoreSt) : (s.setCore c v).dict = s.dict := rfl
@[simp] theorem State.setCore_speed (c : Nat) (v : CoreSt) : (s.setCore c v).speed = s.speed := rfl
@[simp] theorem State.setCore_regs (c : Nat) (v : CoreSt) : (s.setCore c v).regs = s.regs := rfl
@[simp] theorem State.setCore_tiles (c : Nat) (v : CoreSt) : (s.setCore c v).tiles = s.tiles := rfl
@[simp] theorem State.setCore_cells (c : Nat) (v : CoreSt) : (s.setCore c v).cells = s.cells := rfl
@[simp] theorem State.setCore_shadow (c : Nat) (v : CoreSt) : (s.setCore c v).shadow = s.shadow := rfl
@[simp] theorem State.setCore_swr (c : Nat) (v : CoreSt) : (s.setCore c v).swr = s.swr := rfl
@[simp] theorem State.setCore_cores (c : Nat) (v : CoreSt) : (s.setCore c v).cores = sset .zero s.cores c v := rfl
@[simp] theorem State.setCore_chains (c : Nat) (v : CoreSt) : (s.setCore c v).chains = s.chains := rfl
@[simp] theorem State.setCore_buf (c : Nat) (v : CoreSt) : (s.setCore c v).buf = s.buf := rfl
@[simp] theorem State.setCore_stg (c : Nat) (v : CoreSt) : (s.setCore c v).stg = s.stg := rfl
@[simp] theorem State.setCore_spine (c : Nat) (v : CoreSt) : (s.setCore c v).spine = s.spine := rfl
@[simp] theorem State.setCore_adm (c : Nat) (v : CoreSt) : (s.setCore c v).adm = s.adm := rfl
@[simp] theorem State.setCore_ops (c : Nat) (v : CoreSt) : (s.setCore c v).ops = s.ops := rfl
@[simp] theorem State.setCore_slips (c : Nat) (v : CoreSt) : (s.setCore c v).slips = s.slips := rfl
@[simp] theorem State.setCore_regions (c : Nat) (v : CoreSt) : (s.setCore c v).regions = s.regions := rfl
@[simp] theorem State.setCore_drq (c : Nat) (v : CoreSt) : (s.setCore c v).drq = s.drq := rfl
@[simp] theorem State.setCore_groups (c : Nat) (v : CoreSt) : (s.setCore c v).groups = s.groups := rfl
@[simp] theorem State.setCore_ranges (c : Nat) (v : CoreSt) : (s.setCore c v).ranges = s.ranges := rfl
@[simp] theorem State.setCore_jobs (c : Nat) (v : CoreSt) : (s.setCore c v).jobs = s.jobs := rfl
@[simp] theorem State.setCore_nextJob (c : Nat) (v : CoreSt) : (s.setCore c v).nextJob = s.nextJob := rfl
@[simp] theorem State.setCore_loop (c : Nat) (v : CoreSt) : (s.setCore c v).loop = s.loop := rfl
@[simp] theorem State.setCore_pwr (c : Nat) (v : CoreSt) : (s.setCore c v).pwr = s.pwr := rfl
@[simp] theorem State.setCore_ports (c : Nat) (v : CoreSt) : (s.setCore c v).ports = s.ports := rfl
@[simp] theorem State.setCore_con (c : Nat) (v : CoreSt) : (s.setCore c v).con = s.con := rfl
@[simp] theorem State.setCore_tru (c : Nat) (v : CoreSt) : (s.setCore c v).tru = s.tru := rfl
@[simp] theorem State.setCore_moves (c : Nat) (v : CoreSt) : (s.setCore c v).moves = s.moves := rfl
@[simp] theorem State.setCore_mg (c : Nat) (v : CoreSt) : (s.setCore c v).mg = s.mg := rfl
@[simp] theorem State.setCore_errs (c : Nat) (v : CoreSt) : (s.setCore c v).errs = s.errs := rfl
@[simp] theorem State.setCore_out (c : Nat) (v : CoreSt) : (s.setCore c v).out = s.out := rfl
@[simp] theorem State.setCore_freeCtr (c : Nat) (v : CoreSt) : (s.setCore c v).freeCtr = s.freeCtr := rfl

/-! ### setChain -/

@[simp] theorem State.setChain_pending (c : ChainId) (v : ChainSt) : (s.setChain c v).pending = s.pending := rfl
@[simp] theorem State.setChain_conf (c : ChainId) (v : ChainSt) : (s.setChain c v).conf = s.conf := rfl
@[simp] theorem State.setChain_pwrGood (c : ChainId) (v : ChainSt) : (s.setChain c v).pwrGood = s.pwrGood := rfl
@[simp] theorem State.setChain_clk (c : ChainId) (v : ChainSt) : (s.setChain c v).clk = s.clk := rfl
@[simp] theorem State.setChain_boot (c : ChainId) (v : ChainSt) : (s.setChain c v).boot = s.boot := rfl
@[simp] theorem State.setChain_dict (c : ChainId) (v : ChainSt) : (s.setChain c v).dict = s.dict := rfl
@[simp] theorem State.setChain_speed (c : ChainId) (v : ChainSt) : (s.setChain c v).speed = s.speed := rfl
@[simp] theorem State.setChain_regs (c : ChainId) (v : ChainSt) : (s.setChain c v).regs = s.regs := rfl
@[simp] theorem State.setChain_tiles (c : ChainId) (v : ChainSt) : (s.setChain c v).tiles = s.tiles := rfl
@[simp] theorem State.setChain_cells (c : ChainId) (v : ChainSt) : (s.setChain c v).cells = s.cells := rfl
@[simp] theorem State.setChain_shadow (c : ChainId) (v : ChainSt) : (s.setChain c v).shadow = s.shadow := rfl
@[simp] theorem State.setChain_swr (c : ChainId) (v : ChainSt) : (s.setChain c v).swr = s.swr := rfl
@[simp] theorem State.setChain_cores (c : ChainId) (v : ChainSt) : (s.setChain c v).cores = s.cores := rfl
@[simp] theorem State.setChain_chains (c : ChainId) (v : ChainSt) : (s.setChain c v).chains = sset .zero s.chains (chainKey c) v := rfl
@[simp] theorem State.setChain_buf (c : ChainId) (v : ChainSt) : (s.setChain c v).buf = s.buf := rfl
@[simp] theorem State.setChain_stg (c : ChainId) (v : ChainSt) : (s.setChain c v).stg = s.stg := rfl
@[simp] theorem State.setChain_spine (c : ChainId) (v : ChainSt) : (s.setChain c v).spine = s.spine := rfl
@[simp] theorem State.setChain_adm (c : ChainId) (v : ChainSt) : (s.setChain c v).adm = s.adm := rfl
@[simp] theorem State.setChain_ops (c : ChainId) (v : ChainSt) : (s.setChain c v).ops = s.ops := rfl
@[simp] theorem State.setChain_slips (c : ChainId) (v : ChainSt) : (s.setChain c v).slips = s.slips := rfl
@[simp] theorem State.setChain_regions (c : ChainId) (v : ChainSt) : (s.setChain c v).regions = s.regions := rfl
@[simp] theorem State.setChain_drq (c : ChainId) (v : ChainSt) : (s.setChain c v).drq = s.drq := rfl
@[simp] theorem State.setChain_groups (c : ChainId) (v : ChainSt) : (s.setChain c v).groups = s.groups := rfl
@[simp] theorem State.setChain_ranges (c : ChainId) (v : ChainSt) : (s.setChain c v).ranges = s.ranges := rfl
@[simp] theorem State.setChain_jobs (c : ChainId) (v : ChainSt) : (s.setChain c v).jobs = s.jobs := rfl
@[simp] theorem State.setChain_nextJob (c : ChainId) (v : ChainSt) : (s.setChain c v).nextJob = s.nextJob := rfl
@[simp] theorem State.setChain_loop (c : ChainId) (v : ChainSt) : (s.setChain c v).loop = s.loop := rfl
@[simp] theorem State.setChain_pwr (c : ChainId) (v : ChainSt) : (s.setChain c v).pwr = s.pwr := rfl
@[simp] theorem State.setChain_ports (c : ChainId) (v : ChainSt) : (s.setChain c v).ports = s.ports := rfl
@[simp] theorem State.setChain_con (c : ChainId) (v : ChainSt) : (s.setChain c v).con = s.con := rfl
@[simp] theorem State.setChain_tru (c : ChainId) (v : ChainSt) : (s.setChain c v).tru = s.tru := rfl
@[simp] theorem State.setChain_moves (c : ChainId) (v : ChainSt) : (s.setChain c v).moves = s.moves := rfl
@[simp] theorem State.setChain_mg (c : ChainId) (v : ChainSt) : (s.setChain c v).mg = s.mg := rfl
@[simp] theorem State.setChain_errs (c : ChainId) (v : ChainSt) : (s.setChain c v).errs = s.errs := rfl
@[simp] theorem State.setChain_out (c : ChainId) (v : ChainSt) : (s.setChain c v).out = s.out := rfl
@[simp] theorem State.setChain_freeCtr (c : ChainId) (v : ChainSt) : (s.setChain c v).freeCtr = s.freeCtr := rfl

/-! ### setPort -/

@[simp] theorem State.setPort_pending (q : Nat) (p : PortSt) : (s.setPort q p).pending = s.pending := rfl
@[simp] theorem State.setPort_conf (q : Nat) (p : PortSt) : (s.setPort q p).conf = s.conf := rfl
@[simp] theorem State.setPort_pwrGood (q : Nat) (p : PortSt) : (s.setPort q p).pwrGood = s.pwrGood := rfl
@[simp] theorem State.setPort_clk (q : Nat) (p : PortSt) : (s.setPort q p).clk = s.clk := rfl
@[simp] theorem State.setPort_boot (q : Nat) (p : PortSt) : (s.setPort q p).boot = s.boot := rfl
@[simp] theorem State.setPort_dict (q : Nat) (p : PortSt) : (s.setPort q p).dict = s.dict := rfl
@[simp] theorem State.setPort_speed (q : Nat) (p : PortSt) : (s.setPort q p).speed = s.speed := rfl
@[simp] theorem State.setPort_regs (q : Nat) (p : PortSt) : (s.setPort q p).regs = s.regs := rfl
@[simp] theorem State.setPort_tiles (q : Nat) (p : PortSt) : (s.setPort q p).tiles = s.tiles := rfl
@[simp] theorem State.setPort_cells (q : Nat) (p : PortSt) : (s.setPort q p).cells = s.cells := rfl
@[simp] theorem State.setPort_shadow (q : Nat) (p : PortSt) : (s.setPort q p).shadow = s.shadow := rfl
@[simp] theorem State.setPort_swr (q : Nat) (p : PortSt) : (s.setPort q p).swr = s.swr := rfl
@[simp] theorem State.setPort_cores (q : Nat) (p : PortSt) : (s.setPort q p).cores = s.cores := rfl
@[simp] theorem State.setPort_chains (q : Nat) (p : PortSt) : (s.setPort q p).chains = s.chains := rfl
@[simp] theorem State.setPort_buf (q : Nat) (p : PortSt) : (s.setPort q p).buf = s.buf := rfl
@[simp] theorem State.setPort_stg (q : Nat) (p : PortSt) : (s.setPort q p).stg = s.stg := rfl
@[simp] theorem State.setPort_spine (q : Nat) (p : PortSt) : (s.setPort q p).spine = s.spine := rfl
@[simp] theorem State.setPort_adm (q : Nat) (p : PortSt) : (s.setPort q p).adm = s.adm := rfl
@[simp] theorem State.setPort_ops (q : Nat) (p : PortSt) : (s.setPort q p).ops = s.ops := rfl
@[simp] theorem State.setPort_slips (q : Nat) (p : PortSt) : (s.setPort q p).slips = s.slips := rfl
@[simp] theorem State.setPort_regions (q : Nat) (p : PortSt) : (s.setPort q p).regions = s.regions := rfl
@[simp] theorem State.setPort_drq (q : Nat) (p : PortSt) : (s.setPort q p).drq = s.drq := rfl
@[simp] theorem State.setPort_groups (q : Nat) (p : PortSt) : (s.setPort q p).groups = s.groups := rfl
@[simp] theorem State.setPort_ranges (q : Nat) (p : PortSt) : (s.setPort q p).ranges = s.ranges := rfl
@[simp] theorem State.setPort_jobs (q : Nat) (p : PortSt) : (s.setPort q p).jobs = s.jobs := rfl
@[simp] theorem State.setPort_nextJob (q : Nat) (p : PortSt) : (s.setPort q p).nextJob = s.nextJob := rfl
@[simp] theorem State.setPort_loop (q : Nat) (p : PortSt) : (s.setPort q p).loop = s.loop := rfl
@[simp] theorem State.setPort_pwr (q : Nat) (p : PortSt) : (s.setPort q p).pwr = s.pwr := rfl
@[simp] theorem State.setPort_ports (q : Nat) (p : PortSt) : (s.setPort q p).ports = sset .zero s.ports q p := rfl
@[simp] theorem State.setPort_con (q : Nat) (p : PortSt) : (s.setPort q p).con = s.con := rfl
@[simp] theorem State.setPort_tru (q : Nat) (p : PortSt) : (s.setPort q p).tru = s.tru := rfl
@[simp] theorem State.setPort_moves (q : Nat) (p : PortSt) : (s.setPort q p).moves = s.moves := rfl
@[simp] theorem State.setPort_mg (q : Nat) (p : PortSt) : (s.setPort q p).mg = s.mg := rfl
@[simp] theorem State.setPort_errs (q : Nat) (p : PortSt) : (s.setPort q p).errs = s.errs := rfl
@[simp] theorem State.setPort_out (q : Nat) (p : PortSt) : (s.setPort q p).out = s.out := rfl
@[simp] theorem State.setPort_freeCtr (q : Nat) (p : PortSt) : (s.setPort q p).freeCtr = s.freeCtr := rfl

/-! ### setLink -/

@[simp] theorem State.setLink_pending (c : Nat) (l : LinkSt) : (s.setLink c l).pending = s.pending := rfl
@[simp] theorem State.setLink_conf (c : Nat) (l : LinkSt) : (s.setLink c l).conf = s.conf := rfl
@[simp] theorem State.setLink_pwrGood (c : Nat) (l : LinkSt) : (s.setLink c l).pwrGood = s.pwrGood := rfl
@[simp] theorem State.setLink_clk (c : Nat) (l : LinkSt) : (s.setLink c l).clk = s.clk := rfl
@[simp] theorem State.setLink_boot (c : Nat) (l : LinkSt) : (s.setLink c l).boot = s.boot := rfl
@[simp] theorem State.setLink_dict (c : Nat) (l : LinkSt) : (s.setLink c l).dict = s.dict := rfl
@[simp] theorem State.setLink_speed (c : Nat) (l : LinkSt) : (s.setLink c l).speed = s.speed := rfl
@[simp] theorem State.setLink_regs (c : Nat) (l : LinkSt) : (s.setLink c l).regs = s.regs := rfl
@[simp] theorem State.setLink_tiles (c : Nat) (l : LinkSt) : (s.setLink c l).tiles = s.tiles := rfl
@[simp] theorem State.setLink_cells (c : Nat) (l : LinkSt) : (s.setLink c l).cells = s.cells := rfl
@[simp] theorem State.setLink_shadow (c : Nat) (l : LinkSt) : (s.setLink c l).shadow = s.shadow := rfl
@[simp] theorem State.setLink_swr (c : Nat) (l : LinkSt) : (s.setLink c l).swr = s.swr := rfl
@[simp] theorem State.setLink_cores (c : Nat) (l : LinkSt) : (s.setLink c l).cores = s.cores := rfl
@[simp] theorem State.setLink_chains (c : Nat) (l : LinkSt) : (s.setLink c l).chains = s.chains := rfl
@[simp] theorem State.setLink_buf (c : Nat) (l : LinkSt) : (s.setLink c l).buf = s.buf := rfl
@[simp] theorem State.setLink_stg (c : Nat) (l : LinkSt) : (s.setLink c l).stg = s.stg := rfl
@[simp] theorem State.setLink_spine (c : Nat) (l : LinkSt) : (s.setLink c l).spine = sset .zero s.spine c l := rfl
@[simp] theorem State.setLink_adm (c : Nat) (l : LinkSt) : (s.setLink c l).adm = s.adm := rfl
@[simp] theorem State.setLink_ops (c : Nat) (l : LinkSt) : (s.setLink c l).ops = s.ops := rfl
@[simp] theorem State.setLink_slips (c : Nat) (l : LinkSt) : (s.setLink c l).slips = s.slips := rfl
@[simp] theorem State.setLink_regions (c : Nat) (l : LinkSt) : (s.setLink c l).regions = s.regions := rfl
@[simp] theorem State.setLink_drq (c : Nat) (l : LinkSt) : (s.setLink c l).drq = s.drq := rfl
@[simp] theorem State.setLink_groups (c : Nat) (l : LinkSt) : (s.setLink c l).groups = s.groups := rfl
@[simp] theorem State.setLink_ranges (c : Nat) (l : LinkSt) : (s.setLink c l).ranges = s.ranges := rfl
@[simp] theorem State.setLink_jobs (c : Nat) (l : LinkSt) : (s.setLink c l).jobs = s.jobs := rfl
@[simp] theorem State.setLink_nextJob (c : Nat) (l : LinkSt) : (s.setLink c l).nextJob = s.nextJob := rfl
@[simp] theorem State.setLink_loop (c : Nat) (l : LinkSt) : (s.setLink c l).loop = s.loop := rfl
@[simp] theorem State.setLink_pwr (c : Nat) (l : LinkSt) : (s.setLink c l).pwr = s.pwr := rfl
@[simp] theorem State.setLink_ports (c : Nat) (l : LinkSt) : (s.setLink c l).ports = s.ports := rfl
@[simp] theorem State.setLink_con (c : Nat) (l : LinkSt) : (s.setLink c l).con = s.con := rfl
@[simp] theorem State.setLink_tru (c : Nat) (l : LinkSt) : (s.setLink c l).tru = s.tru := rfl
@[simp] theorem State.setLink_moves (c : Nat) (l : LinkSt) : (s.setLink c l).moves = s.moves := rfl
@[simp] theorem State.setLink_mg (c : Nat) (l : LinkSt) : (s.setLink c l).mg = s.mg := rfl
@[simp] theorem State.setLink_errs (c : Nat) (l : LinkSt) : (s.setLink c l).errs = s.errs := rfl
@[simp] theorem State.setLink_out (c : Nat) (l : LinkSt) : (s.setLink c l).out = s.out := rfl
@[simp] theorem State.setLink_freeCtr (c : Nat) (l : LinkSt) : (s.setLink c l).freeCtr = s.freeCtr := rfl

/-! ### setGroup -/

@[simp] theorem State.setGroup_pending (g : Nat) (v : GroupSt) : (s.setGroup g v).pending = s.pending := rfl
@[simp] theorem State.setGroup_conf (g : Nat) (v : GroupSt) : (s.setGroup g v).conf = s.conf := rfl
@[simp] theorem State.setGroup_pwrGood (g : Nat) (v : GroupSt) : (s.setGroup g v).pwrGood = s.pwrGood := rfl
@[simp] theorem State.setGroup_clk (g : Nat) (v : GroupSt) : (s.setGroup g v).clk = s.clk := rfl
@[simp] theorem State.setGroup_boot (g : Nat) (v : GroupSt) : (s.setGroup g v).boot = s.boot := rfl
@[simp] theorem State.setGroup_dict (g : Nat) (v : GroupSt) : (s.setGroup g v).dict = s.dict := rfl
@[simp] theorem State.setGroup_speed (g : Nat) (v : GroupSt) : (s.setGroup g v).speed = s.speed := rfl
@[simp] theorem State.setGroup_regs (g : Nat) (v : GroupSt) : (s.setGroup g v).regs = s.regs := rfl
@[simp] theorem State.setGroup_tiles (g : Nat) (v : GroupSt) : (s.setGroup g v).tiles = s.tiles := rfl
@[simp] theorem State.setGroup_cells (g : Nat) (v : GroupSt) : (s.setGroup g v).cells = s.cells := rfl
@[simp] theorem State.setGroup_shadow (g : Nat) (v : GroupSt) : (s.setGroup g v).shadow = s.shadow := rfl
@[simp] theorem State.setGroup_swr (g : Nat) (v : GroupSt) : (s.setGroup g v).swr = s.swr := rfl
@[simp] theorem State.setGroup_cores (g : Nat) (v : GroupSt) : (s.setGroup g v).cores = s.cores := rfl
@[simp] theorem State.setGroup_chains (g : Nat) (v : GroupSt) : (s.setGroup g v).chains = s.chains := rfl
@[simp] theorem State.setGroup_buf (g : Nat) (v : GroupSt) : (s.setGroup g v).buf = s.buf := rfl
@[simp] theorem State.setGroup_stg (g : Nat) (v : GroupSt) : (s.setGroup g v).stg = s.stg := rfl
@[simp] theorem State.setGroup_spine (g : Nat) (v : GroupSt) : (s.setGroup g v).spine = s.spine := rfl
@[simp] theorem State.setGroup_adm (g : Nat) (v : GroupSt) : (s.setGroup g v).adm = s.adm := rfl
@[simp] theorem State.setGroup_ops (g : Nat) (v : GroupSt) : (s.setGroup g v).ops = s.ops := rfl
@[simp] theorem State.setGroup_slips (g : Nat) (v : GroupSt) : (s.setGroup g v).slips = s.slips := rfl
@[simp] theorem State.setGroup_regions (g : Nat) (v : GroupSt) : (s.setGroup g v).regions = s.regions := rfl
@[simp] theorem State.setGroup_drq (g : Nat) (v : GroupSt) : (s.setGroup g v).drq = s.drq := rfl
@[simp] theorem State.setGroup_groups (g : Nat) (v : GroupSt) : (s.setGroup g v).groups = sset .zero s.groups g v := rfl
@[simp] theorem State.setGroup_ranges (g : Nat) (v : GroupSt) : (s.setGroup g v).ranges = s.ranges := rfl
@[simp] theorem State.setGroup_jobs (g : Nat) (v : GroupSt) : (s.setGroup g v).jobs = s.jobs := rfl
@[simp] theorem State.setGroup_nextJob (g : Nat) (v : GroupSt) : (s.setGroup g v).nextJob = s.nextJob := rfl
@[simp] theorem State.setGroup_loop (g : Nat) (v : GroupSt) : (s.setGroup g v).loop = s.loop := rfl
@[simp] theorem State.setGroup_pwr (g : Nat) (v : GroupSt) : (s.setGroup g v).pwr = s.pwr := rfl
@[simp] theorem State.setGroup_ports (g : Nat) (v : GroupSt) : (s.setGroup g v).ports = s.ports := rfl
@[simp] theorem State.setGroup_con (g : Nat) (v : GroupSt) : (s.setGroup g v).con = s.con := rfl
@[simp] theorem State.setGroup_tru (g : Nat) (v : GroupSt) : (s.setGroup g v).tru = s.tru := rfl
@[simp] theorem State.setGroup_moves (g : Nat) (v : GroupSt) : (s.setGroup g v).moves = s.moves := rfl
@[simp] theorem State.setGroup_mg (g : Nat) (v : GroupSt) : (s.setGroup g v).mg = s.mg := rfl
@[simp] theorem State.setGroup_errs (g : Nat) (v : GroupSt) : (s.setGroup g v).errs = s.errs := rfl
@[simp] theorem State.setGroup_out (g : Nat) (v : GroupSt) : (s.setGroup g v).out = s.out := rfl
@[simp] theorem State.setGroup_freeCtr (g : Nat) (v : GroupSt) : (s.setGroup g v).freeCtr = s.freeCtr := rfl

/-! ### emit -/

@[simp] theorem State.emit_pending (o : Out) : (s.emit o).pending = s.pending := rfl
@[simp] theorem State.emit_conf (o : Out) : (s.emit o).conf = s.conf := rfl
@[simp] theorem State.emit_pwrGood (o : Out) : (s.emit o).pwrGood = s.pwrGood := rfl
@[simp] theorem State.emit_clk (o : Out) : (s.emit o).clk = s.clk := rfl
@[simp] theorem State.emit_boot (o : Out) : (s.emit o).boot = s.boot := rfl
@[simp] theorem State.emit_dict (o : Out) : (s.emit o).dict = s.dict := rfl
@[simp] theorem State.emit_speed (o : Out) : (s.emit o).speed = s.speed := rfl
@[simp] theorem State.emit_regs (o : Out) : (s.emit o).regs = s.regs := rfl
@[simp] theorem State.emit_tiles (o : Out) : (s.emit o).tiles = s.tiles := rfl
@[simp] theorem State.emit_cells (o : Out) : (s.emit o).cells = s.cells := rfl
@[simp] theorem State.emit_shadow (o : Out) : (s.emit o).shadow = s.shadow := rfl
@[simp] theorem State.emit_swr (o : Out) : (s.emit o).swr = s.swr := rfl
@[simp] theorem State.emit_cores (o : Out) : (s.emit o).cores = s.cores := rfl
@[simp] theorem State.emit_chains (o : Out) : (s.emit o).chains = s.chains := rfl
@[simp] theorem State.emit_buf (o : Out) : (s.emit o).buf = s.buf := rfl
@[simp] theorem State.emit_stg (o : Out) : (s.emit o).stg = s.stg := rfl
@[simp] theorem State.emit_spine (o : Out) : (s.emit o).spine = s.spine := rfl
@[simp] theorem State.emit_adm (o : Out) : (s.emit o).adm = s.adm := rfl
@[simp] theorem State.emit_ops (o : Out) : (s.emit o).ops = s.ops := rfl
@[simp] theorem State.emit_slips (o : Out) : (s.emit o).slips = s.slips := rfl
@[simp] theorem State.emit_regions (o : Out) : (s.emit o).regions = s.regions := rfl
@[simp] theorem State.emit_drq (o : Out) : (s.emit o).drq = s.drq := rfl
@[simp] theorem State.emit_groups (o : Out) : (s.emit o).groups = s.groups := rfl
@[simp] theorem State.emit_ranges (o : Out) : (s.emit o).ranges = s.ranges := rfl
@[simp] theorem State.emit_jobs (o : Out) : (s.emit o).jobs = s.jobs := rfl
@[simp] theorem State.emit_nextJob (o : Out) : (s.emit o).nextJob = s.nextJob := rfl
@[simp] theorem State.emit_loop (o : Out) : (s.emit o).loop = s.loop := rfl
@[simp] theorem State.emit_pwr (o : Out) : (s.emit o).pwr = s.pwr := rfl
@[simp] theorem State.emit_ports (o : Out) : (s.emit o).ports = s.ports := rfl
@[simp] theorem State.emit_con (o : Out) : (s.emit o).con = s.con := rfl
@[simp] theorem State.emit_tru (o : Out) : (s.emit o).tru = s.tru := rfl
@[simp] theorem State.emit_moves (o : Out) : (s.emit o).moves = s.moves := rfl
@[simp] theorem State.emit_mg (o : Out) : (s.emit o).mg = s.mg := rfl
@[simp] theorem State.emit_errs (o : Out) : (s.emit o).errs = s.errs := rfl
@[simp] theorem State.emit_out (o : Out) : (s.emit o).out = s.out ++ [o] := rfl
@[simp] theorem State.emit_freeCtr (o : Out) : (s.emit o).freeCtr = s.freeCtr := rfl

/-! ### emitAll -/

@[simp] theorem State.emitAll_pending (os : List Out) : (s.emitAll os).pending = s.pending := rfl
@[simp] theorem State.emitAll_conf (os : List Out) : (s.emitAll os).conf = s.conf := rfl
@[simp] theorem State.emitAll_pwrGood (os : List Out) : (s.emitAll os).pwrGood = s.pwrGood := rfl
@[simp] theorem State.emitAll_clk (os : List Out) : (s.emitAll os).clk = s.clk := rfl
@[simp] theorem State.emitAll_boot (os : List Out) : (s.emitAll os).boot = s.boot := rfl
@[simp] theorem State.emitAll_dict (os : List Out) : (s.emitAll os).dict = s.dict := rfl
@[simp] theorem State.emitAll_speed (os : List Out) : (s.emitAll os).speed = s.speed := rfl
@[simp] theorem State.emitAll_regs (os : List Out) : (s.emitAll os).regs = s.regs := rfl
@[simp] theorem State.emitAll_tiles (os : List Out) : (s.emitAll os).tiles = s.tiles := rfl
@[simp] theorem State.emitAll_cells (os : List Out) : (s.emitAll os).cells = s.cells := rfl
@[simp] theorem State.emitAll_shadow (os : List Out) : (s.emitAll os).shadow = s.shadow := rfl
@[simp] theorem State.emitAll_swr (os : List Out) : (s.emitAll os).swr = s.swr := rfl
@[simp] theorem State.emitAll_cores (os : List Out) : (s.emitAll os).cores = s.cores := rfl
@[simp] theorem State.emitAll_chains (os : List Out) : (s.emitAll os).chains = s.chains := rfl
@[simp] theorem State.emitAll_buf (os : List Out) : (s.emitAll os).buf = s.buf := rfl
@[simp] theorem State.emitAll_stg (os : List Out) : (s.emitAll os).stg = s.stg := rfl
@[simp] theorem State.emitAll_spine (os : List Out) : (s.emitAll os).spine = s.spine := rfl
@[simp] theorem State.emitAll_adm (os : List Out) : (s.emitAll os).adm = s.adm := rfl
@[simp] theorem State.emitAll_ops (os : List Out) : (s.emitAll os).ops = s.ops := rfl
@[simp] theorem State.emitAll_slips (os : List Out) : (s.emitAll os).slips = s.slips := rfl
@[simp] theorem State.emitAll_regions (os : List Out) : (s.emitAll os).regions = s.regions := rfl
@[simp] theorem State.emitAll_drq (os : List Out) : (s.emitAll os).drq = s.drq := rfl
@[simp] theorem State.emitAll_groups (os : List Out) : (s.emitAll os).groups = s.groups := rfl
@[simp] theorem State.emitAll_ranges (os : List Out) : (s.emitAll os).ranges = s.ranges := rfl
@[simp] theorem State.emitAll_jobs (os : List Out) : (s.emitAll os).jobs = s.jobs := rfl
@[simp] theorem State.emitAll_nextJob (os : List Out) : (s.emitAll os).nextJob = s.nextJob := rfl
@[simp] theorem State.emitAll_loop (os : List Out) : (s.emitAll os).loop = s.loop := rfl
@[simp] theorem State.emitAll_pwr (os : List Out) : (s.emitAll os).pwr = s.pwr := rfl
@[simp] theorem State.emitAll_ports (os : List Out) : (s.emitAll os).ports = s.ports := rfl
@[simp] theorem State.emitAll_con (os : List Out) : (s.emitAll os).con = s.con := rfl
@[simp] theorem State.emitAll_tru (os : List Out) : (s.emitAll os).tru = s.tru := rfl
@[simp] theorem State.emitAll_moves (os : List Out) : (s.emitAll os).moves = s.moves := rfl
@[simp] theorem State.emitAll_mg (os : List Out) : (s.emitAll os).mg = s.mg := rfl
@[simp] theorem State.emitAll_errs (os : List Out) : (s.emitAll os).errs = s.errs := rfl
@[simp] theorem State.emitAll_out (os : List Out) : (s.emitAll os).out = s.out ++ os := rfl
@[simp] theorem State.emitAll_freeCtr (os : List Out) : (s.emitAll os).freeCtr = s.freeCtr := rfl

/-! ### mapOp -/

@[simp] theorem State.mapOp_pending (id : Nat) (f : Op → Op) : (s.mapOp id f).pending = s.pending := rfl
@[simp] theorem State.mapOp_conf (id : Nat) (f : Op → Op) : (s.mapOp id f).conf = s.conf := rfl
@[simp] theorem State.mapOp_pwrGood (id : Nat) (f : Op → Op) : (s.mapOp id f).pwrGood = s.pwrGood := rfl
@[simp] theorem State.mapOp_clk (id : Nat) (f : Op → Op) : (s.mapOp id f).clk = s.clk := rfl
@[simp] theorem State.mapOp_boot (id : Nat) (f : Op → Op) : (s.mapOp id f).boot = s.boot := rfl
@[simp] theorem State.mapOp_dict (id : Nat) (f : Op → Op) : (s.mapOp id f).dict = s.dict := rfl
@[simp] theorem State.mapOp_speed (id : Nat) (f : Op → Op) : (s.mapOp id f).speed = s.speed := rfl
@[simp] theorem State.mapOp_regs (id : Nat) (f : Op → Op) : (s.mapOp id f).regs = s.regs := rfl
@[simp] theorem State.mapOp_tiles (id : Nat) (f : Op → Op) : (s.mapOp id f).tiles = s.tiles := rfl
@[simp] theorem State.mapOp_cells (id : Nat) (f : Op → Op) : (s.mapOp id f).cells = s.cells := rfl
@[simp] theorem State.mapOp_shadow (id : Nat) (f : Op → Op) : (s.mapOp id f).shadow = s.shadow := rfl
@[simp] theorem State.mapOp_swr (id : Nat) (f : Op → Op) : (s.mapOp id f).swr = s.swr := rfl
@[simp] theorem State.mapOp_cores (id : Nat) (f : Op → Op) : (s.mapOp id f).cores = s.cores := rfl
@[simp] theorem State.mapOp_chains (id : Nat) (f : Op → Op) : (s.mapOp id f).chains = s.chains := rfl
@[simp] theorem State.mapOp_buf (id : Nat) (f : Op → Op) : (s.mapOp id f).buf = s.buf := rfl
@[simp] theorem State.mapOp_stg (id : Nat) (f : Op → Op) : (s.mapOp id f).stg = s.stg := rfl
@[simp] theorem State.mapOp_spine (id : Nat) (f : Op → Op) : (s.mapOp id f).spine = s.spine := rfl
@[simp] theorem State.mapOp_adm (id : Nat) (f : Op → Op) : (s.mapOp id f).adm = s.adm := rfl
@[simp] theorem State.mapOp_ops (id : Nat) (f : Op → Op) : (s.mapOp id f).ops = s.ops.map (fun o => if o.id == id then f o else o) := rfl
@[simp] theorem State.mapOp_slips (id : Nat) (f : Op → Op) : (s.mapOp id f).slips = s.slips := rfl
@[simp] theorem State.mapOp_regions (id : Nat) (f : Op → Op) : (s.mapOp id f).regions = s.regions := rfl
@[simp] theorem State.mapOp_drq (id : Nat) (f : Op → Op) : (s.mapOp id f).drq = s.drq := rfl
@[simp] theorem State.mapOp_groups (id : Nat) (f : Op → Op) : (s.mapOp id f).groups = s.groups := rfl
@[simp] theorem State.mapOp_ranges (id : Nat) (f : Op → Op) : (s.mapOp id f).ranges = s.ranges := rfl
@[simp] theorem State.mapOp_jobs (id : Nat) (f : Op → Op) : (s.mapOp id f).jobs = s.jobs := rfl
@[simp] theorem State.mapOp_nextJob (id : Nat) (f : Op → Op) : (s.mapOp id f).nextJob = s.nextJob := rfl
@[simp] theorem State.mapOp_loop (id : Nat) (f : Op → Op) : (s.mapOp id f).loop = s.loop := rfl
@[simp] theorem State.mapOp_pwr (id : Nat) (f : Op → Op) : (s.mapOp id f).pwr = s.pwr := rfl
@[simp] theorem State.mapOp_ports (id : Nat) (f : Op → Op) : (s.mapOp id f).ports = s.ports := rfl
@[simp] theorem State.mapOp_con (id : Nat) (f : Op → Op) : (s.mapOp id f).con = s.con := rfl
@[simp] theorem State.mapOp_tru (id : Nat) (f : Op → Op) : (s.mapOp id f).tru = s.tru := rfl
@[simp] theorem State.mapOp_moves (id : Nat) (f : Op → Op) : (s.mapOp id f).moves = s.moves := rfl
@[simp] theorem State.mapOp_mg (id : Nat) (f : Op → Op) : (s.mapOp id f).mg = s.mg := rfl
@[simp] theorem State.mapOp_errs (id : Nat) (f : Op → Op) : (s.mapOp id f).errs = s.errs := rfl
@[simp] theorem State.mapOp_out (id : Nat) (f : Op → Op) : (s.mapOp id f).out = s.out := rfl
@[simp] theorem State.mapOp_freeCtr (id : Nat) (f : Op → Op) : (s.mapOp id f).freeCtr = s.freeCtr := rfl

/-! ### mapRegion -/

@[simp] theorem State.mapRegion_pending (t r : Nat) (f : Region → Region) : (s.mapRegion t r f).pending = s.pending := rfl
@[simp] theorem State.mapRegion_conf (t r : Nat) (f : Region → Region) : (s.mapRegion t r f).conf = s.conf := rfl
@[simp] theorem State.mapRegion_pwrGood (t r : Nat) (f : Region → Region) : (s.mapRegion t r f).pwrGood = s.pwrGood := rfl
@[simp] theorem State.mapRegion_clk (t r : Nat) (f : Region → Region) : (s.mapRegion t r f).clk = s.clk := rfl
@[simp] theorem State.mapRegion_boot (t r : Nat) (f : Region → Region) : (s.mapRegion t r f).boot = s.boot := rfl
@[simp] theorem State.mapRegion_dict (t r : Nat) (f : Region → Region) : (s.mapRegion t r f).dict = s.dict := rfl
@[simp] theorem State.mapRegion_speed (t r : Nat) (f : Region → Region) : (s.mapRegion t r f).speed = s.speed := rfl
@[simp] theorem State.mapRegion_regs (t r : Nat) (f : Region → Region) : (s.mapRegion t r f).regs = s.regs := rfl
@[simp] theorem State.mapRegion_tiles (t r : Nat) (f : Region → Region) : (s.mapRegion t r f).tiles = s.tiles := rfl
@[simp] theorem State.mapRegion_cells (t r : Nat) (f : Region → Region) : (s.mapRegion t r f).cells = s.cells := rfl
@[simp] theorem State.mapRegion_shadow (t r : Nat) (f : Region → Region) : (s.mapRegion t r f).shadow = s.shadow := rfl
@[simp] theorem State.mapRegion_swr (t r : Nat) (f : Region → Region) : (s.mapRegion t r f).swr = s.swr := rfl
@[simp] theorem State.mapRegion_cores (t r : Nat) (f : Region → Region) : (s.mapRegion t r f).cores = s.cores := rfl
@[simp] theorem State.mapRegion_chains (t r : Nat) (f : Region → Region) : (s.mapRegion t r f).chains = s.chains := rfl
@[simp] theorem State.mapRegion_buf (t r : Nat) (f : Region → Region) : (s.mapRegion t r f).buf = s.buf := rfl
@[simp] theorem State.mapRegion_stg (t r : Nat) (f : Region → Region) : (s.mapRegion t r f).stg = s.stg := rfl
@[simp] theorem State.mapRegion_spine (t r : Nat) (f : Region → Region) : (s.mapRegion t r f).spine = s.spine := rfl
@[simp] theorem State.mapRegion_adm (t r : Nat) (f : Region → Region) : (s.mapRegion t r f).adm = s.adm := rfl
@[simp] theorem State.mapRegion_ops (t r : Nat) (f : Region → Region) : (s.mapRegion t r f).ops = s.ops := rfl
@[simp] theorem State.mapRegion_slips (t r : Nat) (f : Region → Region) : (s.mapRegion t r f).slips = s.slips := rfl
@[simp] theorem State.mapRegion_regions (t r : Nat) (f : Region → Region) : (s.mapRegion t r f).regions = s.regions.map (fun x => if x.tenant == t && x.num == r then f x else x) := rfl
@[simp] theorem State.mapRegion_drq (t r : Nat) (f : Region → Region) : (s.mapRegion t r f).drq = s.drq := rfl
@[simp] theorem State.mapRegion_groups (t r : Nat) (f : Region → Region) : (s.mapRegion t r f).groups = s.groups := rfl
@[simp] theorem State.mapRegion_ranges (t r : Nat) (f : Region → Region) : (s.mapRegion t r f).ranges = s.ranges := rfl
@[simp] theorem State.mapRegion_jobs (t r : Nat) (f : Region → Region) : (s.mapRegion t r f).jobs = s.jobs := rfl
@[simp] theorem State.mapRegion_nextJob (t r : Nat) (f : Region → Region) : (s.mapRegion t r f).nextJob = s.nextJob := rfl
@[simp] theorem State.mapRegion_loop (t r : Nat) (f : Region → Region) : (s.mapRegion t r f).loop = s.loop := rfl
@[simp] theorem State.mapRegion_pwr (t r : Nat) (f : Region → Region) : (s.mapRegion t r f).pwr = s.pwr := rfl
@[simp] theorem State.mapRegion_ports (t r : Nat) (f : Region → Region) : (s.mapRegion t r f).ports = s.ports := rfl
@[simp] theorem State.mapRegion_con (t r : Nat) (f : Region → Region) : (s.mapRegion t r f).con = s.con := rfl
@[simp] theorem State.mapRegion_tru (t r : Nat) (f : Region → Region) : (s.mapRegion t r f).tru = s.tru := rfl
@[simp] theorem State.mapRegion_moves (t r : Nat) (f : Region → Region) : (s.mapRegion t r f).moves = s.moves := rfl
@[simp] theorem State.mapRegion_mg (t r : Nat) (f : Region → Region) : (s.mapRegion t r f).mg = s.mg := rfl
@[simp] theorem State.mapRegion_errs (t r : Nat) (f : Region → Region) : (s.mapRegion t r f).errs = s.errs := rfl
@[simp] theorem State.mapRegion_out (t r : Nat) (f : Region → Region) : (s.mapRegion t r f).out = s.out := rfl
@[simp] theorem State.mapRegion_freeCtr (t r : Nat) (f : Region → Region) : (s.mapRegion t r f).freeCtr = s.freeCtr := rfl

/-! ### drawFree -/

@[simp] theorem State.drawFree_pending  : (s.drawFree).pending = s.pending := rfl
@[simp] theorem State.drawFree_conf  : (s.drawFree).conf = s.conf := rfl
@[simp] theorem State.drawFree_pwrGood  : (s.drawFree).pwrGood = s.pwrGood := rfl
@[simp] theorem State.drawFree_clk  : (s.drawFree).clk = s.clk := rfl
@[simp] theorem State.drawFree_boot  : (s.drawFree).boot = s.boot := rfl
@[simp] theorem State.drawFree_dict  : (s.drawFree).dict = s.dict := rfl
@[simp] theorem State.drawFree_speed  : (s.drawFree).speed = s.speed := rfl
@[simp] theorem State.drawFree_regs  : (s.drawFree).regs = s.regs := rfl
@[simp] theorem State.drawFree_tiles  : (s.drawFree).tiles = s.tiles := rfl
@[simp] theorem State.drawFree_cells  : (s.drawFree).cells = s.cells := rfl
@[simp] theorem State.drawFree_shadow  : (s.drawFree).shadow = s.shadow := rfl
@[simp] theorem State.drawFree_swr  : (s.drawFree).swr = s.swr := rfl
@[simp] theorem State.drawFree_cores  : (s.drawFree).cores = s.cores := rfl
@[simp] theorem State.drawFree_chains  : (s.drawFree).chains = s.chains := rfl
@[simp] theorem State.drawFree_buf  : (s.drawFree).buf = s.buf := rfl
@[simp] theorem State.drawFree_stg  : (s.drawFree).stg = s.stg := rfl
@[simp] theorem State.drawFree_spine  : (s.drawFree).spine = s.spine := rfl
@[simp] theorem State.drawFree_adm  : (s.drawFree).adm = s.adm := rfl
@[simp] theorem State.drawFree_ops  : (s.drawFree).ops = s.ops := rfl
@[simp] theorem State.drawFree_slips  : (s.drawFree).slips = s.slips := rfl
@[simp] theorem State.drawFree_regions  : (s.drawFree).regions = s.regions := rfl
@[simp] theorem State.drawFree_drq  : (s.drawFree).drq = s.drq := rfl
@[simp] theorem State.drawFree_groups  : (s.drawFree).groups = s.groups := rfl
@[simp] theorem State.drawFree_ranges  : (s.drawFree).ranges = s.ranges := rfl
@[simp] theorem State.drawFree_jobs  : (s.drawFree).jobs = s.jobs := rfl
@[simp] theorem State.drawFree_nextJob  : (s.drawFree).nextJob = s.nextJob := rfl
@[simp] theorem State.drawFree_loop  : (s.drawFree).loop = s.loop := rfl
@[simp] theorem State.drawFree_pwr  : (s.drawFree).pwr = s.pwr := rfl
@[simp] theorem State.drawFree_ports  : (s.drawFree).ports = s.ports := rfl
@[simp] theorem State.drawFree_con  : (s.drawFree).con = s.con := rfl
@[simp] theorem State.drawFree_tru  : (s.drawFree).tru = s.tru := rfl
@[simp] theorem State.drawFree_moves  : (s.drawFree).moves = s.moves := rfl
@[simp] theorem State.drawFree_mg  : (s.drawFree).mg = s.mg := rfl
@[simp] theorem State.drawFree_errs  : (s.drawFree).errs = s.errs := rfl
@[simp] theorem State.drawFree_out  : (s.drawFree).out = s.out := rfl
@[simp] theorem State.drawFree_freeCtr  : (s.drawFree).freeCtr = s.freeCtr + 1 := rfl

/-! ### mapPwr -/

@[simp] theorem State.mapPwr_pending (f : Power → Power) : (s.mapPwr f).pending = s.pending := rfl
@[simp] theorem State.mapPwr_conf (f : Power → Power) : (s.mapPwr f).conf = s.conf := rfl
@[simp] theorem State.mapPwr_pwrGood (f : Power → Power) : (s.mapPwr f).pwrGood = s.pwrGood := rfl
@[simp] theorem State.mapPwr_clk (f : Power → Power) : (s.mapPwr f).clk = s.clk := rfl
@[simp] theorem State.mapPwr_boot (f : Power → Power) : (s.mapPwr f).boot = s.boot := rfl
@[simp] theorem State.mapPwr_dict (f : Power → Power) : (s.mapPwr f).dict = s.dict := rfl
@[simp] theorem State.mapPwr_speed (f : Power → Power) : (s.mapPwr f).speed = s.speed := rfl
@[simp] theorem State.mapPwr_regs (f : Power → Power) : (s.mapPwr f).regs = s.regs := rfl
@[simp] theorem State.mapPwr_tiles (f : Power → Power) : (s.mapPwr f).tiles = s.tiles := rfl
@[simp] theorem State.mapPwr_cells (f : Power → Power) : (s.mapPwr f).cells = s.cells := rfl
@[simp] theorem State.mapPwr_shadow (f : Power → Power) : (s.mapPwr f).shadow = s.shadow := rfl
@[simp] theorem State.mapPwr_swr (f : Power → Power) : (s.mapPwr f).swr = s.swr := rfl
@[simp] theorem State.mapPwr_cores (f : Power → Power) : (s.mapPwr f).cores = s.cores := rfl
@[simp] theorem State.mapPwr_chains (f : Power → Power) : (s.mapPwr f).chains = s.chains := rfl
@[simp] theorem State.mapPwr_buf (f : Power → Power) : (s.mapPwr f).buf = s.buf := rfl
@[simp] theorem State.mapPwr_stg (f : Power → Power) : (s.mapPwr f).stg = s.stg := rfl
@[simp] theorem State.mapPwr_spine (f : Power → Power) : (s.mapPwr f).spine = s.spine := rfl
@[simp] theorem State.mapPwr_adm (f : Power → Power) : (s.mapPwr f).adm = s.adm := rfl
@[simp] theorem State.mapPwr_ops (f : Power → Power) : (s.mapPwr f).ops = s.ops := rfl
@[simp] theorem State.mapPwr_slips (f : Power → Power) : (s.mapPwr f).slips = s.slips := rfl
@[simp] theorem State.mapPwr_regions (f : Power → Power) : (s.mapPwr f).regions = s.regions := rfl
@[simp] theorem State.mapPwr_drq (f : Power → Power) : (s.mapPwr f).drq = s.drq := rfl
@[simp] theorem State.mapPwr_groups (f : Power → Power) : (s.mapPwr f).groups = s.groups := rfl
@[simp] theorem State.mapPwr_ranges (f : Power → Power) : (s.mapPwr f).ranges = s.ranges := rfl
@[simp] theorem State.mapPwr_jobs (f : Power → Power) : (s.mapPwr f).jobs = s.jobs := rfl
@[simp] theorem State.mapPwr_nextJob (f : Power → Power) : (s.mapPwr f).nextJob = s.nextJob := rfl
@[simp] theorem State.mapPwr_loop (f : Power → Power) : (s.mapPwr f).loop = s.loop := rfl
@[simp] theorem State.mapPwr_pwr (f : Power → Power) : (s.mapPwr f).pwr = f s.pwr := rfl
@[simp] theorem State.mapPwr_ports (f : Power → Power) : (s.mapPwr f).ports = s.ports := rfl
@[simp] theorem State.mapPwr_con (f : Power → Power) : (s.mapPwr f).con = s.con := rfl
@[simp] theorem State.mapPwr_tru (f : Power → Power) : (s.mapPwr f).tru = s.tru := rfl
@[simp] theorem State.mapPwr_moves (f : Power → Power) : (s.mapPwr f).moves = s.moves := rfl
@[simp] theorem State.mapPwr_mg (f : Power → Power) : (s.mapPwr f).mg = s.mg := rfl
@[simp] theorem State.mapPwr_errs (f : Power → Power) : (s.mapPwr f).errs = s.errs := rfl
@[simp] theorem State.mapPwr_out (f : Power → Power) : (s.mapPwr f).out = s.out := rfl
@[simp] theorem State.mapPwr_freeCtr (f : Power → Power) : (s.mapPwr f).freeCtr = s.freeCtr := rfl

/-! ### mapChain -/

@[simp] theorem State.mapChain_pending (c : ChainId) (f : ChainSt → ChainSt) : (s.mapChain c f).pending = s.pending := rfl
@[simp] theorem State.mapChain_conf (c : ChainId) (f : ChainSt → ChainSt) : (s.mapChain c f).conf = s.conf := rfl
@[simp] theorem State.mapChain_pwrGood (c : ChainId) (f : ChainSt → ChainSt) : (s.mapChain c f).pwrGood = s.pwrGood := rfl
@[simp] theorem State.mapChain_clk (c : ChainId) (f : ChainSt → ChainSt) : (s.mapChain c f).clk = s.clk := rfl
@[simp] theorem State.mapChain_boot (c : ChainId) (f : ChainSt → ChainSt) : (s.mapChain c f).boot = s.boot := rfl
@[simp] theorem State.mapChain_dict (c : ChainId) (f : ChainSt → ChainSt) : (s.mapChain c f).dict = s.dict := rfl
@[simp] theorem State.mapChain_speed (c : ChainId) (f : ChainSt → ChainSt) : (s.mapChain c f).speed = s.speed := rfl
@[simp] theorem State.mapChain_regs (c : ChainId) (f : ChainSt → ChainSt) : (s.mapChain c f).regs = s.regs := rfl
@[simp] theorem State.mapChain_tiles (c : ChainId) (f : ChainSt → ChainSt) : (s.mapChain c f).tiles = s.tiles := rfl
@[simp] theorem State.mapChain_cells (c : ChainId) (f : ChainSt → ChainSt) : (s.mapChain c f).cells = s.cells := rfl
@[simp] theorem State.mapChain_shadow (c : ChainId) (f : ChainSt → ChainSt) : (s.mapChain c f).shadow = s.shadow := rfl
@[simp] theorem State.mapChain_swr (c : ChainId) (f : ChainSt → ChainSt) : (s.mapChain c f).swr = s.swr := rfl
@[simp] theorem State.mapChain_cores (c : ChainId) (f : ChainSt → ChainSt) : (s.mapChain c f).cores = s.cores := rfl
@[simp] theorem State.mapChain_chains (c : ChainId) (f : ChainSt → ChainSt) : (s.mapChain c f).chains = sset .zero s.chains (chainKey c) (f (s.chain c)) := rfl
@[simp] theorem State.mapChain_buf (c : ChainId) (f : ChainSt → ChainSt) : (s.mapChain c f).buf = s.buf := rfl
@[simp] theorem State.mapChain_stg (c : ChainId) (f : ChainSt → ChainSt) : (s.mapChain c f).stg = s.stg := rfl
@[simp] theorem State.mapChain_spine (c : ChainId) (f : ChainSt → ChainSt) : (s.mapChain c f).spine = s.spine := rfl
@[simp] theorem State.mapChain_adm (c : ChainId) (f : ChainSt → ChainSt) : (s.mapChain c f).adm = s.adm := rfl
@[simp] theorem State.mapChain_ops (c : ChainId) (f : ChainSt → ChainSt) : (s.mapChain c f).ops = s.ops := rfl
@[simp] theorem State.mapChain_slips (c : ChainId) (f : ChainSt → ChainSt) : (s.mapChain c f).slips = s.slips := rfl
@[simp] theorem State.mapChain_regions (c : ChainId) (f : ChainSt → ChainSt) : (s.mapChain c f).regions = s.regions := rfl
@[simp] theorem State.mapChain_drq (c : ChainId) (f : ChainSt → ChainSt) : (s.mapChain c f).drq = s.drq := rfl
@[simp] theorem State.mapChain_groups (c : ChainId) (f : ChainSt → ChainSt) : (s.mapChain c f).groups = s.groups := rfl
@[simp] theorem State.mapChain_ranges (c : ChainId) (f : ChainSt → ChainSt) : (s.mapChain c f).ranges = s.ranges := rfl
@[simp] theorem State.mapChain_jobs (c : ChainId) (f : ChainSt → ChainSt) : (s.mapChain c f).jobs = s.jobs := rfl
@[simp] theorem State.mapChain_nextJob (c : ChainId) (f : ChainSt → ChainSt) : (s.mapChain c f).nextJob = s.nextJob := rfl
@[simp] theorem State.mapChain_loop (c : ChainId) (f : ChainSt → ChainSt) : (s.mapChain c f).loop = s.loop := rfl
@[simp] theorem State.mapChain_pwr (c : ChainId) (f : ChainSt → ChainSt) : (s.mapChain c f).pwr = s.pwr := rfl
@[simp] theorem State.mapChain_ports (c : ChainId) (f : ChainSt → ChainSt) : (s.mapChain c f).ports = s.ports := rfl
@[simp] theorem State.mapChain_con (c : ChainId) (f : ChainSt → ChainSt) : (s.mapChain c f).con = s.con := rfl
@[simp] theorem State.mapChain_tru (c : ChainId) (f : ChainSt → ChainSt) : (s.mapChain c f).tru = s.tru := rfl
@[simp] theorem State.mapChain_moves (c : ChainId) (f : ChainSt → ChainSt) : (s.mapChain c f).moves = s.moves := rfl
@[simp] theorem State.mapChain_mg (c : ChainId) (f : ChainSt → ChainSt) : (s.mapChain c f).mg = s.mg := rfl
@[simp] theorem State.mapChain_errs (c : ChainId) (f : ChainSt → ChainSt) : (s.mapChain c f).errs = s.errs := rfl
@[simp] theorem State.mapChain_out (c : ChainId) (f : ChainSt → ChainSt) : (s.mapChain c f).out = s.out := rfl
@[simp] theorem State.mapChain_freeCtr (c : ChainId) (f : ChainSt → ChainSt) : (s.mapChain c f).freeCtr = s.freeCtr := rfl

/-! ### mapGroup -/

@[simp] theorem State.mapGroup_pending (g : Nat) (f : GroupSt → GroupSt) : (s.mapGroup g f).pending = s.pending := rfl
@[simp] theorem State.mapGroup_conf (g : Nat) (f : GroupSt → GroupSt) : (s.mapGroup g f).conf = s.conf := rfl
@[simp] theorem State.mapGroup_pwrGood (g : Nat) (f : GroupSt → GroupSt) : (s.mapGroup g f).pwrGood = s.pwrGood := rfl
@[simp] theorem State.mapGroup_clk (g : Nat) (f : GroupSt → GroupSt) : (s.mapGroup g f).clk = s.clk := rfl
@[simp] theorem State.mapGroup_boot (g : Nat) (f : GroupSt → GroupSt) : (s.mapGroup g f).boot = s.boot := rfl
@[simp] theorem State.mapGroup_dict (g : Nat) (f : GroupSt → GroupSt) : (s.mapGroup g f).dict = s.dict := rfl
@[simp] theorem State.mapGroup_speed (g : Nat) (f : GroupSt → GroupSt) : (s.mapGroup g f).speed = s.speed := rfl
@[simp] theorem State.mapGroup_regs (g : Nat) (f : GroupSt → GroupSt) : (s.mapGroup g f).regs = s.regs := rfl
@[simp] theorem State.mapGroup_tiles (g : Nat) (f : GroupSt → GroupSt) : (s.mapGroup g f).tiles = s.tiles := rfl
@[simp] theorem State.mapGroup_cells (g : Nat) (f : GroupSt → GroupSt) : (s.mapGroup g f).cells = s.cells := rfl
@[simp] theorem State.mapGroup_shadow (g : Nat) (f : GroupSt → GroupSt) : (s.mapGroup g f).shadow = s.shadow := rfl
@[simp] theorem State.mapGroup_swr (g : Nat) (f : GroupSt → GroupSt) : (s.mapGroup g f).swr = s.swr := rfl
@[simp] theorem State.mapGroup_cores (g : Nat) (f : GroupSt → GroupSt) : (s.mapGroup g f).cores = s.cores := rfl
@[simp] theorem State.mapGroup_chains (g : Nat) (f : GroupSt → GroupSt) : (s.mapGroup g f).chains = s.chains := rfl
@[simp] theorem State.mapGroup_buf (g : Nat) (f : GroupSt → GroupSt) : (s.mapGroup g f).buf = s.buf := rfl
@[simp] theorem State.mapGroup_stg (g : Nat) (f : GroupSt → GroupSt) : (s.mapGroup g f).stg = s.stg := rfl
@[simp] theorem State.mapGroup_spine (g : Nat) (f : GroupSt → GroupSt) : (s.mapGroup g f).spine = s.spine := rfl
@[simp] theorem State.mapGroup_adm (g : Nat) (f : GroupSt → GroupSt) : (s.mapGroup g f).adm = s.adm := rfl
@[simp] theorem State.mapGroup_ops (g : Nat) (f : GroupSt → GroupSt) : (s.mapGroup g f).ops = s.ops := rfl
@[simp] theorem State.mapGroup_slips (g : Nat) (f : GroupSt → GroupSt) : (s.mapGroup g f).slips = s.slips := rfl
@[simp] theorem State.mapGroup_regions (g : Nat) (f : GroupSt → GroupSt) : (s.mapGroup g f).regions = s.regions := rfl
@[simp] theorem State.mapGroup_drq (g : Nat) (f : GroupSt → GroupSt) : (s.mapGroup g f).drq = s.drq := rfl
@[simp] theorem State.mapGroup_groups (g : Nat) (f : GroupSt → GroupSt) : (s.mapGroup g f).groups = sset .zero s.groups g (f (s.group g)) := rfl
@[simp] theorem State.mapGroup_ranges (g : Nat) (f : GroupSt → GroupSt) : (s.mapGroup g f).ranges = s.ranges := rfl
@[simp] theorem State.mapGroup_jobs (g : Nat) (f : GroupSt → GroupSt) : (s.mapGroup g f).jobs = s.jobs := rfl
@[simp] theorem State.mapGroup_nextJob (g : Nat) (f : GroupSt → GroupSt) : (s.mapGroup g f).nextJob = s.nextJob := rfl
@[simp] theorem State.mapGroup_loop (g : Nat) (f : GroupSt → GroupSt) : (s.mapGroup g f).loop = s.loop := rfl
@[simp] theorem State.mapGroup_pwr (g : Nat) (f : GroupSt → GroupSt) : (s.mapGroup g f).pwr = s.pwr := rfl
@[simp] theorem State.mapGroup_ports (g : Nat) (f : GroupSt → GroupSt) : (s.mapGroup g f).ports = s.ports := rfl
@[simp] theorem State.mapGroup_con (g : Nat) (f : GroupSt → GroupSt) : (s.mapGroup g f).con = s.con := rfl
@[simp] theorem State.mapGroup_tru (g : Nat) (f : GroupSt → GroupSt) : (s.mapGroup g f).tru = s.tru := rfl
@[simp] theorem State.mapGroup_moves (g : Nat) (f : GroupSt → GroupSt) : (s.mapGroup g f).moves = s.moves := rfl
@[simp] theorem State.mapGroup_mg (g : Nat) (f : GroupSt → GroupSt) : (s.mapGroup g f).mg = s.mg := rfl
@[simp] theorem State.mapGroup_errs (g : Nat) (f : GroupSt → GroupSt) : (s.mapGroup g f).errs = s.errs := rfl
@[simp] theorem State.mapGroup_out (g : Nat) (f : GroupSt → GroupSt) : (s.mapGroup g f).out = s.out := rfl
@[simp] theorem State.mapGroup_freeCtr (g : Nat) (f : GroupSt → GroupSt) : (s.mapGroup g f).freeCtr = s.freeCtr := rfl

/-! ### mapRange -/

@[simp] theorem State.mapRange_pending (r : Range) (f : Range → Range) : (s.mapRange r f).pending = s.pending := rfl
@[simp] theorem State.mapRange_conf (r : Range) (f : Range → Range) : (s.mapRange r f).conf = s.conf := rfl
@[simp] theorem State.mapRange_pwrGood (r : Range) (f : Range → Range) : (s.mapRange r f).pwrGood = s.pwrGood := rfl
@[simp] theorem State.mapRange_clk (r : Range) (f : Range → Range) : (s.mapRange r f).clk = s.clk := rfl
@[simp] theorem State.mapRange_boot (r : Range) (f : Range → Range) : (s.mapRange r f).boot = s.boot := rfl
@[simp] theorem State.mapRange_dict (r : Range) (f : Range → Range) : (s.mapRange r f).dict = s.dict := rfl
@[simp] theorem State.mapRange_speed (r : Range) (f : Range → Range) : (s.mapRange r f).speed = s.speed := rfl
@[simp] theorem State.mapRange_regs (r : Range) (f : Range → Range) : (s.mapRange r f).regs = s.regs := rfl
@[simp] theorem State.mapRange_tiles (r : Range) (f : Range → Range) : (s.mapRange r f).tiles = s.tiles := rfl
@[simp] theorem State.mapRange_cells (r : Range) (f : Range → Range) : (s.mapRange r f).cells = s.cells := rfl
@[simp] theorem State.mapRange_shadow (r : Range) (f : Range → Range) : (s.mapRange r f).shadow = s.shadow := rfl
@[simp] theorem State.mapRange_swr (r : Range) (f : Range → Range) : (s.mapRange r f).swr = s.swr := rfl
@[simp] theorem State.mapRange_cores (r : Range) (f : Range → Range) : (s.mapRange r f).cores = s.cores := rfl
@[simp] theorem State.mapRange_chains (r : Range) (f : Range → Range) : (s.mapRange r f).chains = s.chains := rfl
@[simp] theorem State.mapRange_buf (r : Range) (f : Range → Range) : (s.mapRange r f).buf = s.buf := rfl
@[simp] theorem State.mapRange_stg (r : Range) (f : Range → Range) : (s.mapRange r f).stg = s.stg := rfl
@[simp] theorem State.mapRange_spine (r : Range) (f : Range → Range) : (s.mapRange r f).spine = s.spine := rfl
@[simp] theorem State.mapRange_adm (r : Range) (f : Range → Range) : (s.mapRange r f).adm = s.adm := rfl
@[simp] theorem State.mapRange_ops (r : Range) (f : Range → Range) : (s.mapRange r f).ops = s.ops := rfl
@[simp] theorem State.mapRange_slips (r : Range) (f : Range → Range) : (s.mapRange r f).slips = s.slips := rfl
@[simp] theorem State.mapRange_regions (r : Range) (f : Range → Range) : (s.mapRange r f).regions = s.regions := rfl
@[simp] theorem State.mapRange_drq (r : Range) (f : Range → Range) : (s.mapRange r f).drq = s.drq := rfl
@[simp] theorem State.mapRange_groups (r : Range) (f : Range → Range) : (s.mapRange r f).groups = s.groups := rfl
@[simp] theorem State.mapRange_ranges (r : Range) (f : Range → Range) : (s.mapRange r f).ranges = s.ranges.map (fun x => if x.group == r.group && x.bucket == r.bucket && x.eoff == r.eoff then f x else x) := rfl
@[simp] theorem State.mapRange_jobs (r : Range) (f : Range → Range) : (s.mapRange r f).jobs = s.jobs := rfl
@[simp] theorem State.mapRange_nextJob (r : Range) (f : Range → Range) : (s.mapRange r f).nextJob = s.nextJob := rfl
@[simp] theorem State.mapRange_loop (r : Range) (f : Range → Range) : (s.mapRange r f).loop = s.loop := rfl
@[simp] theorem State.mapRange_pwr (r : Range) (f : Range → Range) : (s.mapRange r f).pwr = s.pwr := rfl
@[simp] theorem State.mapRange_ports (r : Range) (f : Range → Range) : (s.mapRange r f).ports = s.ports := rfl
@[simp] theorem State.mapRange_con (r : Range) (f : Range → Range) : (s.mapRange r f).con = s.con := rfl
@[simp] theorem State.mapRange_tru (r : Range) (f : Range → Range) : (s.mapRange r f).tru = s.tru := rfl
@[simp] theorem State.mapRange_moves (r : Range) (f : Range → Range) : (s.mapRange r f).moves = s.moves := rfl
@[simp] theorem State.mapRange_mg (r : Range) (f : Range → Range) : (s.mapRange r f).mg = s.mg := rfl
@[simp] theorem State.mapRange_errs (r : Range) (f : Range → Range) : (s.mapRange r f).errs = s.errs := rfl
@[simp] theorem State.mapRange_out (r : Range) (f : Range → Range) : (s.mapRange r f).out = s.out := rfl
@[simp] theorem State.mapRange_freeCtr (r : Range) (f : Range → Range) : (s.mapRange r f).freeCtr = s.freeCtr := rfl

/-! ### mapJob -/

@[simp] theorem State.mapJob_pending (id : Nat) (f : Job → Job) : (s.mapJob id f).pending = s.pending := rfl
@[simp] theorem State.mapJob_conf (id : Nat) (f : Job → Job) : (s.mapJob id f).conf = s.conf := rfl
@[simp] theorem State.mapJob_pwrGood (id : Nat) (f : Job → Job) : (s.mapJob id f).pwrGood = s.pwrGood := rfl
@[simp] theorem State.mapJob_clk (id : Nat) (f : Job → Job) : (s.mapJob id f).clk = s.clk := rfl
@[simp] theorem State.mapJob_boot (id : Nat) (f : Job → Job) : (s.mapJob id f).boot = s.boot := rfl
@[simp] theorem State.mapJob_dict (id : Nat) (f : Job → Job) : (s.mapJob id f).dict = s.dict := rfl
@[simp] theorem State.mapJob_speed (id : Nat) (f : Job → Job) : (s.mapJob id f).speed = s.speed := rfl
@[simp] theorem State.mapJob_regs (id : Nat) (f : Job → Job) : (s.mapJob id f).regs = s.regs := rfl
@[simp] theorem State.mapJob_tiles (id : Nat) (f : Job → Job) : (s.mapJob id f).tiles = s.tiles := rfl
@[simp] theorem State.mapJob_cells (id : Nat) (f : Job → Job) : (s.mapJob id f).cells = s.cells := rfl
@[simp] theorem State.mapJob_shadow (id : Nat) (f : Job → Job) : (s.mapJob id f).shadow = s.shadow := rfl
@[simp] theorem State.mapJob_swr (id : Nat) (f : Job → Job) : (s.mapJob id f).swr = s.swr := rfl
@[simp] theorem State.mapJob_cores (id : Nat) (f : Job → Job) : (s.mapJob id f).cores = s.cores := rfl
@[simp] theorem State.mapJob_chains (id : Nat) (f : Job → Job) : (s.mapJob id f).chains = s.chains := rfl
@[simp] theorem State.mapJob_buf (id : Nat) (f : Job → Job) : (s.mapJob id f).buf = s.buf := rfl
@[simp] theorem State.mapJob_stg (id : Nat) (f : Job → Job) : (s.mapJob id f).stg = s.stg := rfl
@[simp] theorem State.mapJob_spine (id : Nat) (f : Job → Job) : (s.mapJob id f).spine = s.spine := rfl
@[simp] theorem State.mapJob_adm (id : Nat) (f : Job → Job) : (s.mapJob id f).adm = s.adm := rfl
@[simp] theorem State.mapJob_ops (id : Nat) (f : Job → Job) : (s.mapJob id f).ops = s.ops := rfl
@[simp] theorem State.mapJob_slips (id : Nat) (f : Job → Job) : (s.mapJob id f).slips = s.slips := rfl
@[simp] theorem State.mapJob_regions (id : Nat) (f : Job → Job) : (s.mapJob id f).regions = s.regions := rfl
@[simp] theorem State.mapJob_drq (id : Nat) (f : Job → Job) : (s.mapJob id f).drq = s.drq := rfl
@[simp] theorem State.mapJob_groups (id : Nat) (f : Job → Job) : (s.mapJob id f).groups = s.groups := rfl
@[simp] theorem State.mapJob_ranges (id : Nat) (f : Job → Job) : (s.mapJob id f).ranges = s.ranges := rfl
@[simp] theorem State.mapJob_jobs (id : Nat) (f : Job → Job) : (s.mapJob id f).jobs = s.jobs.map (fun j => if j.id == id then f j else j) := rfl
@[simp] theorem State.mapJob_nextJob (id : Nat) (f : Job → Job) : (s.mapJob id f).nextJob = s.nextJob := rfl
@[simp] theorem State.mapJob_loop (id : Nat) (f : Job → Job) : (s.mapJob id f).loop = s.loop := rfl
@[simp] theorem State.mapJob_pwr (id : Nat) (f : Job → Job) : (s.mapJob id f).pwr = s.pwr := rfl
@[simp] theorem State.mapJob_ports (id : Nat) (f : Job → Job) : (s.mapJob id f).ports = s.ports := rfl
@[simp] theorem State.mapJob_con (id : Nat) (f : Job → Job) : (s.mapJob id f).con = s.con := rfl
@[simp] theorem State.mapJob_tru (id : Nat) (f : Job → Job) : (s.mapJob id f).tru = s.tru := rfl
@[simp] theorem State.mapJob_moves (id : Nat) (f : Job → Job) : (s.mapJob id f).moves = s.moves := rfl
@[simp] theorem State.mapJob_mg (id : Nat) (f : Job → Job) : (s.mapJob id f).mg = s.mg := rfl
@[simp] theorem State.mapJob_errs (id : Nat) (f : Job → Job) : (s.mapJob id f).errs = s.errs := rfl
@[simp] theorem State.mapJob_out (id : Nat) (f : Job → Job) : (s.mapJob id f).out = s.out := rfl
@[simp] theorem State.mapJob_freeCtr (id : Nat) (f : Job → Job) : (s.mapJob id f).freeCtr = s.freeCtr := rfl

/-! ### insertOp -/

@[simp] theorem State.insertOp_pending (o : Op) : (s.insertOp o).pending = s.pending := rfl
@[simp] theorem State.insertOp_conf (o : Op) : (s.insertOp o).conf = s.conf := rfl
@[simp] theorem State.insertOp_pwrGood (o : Op) : (s.insertOp o).pwrGood = s.pwrGood := rfl
@[simp] theorem State.insertOp_clk (o : Op) : (s.insertOp o).clk = s.clk := rfl
@[simp] theorem State.insertOp_boot (o : Op) : (s.insertOp o).boot = s.boot := rfl
@[simp] theorem State.insertOp_dict (o : Op) : (s.insertOp o).dict = s.dict := rfl
@[simp] theorem State.insertOp_speed (o : Op) : (s.insertOp o).speed = s.speed := rfl
@[simp] theorem State.insertOp_regs (o : Op) : (s.insertOp o).regs = s.regs := rfl
@[simp] theorem State.insertOp_tiles (o : Op) : (s.insertOp o).tiles = s.tiles := rfl
@[simp] theorem State.insertOp_cells (o : Op) : (s.insertOp o).cells = s.cells := rfl
@[simp] theorem State.insertOp_shadow (o : Op) : (s.insertOp o).shadow = s.shadow := rfl
@[simp] theorem State.insertOp_swr (o : Op) : (s.insertOp o).swr = s.swr := rfl
@[simp] theorem State.insertOp_cores (o : Op) : (s.insertOp o).cores = s.cores := rfl
@[simp] theorem State.insertOp_chains (o : Op) : (s.insertOp o).chains = s.chains := rfl
@[simp] theorem State.insertOp_buf (o : Op) : (s.insertOp o).buf = s.buf := rfl
@[simp] theorem State.insertOp_stg (o : Op) : (s.insertOp o).stg = s.stg := rfl
@[simp] theorem State.insertOp_spine (o : Op) : (s.insertOp o).spine = s.spine := rfl
@[simp] theorem State.insertOp_adm (o : Op) : (s.insertOp o).adm = s.adm := rfl
@[simp] theorem State.insertOp_ops (o : Op) : (s.insertOp o).ops = s.ops.filter (fun p => decide (p.id < o.id)) ++ o :: s.ops.filter (fun p => decide (o.id < p.id)) := rfl
@[simp] theorem State.insertOp_slips (o : Op) : (s.insertOp o).slips = s.slips := rfl
@[simp] theorem State.insertOp_regions (o : Op) : (s.insertOp o).regions = s.regions := rfl
@[simp] theorem State.insertOp_drq (o : Op) : (s.insertOp o).drq = s.drq := rfl
@[simp] theorem State.insertOp_groups (o : Op) : (s.insertOp o).groups = s.groups := rfl
@[simp] theorem State.insertOp_ranges (o : Op) : (s.insertOp o).ranges = s.ranges := rfl
@[simp] theorem State.insertOp_jobs (o : Op) : (s.insertOp o).jobs = s.jobs := rfl
@[simp] theorem State.insertOp_nextJob (o : Op) : (s.insertOp o).nextJob = s.nextJob := rfl
@[simp] theorem State.insertOp_loop (o : Op) : (s.insertOp o).loop = s.loop := rfl
@[simp] theorem State.insertOp_pwr (o : Op) : (s.insertOp o).pwr = s.pwr := rfl
@[simp] theorem State.insertOp_ports (o : Op) : (s.insertOp o).ports = s.ports := rfl
@[simp] theorem State.insertOp_con (o : Op) : (s.insertOp o).con = s.con := rfl
@[simp] theorem State.insertOp_tru (o : Op) : (s.insertOp o).tru = s.tru := rfl
@[simp] theorem State.insertOp_moves (o : Op) : (s.insertOp o).moves = s.moves := rfl
@[simp] theorem State.insertOp_mg (o : Op) : (s.insertOp o).mg = s.mg := rfl
@[simp] theorem State.insertOp_errs (o : Op) : (s.insertOp o).errs = s.errs := rfl
@[simp] theorem State.insertOp_out (o : Op) : (s.insertOp o).out = s.out := rfl
@[simp] theorem State.insertOp_freeCtr (o : Op) : (s.insertOp o).freeCtr = s.freeCtr := rfl

/-! ### setDrq -/

@[simp] theorem State.setDrq_pending (i : Nat) (q : DrainSlot) : (s.setDrq i q).pending = s.pending := rfl
@[simp] theorem State.setDrq_conf (i : Nat) (q : DrainSlot) : (s.setDrq i q).conf = s.conf := rfl
@[simp] theorem State.setDrq_pwrGood (i : Nat) (q : DrainSlot) : (s.setDrq i q).pwrGood = s.pwrGood := rfl
@[simp] theorem State.setDrq_clk (i : Nat) (q : DrainSlot) : (s.setDrq i q).clk = s.clk := rfl
@[simp] theorem State.setDrq_boot (i : Nat) (q : DrainSlot) : (s.setDrq i q).boot = s.boot := rfl
@[simp] theorem State.setDrq_dict (i : Nat) (q : DrainSlot) : (s.setDrq i q).dict = s.dict := rfl
@[simp] theorem State.setDrq_speed (i : Nat) (q : DrainSlot) : (s.setDrq i q).speed = s.speed := rfl
@[simp] theorem State.setDrq_regs (i : Nat) (q : DrainSlot) : (s.setDrq i q).regs = s.regs := rfl
@[simp] theorem State.setDrq_tiles (i : Nat) (q : DrainSlot) : (s.setDrq i q).tiles = s.tiles := rfl
@[simp] theorem State.setDrq_cells (i : Nat) (q : DrainSlot) : (s.setDrq i q).cells = s.cells := rfl
@[simp] theorem State.setDrq_shadow (i : Nat) (q : DrainSlot) : (s.setDrq i q).shadow = s.shadow := rfl
@[simp] theorem State.setDrq_swr (i : Nat) (q : DrainSlot) : (s.setDrq i q).swr = s.swr := rfl
@[simp] theorem State.setDrq_cores (i : Nat) (q : DrainSlot) : (s.setDrq i q).cores = s.cores := rfl
@[simp] theorem State.setDrq_chains (i : Nat) (q : DrainSlot) : (s.setDrq i q).chains = s.chains := rfl
@[simp] theorem State.setDrq_buf (i : Nat) (q : DrainSlot) : (s.setDrq i q).buf = s.buf := rfl
@[simp] theorem State.setDrq_stg (i : Nat) (q : DrainSlot) : (s.setDrq i q).stg = s.stg := rfl
@[simp] theorem State.setDrq_spine (i : Nat) (q : DrainSlot) : (s.setDrq i q).spine = s.spine := rfl
@[simp] theorem State.setDrq_adm (i : Nat) (q : DrainSlot) : (s.setDrq i q).adm = s.adm := rfl
@[simp] theorem State.setDrq_ops (i : Nat) (q : DrainSlot) : (s.setDrq i q).ops = s.ops := rfl
@[simp] theorem State.setDrq_slips (i : Nat) (q : DrainSlot) : (s.setDrq i q).slips = s.slips := rfl
@[simp] theorem State.setDrq_regions (i : Nat) (q : DrainSlot) : (s.setDrq i q).regions = s.regions := rfl
@[simp] theorem State.setDrq_drq (i : Nat) (q : DrainSlot) : (s.setDrq i q).drq = setAt s.drq i q := rfl
@[simp] theorem State.setDrq_groups (i : Nat) (q : DrainSlot) : (s.setDrq i q).groups = s.groups := rfl
@[simp] theorem State.setDrq_ranges (i : Nat) (q : DrainSlot) : (s.setDrq i q).ranges = s.ranges := rfl
@[simp] theorem State.setDrq_jobs (i : Nat) (q : DrainSlot) : (s.setDrq i q).jobs = s.jobs := rfl
@[simp] theorem State.setDrq_nextJob (i : Nat) (q : DrainSlot) : (s.setDrq i q).nextJob = s.nextJob := rfl
@[simp] theorem State.setDrq_loop (i : Nat) (q : DrainSlot) : (s.setDrq i q).loop = s.loop := rfl
@[simp] theorem State.setDrq_pwr (i : Nat) (q : DrainSlot) : (s.setDrq i q).pwr = s.pwr := rfl
@[simp] theorem State.setDrq_ports (i : Nat) (q : DrainSlot) : (s.setDrq i q).ports = s.ports := rfl
@[simp] theorem State.setDrq_con (i : Nat) (q : DrainSlot) : (s.setDrq i q).con = s.con := rfl
@[simp] theorem State.setDrq_tru (i : Nat) (q : DrainSlot) : (s.setDrq i q).tru = s.tru := rfl
@[simp] theorem State.setDrq_moves (i : Nat) (q : DrainSlot) : (s.setDrq i q).moves = s.moves := rfl
@[simp] theorem State.setDrq_mg (i : Nat) (q : DrainSlot) : (s.setDrq i q).mg = s.mg := rfl
@[simp] theorem State.setDrq_errs (i : Nat) (q : DrainSlot) : (s.setDrq i q).errs = s.errs := rfl
@[simp] theorem State.setDrq_out (i : Nat) (q : DrainSlot) : (s.setDrq i q).out = s.out := rfl
@[simp] theorem State.setDrq_freeCtr (i : Nat) (q : DrainSlot) : (s.setDrq i q).freeCtr = s.freeCtr := rfl

/-! ### enter -/

@[simp] theorem State.enter_pending (core cells : Nat) : (s.enter core cells).pending = s.pending := rfl
@[simp] theorem State.enter_conf (core cells : Nat) : (s.enter core cells).conf = s.conf := rfl
@[simp] theorem State.enter_pwrGood (core cells : Nat) : (s.enter core cells).pwrGood = s.pwrGood := rfl
@[simp] theorem State.enter_clk (core cells : Nat) : (s.enter core cells).clk = s.clk := rfl
@[simp] theorem State.enter_boot (core cells : Nat) : (s.enter core cells).boot = s.boot := rfl
@[simp] theorem State.enter_dict (core cells : Nat) : (s.enter core cells).dict = s.dict := rfl
@[simp] theorem State.enter_speed (core cells : Nat) : (s.enter core cells).speed = s.speed := rfl
@[simp] theorem State.enter_regs (core cells : Nat) : (s.enter core cells).regs = s.regs := rfl
@[simp] theorem State.enter_tiles (core cells : Nat) : (s.enter core cells).tiles = s.tiles := rfl
@[simp] theorem State.enter_cells (core cells : Nat) : (s.enter core cells).cells = s.cells := rfl
@[simp] theorem State.enter_shadow (core cells : Nat) : (s.enter core cells).shadow = s.shadow := rfl
@[simp] theorem State.enter_swr (core cells : Nat) : (s.enter core cells).swr = s.swr := rfl
@[simp] theorem State.enter_cores (core cells : Nat) : (s.enter core cells).cores = s.cores := rfl
@[simp] theorem State.enter_chains (core cells : Nat) : (s.enter core cells).chains = s.chains := rfl
@[simp] theorem State.enter_buf (core cells : Nat) : (s.enter core cells).buf = s.buf := rfl
@[simp] theorem State.enter_stg (core cells : Nat) : (s.enter core cells).stg = s.stg := rfl
@[simp] theorem State.enter_spine (core cells : Nat) : (s.enter core cells).spine = s.spine := rfl
@[simp] theorem State.enter_adm (core cells : Nat) : (s.enter core cells).adm = s.adm := rfl
@[simp] theorem State.enter_ops (core cells : Nat) : (s.enter core cells).ops = s.ops := rfl
@[simp] theorem State.enter_slips (core cells : Nat) : (s.enter core cells).slips = s.slips := rfl
@[simp] theorem State.enter_regions (core cells : Nat) : (s.enter core cells).regions = s.regions := rfl
@[simp] theorem State.enter_drq (core cells : Nat) : (s.enter core cells).drq = s.drq := rfl
@[simp] theorem State.enter_groups (core cells : Nat) : (s.enter core cells).groups = s.groups := rfl
@[simp] theorem State.enter_ranges (core cells : Nat) : (s.enter core cells).ranges = s.ranges := rfl
@[simp] theorem State.enter_jobs (core cells : Nat) : (s.enter core cells).jobs = s.jobs := rfl
@[simp] theorem State.enter_nextJob (core cells : Nat) : (s.enter core cells).nextJob = s.nextJob := rfl
@[simp] theorem State.enter_loop (core cells : Nat) : (s.enter core cells).loop = s.loop := rfl
@[simp] theorem State.enter_pwr (core cells : Nat) : (s.enter core cells).pwr = { s.pwr with energy := s.pwr.energy + s.tokenEnergy core cells } := rfl
@[simp] theorem State.enter_ports (core cells : Nat) : (s.enter core cells).ports = s.ports := rfl
@[simp] theorem State.enter_con (core cells : Nat) : (s.enter core cells).con = s.con := rfl
@[simp] theorem State.enter_tru (core cells : Nat) : (s.enter core cells).tru = s.tru := rfl
@[simp] theorem State.enter_moves (core cells : Nat) : (s.enter core cells).moves = s.moves := rfl
@[simp] theorem State.enter_mg (core cells : Nat) : (s.enter core cells).mg = s.mg := rfl
@[simp] theorem State.enter_errs (core cells : Nat) : (s.enter core cells).errs = s.errs := rfl
@[simp] theorem State.enter_out (core cells : Nat) : (s.enter core cells).out = s.out := rfl
@[simp] theorem State.enter_freeCtr (core cells : Nat) : (s.enter core cells).freeCtr = s.freeCtr := rfl

/-! ### dropOp -/

@[simp] theorem State.dropOp_pending (id : Nat) : (s.dropOp id).pending = s.pending := rfl
@[simp] theorem State.dropOp_conf (id : Nat) : (s.dropOp id).conf = s.conf := rfl
@[simp] theorem State.dropOp_pwrGood (id : Nat) : (s.dropOp id).pwrGood = s.pwrGood := rfl
@[simp] theorem State.dropOp_clk (id : Nat) : (s.dropOp id).clk = s.clk := rfl
@[simp] theorem State.dropOp_boot (id : Nat) : (s.dropOp id).boot = s.boot := rfl
@[simp] theorem State.dropOp_dict (id : Nat) : (s.dropOp id).dict = s.dict := rfl
@[simp] theorem State.dropOp_speed (id : Nat) : (s.dropOp id).speed = s.speed := rfl
@[simp] theorem State.dropOp_regs (id : Nat) : (s.dropOp id).regs = s.regs := rfl
@[simp] theorem State.dropOp_tiles (id : Nat) : (s.dropOp id).tiles = s.tiles := rfl
@[simp] theorem State.dropOp_cells (id : Nat) : (s.dropOp id).cells = s.cells := rfl
@[simp] theorem State.dropOp_shadow (id : Nat) : (s.dropOp id).shadow = s.shadow := rfl
@[simp] theorem State.dropOp_swr (id : Nat) : (s.dropOp id).swr = s.swr := rfl
@[simp] theorem State.dropOp_cores (id : Nat) : (s.dropOp id).cores = s.cores := rfl
@[simp] theorem State.dropOp_chains (id : Nat) : (s.dropOp id).chains = s.chains := rfl
@[simp] theorem State.dropOp_buf (id : Nat) : (s.dropOp id).buf = s.buf := rfl
@[simp] theorem State.dropOp_stg (id : Nat) : (s.dropOp id).stg = s.stg := rfl
@[simp] theorem State.dropOp_spine (id : Nat) : (s.dropOp id).spine = s.spine := rfl
@[simp] theorem State.dropOp_adm (id : Nat) : (s.dropOp id).adm = s.adm := rfl
@[simp] theorem State.dropOp_ops (id : Nat) : (s.dropOp id).ops = s.ops.filter (fun o => o.id != id) := rfl
@[simp] theorem State.dropOp_slips (id : Nat) : (s.dropOp id).slips = s.slips := rfl
@[simp] theorem State.dropOp_regions (id : Nat) : (s.dropOp id).regions = s.regions := rfl
@[simp] theorem State.dropOp_drq (id : Nat) : (s.dropOp id).drq = s.drq := rfl
@[simp] theorem State.dropOp_groups (id : Nat) : (s.dropOp id).groups = s.groups := rfl
@[simp] theorem State.dropOp_ranges (id : Nat) : (s.dropOp id).ranges = s.ranges := rfl
@[simp] theorem State.dropOp_jobs (id : Nat) : (s.dropOp id).jobs = s.jobs.filter (fun j => j.op != id) := rfl
@[simp] theorem State.dropOp_nextJob (id : Nat) : (s.dropOp id).nextJob = s.nextJob := rfl
@[simp] theorem State.dropOp_loop (id : Nat) : (s.dropOp id).loop = s.loop := rfl
@[simp] theorem State.dropOp_pwr (id : Nat) : (s.dropOp id).pwr = s.pwr := rfl
@[simp] theorem State.dropOp_ports (id : Nat) : (s.dropOp id).ports = s.ports := rfl
@[simp] theorem State.dropOp_con (id : Nat) : (s.dropOp id).con = s.con := rfl
@[simp] theorem State.dropOp_tru (id : Nat) : (s.dropOp id).tru = s.tru := rfl
@[simp] theorem State.dropOp_moves (id : Nat) : (s.dropOp id).moves = s.moves := rfl
@[simp] theorem State.dropOp_mg (id : Nat) : (s.dropOp id).mg = s.mg := rfl
@[simp] theorem State.dropOp_errs (id : Nat) : (s.dropOp id).errs = s.errs := rfl
@[simp] theorem State.dropOp_out (id : Nat) : (s.dropOp id).out = s.out := rfl
@[simp] theorem State.dropOp_freeCtr (id : Nat) : (s.dropOp id).freeCtr = s.freeCtr := rfl

/-! ### notify -/

@[simp] theorem State.notify_pending (k : Nat) : (s.notify k).pending = s.pending := by
  unfold State.notify; split <;> rfl
@[simp] theorem State.notify_conf (k : Nat) : (s.notify k).conf = s.conf := by
  unfold State.notify; split <;> rfl
@[simp] theorem State.notify_pwrGood (k : Nat) : (s.notify k).pwrGood = s.pwrGood := by
  unfold State.notify; split <;> rfl
@[simp] theorem State.notify_clk (k : Nat) : (s.notify k).clk = s.clk := by
  unfold State.notify; split <;> rfl
@[simp] theorem State.notify_boot (k : Nat) : (s.notify k).boot = s.boot := by
  unfold State.notify; split <;> rfl
@[simp] theorem State.notify_dict (k : Nat) : (s.notify k).dict = s.dict := by
  unfold State.notify; split <;> rfl
@[simp] theorem State.notify_speed (k : Nat) : (s.notify k).speed = s.speed := by
  unfold State.notify; split <;> rfl
@[simp] theorem State.notify_regs (k : Nat) : (s.notify k).regs = s.regs := by
  unfold State.notify; split <;> rfl
@[simp] theorem State.notify_tiles (k : Nat) : (s.notify k).tiles = s.tiles := by
  unfold State.notify; split <;> rfl
@[simp] theorem State.notify_cells (k : Nat) : (s.notify k).cells = s.cells := by
  unfold State.notify; split <;> rfl
@[simp] theorem State.notify_shadow (k : Nat) : (s.notify k).shadow = s.shadow := by
  unfold State.notify; split <;> rfl
@[simp] theorem State.notify_swr (k : Nat) : (s.notify k).swr = s.swr := by
  unfold State.notify; split <;> rfl
@[simp] theorem State.notify_cores (k : Nat) : (s.notify k).cores = s.cores := by
  unfold State.notify; split <;> rfl
@[simp] theorem State.notify_chains (k : Nat) : (s.notify k).chains = s.chains := by
  unfold State.notify; split <;> rfl
@[simp] theorem State.notify_buf (k : Nat) : (s.notify k).buf = s.buf := by
  unfold State.notify; split <;> rfl
@[simp] theorem State.notify_stg (k : Nat) : (s.notify k).stg = s.stg := by
  unfold State.notify; split <;> rfl
@[simp] theorem State.notify_spine (k : Nat) : (s.notify k).spine = s.spine := by
  unfold State.notify; split <;> rfl
@[simp] theorem State.notify_adm (k : Nat) : (s.notify k).adm = s.adm := by
  unfold State.notify; split <;> rfl
@[simp] theorem State.notify_ops (k : Nat) : (s.notify k).ops = s.ops := by
  unfold State.notify; split <;> rfl
@[simp] theorem State.notify_slips (k : Nat) : (s.notify k).slips = s.slips := by
  unfold State.notify; split <;> rfl
@[simp] theorem State.notify_regions (k : Nat) : (s.notify k).regions = s.regions := by
  unfold State.notify; split <;> rfl
@[simp] theorem State.notify_drq (k : Nat) : (s.notify k).drq = s.drq := by
  unfold State.notify; split <;> rfl
@[simp] theorem State.notify_groups (k : Nat) : (s.notify k).groups = s.groups := by
  unfold State.notify; split <;> rfl
@[simp] theorem State.notify_ranges (k : Nat) : (s.notify k).ranges = s.ranges := by
  unfold State.notify; split <;> rfl
@[simp] theorem State.notify_jobs (k : Nat) : (s.notify k).jobs = s.jobs := by
  unfold State.notify; split <;> rfl
@[simp] theorem State.notify_nextJob (k : Nat) : (s.notify k).nextJob = s.nextJob := by
  unfold State.notify; split <;> rfl
@[simp] theorem State.notify_loop (k : Nat) : (s.notify k).loop = s.loop := by
  unfold State.notify; split <;> rfl
@[simp] theorem State.notify_pwr (k : Nat) : (s.notify k).pwr = s.pwr := by
  unfold State.notify; split <;> rfl
@[simp] theorem State.notify_ports (k : Nat) : (s.notify k).ports = s.ports := by
  unfold State.notify; split <;> rfl
@[simp] theorem State.notify_con (k : Nat) : (s.notify k).con = s.con := by
  unfold State.notify; split <;> rfl
@[simp] theorem State.notify_tru (k : Nat) : (s.notify k).tru = s.tru := by
  unfold State.notify; split <;> rfl
@[simp] theorem State.notify_moves (k : Nat) : (s.notify k).moves = s.moves := by
  unfold State.notify; split <;> rfl
@[simp] theorem State.notify_out (k : Nat) : (s.notify k).out = s.out := by
  unfold State.notify; split <;> rfl
@[simp] theorem State.notify_freeCtr (k : Nat) : (s.notify k).freeCtr = s.freeCtr := by
  unfold State.notify; split <;> rfl

/-! ### setObj -/

@[simp] theorem State.setObj_pending (k v : Nat) : (s.setObj k v).pending = s.pending := by
  unfold State.setObj; dsimp only; split <;> simp
@[simp] theorem State.setObj_conf (k v : Nat) : (s.setObj k v).conf = s.conf := by
  unfold State.setObj; dsimp only; split <;> simp
@[simp] theorem State.setObj_pwrGood (k v : Nat) : (s.setObj k v).pwrGood = s.pwrGood := by
  unfold State.setObj; dsimp only; split <;> simp
@[simp] theorem State.setObj_clk (k v : Nat) : (s.setObj k v).clk = s.clk := by
  unfold State.setObj; dsimp only; split <;> simp
@[simp] theorem State.setObj_boot (k v : Nat) : (s.setObj k v).boot = s.boot := by
  unfold State.setObj; dsimp only; split <;> simp
@[simp] theorem State.setObj_speed (k v : Nat) : (s.setObj k v).speed = s.speed := by
  unfold State.setObj; dsimp only; split <;> simp
@[simp] theorem State.setObj_regs (k v : Nat) : (s.setObj k v).regs = s.regs := by
  unfold State.setObj; dsimp only; split <;> simp
@[simp] theorem State.setObj_tiles (k v : Nat) : (s.setObj k v).tiles = s.tiles := by
  unfold State.setObj; dsimp only; split <;> simp
@[simp] theorem State.setObj_cells (k v : Nat) : (s.setObj k v).cells = s.cells := by
  unfold State.setObj; dsimp only; split <;> simp
@[simp] theorem State.setObj_shadow (k v : Nat) : (s.setObj k v).shadow = s.shadow := by
  unfold State.setObj; dsimp only; split <;> simp
@[simp] theorem State.setObj_swr (k v : Nat) : (s.setObj k v).swr = s.swr := by
  unfold State.setObj; dsimp only; split <;> simp
@[simp] theorem State.setObj_cores (k v : Nat) : (s.setObj k v).cores = s.cores := by
  unfold State.setObj; dsimp only; split <;> simp
@[simp] theorem State.setObj_chains (k v : Nat) : (s.setObj k v).chains = s.chains := by
  unfold State.setObj; dsimp only; split <;> simp
@[simp] theorem State.setObj_buf (k v : Nat) : (s.setObj k v).buf = s.buf := by
  unfold State.setObj; dsimp only; split <;> simp
@[simp] theorem State.setObj_stg (k v : Nat) : (s.setObj k v).stg = s.stg := by
  unfold State.setObj; dsimp only; split <;> simp
@[simp] theorem State.setObj_spine (k v : Nat) : (s.setObj k v).spine = s.spine := by
  unfold State.setObj; dsimp only; split <;> simp
@[simp] theorem State.setObj_adm (k v : Nat) : (s.setObj k v).adm = s.adm := by
  unfold State.setObj; dsimp only; split <;> simp
@[simp] theorem State.setObj_ops (k v : Nat) : (s.setObj k v).ops = s.ops := by
  unfold State.setObj; dsimp only; split <;> simp
@[simp] theorem State.setObj_slips (k v : Nat) : (s.setObj k v).slips = s.slips := by
  unfold State.setObj; dsimp only; split <;> simp
@[simp] theorem State.setObj_regions (k v : Nat) : (s.setObj k v).regions = s.regions := by
  unfold State.setObj; dsimp only; split <;> simp
@[simp] theorem State.setObj_drq (k v : Nat) : (s.setObj k v).drq = s.drq := by
  unfold State.setObj; dsimp only; split <;> simp
@[simp] theorem State.setObj_groups (k v : Nat) : (s.setObj k v).groups = s.groups := by
  unfold State.setObj; dsimp only; split <;> simp
@[simp] theorem State.setObj_ranges (k v : Nat) : (s.setObj k v).ranges = s.ranges := by
  unfold State.setObj; dsimp only; split <;> simp
@[simp] theorem State.setObj_jobs (k v : Nat) : (s.setObj k v).jobs = s.jobs := by
  unfold State.setObj; dsimp only; split <;> simp
@[simp] theorem State.setObj_nextJob (k v : Nat) : (s.setObj k v).nextJob = s.nextJob := by
  unfold State.setObj; dsimp only; split <;> simp
@[simp] theorem State.setObj_loop (k v : Nat) : (s.setObj k v).loop = s.loop := by
  unfold State.setObj; dsimp only; split <;> simp
@[simp] theorem State.setObj_pwr (k v : Nat) : (s.setObj k v).pwr = s.pwr := by
  unfold State.setObj; dsimp only; split <;> simp
@[simp] theorem State.setObj_ports (k v : Nat) : (s.setObj k v).ports = s.ports := by
  unfold State.setObj; dsimp only; split <;> simp
@[simp] theorem State.setObj_con (k v : Nat) : (s.setObj k v).con = s.con := by
  unfold State.setObj; dsimp only; split <;> simp
@[simp] theorem State.setObj_tru (k v : Nat) : (s.setObj k v).tru = s.tru := by
  unfold State.setObj; dsimp only; split <;> simp
@[simp] theorem State.setObj_moves (k v : Nat) : (s.setObj k v).moves = s.moves := by
  unfold State.setObj; dsimp only; split <;> simp
@[simp] theorem State.setObj_out (k v : Nat) : (s.setObj k v).out = s.out := by
  unfold State.setObj; dsimp only; split <;> simp
@[simp] theorem State.setObj_freeCtr (k v : Nat) : (s.setObj k v).freeCtr = s.freeCtr := by
  unfold State.setObj; dsimp only; split <;> simp

/-! ### endDebug -/

@[simp] theorem State.endDebug_pending  : (s.endDebug).pending = s.pending := by
  unfold State.endDebug; simp
@[simp] theorem State.endDebug_conf  : (s.endDebug).conf = s.conf := by
  unfold State.endDebug; simp
@[simp] theorem State.endDebug_pwrGood  : (s.endDebug).pwrGood = s.pwrGood := by
  unfold State.endDebug; simp
@[simp] theorem State.endDebug_clk  : (s.endDebug).clk = s.clk := by
  unfold State.endDebug; simp
@[simp] theorem State.endDebug_boot  : (s.endDebug).boot = s.boot := by
  unfold State.endDebug; simp
@[simp] theorem State.endDebug_speed  : (s.endDebug).speed = s.speed := by
  unfold State.endDebug; simp
@[simp] theorem State.endDebug_regs  : (s.endDebug).regs = s.regs := by
  unfold State.endDebug; simp
@[simp] theorem State.endDebug_tiles  : (s.endDebug).tiles = s.tiles := by
  unfold State.endDebug; simp
@[simp] theorem State.endDebug_cells  : (s.endDebug).cells = s.cells := by
  unfold State.endDebug; simp
@[simp] theorem State.endDebug_shadow  : (s.endDebug).shadow = s.shadow := by
  unfold State.endDebug; simp
@[simp] theorem State.endDebug_swr  : (s.endDebug).swr = s.swr := by
  unfold State.endDebug; simp
@[simp] theorem State.endDebug_cores  : (s.endDebug).cores = s.cores := by
  unfold State.endDebug; simp
@[simp] theorem State.endDebug_chains  : (s.endDebug).chains = s.chains := by
  unfold State.endDebug; simp
@[simp] theorem State.endDebug_buf  : (s.endDebug).buf = s.buf := by
  unfold State.endDebug; simp
@[simp] theorem State.endDebug_stg  : (s.endDebug).stg = s.stg := by
  unfold State.endDebug; simp
@[simp] theorem State.endDebug_spine  : (s.endDebug).spine = s.spine := by
  unfold State.endDebug; simp
@[simp] theorem State.endDebug_adm  : (s.endDebug).adm = s.adm := by
  unfold State.endDebug; simp
@[simp] theorem State.endDebug_ops  : (s.endDebug).ops = s.ops := by
  unfold State.endDebug; simp
@[simp] theorem State.endDebug_slips  : (s.endDebug).slips = s.slips := by
  unfold State.endDebug; simp
@[simp] theorem State.endDebug_regions  : (s.endDebug).regions = s.regions := by
  unfold State.endDebug; simp
@[simp] theorem State.endDebug_drq  : (s.endDebug).drq = s.drq := by
  unfold State.endDebug; simp
@[simp] theorem State.endDebug_groups  : (s.endDebug).groups = s.groups := by
  unfold State.endDebug; simp
@[simp] theorem State.endDebug_ranges  : (s.endDebug).ranges = s.ranges := by
  unfold State.endDebug; simp
@[simp] theorem State.endDebug_jobs  : (s.endDebug).jobs = s.jobs := by
  unfold State.endDebug; simp
@[simp] theorem State.endDebug_nextJob  : (s.endDebug).nextJob = s.nextJob := by
  unfold State.endDebug; simp
@[simp] theorem State.endDebug_loop  : (s.endDebug).loop = s.loop := by
  unfold State.endDebug; simp
@[simp] theorem State.endDebug_pwr  : (s.endDebug).pwr = s.pwr := by
  unfold State.endDebug; simp
@[simp] theorem State.endDebug_ports  : (s.endDebug).ports = s.ports := by
  unfold State.endDebug; simp
@[simp] theorem State.endDebug_con  : (s.endDebug).con = s.con := by
  unfold State.endDebug; simp
@[simp] theorem State.endDebug_moves  : (s.endDebug).moves = s.moves := by
  unfold State.endDebug; simp
@[simp] theorem State.endDebug_errs  : (s.endDebug).errs = s.errs := by
  unfold State.endDebug; simp
@[simp] theorem State.endDebug_out  : (s.endDebug).out = s.out := by
  unfold State.endDebug; simp
@[simp] theorem State.endDebug_freeCtr  : (s.endDebug).freeCtr = s.freeCtr := by
  unfold State.endDebug; simp

/-! ### leaveDebug -/

@[simp] theorem State.leaveDebug_pending  : (s.leaveDebug).pending = s.pending := by
  unfold State.leaveDebug; split <;> simp
@[simp] theorem State.leaveDebug_conf  : (s.leaveDebug).conf = s.conf := by
  unfold State.leaveDebug; split <;> simp
@[simp] theorem State.leaveDebug_pwrGood  : (s.leaveDebug).pwrGood = s.pwrGood := by
  unfold State.leaveDebug; split <;> simp
@[simp] theorem State.leaveDebug_clk  : (s.leaveDebug).clk = s.clk := by
  unfold State.leaveDebug; split <;> simp
@[simp] theorem State.leaveDebug_boot  : (s.leaveDebug).boot = s.boot := by
  unfold State.leaveDebug; split <;> simp
@[simp] theorem State.leaveDebug_speed  : (s.leaveDebug).speed = s.speed := by
  unfold State.leaveDebug; split <;> simp
@[simp] theorem State.leaveDebug_regs  : (s.leaveDebug).regs = s.regs := by
  unfold State.leaveDebug; split <;> simp
@[simp] theorem State.leaveDebug_tiles  : (s.leaveDebug).tiles = s.tiles := by
  unfold State.leaveDebug; split <;> simp
@[simp] theorem State.leaveDebug_cells  : (s.leaveDebug).cells = s.cells := by
  unfold State.leaveDebug; split <;> simp
@[simp] theorem State.leaveDebug_shadow  : (s.leaveDebug).shadow = s.shadow := by
  unfold State.leaveDebug; split <;> simp
@[simp] theorem State.leaveDebug_swr  : (s.leaveDebug).swr = s.swr := by
  unfold State.leaveDebug; split <;> simp
@[simp] theorem State.leaveDebug_cores  : (s.leaveDebug).cores = s.cores := by
  unfold State.leaveDebug; split <;> simp
@[simp] theorem State.leaveDebug_chains  : (s.leaveDebug).chains = s.chains := by
  unfold State.leaveDebug; split <;> simp
@[simp] theorem State.leaveDebug_buf  : (s.leaveDebug).buf = s.buf := by
  unfold State.leaveDebug; split <;> simp
@[simp] theorem State.leaveDebug_stg  : (s.leaveDebug).stg = s.stg := by
  unfold State.leaveDebug; split <;> simp
@[simp] theorem State.leaveDebug_spine  : (s.leaveDebug).spine = s.spine := by
  unfold State.leaveDebug; split <;> simp
@[simp] theorem State.leaveDebug_adm  : (s.leaveDebug).adm = s.adm := by
  unfold State.leaveDebug; split <;> simp
@[simp] theorem State.leaveDebug_ops  : (s.leaveDebug).ops = s.ops := by
  unfold State.leaveDebug; split <;> simp
@[simp] theorem State.leaveDebug_slips  : (s.leaveDebug).slips = s.slips := by
  unfold State.leaveDebug; split <;> simp
@[simp] theorem State.leaveDebug_regions  : (s.leaveDebug).regions = s.regions := by
  unfold State.leaveDebug; split <;> simp
@[simp] theorem State.leaveDebug_drq  : (s.leaveDebug).drq = s.drq := by
  unfold State.leaveDebug; split <;> simp
@[simp] theorem State.leaveDebug_groups  : (s.leaveDebug).groups = s.groups := by
  unfold State.leaveDebug; split <;> simp
@[simp] theorem State.leaveDebug_ranges  : (s.leaveDebug).ranges = s.ranges := by
  unfold State.leaveDebug; split <;> simp
@[simp] theorem State.leaveDebug_jobs  : (s.leaveDebug).jobs = s.jobs := by
  unfold State.leaveDebug; split <;> simp
@[simp] theorem State.leaveDebug_nextJob  : (s.leaveDebug).nextJob = s.nextJob := by
  unfold State.leaveDebug; split <;> simp
@[simp] theorem State.leaveDebug_loop  : (s.leaveDebug).loop = s.loop := by
  unfold State.leaveDebug; split <;> simp
@[simp] theorem State.leaveDebug_pwr  : (s.leaveDebug).pwr = s.pwr := by
  unfold State.leaveDebug; split <;> simp
@[simp] theorem State.leaveDebug_ports  : (s.leaveDebug).ports = s.ports := by
  unfold State.leaveDebug; split <;> simp
@[simp] theorem State.leaveDebug_con  : (s.leaveDebug).con = s.con := by
  unfold State.leaveDebug; split <;> simp
@[simp] theorem State.leaveDebug_moves  : (s.leaveDebug).moves = s.moves := by
  unfold State.leaveDebug; split <;> simp
@[simp] theorem State.leaveDebug_errs  : (s.leaveDebug).errs = s.errs := by
  unfold State.leaveDebug; split <;> simp
@[simp] theorem State.leaveDebug_out  : (s.leaveDebug).out = s.out := by
  unfold State.leaveDebug; split <;> simp
@[simp] theorem State.leaveDebug_freeCtr  : (s.leaveDebug).freeCtr = s.freeCtr := by
  unfold State.leaveDebug; split <;> simp

/-! ### bump -/

@[simp] theorem State.bump_pending (k n : Nat) : (s.bump k n).pending = s.pending := by
  unfold State.bump; cases objInfo s.conf (k / 256) (k % 256) <;> simp
@[simp] theorem State.bump_conf (k n : Nat) : (s.bump k n).conf = s.conf := by
  unfold State.bump; cases objInfo s.conf (k / 256) (k % 256) <;> simp
@[simp] theorem State.bump_pwrGood (k n : Nat) : (s.bump k n).pwrGood = s.pwrGood := by
  unfold State.bump; cases objInfo s.conf (k / 256) (k % 256) <;> simp
@[simp] theorem State.bump_clk (k n : Nat) : (s.bump k n).clk = s.clk := by
  unfold State.bump; cases objInfo s.conf (k / 256) (k % 256) <;> simp
@[simp] theorem State.bump_boot (k n : Nat) : (s.bump k n).boot = s.boot := by
  unfold State.bump; cases objInfo s.conf (k / 256) (k % 256) <;> simp
@[simp] theorem State.bump_speed (k n : Nat) : (s.bump k n).speed = s.speed := by
  unfold State.bump; cases objInfo s.conf (k / 256) (k % 256) <;> simp
@[simp] theorem State.bump_regs (k n : Nat) : (s.bump k n).regs = s.regs := by
  unfold State.bump; cases objInfo s.conf (k / 256) (k % 256) <;> simp
@[simp] theorem State.bump_tiles (k n : Nat) : (s.bump k n).tiles = s.tiles := by
  unfold State.bump; cases objInfo s.conf (k / 256) (k % 256) <;> simp
@[simp] theorem State.bump_cells (k n : Nat) : (s.bump k n).cells = s.cells := by
  unfold State.bump; cases objInfo s.conf (k / 256) (k % 256) <;> simp
@[simp] theorem State.bump_shadow (k n : Nat) : (s.bump k n).shadow = s.shadow := by
  unfold State.bump; cases objInfo s.conf (k / 256) (k % 256) <;> simp
@[simp] theorem State.bump_swr (k n : Nat) : (s.bump k n).swr = s.swr := by
  unfold State.bump; cases objInfo s.conf (k / 256) (k % 256) <;> simp
@[simp] theorem State.bump_cores (k n : Nat) : (s.bump k n).cores = s.cores := by
  unfold State.bump; cases objInfo s.conf (k / 256) (k % 256) <;> simp
@[simp] theorem State.bump_chains (k n : Nat) : (s.bump k n).chains = s.chains := by
  unfold State.bump; cases objInfo s.conf (k / 256) (k % 256) <;> simp
@[simp] theorem State.bump_buf (k n : Nat) : (s.bump k n).buf = s.buf := by
  unfold State.bump; cases objInfo s.conf (k / 256) (k % 256) <;> simp
@[simp] theorem State.bump_stg (k n : Nat) : (s.bump k n).stg = s.stg := by
  unfold State.bump; cases objInfo s.conf (k / 256) (k % 256) <;> simp
@[simp] theorem State.bump_spine (k n : Nat) : (s.bump k n).spine = s.spine := by
  unfold State.bump; cases objInfo s.conf (k / 256) (k % 256) <;> simp
@[simp] theorem State.bump_adm (k n : Nat) : (s.bump k n).adm = s.adm := by
  unfold State.bump; cases objInfo s.conf (k / 256) (k % 256) <;> simp
@[simp] theorem State.bump_ops (k n : Nat) : (s.bump k n).ops = s.ops := by
  unfold State.bump; cases objInfo s.conf (k / 256) (k % 256) <;> simp
@[simp] theorem State.bump_slips (k n : Nat) : (s.bump k n).slips = s.slips := by
  unfold State.bump; cases objInfo s.conf (k / 256) (k % 256) <;> simp
@[simp] theorem State.bump_regions (k n : Nat) : (s.bump k n).regions = s.regions := by
  unfold State.bump; cases objInfo s.conf (k / 256) (k % 256) <;> simp
@[simp] theorem State.bump_drq (k n : Nat) : (s.bump k n).drq = s.drq := by
  unfold State.bump; cases objInfo s.conf (k / 256) (k % 256) <;> simp
@[simp] theorem State.bump_groups (k n : Nat) : (s.bump k n).groups = s.groups := by
  unfold State.bump; cases objInfo s.conf (k / 256) (k % 256) <;> simp
@[simp] theorem State.bump_ranges (k n : Nat) : (s.bump k n).ranges = s.ranges := by
  unfold State.bump; cases objInfo s.conf (k / 256) (k % 256) <;> simp
@[simp] theorem State.bump_jobs (k n : Nat) : (s.bump k n).jobs = s.jobs := by
  unfold State.bump; cases objInfo s.conf (k / 256) (k % 256) <;> simp
@[simp] theorem State.bump_nextJob (k n : Nat) : (s.bump k n).nextJob = s.nextJob := by
  unfold State.bump; cases objInfo s.conf (k / 256) (k % 256) <;> simp
@[simp] theorem State.bump_loop (k n : Nat) : (s.bump k n).loop = s.loop := by
  unfold State.bump; cases objInfo s.conf (k / 256) (k % 256) <;> simp
@[simp] theorem State.bump_pwr (k n : Nat) : (s.bump k n).pwr = s.pwr := by
  unfold State.bump; cases objInfo s.conf (k / 256) (k % 256) <;> simp
@[simp] theorem State.bump_ports (k n : Nat) : (s.bump k n).ports = s.ports := by
  unfold State.bump; cases objInfo s.conf (k / 256) (k % 256) <;> simp
@[simp] theorem State.bump_con (k n : Nat) : (s.bump k n).con = s.con := by
  unfold State.bump; cases objInfo s.conf (k / 256) (k % 256) <;> simp
@[simp] theorem State.bump_tru (k n : Nat) : (s.bump k n).tru = s.tru := by
  unfold State.bump; cases objInfo s.conf (k / 256) (k % 256) <;> simp
@[simp] theorem State.bump_moves (k n : Nat) : (s.bump k n).moves = s.moves := by
  unfold State.bump; cases objInfo s.conf (k / 256) (k % 256) <;> simp
@[simp] theorem State.bump_out (k n : Nat) : (s.bump k n).out = s.out := by
  unfold State.bump; cases objInfo s.conf (k / 256) (k % 256) <;> simp
@[simp] theorem State.bump_freeCtr (k n : Nat) : (s.bump k n).freeCtr = s.freeCtr := by
  unfold State.bump; cases objInfo s.conf (k / 256) (k % 256) <;> simp

/-! ### placeRec -/

@[simp] theorem State.placeRec_pending (kind sev cls : Nat) (tn : Option Nat) (time : Nat) (w2 w3 : W64) : (s.placeRec kind sev cls tn time w2 w3).pending = s.pending := by
  rfl
@[simp] theorem State.placeRec_conf (kind sev cls : Nat) (tn : Option Nat) (time : Nat) (w2 w3 : W64) : (s.placeRec kind sev cls tn time w2 w3).conf = s.conf := by
  rfl
@[simp] theorem State.placeRec_pwrGood (kind sev cls : Nat) (tn : Option Nat) (time : Nat) (w2 w3 : W64) : (s.placeRec kind sev cls tn time w2 w3).pwrGood = s.pwrGood := by
  rfl
@[simp] theorem State.placeRec_clk (kind sev cls : Nat) (tn : Option Nat) (time : Nat) (w2 w3 : W64) : (s.placeRec kind sev cls tn time w2 w3).clk = s.clk := by
  rfl
@[simp] theorem State.placeRec_boot (kind sev cls : Nat) (tn : Option Nat) (time : Nat) (w2 w3 : W64) : (s.placeRec kind sev cls tn time w2 w3).boot = s.boot := by
  rfl
@[simp] theorem State.placeRec_dict (kind sev cls : Nat) (tn : Option Nat) (time : Nat) (w2 w3 : W64) : (s.placeRec kind sev cls tn time w2 w3).dict = s.dict := by
  rfl
@[simp] theorem State.placeRec_speed (kind sev cls : Nat) (tn : Option Nat) (time : Nat) (w2 w3 : W64) : (s.placeRec kind sev cls tn time w2 w3).speed = s.speed := by
  rfl
@[simp] theorem State.placeRec_regs (kind sev cls : Nat) (tn : Option Nat) (time : Nat) (w2 w3 : W64) : (s.placeRec kind sev cls tn time w2 w3).regs = s.regs := by
  rfl
@[simp] theorem State.placeRec_tiles (kind sev cls : Nat) (tn : Option Nat) (time : Nat) (w2 w3 : W64) : (s.placeRec kind sev cls tn time w2 w3).tiles = s.tiles := by
  rfl
@[simp] theorem State.placeRec_cells (kind sev cls : Nat) (tn : Option Nat) (time : Nat) (w2 w3 : W64) : (s.placeRec kind sev cls tn time w2 w3).cells = s.cells := by
  rfl
@[simp] theorem State.placeRec_shadow (kind sev cls : Nat) (tn : Option Nat) (time : Nat) (w2 w3 : W64) : (s.placeRec kind sev cls tn time w2 w3).shadow = s.shadow := by
  rfl
@[simp] theorem State.placeRec_swr (kind sev cls : Nat) (tn : Option Nat) (time : Nat) (w2 w3 : W64) : (s.placeRec kind sev cls tn time w2 w3).swr = s.swr := by
  rfl
@[simp] theorem State.placeRec_cores (kind sev cls : Nat) (tn : Option Nat) (time : Nat) (w2 w3 : W64) : (s.placeRec kind sev cls tn time w2 w3).cores = s.cores := by
  rfl
@[simp] theorem State.placeRec_chains (kind sev cls : Nat) (tn : Option Nat) (time : Nat) (w2 w3 : W64) : (s.placeRec kind sev cls tn time w2 w3).chains = s.chains := by
  rfl
@[simp] theorem State.placeRec_buf (kind sev cls : Nat) (tn : Option Nat) (time : Nat) (w2 w3 : W64) : (s.placeRec kind sev cls tn time w2 w3).buf = s.buf := by
  rfl
@[simp] theorem State.placeRec_stg (kind sev cls : Nat) (tn : Option Nat) (time : Nat) (w2 w3 : W64) : (s.placeRec kind sev cls tn time w2 w3).stg = s.stg := by
  rfl
@[simp] theorem State.placeRec_spine (kind sev cls : Nat) (tn : Option Nat) (time : Nat) (w2 w3 : W64) : (s.placeRec kind sev cls tn time w2 w3).spine = s.spine := by
  rfl
@[simp] theorem State.placeRec_adm (kind sev cls : Nat) (tn : Option Nat) (time : Nat) (w2 w3 : W64) : (s.placeRec kind sev cls tn time w2 w3).adm = s.adm := by
  rfl
@[simp] theorem State.placeRec_ops (kind sev cls : Nat) (tn : Option Nat) (time : Nat) (w2 w3 : W64) : (s.placeRec kind sev cls tn time w2 w3).ops = s.ops := by
  rfl
@[simp] theorem State.placeRec_slips (kind sev cls : Nat) (tn : Option Nat) (time : Nat) (w2 w3 : W64) : (s.placeRec kind sev cls tn time w2 w3).slips = s.slips := by
  rfl
@[simp] theorem State.placeRec_regions (kind sev cls : Nat) (tn : Option Nat) (time : Nat) (w2 w3 : W64) : (s.placeRec kind sev cls tn time w2 w3).regions = s.regions := by
  rfl
@[simp] theorem State.placeRec_drq (kind sev cls : Nat) (tn : Option Nat) (time : Nat) (w2 w3 : W64) : (s.placeRec kind sev cls tn time w2 w3).drq = s.drq := by
  rfl
@[simp] theorem State.placeRec_groups (kind sev cls : Nat) (tn : Option Nat) (time : Nat) (w2 w3 : W64) : (s.placeRec kind sev cls tn time w2 w3).groups = s.groups := by
  rfl
@[simp] theorem State.placeRec_ranges (kind sev cls : Nat) (tn : Option Nat) (time : Nat) (w2 w3 : W64) : (s.placeRec kind sev cls tn time w2 w3).ranges = s.ranges := by
  rfl
@[simp] theorem State.placeRec_jobs (kind sev cls : Nat) (tn : Option Nat) (time : Nat) (w2 w3 : W64) : (s.placeRec kind sev cls tn time w2 w3).jobs = s.jobs := by
  rfl
@[simp] theorem State.placeRec_nextJob (kind sev cls : Nat) (tn : Option Nat) (time : Nat) (w2 w3 : W64) : (s.placeRec kind sev cls tn time w2 w3).nextJob = s.nextJob := by
  rfl
@[simp] theorem State.placeRec_loop (kind sev cls : Nat) (tn : Option Nat) (time : Nat) (w2 w3 : W64) : (s.placeRec kind sev cls tn time w2 w3).loop = s.loop := by
  rfl
@[simp] theorem State.placeRec_pwr (kind sev cls : Nat) (tn : Option Nat) (time : Nat) (w2 w3 : W64) : (s.placeRec kind sev cls tn time w2 w3).pwr = s.pwr := by
  rfl
@[simp] theorem State.placeRec_ports (kind sev cls : Nat) (tn : Option Nat) (time : Nat) (w2 w3 : W64) : (s.placeRec kind sev cls tn time w2 w3).ports = s.ports := by
  rfl
@[simp] theorem State.placeRec_con (kind sev cls : Nat) (tn : Option Nat) (time : Nat) (w2 w3 : W64) : (s.placeRec kind sev cls tn time w2 w3).con = s.con := by
  rfl
@[simp] theorem State.placeRec_tru (kind sev cls : Nat) (tn : Option Nat) (time : Nat) (w2 w3 : W64) : (s.placeRec kind sev cls tn time w2 w3).tru = s.tru := by
  rfl
@[simp] theorem State.placeRec_moves (kind sev cls : Nat) (tn : Option Nat) (time : Nat) (w2 w3 : W64) : (s.placeRec kind sev cls tn time w2 w3).moves = s.moves := by
  rfl
@[simp] theorem State.placeRec_mg (kind sev cls : Nat) (tn : Option Nat) (time : Nat) (w2 w3 : W64) : (s.placeRec kind sev cls tn time w2 w3).mg = s.mg := by
  rfl
@[simp] theorem State.placeRec_out (kind sev cls : Nat) (tn : Option Nat) (time : Nat) (w2 w3 : W64) : (s.placeRec kind sev cls tn time w2 w3).out = s.out := by
  rfl
@[simp] theorem State.placeRec_freeCtr (kind sev cls : Nat) (tn : Option Nat) (time : Nat) (w2 w3 : W64) : (s.placeRec kind sev cls tn time w2 w3).freeCtr = s.freeCtr := by
  rfl

/-! ### writeRec -/

@[simp] theorem State.writeRec_pending (kind sev cls : Nat) (tn : Option Nat) (time : Nat) (w2 w3 : W64) : (s.writeRec kind sev cls tn time w2 w3).pending = s.pending := by
  unfold State.writeRec; split <;> simp
@[simp] theorem State.writeRec_conf (kind sev cls : Nat) (tn : Option Nat) (time : Nat) (w2 w3 : W64) : (s.writeRec kind sev cls tn time w2 w3).conf = s.conf := by
  unfold State.writeRec; split <;> simp
@[simp] theorem State.writeRec_pwrGood (kind sev cls : Nat) (tn : Option Nat) (time : Nat) (w2 w3 : W64) : (s.writeRec kind sev cls tn time w2 w3).pwrGood = s.pwrGood := by
  unfold State.writeRec; split <;> simp
@[simp] theorem State.writeRec_clk (kind sev cls : Nat) (tn : Option Nat) (time : Nat) (w2 w3 : W64) : (s.writeRec kind sev cls tn time w2 w3).clk = s.clk := by
  unfold State.writeRec; split <;> simp
@[simp] theorem State.writeRec_boot (kind sev cls : Nat) (tn : Option Nat) (time : Nat) (w2 w3 : W64) : (s.writeRec kind sev cls tn time w2 w3).boot = s.boot := by
  unfold State.writeRec; split <;> simp
@[simp] theorem State.writeRec_speed (kind sev cls : Nat) (tn : Option Nat) (time : Nat) (w2 w3 : W64) : (s.writeRec kind sev cls tn time w2 w3).speed = s.speed := by
  unfold State.writeRec; split <;> simp
@[simp] theorem State.writeRec_regs (kind sev cls : Nat) (tn : Option Nat) (time : Nat) (w2 w3 : W64) : (s.writeRec kind sev cls tn time w2 w3).regs = s.regs := by
  unfold State.writeRec; split <;> simp
@[simp] theorem State.writeRec_tiles (kind sev cls : Nat) (tn : Option Nat) (time : Nat) (w2 w3 : W64) : (s.writeRec kind sev cls tn time w2 w3).tiles = s.tiles := by
  unfold State.writeRec; split <;> simp
@[simp] theorem State.writeRec_cells (kind sev cls : Nat) (tn : Option Nat) (time : Nat) (w2 w3 : W64) : (s.writeRec kind sev cls tn time w2 w3).cells = s.cells := by
  unfold State.writeRec; split <;> simp
@[simp] theorem State.writeRec_shadow (kind sev cls : Nat) (tn : Option Nat) (time : Nat) (w2 w3 : W64) : (s.writeRec kind sev cls tn time w2 w3).shadow = s.shadow := by
  unfold State.writeRec; split <;> simp
@[simp] theorem State.writeRec_swr (kind sev cls : Nat) (tn : Option Nat) (time : Nat) (w2 w3 : W64) : (s.writeRec kind sev cls tn time w2 w3).swr = s.swr := by
  unfold State.writeRec; split <;> simp
@[simp] theorem State.writeRec_cores (kind sev cls : Nat) (tn : Option Nat) (time : Nat) (w2 w3 : W64) : (s.writeRec kind sev cls tn time w2 w3).cores = s.cores := by
  unfold State.writeRec; split <;> simp
@[simp] theorem State.writeRec_chains (kind sev cls : Nat) (tn : Option Nat) (time : Nat) (w2 w3 : W64) : (s.writeRec kind sev cls tn time w2 w3).chains = s.chains := by
  unfold State.writeRec; split <;> simp
@[simp] theorem State.writeRec_buf (kind sev cls : Nat) (tn : Option Nat) (time : Nat) (w2 w3 : W64) : (s.writeRec kind sev cls tn time w2 w3).buf = s.buf := by
  unfold State.writeRec; split <;> simp
@[simp] theorem State.writeRec_stg (kind sev cls : Nat) (tn : Option Nat) (time : Nat) (w2 w3 : W64) : (s.writeRec kind sev cls tn time w2 w3).stg = s.stg := by
  unfold State.writeRec; split <;> simp
@[simp] theorem State.writeRec_spine (kind sev cls : Nat) (tn : Option Nat) (time : Nat) (w2 w3 : W64) : (s.writeRec kind sev cls tn time w2 w3).spine = s.spine := by
  unfold State.writeRec; split <;> simp
@[simp] theorem State.writeRec_adm (kind sev cls : Nat) (tn : Option Nat) (time : Nat) (w2 w3 : W64) : (s.writeRec kind sev cls tn time w2 w3).adm = s.adm := by
  unfold State.writeRec; split <;> simp
@[simp] theorem State.writeRec_ops (kind sev cls : Nat) (tn : Option Nat) (time : Nat) (w2 w3 : W64) : (s.writeRec kind sev cls tn time w2 w3).ops = s.ops := by
  unfold State.writeRec; split <;> simp
@[simp] theorem State.writeRec_slips (kind sev cls : Nat) (tn : Option Nat) (time : Nat) (w2 w3 : W64) : (s.writeRec kind sev cls tn time w2 w3).slips = s.slips := by
  unfold State.writeRec; split <;> simp
@[simp] theorem State.writeRec_regions (kind sev cls : Nat) (tn : Option Nat) (time : Nat) (w2 w3 : W64) : (s.writeRec kind sev cls tn time w2 w3).regions = s.regions := by
  unfold State.writeRec; split <;> simp
@[simp] theorem State.writeRec_drq (kind sev cls : Nat) (tn : Option Nat) (time : Nat) (w2 w3 : W64) : (s.writeRec kind sev cls tn time w2 w3).drq = s.drq := by
  unfold State.writeRec; split <;> simp
@[simp] theorem State.writeRec_groups (kind sev cls : Nat) (tn : Option Nat) (time : Nat) (w2 w3 : W64) : (s.writeRec kind sev cls tn time w2 w3).groups = s.groups := by
  unfold State.writeRec; split <;> simp
@[simp] theorem State.writeRec_ranges (kind sev cls : Nat) (tn : Option Nat) (time : Nat) (w2 w3 : W64) : (s.writeRec kind sev cls tn time w2 w3).ranges = s.ranges := by
  unfold State.writeRec; split <;> simp
@[simp] theorem State.writeRec_jobs (kind sev cls : Nat) (tn : Option Nat) (time : Nat) (w2 w3 : W64) : (s.writeRec kind sev cls tn time w2 w3).jobs = s.jobs := by
  unfold State.writeRec; split <;> simp
@[simp] theorem State.writeRec_nextJob (kind sev cls : Nat) (tn : Option Nat) (time : Nat) (w2 w3 : W64) : (s.writeRec kind sev cls tn time w2 w3).nextJob = s.nextJob := by
  unfold State.writeRec; split <;> simp
@[simp] theorem State.writeRec_loop (kind sev cls : Nat) (tn : Option Nat) (time : Nat) (w2 w3 : W64) : (s.writeRec kind sev cls tn time w2 w3).loop = s.loop := by
  unfold State.writeRec; split <;> simp
@[simp] theorem State.writeRec_pwr (kind sev cls : Nat) (tn : Option Nat) (time : Nat) (w2 w3 : W64) : (s.writeRec kind sev cls tn time w2 w3).pwr = s.pwr := by
  unfold State.writeRec; split <;> simp
@[simp] theorem State.writeRec_ports (kind sev cls : Nat) (tn : Option Nat) (time : Nat) (w2 w3 : W64) : (s.writeRec kind sev cls tn time w2 w3).ports = s.ports := by
  unfold State.writeRec; split <;> simp
@[simp] theorem State.writeRec_con (kind sev cls : Nat) (tn : Option Nat) (time : Nat) (w2 w3 : W64) : (s.writeRec kind sev cls tn time w2 w3).con = s.con := by
  unfold State.writeRec; split <;> simp
@[simp] theorem State.writeRec_tru (kind sev cls : Nat) (tn : Option Nat) (time : Nat) (w2 w3 : W64) : (s.writeRec kind sev cls tn time w2 w3).tru = s.tru := by
  unfold State.writeRec; split <;> simp
@[simp] theorem State.writeRec_moves (kind sev cls : Nat) (tn : Option Nat) (time : Nat) (w2 w3 : W64) : (s.writeRec kind sev cls tn time w2 w3).moves = s.moves := by
  unfold State.writeRec; split <;> simp
@[simp] theorem State.writeRec_out (kind sev cls : Nat) (tn : Option Nat) (time : Nat) (w2 w3 : W64) : (s.writeRec kind sev cls tn time w2 w3).out = s.out := by
  unfold State.writeRec; split <;> simp
@[simp] theorem State.writeRec_freeCtr (kind sev cls : Nat) (tn : Option Nat) (time : Nat) (w2 w3 : W64) : (s.writeRec kind sev cls tn time w2 w3).freeCtr = s.freeCtr := by
  unfold State.writeRec; split <;> simp

/-! ### closeKey -/

@[simp] theorem State.closeKey_pending (k : CoKey) : (s.closeKey k).pending = s.pending := by
  unfold State.closeKey; split <;> simp
@[simp] theorem State.closeKey_conf (k : CoKey) : (s.closeKey k).conf = s.conf := by
  unfold State.closeKey; split <;> simp
@[simp] theorem State.closeKey_pwrGood (k : CoKey) : (s.closeKey k).pwrGood = s.pwrGood := by
  unfold State.closeKey; split <;> simp
@[simp] theorem State.closeKey_clk (k : CoKey) : (s.closeKey k).clk = s.clk := by
  unfold State.closeKey; split <;> simp
@[simp] theorem State.closeKey_boot (k : CoKey) : (s.closeKey k).boot = s.boot := by
  unfold State.closeKey; split <;> simp
@[simp] theorem State.closeKey_speed (k : CoKey) : (s.closeKey k).speed = s.speed := by
  unfold State.closeKey; split <;> simp
@[simp] theorem State.closeKey_regs (k : CoKey) : (s.closeKey k).regs = s.regs := by
  unfold State.closeKey; split <;> simp
@[simp] theorem State.closeKey_tiles (k : CoKey) : (s.closeKey k).tiles = s.tiles := by
  unfold State.closeKey; split <;> simp
@[simp] theorem State.closeKey_cells (k : CoKey) : (s.closeKey k).cells = s.cells := by
  unfold State.closeKey; split <;> simp
@[simp] theorem State.closeKey_shadow (k : CoKey) : (s.closeKey k).shadow = s.shadow := by
  unfold State.closeKey; split <;> simp
@[simp] theorem State.closeKey_swr (k : CoKey) : (s.closeKey k).swr = s.swr := by
  unfold State.closeKey; split <;> simp
@[simp] theorem State.closeKey_cores (k : CoKey) : (s.closeKey k).cores = s.cores := by
  unfold State.closeKey; split <;> simp
@[simp] theorem State.closeKey_chains (k : CoKey) : (s.closeKey k).chains = s.chains := by
  unfold State.closeKey; split <;> simp
@[simp] theorem State.closeKey_buf (k : CoKey) : (s.closeKey k).buf = s.buf := by
  unfold State.closeKey; split <;> simp
@[simp] theorem State.closeKey_stg (k : CoKey) : (s.closeKey k).stg = s.stg := by
  unfold State.closeKey; split <;> simp
@[simp] theorem State.closeKey_spine (k : CoKey) : (s.closeKey k).spine = s.spine := by
  unfold State.closeKey; split <;> simp
@[simp] theorem State.closeKey_adm (k : CoKey) : (s.closeKey k).adm = s.adm := by
  unfold State.closeKey; split <;> simp
@[simp] theorem State.closeKey_ops (k : CoKey) : (s.closeKey k).ops = s.ops := by
  unfold State.closeKey; split <;> simp
@[simp] theorem State.closeKey_slips (k : CoKey) : (s.closeKey k).slips = s.slips := by
  unfold State.closeKey; split <;> simp
@[simp] theorem State.closeKey_regions (k : CoKey) : (s.closeKey k).regions = s.regions := by
  unfold State.closeKey; split <;> simp
@[simp] theorem State.closeKey_drq (k : CoKey) : (s.closeKey k).drq = s.drq := by
  unfold State.closeKey; split <;> simp
@[simp] theorem State.closeKey_groups (k : CoKey) : (s.closeKey k).groups = s.groups := by
  unfold State.closeKey; split <;> simp
@[simp] theorem State.closeKey_ranges (k : CoKey) : (s.closeKey k).ranges = s.ranges := by
  unfold State.closeKey; split <;> simp
@[simp] theorem State.closeKey_jobs (k : CoKey) : (s.closeKey k).jobs = s.jobs := by
  unfold State.closeKey; split <;> simp
@[simp] theorem State.closeKey_nextJob (k : CoKey) : (s.closeKey k).nextJob = s.nextJob := by
  unfold State.closeKey; split <;> simp
@[simp] theorem State.closeKey_loop (k : CoKey) : (s.closeKey k).loop = s.loop := by
  unfold State.closeKey; split <;> simp
@[simp] theorem State.closeKey_pwr (k : CoKey) : (s.closeKey k).pwr = s.pwr := by
  unfold State.closeKey; split <;> simp
@[simp] theorem State.closeKey_ports (k : CoKey) : (s.closeKey k).ports = s.ports := by
  unfold State.closeKey; split <;> simp
@[simp] theorem State.closeKey_con (k : CoKey) : (s.closeKey k).con = s.con := by
  unfold State.closeKey; split <;> simp
@[simp] theorem State.closeKey_tru (k : CoKey) : (s.closeKey k).tru = s.tru := by
  unfold State.closeKey; split <;> simp
@[simp] theorem State.closeKey_moves (k : CoKey) : (s.closeKey k).moves = s.moves := by
  unfold State.closeKey; split <;> simp
@[simp] theorem State.closeKey_out (k : CoKey) : (s.closeKey k).out = s.out := by
  unfold State.closeKey; split <;> simp
@[simp] theorem State.closeKey_freeCtr (k : CoKey) : (s.closeKey k).freeCtr = s.freeCtr := by
  unfold State.closeKey; split <;> simp

/-! ### evictKey -/

@[simp] theorem State.evictKey_pending  : (s.evictKey).pending = s.pending := by
  unfold State.evictKey; split; rfl; split <;> simp
@[simp] theorem State.evictKey_conf  : (s.evictKey).conf = s.conf := by
  unfold State.evictKey; split; rfl; split <;> simp
@[simp] theorem State.evictKey_pwrGood  : (s.evictKey).pwrGood = s.pwrGood := by
  unfold State.evictKey; split; rfl; split <;> simp
@[simp] theorem State.evictKey_clk  : (s.evictKey).clk = s.clk := by
  unfold State.evictKey; split; rfl; split <;> simp
@[simp] theorem State.evictKey_boot  : (s.evictKey).boot = s.boot := by
  unfold State.evictKey; split; rfl; split <;> simp
@[simp] theorem State.evictKey_speed  : (s.evictKey).speed = s.speed := by
  unfold State.evictKey; split; rfl; split <;> simp
@[simp] theorem State.evictKey_regs  : (s.evictKey).regs = s.regs := by
  unfold State.evictKey; split; rfl; split <;> simp
@[simp] theorem State.evictKey_tiles  : (s.evictKey).tiles = s.tiles := by
  unfold State.evictKey; split; rfl; split <;> simp
@[simp] theorem State.evictKey_cells  : (s.evictKey).cells = s.cells := by
  unfold State.evictKey; split; rfl; split <;> simp
@[simp] theorem State.evictKey_shadow  : (s.evictKey).shadow = s.shadow := by
  unfold State.evictKey; split; rfl; split <;> simp
@[simp] theorem State.evictKey_swr  : (s.evictKey).swr = s.swr := by
  unfold State.evictKey; split; rfl; split <;> simp
@[simp] theorem State.evictKey_cores  : (s.evictKey).cores = s.cores := by
  unfold State.evictKey; split; rfl; split <;> simp
@[simp] theorem State.evictKey_chains  : (s.evictKey).chains = s.chains := by
  unfold State.evictKey; split; rfl; split <;> simp
@[simp] theorem State.evictKey_buf  : (s.evictKey).buf = s.buf := by
  unfold State.evictKey; split; rfl; split <;> simp
@[simp] theorem State.evictKey_stg  : (s.evictKey).stg = s.stg := by
  unfold State.evictKey; split; rfl; split <;> simp
@[simp] theorem State.evictKey_spine  : (s.evictKey).spine = s.spine := by
  unfold State.evictKey; split; rfl; split <;> simp
@[simp] theorem State.evictKey_adm  : (s.evictKey).adm = s.adm := by
  unfold State.evictKey; split; rfl; split <;> simp
@[simp] theorem State.evictKey_ops  : (s.evictKey).ops = s.ops := by
  unfold State.evictKey; split; rfl; split <;> simp
@[simp] theorem State.evictKey_slips  : (s.evictKey).slips = s.slips := by
  unfold State.evictKey; split; rfl; split <;> simp
@[simp] theorem State.evictKey_regions  : (s.evictKey).regions = s.regions := by
  unfold State.evictKey; split; rfl; split <;> simp
@[simp] theorem State.evictKey_drq  : (s.evictKey).drq = s.drq := by
  unfold State.evictKey; split; rfl; split <;> simp
@[simp] theorem State.evictKey_groups  : (s.evictKey).groups = s.groups := by
  unfold State.evictKey; split; rfl; split <;> simp
@[simp] theorem State.evictKey_ranges  : (s.evictKey).ranges = s.ranges := by
  unfold State.evictKey; split; rfl; split <;> simp
@[simp] theorem State.evictKey_jobs  : (s.evictKey).jobs = s.jobs := by
  unfold State.evictKey; split; rfl; split <;> simp
@[simp] theorem State.evictKey_nextJob  : (s.evictKey).nextJob = s.nextJob := by
  unfold State.evictKey; split; rfl; split <;> simp
@[simp] theorem State.evictKey_loop  : (s.evictKey).loop = s.loop := by
  unfold State.evictKey; split; rfl; split <;> simp
@[simp] theorem State.evictKey_pwr  : (s.evictKey).pwr = s.pwr := by
  unfold State.evictKey; split; rfl; split <;> simp
@[simp] theorem State.evictKey_ports  : (s.evictKey).ports = s.ports := by
  unfold State.evictKey; split; rfl; split <;> simp
@[simp] theorem State.evictKey_con  : (s.evictKey).con = s.con := by
  unfold State.evictKey; split; rfl; split <;> simp
@[simp] theorem State.evictKey_tru  : (s.evictKey).tru = s.tru := by
  unfold State.evictKey; split; rfl; split <;> simp
@[simp] theorem State.evictKey_moves  : (s.evictKey).moves = s.moves := by
  unfold State.evictKey; split; rfl; split <;> simp
@[simp] theorem State.evictKey_out  : (s.evictKey).out = s.out := by
  unfold State.evictKey; split; rfl; split <;> simp
@[simp] theorem State.evictKey_freeCtr  : (s.evictKey).freeCtr = s.freeCtr := by
  unfold State.evictKey; split; rfl; split <;> simp

/-! ### event -/

@[simp] theorem State.event_pending (e : Event) : (s.event e).pending = s.pending := by
  unfold State.event; split <;> simp
@[simp] theorem State.event_conf (e : Event) : (s.event e).conf = s.conf := by
  unfold State.event; split <;> simp
@[simp] theorem State.event_pwrGood (e : Event) : (s.event e).pwrGood = s.pwrGood := by
  unfold State.event; split <;> simp
@[simp] theorem State.event_clk (e : Event) : (s.event e).clk = s.clk := by
  unfold State.event; split <;> simp
@[simp] theorem State.event_boot (e : Event) : (s.event e).boot = s.boot := by
  unfold State.event; split <;> simp
@[simp] theorem State.event_speed (e : Event) : (s.event e).speed = s.speed := by
  unfold State.event; split <;> simp
@[simp] theorem State.event_regs (e : Event) : (s.event e).regs = s.regs := by
  unfold State.event; split <;> simp
@[simp] theorem State.event_tiles (e : Event) : (s.event e).tiles = s.tiles := by
  unfold State.event; split <;> simp
@[simp] theorem State.event_cells (e : Event) : (s.event e).cells = s.cells := by
  unfold State.event; split <;> simp
@[simp] theorem State.event_shadow (e : Event) : (s.event e).shadow = s.shadow := by
  unfold State.event; split <;> simp
@[simp] theorem State.event_swr (e : Event) : (s.event e).swr = s.swr := by
  unfold State.event; split <;> simp
@[simp] theorem State.event_cores (e : Event) : (s.event e).cores = s.cores := by
  unfold State.event; split <;> simp
@[simp] theorem State.event_chains (e : Event) : (s.event e).chains = s.chains := by
  unfold State.event; split <;> simp
@[simp] theorem State.event_buf (e : Event) : (s.event e).buf = s.buf := by
  unfold State.event; split <;> simp
@[simp] theorem State.event_stg (e : Event) : (s.event e).stg = s.stg := by
  unfold State.event; split <;> simp
@[simp] theorem State.event_spine (e : Event) : (s.event e).spine = s.spine := by
  unfold State.event; split <;> simp
@[simp] theorem State.event_adm (e : Event) : (s.event e).adm = s.adm := by
  unfold State.event; split <;> simp
@[simp] theorem State.event_ops (e : Event) : (s.event e).ops = s.ops := by
  unfold State.event; split <;> simp
@[simp] theorem State.event_slips (e : Event) : (s.event e).slips = s.slips := by
  unfold State.event; split <;> simp
@[simp] theorem State.event_regions (e : Event) : (s.event e).regions = s.regions := by
  unfold State.event; split <;> simp
@[simp] theorem State.event_drq (e : Event) : (s.event e).drq = s.drq := by
  unfold State.event; split <;> simp
@[simp] theorem State.event_groups (e : Event) : (s.event e).groups = s.groups := by
  unfold State.event; split <;> simp
@[simp] theorem State.event_ranges (e : Event) : (s.event e).ranges = s.ranges := by
  unfold State.event; split <;> simp
@[simp] theorem State.event_jobs (e : Event) : (s.event e).jobs = s.jobs := by
  unfold State.event; split <;> simp
@[simp] theorem State.event_nextJob (e : Event) : (s.event e).nextJob = s.nextJob := by
  unfold State.event; split <;> simp
@[simp] theorem State.event_loop (e : Event) : (s.event e).loop = s.loop := by
  unfold State.event; split <;> simp
@[simp] theorem State.event_pwr (e : Event) : (s.event e).pwr = s.pwr := by
  unfold State.event; split <;> simp
@[simp] theorem State.event_ports (e : Event) : (s.event e).ports = s.ports := by
  unfold State.event; split <;> simp
@[simp] theorem State.event_con (e : Event) : (s.event e).con = s.con := by
  unfold State.event; split <;> simp
@[simp] theorem State.event_tru (e : Event) : (s.event e).tru = s.tru := by
  unfold State.event; split <;> simp
@[simp] theorem State.event_moves (e : Event) : (s.event e).moves = s.moves := by
  unfold State.event; split <;> simp
@[simp] theorem State.event_out (e : Event) : (s.event e).out = s.out := by
  unfold State.event; split <;> simp
@[simp] theorem State.event_freeCtr (e : Event) : (s.event e).freeCtr = s.freeCtr := by
  unfold State.event; split <;> simp

/-! ### opToken -/

@[simp] theorem State.opToken_pending (core cells : Nat) : (s.opToken core cells).pending = s.pending := by
  rfl
@[simp] theorem State.opToken_conf (core cells : Nat) : (s.opToken core cells).conf = s.conf := by
  rfl
@[simp] theorem State.opToken_pwrGood (core cells : Nat) : (s.opToken core cells).pwrGood = s.pwrGood := by
  rfl
@[simp] theorem State.opToken_clk (core cells : Nat) : (s.opToken core cells).clk = s.clk := by
  rfl
@[simp] theorem State.opToken_boot (core cells : Nat) : (s.opToken core cells).boot = s.boot := by
  rfl
@[simp] theorem State.opToken_dict (core cells : Nat) : (s.opToken core cells).dict = s.dict := by
  rfl
@[simp] theorem State.opToken_speed (core cells : Nat) : (s.opToken core cells).speed = s.speed := by
  rfl
@[simp] theorem State.opToken_regs (core cells : Nat) : (s.opToken core cells).regs = s.regs := by
  rfl
@[simp] theorem State.opToken_tiles (core cells : Nat) : (s.opToken core cells).tiles = s.tiles := by
  rfl
@[simp] theorem State.opToken_cells (core cells : Nat) : (s.opToken core cells).cells = s.cells := by
  rfl
@[simp] theorem State.opToken_shadow (core cells : Nat) : (s.opToken core cells).shadow = s.shadow := by
  rfl
@[simp] theorem State.opToken_swr (core cells : Nat) : (s.opToken core cells).swr = s.swr := by
  rfl
@[simp] theorem State.opToken_cores (core cells : Nat) : (s.opToken core cells).cores = s.cores := by
  rfl
@[simp] theorem State.opToken_chains (core cells : Nat) : (s.opToken core cells).chains = s.chains := by
  rfl
@[simp] theorem State.opToken_buf (core cells : Nat) : (s.opToken core cells).buf = s.buf := by
  rfl
@[simp] theorem State.opToken_stg (core cells : Nat) : (s.opToken core cells).stg = s.stg := by
  rfl
@[simp] theorem State.opToken_spine (core cells : Nat) : (s.opToken core cells).spine = s.spine := by
  rfl
@[simp] theorem State.opToken_adm (core cells : Nat) : (s.opToken core cells).adm = s.adm := by
  rfl
@[simp] theorem State.opToken_ops (core cells : Nat) : (s.opToken core cells).ops = s.ops := by
  rfl
@[simp] theorem State.opToken_slips (core cells : Nat) : (s.opToken core cells).slips = s.slips := by
  rfl
@[simp] theorem State.opToken_regions (core cells : Nat) : (s.opToken core cells).regions = s.regions := by
  rfl
@[simp] theorem State.opToken_drq (core cells : Nat) : (s.opToken core cells).drq = s.drq := by
  rfl
@[simp] theorem State.opToken_groups (core cells : Nat) : (s.opToken core cells).groups = s.groups := by
  rfl
@[simp] theorem State.opToken_ranges (core cells : Nat) : (s.opToken core cells).ranges = s.ranges := by
  rfl
@[simp] theorem State.opToken_jobs (core cells : Nat) : (s.opToken core cells).jobs = s.jobs := by
  rfl
@[simp] theorem State.opToken_nextJob (core cells : Nat) : (s.opToken core cells).nextJob = s.nextJob := by
  rfl
@[simp] theorem State.opToken_loop (core cells : Nat) : (s.opToken core cells).loop = s.loop := by
  rfl
@[simp] theorem State.opToken_ports (core cells : Nat) : (s.opToken core cells).ports = s.ports := by
  rfl
@[simp] theorem State.opToken_con (core cells : Nat) : (s.opToken core cells).con = s.con := by
  rfl
@[simp] theorem State.opToken_tru (core cells : Nat) : (s.opToken core cells).tru = s.tru := by
  rfl
@[simp] theorem State.opToken_moves (core cells : Nat) : (s.opToken core cells).moves = s.moves := by
  rfl
@[simp] theorem State.opToken_mg (core cells : Nat) : (s.opToken core cells).mg = s.mg := by
  rfl
@[simp] theorem State.opToken_errs (core cells : Nat) : (s.opToken core cells).errs = s.errs := by
  rfl
@[simp] theorem State.opToken_out (core cells : Nat) : (s.opToken core cells).out = s.out := by
  rfl
@[simp] theorem State.opToken_freeCtr (core cells : Nat) : (s.opToken core cells).freeCtr = s.freeCtr := by
  rfl

/-! ### giveCredits -/

@[simp] theorem State.giveCredits_pending (q chan n : Nat) : (s.giveCredits q chan n).pending = s.pending := by
  rfl
@[simp] theorem State.giveCredits_conf (q chan n : Nat) : (s.giveCredits q chan n).conf = s.conf := by
  rfl
@[simp] theorem State.giveCredits_pwrGood (q chan n : Nat) : (s.giveCredits q chan n).pwrGood = s.pwrGood := by
  rfl
@[simp] theorem State.giveCredits_clk (q chan n : Nat) : (s.giveCredits q chan n).clk = s.clk := by
  rfl
@[simp] theorem State.giveCredits_boot (q chan n : Nat) : (s.giveCredits q chan n).boot = s.boot := by
  rfl
@[simp] theorem State.giveCredits_dict (q chan n : Nat) : (s.giveCredits q chan n).dict = s.dict := by
  rfl
@[simp] theorem State.giveCredits_speed (q chan n : Nat) : (s.giveCredits q chan n).speed = s.speed := by
  rfl
@[simp] theorem State.giveCredits_regs (q chan n : Nat) : (s.giveCredits q chan n).regs = s.regs := by
  rfl
@[simp] theorem State.giveCredits_tiles (q chan n : Nat) : (s.giveCredits q chan n).tiles = s.tiles := by
  rfl
@[simp] theorem State.giveCredits_cells (q chan n : Nat) : (s.giveCredits q chan n).cells = s.cells := by
  rfl
@[simp] theorem State.giveCredits_shadow (q chan n : Nat) : (s.giveCredits q chan n).shadow = s.shadow := by
  rfl
@[simp] theorem State.giveCredits_swr (q chan n : Nat) : (s.giveCredits q chan n).swr = s.swr := by
  rfl
@[simp] theorem State.giveCredits_cores (q chan n : Nat) : (s.giveCredits q chan n).cores = s.cores := by
  rfl
@[simp] theorem State.giveCredits_chains (q chan n : Nat) : (s.giveCredits q chan n).chains = s.chains := by
  rfl
@[simp] theorem State.giveCredits_buf (q chan n : Nat) : (s.giveCredits q chan n).buf = s.buf := by
  rfl
@[simp] theorem State.giveCredits_stg (q chan n : Nat) : (s.giveCredits q chan n).stg = s.stg := by
  rfl
@[simp] theorem State.giveCredits_spine (q chan n : Nat) : (s.giveCredits q chan n).spine = s.spine := by
  rfl
@[simp] theorem State.giveCredits_adm (q chan n : Nat) : (s.giveCredits q chan n).adm = s.adm := by
  rfl
@[simp] theorem State.giveCredits_ops (q chan n : Nat) : (s.giveCredits q chan n).ops = s.ops := by
  rfl
@[simp] theorem State.giveCredits_slips (q chan n : Nat) : (s.giveCredits q chan n).slips = s.slips := by
  rfl
@[simp] theorem State.giveCredits_regions (q chan n : Nat) : (s.giveCredits q chan n).regions = s.regions := by
  rfl
@[simp] theorem State.giveCredits_drq (q chan n : Nat) : (s.giveCredits q chan n).drq = s.drq := by
  rfl
@[simp] theorem State.giveCredits_groups (q chan n : Nat) : (s.giveCredits q chan n).groups = s.groups := by
  rfl
@[simp] theorem State.giveCredits_ranges (q chan n : Nat) : (s.giveCredits q chan n).ranges = s.ranges := by
  rfl
@[simp] theorem State.giveCredits_jobs (q chan n : Nat) : (s.giveCredits q chan n).jobs = s.jobs := by
  rfl
@[simp] theorem State.giveCredits_nextJob (q chan n : Nat) : (s.giveCredits q chan n).nextJob = s.nextJob := by
  rfl
@[simp] theorem State.giveCredits_loop (q chan n : Nat) : (s.giveCredits q chan n).loop = s.loop := by
  rfl
@[simp] theorem State.giveCredits_pwr (q chan n : Nat) : (s.giveCredits q chan n).pwr = s.pwr := by
  rfl
@[simp] theorem State.giveCredits_ports (q chan n : Nat) : (s.giveCredits q chan n).ports = s.ports := by
  rfl
@[simp] theorem State.giveCredits_con (q chan n : Nat) : (s.giveCredits q chan n).con = s.con := by
  rfl
@[simp] theorem State.giveCredits_tru (q chan n : Nat) : (s.giveCredits q chan n).tru = s.tru := by
  rfl
@[simp] theorem State.giveCredits_moves (q chan n : Nat) : (s.giveCredits q chan n).moves = s.moves := by
  rfl
@[simp] theorem State.giveCredits_mg (q chan n : Nat) : (s.giveCredits q chan n).mg = s.mg := by
  rfl
@[simp] theorem State.giveCredits_errs (q chan n : Nat) : (s.giveCredits q chan n).errs = s.errs := by
  rfl
@[simp] theorem State.giveCredits_freeCtr (q chan n : Nat) : (s.giveCredits q chan n).freeCtr = s.freeCtr := by
  rfl

/-! ### sendFlit -/

@[simp] theorem State.sendFlit_pending (rs : List Resp) : (s.sendFlit rs).pending = s.pending := by
  rfl
@[simp] theorem State.sendFlit_conf (rs : List Resp) : (s.sendFlit rs).conf = s.conf := by
  rfl
@[simp] theorem State.sendFlit_pwrGood (rs : List Resp) : (s.sendFlit rs).pwrGood = s.pwrGood := by
  rfl
@[simp] theorem State.sendFlit_clk (rs : List Resp) : (s.sendFlit rs).clk = s.clk := by
  rfl
@[simp] theorem State.sendFlit_boot (rs : List Resp) : (s.sendFlit rs).boot = s.boot := by
  rfl
@[simp] theorem State.sendFlit_dict (rs : List Resp) : (s.sendFlit rs).dict = s.dict := by
  rfl
@[simp] theorem State.sendFlit_speed (rs : List Resp) : (s.sendFlit rs).speed = s.speed := by
  rfl
@[simp] theorem State.sendFlit_regs (rs : List Resp) : (s.sendFlit rs).regs = s.regs := by
  rfl
@[simp] theorem State.sendFlit_tiles (rs : List Resp) : (s.sendFlit rs).tiles = s.tiles := by
  rfl
@[simp] theorem State.sendFlit_cells (rs : List Resp) : (s.sendFlit rs).cells = s.cells := by
  rfl
@[simp] theorem State.sendFlit_shadow (rs : List Resp) : (s.sendFlit rs).shadow = s.shadow := by
  rfl
@[simp] theorem State.sendFlit_swr (rs : List Resp) : (s.sendFlit rs).swr = s.swr := by
  rfl
@[simp] theorem State.sendFlit_cores (rs : List Resp) : (s.sendFlit rs).cores = s.cores := by
  rfl
@[simp] theorem State.sendFlit_chains (rs : List Resp) : (s.sendFlit rs).chains = s.chains := by
  rfl
@[simp] theorem State.sendFlit_buf (rs : List Resp) : (s.sendFlit rs).buf = s.buf := by
  rfl
@[simp] theorem State.sendFlit_stg (rs : List Resp) : (s.sendFlit rs).stg = s.stg := by
  rfl
@[simp] theorem State.sendFlit_spine (rs : List Resp) : (s.sendFlit rs).spine = s.spine := by
  rfl
@[simp] theorem State.sendFlit_ops (rs : List Resp) : (s.sendFlit rs).ops = s.ops := by
  rfl
@[simp] theorem State.sendFlit_slips (rs : List Resp) : (s.sendFlit rs).slips = s.slips := by
  rfl
@[simp] theorem State.sendFlit_regions (rs : List Resp) : (s.sendFlit rs).regions = s.regions := by
  rfl
@[simp] theorem State.sendFlit_drq (rs : List Resp) : (s.sendFlit rs).drq = s.drq := by
  rfl
@[simp] theorem State.sendFlit_groups (rs : List Resp) : (s.sendFlit rs).groups = s.groups := by
  rfl
@[simp] theorem State.sendFlit_ranges (rs : List Resp) : (s.sendFlit rs).ranges = s.ranges := by
  rfl
@[simp] theorem State.sendFlit_jobs (rs : List Resp) : (s.sendFlit rs).jobs = s.jobs := by
  rfl
@[simp] theorem State.sendFlit_nextJob (rs : List Resp) : (s.sendFlit rs).nextJob = s.nextJob := by
  rfl
@[simp] theorem State.sendFlit_loop (rs : List Resp) : (s.sendFlit rs).loop = s.loop := by
  rfl
@[simp] theorem State.sendFlit_pwr (rs : List Resp) : (s.sendFlit rs).pwr = s.pwr := by
  rfl
@[simp] theorem State.sendFlit_ports (rs : List Resp) : (s.sendFlit rs).ports = s.ports := by
  rfl
@[simp] theorem State.sendFlit_con (rs : List Resp) : (s.sendFlit rs).con = s.con := by
  rfl
@[simp] theorem State.sendFlit_tru (rs : List Resp) : (s.sendFlit rs).tru = s.tru := by
  rfl
@[simp] theorem State.sendFlit_moves (rs : List Resp) : (s.sendFlit rs).moves = s.moves := by
  rfl
@[simp] theorem State.sendFlit_mg (rs : List Resp) : (s.sendFlit rs).mg = s.mg := by
  rfl
@[simp] theorem State.sendFlit_errs (rs : List Resp) : (s.sendFlit rs).errs = s.errs := by
  rfl
@[simp] theorem State.sendFlit_freeCtr (rs : List Resp) : (s.sendFlit rs).freeCtr = s.freeCtr := by
  rfl

/-! ### respond -/

@[simp] theorem State.respond_pending (r : Resp) : (s.respond r).pending = s.pending := by
  unfold State.respond; split <;> simp
@[simp] theorem State.respond_conf (r : Resp) : (s.respond r).conf = s.conf := by
  unfold State.respond; split <;> simp
@[simp] theorem State.respond_pwrGood (r : Resp) : (s.respond r).pwrGood = s.pwrGood := by
  unfold State.respond; split <;> simp
@[simp] theorem State.respond_clk (r : Resp) : (s.respond r).clk = s.clk := by
  unfold State.respond; split <;> simp
@[simp] theorem State.respond_boot (r : Resp) : (s.respond r).boot = s.boot := by
  unfold State.respond; split <;> simp
@[simp] theorem State.respond_dict (r : Resp) : (s.respond r).dict = s.dict := by
  unfold State.respond; split <;> simp
@[simp] theorem State.respond_speed (r : Resp) : (s.respond r).speed = s.speed := by
  unfold State.respond; split <;> simp
@[simp] theorem State.respond_regs (r : Resp) : (s.respond r).regs = s.regs := by
  unfold State.respond; split <;> simp
@[simp] theorem State.respond_tiles (r : Resp) : (s.respond r).tiles = s.tiles := by
  unfold State.respond; split <;> simp
@[simp] theorem State.respond_cells (r : Resp) : (s.respond r).cells = s.cells := by
  unfold State.respond; split <;> simp
@[simp] theorem State.respond_shadow (r : Resp) : (s.respond r).shadow = s.shadow := by
  unfold State.respond; split <;> simp
@[simp] theorem State.respond_swr (r : Resp) : (s.respond r).swr = s.swr := by
  unfold State.respond; split <;> simp
@[simp] theorem State.respond_cores (r : Resp) : (s.respond r).cores = s.cores := by
  unfold State.respond; split <;> simp
@[simp] theorem State.respond_chains (r : Resp) : (s.respond r).chains = s.chains := by
  unfold State.respond; split <;> simp
@[simp] theorem State.respond_buf (r : Resp) : (s.respond r).buf = s.buf := by
  unfold State.respond; split <;> simp
@[simp] theorem State.respond_stg (r : Resp) : (s.respond r).stg = s.stg := by
  unfold State.respond; split <;> simp
@[simp] theorem State.respond_spine (r : Resp) : (s.respond r).spine = s.spine := by
  unfold State.respond; split <;> simp
@[simp] theorem State.respond_ops (r : Resp) : (s.respond r).ops = s.ops := by
  unfold State.respond; split <;> simp
@[simp] theorem State.respond_slips (r : Resp) : (s.respond r).slips = s.slips := by
  unfold State.respond; split <;> simp
@[simp] theorem State.respond_regions (r : Resp) : (s.respond r).regions = s.regions := by
  unfold State.respond; split <;> simp
@[simp] theorem State.respond_drq (r : Resp) : (s.respond r).drq = s.drq := by
  unfold State.respond; split <;> simp
@[simp] theorem State.respond_groups (r : Resp) : (s.respond r).groups = s.groups := by
  unfold State.respond; split <;> simp
@[simp] theorem State.respond_ranges (r : Resp) : (s.respond r).ranges = s.ranges := by
  unfold State.respond; split <;> simp
@[simp] theorem State.respond_jobs (r : Resp) : (s.respond r).jobs = s.jobs := by
  unfold State.respond; split <;> simp
@[simp] theorem State.respond_nextJob (r : Resp) : (s.respond r).nextJob = s.nextJob := by
  unfold State.respond; split <;> simp
@[simp] theorem State.respond_loop (r : Resp) : (s.respond r).loop = s.loop := by
  unfold State.respond; split <;> simp
@[simp] theorem State.respond_pwr (r : Resp) : (s.respond r).pwr = s.pwr := by
  unfold State.respond; split <;> simp
@[simp] theorem State.respond_ports (r : Resp) : (s.respond r).ports = s.ports := by
  unfold State.respond; split <;> simp
@[simp] theorem State.respond_con (r : Resp) : (s.respond r).con = s.con := by
  unfold State.respond; split <;> simp
@[simp] theorem State.respond_tru (r : Resp) : (s.respond r).tru = s.tru := by
  unfold State.respond; split <;> simp
@[simp] theorem State.respond_moves (r : Resp) : (s.respond r).moves = s.moves := by
  unfold State.respond; split <;> simp
@[simp] theorem State.respond_mg (r : Resp) : (s.respond r).mg = s.mg := by
  unfold State.respond; split <;> simp
@[simp] theorem State.respond_errs (r : Resp) : (s.respond r).errs = s.errs := by
  unfold State.respond; split <;> simp
@[simp] theorem State.respond_freeCtr (r : Resp) : (s.respond r).freeCtr = s.freeCtr := by
  unfold State.respond; split <;> simp

/-! ### Reads after writes -/

variable {s}

/-- A register after a write of one. -/
theorem State.reg_setReg {k j : Nat} {r : LongReg} :
    (s.setReg k r).reg j = if j = k then r else s.reg j := sget_sset

/-- A quarter after a write of one. -/
theorem State.tileQ_setTile {k j : Nat} {q : TileQ} :
    (s.setTile k q).tileQ j = if j = k then q else s.tileQ j := sget_sset

/-- A core after a write of one. -/
theorem State.core_setCore {c j : Nat} {v : CoreSt} :
    (s.setCore c v).core j = if j = c then v else s.core j := sget_sset

/-- A port after a write of one. -/
theorem State.port_setPort {q j : Nat} {p : PortSt} :
    (s.setPort q p).port j = if j = q then p else s.port j := sget_sset

/-- A link after a write of one. -/
theorem State.link_setLink {c j : Nat} {l : LinkSt} :
    (s.setLink c l).link j = if j = c then l else s.link j := sget_sset

/-- A group slot after a write of one. -/
theorem State.group_setGroup {g j : Nat} {v : GroupSt} :
    (s.setGroup g v).group j = if j = g then v else s.group j := sget_sset

/-- A chain after a write of one. -/
theorem State.chain_setChain {c j : ChainId} {v : ChainSt} :
    (s.setChain c v).chain j = if chainKey j = chainKey c then v else s.chain j := sget_sset

/-- The stored values after an object takes one. -/
theorem State.setObj_vals {k v : Nat} : (s.setObj k v).dict.vals = sset (s.unset k) s.dict.vals k v := by
  unfold State.setObj State.notify
  simp only
  split
  · split <;> rfl
  · rfl

end Sys2Proof.Machine
end

