-- ==== Sys2Proof/Laws/Tree.lean ====
section
/-! SUPPORT. The two adders of a group tree together hold the exact sum of the group's finite terms, and the running sum of a column is
the exact sum of its terms modulo 2^576 (R37, R47, R48). -/

namespace Sys2Proof.Machine

/-- A lane holds what its two parts hold. -/
theorem laneSum_filter (b : Nat) (p : Term → Bool) (ts : List Term) :
    laneSum b ts = laneSum b (ts.filter p) + laneSum b (ts.filter (fun t => !p t)) := by
  unfold laneSum
  induction ts with
  | nil => simp
  | cons t r ih => by_cases h : p t <;> simp [h] <;> linarith

/-- A lane above whose lowest bit all its terms begin, in units of the register's lowest bit. -/
theorem laneSum_scaled {b : Nat} {ts : List Term} (h : ∀ t ∈ ts, b ≤ t.pos) :
    laneSum b ts * 2 ^ b = (ts.map Term.value).sum := by
  unfold laneSum
  induction ts with
  | nil => simp
  | cons t r ih =>
    have hb : b ≤ t.pos := h t (by simp)
    have hr := ih (fun x hx => h x (by simp [hx]))
    simp only [List.map_cons, List.sum_cons, add_mul, hr, Term.value]
    congr 1
    obtain ⟨k, hk⟩ := Nat.exists_eq_add_of_le hb
    cases t.cls <;> simp [hk, signed, pow_add]
    split <;> ring

/-- The main window's limbs and guard hold its whole sum. -/
theorem window_guard (m : Int) : m / 2 ^ 320 * 2 ^ 320 + ((BitVec.ofInt 320 m).toNat : Int) = m := by
  have h : ((BitVec.ofInt 320 m).toNat : Int) = m % 2 ^ 320 := by
    rw [BitVec.toNat_ofInt]
    exact Int.toNat_of_nonneg (Int.emod_nonneg _ (by norm_num))
  rw [h]
  have := Int.mul_ediv_add_emod m (2 ^ 320)
  linarith

/-- The merged sum of a group whose window begins no higher than limb 4, as every anchor of the register's nine limbs leaves it, is the exact
sum of the group's finite terms (R47, R48). -/
theorem merged_exact {ts : List Term} (h : windowLo ts ≤ 4) : (groupSum ts).merged = (ts.map Term.value).sum := by
  have h0 : windowLo ts - 4 = 0 := by omega
  have hs : laneSum 0 (ts.filter (fun t => !inMain (windowLo ts) t)) =
      ((ts.filter (fun t => !inMain (windowLo ts) t)).map Term.value).sum := by
    have := laneSum_scaled (b := 0) (ts := ts.filter (fun t => !inMain (windowLo ts) t)) (by simp)
    simpa using this
  have hm := laneSum_scaled (b := 64 * windowLo ts) (ts := ts.filter (inMain (windowLo ts)))
    (fun t ht => by simpa [inMain] using (List.mem_filter.mp ht).2)
  have hsum : (ts.map Term.value).sum = ((ts.filter (inMain (windowLo ts))).map Term.value).sum +
      ((ts.filter (fun t => !inMain (windowLo ts) t)).map Term.value).sum := by
    have a := laneSum_filter 0 (inMain (windowLo ts)) ts
    have e : ∀ l : List Term, laneSum 0 l = (l.map Term.value).sum := fun l => by
      simpa using laneSum_scaled (b := 0) (ts := l) (by simp)
    simpa only [e] using a
  unfold GroupSum.merged groupSum
  simp only [h0, Nat.mul_zero, pow_zero, mul_one, window_guard, hm, hs, hsum]

/-- The running sum takes the exact sum of a group's finite terms modulo 2^576 (R44, R47, R48). -/
theorem RunSum.enterGroup_n {r : RunSum} {ts : List Term} (h : windowLo ts ≤ 4) :
    (r.enterGroup ts).n = r.n + BitVec.ofInt 576 (ts.map Term.value).sum := by
  unfold RunSum.enterGroup
  simp only [merged_exact h]

end Sys2Proof.Machine
end

