-- ==== Sys2Proof/Tests/Slice0.lean ====
section
/-! SUPPORT. Small tests: ill-formed commands that the check refuses, worked examples of the spec, and for every statement with
hypotheses a concrete state and operands that meet them together. Each test is one command on a small state. -/

namespace Sys2Proof.Tests

open Sys2Proof.Machine

-- Declarations one after the other: each elaborating thread takes a large stack.
set_option Elab.async false

/-! ### Helpers -/

/-- The next state of an outcome, if it is one. -/
def nextOf : Host.Outcome State Fault Refusal → Option State
  | .next t => some t
  | _ => none

/-- A port that is up, with credits. -/
def portUp : PortSt := { PortSt.zero with st := 2, liveI := true, liveO := true, agreed := 0x101, pool := 256, cr := 200 }

/-- A port that exchanges. -/
def portEx : PortSt := { PortSt.zero with st := 1, liveI := true, liveO := true }

/-- The speed record of core 0: periods of 1 ps. -/
def speed0 : List W64 × List Nat := ([1152923716829986831, 13379137007544958976], [1, 1, 1, 1, 1, 1])

/-- A running block: some ports up, tenant 1 admitted with 2 MB of buffer, a snapshot area of 1 MB and core 0. -/
def on : State := { State.reset with
  pwrGood := true
  clk := ⟨1000, false, 0⟩
  boot := ⟨8, true, 0, 0, [], none, 0⟩
  speed := [(0, speed0)]
  adm := ⟨true, 8, [], [], [], 8, 1, 0⟩
  ports := [(0, portUp), (1, portUp), (17, portUp), (25, portUp), (26, portUp)]
  dict := { State.reset.dict with
    vals := [(key 0x3101 0, 1), (key 0x3101 5, 2 ^ 20), (key 0x3181 1, 2 ^ 21), (key 0x3200 0, 1)] } }

/-- A descriptor of version 1 and tenant 1. -/
def mk (op tag w1 w2 w3 w4 w5 w6 w7 : Nat) : Desc :=
  ⟨BitVec.ofNat 64 (2 ^ 60 + op * 2 ^ 52 + 2 ^ 48 + tag), BitVec.ofNat 64 w1, BitVec.ofNat 64 w2, BitVec.ofNat 64 w3,
    BitVec.ofNat 64 w4, BitVec.ofNat 64 w5, BitVec.ofNat 64 w6, BitVec.ofNat 64 w7⟩

/-- A request of the trusted monitor. -/
def tm (v : List Byte) : Req := ⟨.t, 0, 0, 0, 0, v⟩

/-- A write that a statement speaks of is met: the command writes an object, is well formed and served, and passes every check. -/
theorem writes_met {c : Instr} {s : State} {r : Req} {i sub : Nat} (h : Safety.objectOf c = some (r, i, sub)) (ht : r.role = .t)
    (hw : c.wf = true ∧ s.tranStatus (Safety.tranOf r i sub) = none) :
    ∃ (r : Req) (i sub : Nat), Safety.objectOf c = some (r, i, sub) ∧ c.wf = true ∧ Safety.served s r ∧
      s.tranStatus (Safety.tranOf r i sub) = none :=
  ⟨r, i, sub, h, hw.1, by simp [Safety.served, ht], hw.2⟩

/-! ### The block as a whole -/

/-- The operands of a running sum's fault, a chain and a requester are in range. -/
theorem test_wf_refuses_ill_formed_operands :
    ([.loadw (mk 0x02 0 0 0 0 0 0 0 0), .stream (mk 0x01 0 0 0 0 0 0 0 0), .preload (mk 0x04 0 0 0 0 0 0 0 0),
      .drain (mk 0x03 0 0 0 0 0 0 0 0), .scan (mk 0x06 0 0 0 0 0 0 0 0), .mpass (mk 0x05 0 0 0 0 0 0 0 0),
      .ownerXred (mk 0x08 0 0 0 0 0 0 0 0), .contribution (mk 0x08 0 0x10 0 0 0 0 0 0),
      .trimmedLongContribution (mk 0x08 0 0 0 0 0 0 0 0), .collection (mk 0x08 0 0 0 0 0 0 0 0), .retract (mk 0x08 0 0 0 0 0 0 0 0),
      .fenceOrder (mk 0x10 0 0x10 0 0 0 0 0 0), .fenceEpoch (mk 0x10 0 0 0 0 0 0 0 0), .fenceQuiesce (mk 0x10 0 0 0 0 0 0 0 0),
      .gate (mk 0x12 0 0 0 0 0 0 0 0), .commit (mk 0x11 0 0 0 0 0 0 0 0), .squash (mk 0x11 0 0 0 0 0 0 0 0),
      .save (mk 0x19 0 0 0 0 0 0 0 0), .restore (mk 0x18 0 0 0 0 0 0 0 0), .dictRead (mk 0x1C 0 0x10 0 0 0 0 0 0),
      .dictWrite (mk 0x1C 0 0 0 0 0 0 0 0), .ballast (mk 0x1C 0 0 0 0 0 0 0 0), .unlistedOpDescriptor (mk 0x1F 0 0 0 0 0 0 0 0),
      .shadowRowWrite ⟨64, 0, 0⟩ 0 0, .shadowRowWrite ⟨0, 16, 0⟩ 0 0, .shadowRowWrite ⟨0, 0, 3⟩ 0 0, .shadowRowWrite ⟨0, 0, 0⟩ 16 0,
      .shadowRowWrite ⟨0, 0, 0⟩ 0 32, .swapFront ⟨0, 0, 0⟩ 16 0, .swapFront ⟨0, 0, 0⟩ 0 8, .tokenPresent ⟨0, 0, 8⟩,
      .runningSumAdd ⟨0, 0, 0⟩ 32 0 none, .runningSumAdd ⟨0, 0, 0⟩ 0 2 none,
      .runningSumAdd ⟨0, 0, 0⟩ 0 0 (some ⟨0x014, 0, 0, 0, 1⟩), .localRetry ⟨64, 0, 0⟩, .drainRowConvert 0 0 0 [⟨32, .read, 1, false⟩],
      .spineSend ⟨0, []⟩ 8 0 0 0, .spineSend ⟨0, []⟩ 0 0 0 32, .spineReceive 64 0, .spineReceive 0 (2 ^ 640), .spineResend 64] : List Instr).all
      (fun c => !c.wf) = true := by decide +kernel

/-- Tenants, regions, cores, engines, ports, link words, frames and addresses are in range. -/
theorem test_wf_refuses_ill_formed_numbers :
    ([.snapshotTake 16 0 0 [], .snapshotTake 0 64 0 [], .snapshotTake 0 0 0 [⟨32, 0, 1, false⟩], .snapshotRestore 16 0 0 [],
      .snapshotRestore 0 0 0 [⟨0, 32, 1, false⟩], .commitTakesEffect 16 0, .regionTtlExpiry 0 64, .ballastToken ⟨64, 0, 0⟩ none, .ballastToken ⟨0, 0, 0⟩ (some (32, ⟨0x013, 0, 0, 0, 1⟩)),
      .ballastHoldExpiry 64, .excursion 64, .pendingMarginStep 64 (tm [1]), .marginStepInForce 64 (tm [1]),
      .pendingBypassMap 1024 (tm [1]), .bypassMapApply 1024, .tenantState 16 (tm [1]), .tenantRelease 16, .coreOwner 64 (tm [1]),
      .quadrantOwners 1024 (tm [1]), .bufferRange 16 0 (tm [1]), .bufferRange 0 16 (tm [1]), .coreMoveComplete 64,
      .coolingClass ⟨.m, 2 ^ 128, 0, 0, 0, [1]⟩, .powerCap ⟨.m, 0, 65536, 0, 0, [1]⟩, .deckPause ⟨.m, 0, 0, 2 ^ 32, 0, [1]⟩,
      .drainRequest ⟨.h, 0, 0, 0, 16, [1]⟩, .transferChunk (tm (List.replicate 257 0)), .flashCommit (2 ^ 24) true,
      .portReset 29 (tm [1]), .quarantineHoldExpiry 29, .liveRise 29, .liveLoss 29, .cap 26 (2 ^ 56), .cap 0 0, .capsel 0 (2 ^ 56),
      .down 0 (2 ^ 56), .beacon 0 (2 ^ 56), .exchangeTimeout 29, .racingFault 0 0 6, .silenceBoundExpiry 0 0 5, .creditBoundExpiry 29 0,
      .creditReturn 29 0 1, .memoryReadLines 0 0 [], .memoryReadLines 17 0 [], .memoryReadLines 1 65536 [],
      .data 16 ⟨0x11 * 2 ^ 56, 0, 0, 0, 0, 0, 0, 0, []⟩, .quarantine (.engine 1024), .quarantine (.drain 64), .offenceDecay (.link 64),
      .coreTestStart 64, .coreTestEnd 64 none] : List Instr).all (fun c => !c.wf) = true := by decide +kernel

/-- Commands in range are well formed. -/
theorem test_wf_accepts :
    ([.loadw (mk 0x01 0 0 0 0 0 0 0 0), .ownerXred (mk 0x08 0 0x10 0 0 0 0 0 0), .dictWrite (mk 0x1C 0 0x10 0 0 0 0 0 0),
      .shadowRowWrite ⟨63, 15, 7⟩ 15 31, .runningSumAdd ⟨0, 0, 0⟩ 31 1 (some ⟨0x013, 15, 31, 7, 1⟩), .portReset 28 (tm [1]),
      .cap 25 (2 ^ 56), .quarantine (.engine 1023), .memoryReadLines 16 65535 []] : List Instr).all (fun c => c.wf) = true := by
  decide +kernel

/-- The queue of the state after reset is empty. -/
theorem test_reset_idles : step State.reset = .next State.reset := rfl

/-- A good state with a step (Every_step_keeps_good_states). -/
theorem test_good_state_steps : Safety.good on = true ∧
    (nextOf (step { on with pending := [.siderealCounterAdvance] })).isSome = true := by decide +kernel

/-- A command with a next state (No_command_touches_queue_or_configuration). -/
theorem test_command_completes : (nextOf (exec .strobeLost on)).isSome = true := by decide +kernel

/-- The clauses of Only_the_strobe_advances_the_counter: a strobe edge, another command, a reset request, power, and the resets that
leave the counter. -/
theorem test_counter_clauses_met : on.clk.lost = false ∧ on.pwrGood = true ∧ State.reset.pwrGood = false ∧
    ofLe (tm [1]).value = 1 ∧ (nextOf (exec .strobeLost on)).isSome = true ∧ (nextOf (exec .warmReset on)).isSome = true ∧
    (nextOf (exec (.portReset 0 (tm [1])) on)).isSome = true ∧ (nextOf (exec (.quarantineHoldExpiry 0) on)).isSome = true ∧
    (nextOf (exec (.quarantine (.engine 0)) on)).isSome = true := by decide +kernel

/-- A cold reset request that passes every check. -/
theorem test_cold_reset_request_met : ∃ (r : Req) (i sub : Nat), Safety.objectOf (.coldResetRequest (tm [1])) = some (r, i, sub) ∧
    (Instr.coldResetRequest (tm [1])).wf = true ∧ Safety.served on r ∧ on.tranStatus (Safety.tranOf r i sub) = none :=
  writes_met rfl rfl (by decide +kernel)

/-- A command that names an absent unit, and one that names none. -/
theorem test_absent_and_present_units : Safety.absent on.conf (.bypassMapApply 512) = true ∧ Safety.absent on.conf (.bypassMapApply 511) = false := by
  decide +kernel

/-- The counter counts a strobe edge (R192). -/
theorem test_counter_counts : (nextOf (exec .siderealCounterAdvance on)).map (fun t => t.now) = some 1001 := by decide +kernel

/-! ### Descriptors -/

/-- GATE, COMMIT and SQUASH of region 5, and an epoch FENCE. -/
def dGate : Desc := mk 0x11 6 (5 * 2 ^ 26) 0 0 0 0 0 0
def dCommit : Desc := mk 0x12 7 (5 * 2 ^ 26) 0 0 0 0 0 0
def dSquash : Desc := mk 0x13 8 (5 * 2 ^ 26) 0 0 0 0 0 0
def dEpoch : Desc := mk 0x10 9 0x10 0 0 0 0 0 0
/-- A PRELOAD and a DRAIN of one row and one column of engine 0. -/
def dPre : Desc := mk 0x03 4 0 (2 ^ 32) (2 ^ 40) 0 0 0 0
def dDrain : Desc := mk 0x04 5 0 (2 ^ 32) (2 ^ 40) 0 0x2000 0 0
/-- A LOADW of one row and column, a rolling STREAM of one token of it, and its companion. -/
def dLoad : Desc := mk 0x01 1 (4 * 2 ^ 13) 1 (2 ^ 40) 0 0 0x1000 (2 ^ 40)
def dRoll : Desc := mk 0x02 2 (4 * 2 ^ 13) (2 ^ 32 + 1) (2 ^ 40) 0 0 0 (2 ^ 40)
def dComp : Desc := mk 0x04 3 0 (2 ^ 32) (2 ^ 40) 0 0x2000 0 0
/-- A K sweep of two blocks on one chain, one that takes an alternative, the same with a WREQ of one step, and an alternative in EL8. -/
def dSweep : Desc := mk 0x02 2 (4 * 2 ^ 13) (2 ^ 32 + 33) (2 ^ 40) 0 0 0x1000 (2 ^ 40)
def dAlt : Desc := mk 0x02 2 (4 * 2 ^ 13 + 2 ^ 23) (2 ^ 32 + 33) (2 ^ 40) 0 0 0x1000 (2 ^ 40)
def dAltTight : Desc := mk 0x02 2 (2 ^ 32 + 4 * 2 ^ 13 + 2 ^ 23) (2 ^ 32 + 33) (2 ^ 40) 0 0 0x1000 (2 ^ 40)
def dForm : Desc := mk 0x02 2 (4 * 2 ^ 13 + 2 ^ 22 + 2 ^ 16) (2 ^ 32 + 33) (2 ^ 40) 0 0 0x1000 (2 ^ 40)

/-- Region 5 of tenant 1, open. -/
def region5 : Region := ⟨1, 5, 0, 0, 900, none, false, false, [], [], [], []⟩

/-- The chain of engine 0 of core 0, alone in its arrangement. -/
def ch0 : ChainId := ⟨0, 0, 0⟩

/-- Core 0 in sixteen chains, with a weight set in force on its first. -/
def loaded : State := { on with cores := [(0, ⟨4, []⟩)], chains := [(chainKey ch0, { ChainSt.zero with ws := some ⟨⟨0, 0⟩, 0, 1, 1, 0⟩ })] }

/-- A state that holds a descriptor. -/
def holding (s : State) (d : Desc) : State := { s with adm := { s.adm with held := [d] } }

/-- What the statements on descriptors that stand alone assume. -/
def arrivesAlone (s : State) (c : Instr) (d : Desc) (k : OpK) : Bool :=
  decide (Safety.descOf c = some d ∧ c.wf = true ∧ kindOf d = some k ∧ Safety.canArrive s = true ∧ s.adm.held = [] ∧
    Safety.alone d = true ∧ (Safety.spend s).check ⟨k, d, none⟩ = none) &&
    (match (Safety.spend s).plan k d false none none 0 with
    | some p => (Safety.spend s).windowOk d p.window
    | none => false)

/-- Refused_descriptor_changes_nothing: a GATE of version 2, with a response credit and without. -/
theorem test_refused_descriptor_met : Safety.descOf (.gate { dGate with w0 := dGate.w0 + 2 ^ 60 }) = some { dGate with w0 := dGate.w0 + 2 ^ 60 } ∧
    (Instr.gate { dGate with w0 := dGate.w0 + 2 ^ 60 }).wf = true ∧ Safety.canArrive on = true ∧ on.adm.held = [] ∧
    (on.early { dGate with w0 := dGate.w0 + 2 ^ 60 }).isSome = true := by decide +kernel

/-- Unlisted_op_is_refused_with_opcode. -/
theorem test_unlisted_op_met : kindOf (mk 0x3F 1 0 0 0 0 0 0 0) = none ∧ Safety.canArrive on = true ∧ on.adm.held = [] ∧ on.adm.openA = true ∧
    on.quiescing (mk 0x3F 1 0 0 0 0 0 0 0).tenant = false ∧ (mk 0x3F 1 0 0 0 0 0 0 0).ver = 1 ∧ on.adm.respQ = [] ∧ on.adm.respCr ≠ 0 := by
  decide +kernel

/-- Admissible_op_is_accepted. -/
theorem test_preload_admissible : arrivesAlone on (.preload dPre) dPre .preload = true := by decide +kernel
theorem test_load_admissible : arrivesAlone on (.loadw dLoad) dLoad .loadw = true := by decide +kernel
theorem test_sweep_admissible : arrivesAlone on (.stream dSweep) dSweep .stream = true := by decide +kernel

/-- Region_and_fence_ops_act_at_acceptance, each clause. -/
theorem test_gate_admissible : arrivesAlone on (.gate dGate) dGate .gate = true := by decide +kernel
theorem test_commit_admissible : arrivesAlone { on with regions := [region5] } (.commit dCommit) dCommit .commit = true := by decide +kernel
theorem test_squash_admissible : arrivesAlone { on with regions := [region5] } (.squash dSquash) dSquash .squash = true := by decide +kernel
theorem test_epoch_fence_admissible : arrivesAlone on (.fenceEpoch dEpoch) dEpoch .fenceEpoch = true ∧ on.fenceLive dEpoch = true := by
  decide +kernel

/-- Descriptor_with_partners_is_held: an alternative to come, and a companion to come. -/
theorem test_partners_to_come_met : Safety.descOf (.stream dAlt) = some dAlt ∧ (Instr.stream dAlt).wf = true ∧ Safety.canArrive on = true ∧
    on.adm.held = [] ∧ on.early dAlt = none ∧ dAlt.altf = false ∧ takesAlt dAlt = true ∧
    (Instr.stream dRoll).wf = true ∧ loaded.early dRoll = none ∧ dRoll.altf = false ∧ companions dRoll = 1 := by decide +kernel

/-- Alternative_form_is_chosen_by_window: the primary form, and the alternative where the primary's WREQ is too small. -/
theorem test_primary_form_met : Safety.descOf (.stream dForm) = some dForm ∧ (Instr.stream dForm).wf = true ∧
    Safety.canArrive (holding on dAlt) = true ∧ takesAlt dAlt = true ∧ companions dAlt = 0 ∧
    altPairs dAlt dForm = true ∧ kindOf dAlt = some .stream ∧
    (Safety.spend (holding on dAlt)).unhold.formReason .stream dAlt (some dForm) = none ∧
    ((Safety.spend (holding on dAlt)).unhold.plan .stream dAlt false none none 0).any
      (fun p => (Safety.spend (holding on dAlt)).unhold.windowOk dAlt p.window) = true := by decide +kernel
theorem test_alternative_form_met : takesAlt dAltTight = true ∧ companions dAltTight = 0 ∧ altPairs dAltTight dForm = true ∧
    (Safety.spend (holding on dAltTight)).unhold.formReason .stream dAltTight (some dForm) = none ∧
    (Safety.spend (holding on dAltTight)).unhold.planOk dAltTight
      ((Safety.spend (holding on dAltTight)).unhold.plan .stream dAltTight false none none 0) = false ∧
    ((Safety.spend (holding on dAltTight)).unhold.plan .stream dForm true none none 0).any
      (fun p => (Safety.spend (holding on dAltTight)).unhold.windowOk dForm p.window) = true := by
  decide +kernel

/-- Rolling_op_enters_with_its_companion. -/
theorem test_rolling_group_met : kindOf dComp = some .drain ∧ Safety.canArrive (holding loaded dRoll) = true ∧ takesAlt dRoll = false ∧
    companions dRoll = 1 ∧ isCompanion dRoll dComp 0 = true ∧ kindOf dRoll = some .stream ∧
    (Safety.spend (holding loaded dRoll)).unhold.check ⟨.stream, dRoll, none⟩ = none ∧
    ((Safety.spend (holding loaded dRoll)).unhold.trial .stream dRoll none none).check ⟨.drain, dComp, some dRoll⟩ = none ∧
    ((Safety.spend (holding loaded dRoll)).unhold.plan .stream dRoll false none none (compBytes dRoll dComp)).any (fun p =>
      (Safety.spend (holding loaded dRoll)).unhold.windowOk dRoll p.window &&
        (p.after.plan .drain dComp false (some (holding loaded dRoll).adm.nextId) (some dRoll) 0).any (fun q =>
          (Safety.spend (holding loaded dRoll)).unhold.windowOk dComp q.window)) = true := by decide +kernel

/-! ### Responses, starts and the engine array -/

/-- The ops of these tests: a LOADW, a rolling STREAM of its set, a PRELOAD and a DRAIN, started. -/
def opLoad : Op := { loaded.newOp .loadw dLoad false none none with id := 0, started := true }
def opRoll : Op := { loaded.newOp .stream dRoll false none none with id := 0, started := true, wl := [some ⟨0, 0⟩] }
def opPre : Op := { on.newOp .preload dPre false none none with id := 0, started := true }
def opDrain : Op := { on.newOp .drain dDrain false none none with id := 0, started := true }

/-- A block whose one op is the LOADW, before its row is written and before its front has swapped. -/
def loading : State := { on with cores := [(0, ⟨4, []⟩)], ops := [opLoad] }
def swapping : State := { loading with
  ops := [{ opLoad with loads := [1] }, { opRoll with id := 1 }]
  chains := [(chainKey ch0, { ChainSt.zero with pend := some ⟨⟨0, 0⟩, [0], [0], 1, []⟩ })] }

/-- A block whose rolling STREAM may present its token, one with the token in flight, and one with a token held. -/
def presenting : State := { loaded with
  ops := [opRoll]
  chains := [(chainKey ch0, { ChainSt.zero with cur := some ⟨0, 0⟩ })]
  pwr := { on.pwr with im := 10 ^ 10, fLevel := 10 ^ 12 } }
def tok0 : Tok := ⟨0, 0, [Cell.make 0x4004 false], [[⟨0x4015, false⟩]], []⟩
def summing : State := { presenting with
  ops := [{ opRoll with pres := [1] }]
  chains := [(chainKey ch0, { ChainSt.zero with cur := some ⟨0, 0⟩, fly := [tok0] })] }
def holdingToken : State := { presenting with
  chains := [(chainKey ch0, { ChainSt.zero with cur := some ⟨0, 0⟩, held := [tok0] })] }

/-- Response_credit_sends_queued_records. -/
theorem test_response_credit_met : on.up 0 = true ∧ on.adm.wait = [] := by decide +kernel

/-- Op_start_starts_and_arranges. -/
theorem test_op_start_met : ({ on with ops := [{ opPre with started := false }] } : State).op? 0 = some { opPre with started := false } ∧
    ({ on with ops := [{ opPre with started := false }] } : State).canStart { opPre with started := false } = true ∧
    ({ loading with ops := [{ opLoad with started := false }] } : State).canStart { opLoad with started := false } = true := by decide +kernel

/-- Shadow_row_write_loads_one_row. -/
theorem test_shadow_row_met : loading.shadowTarget ch0 0 0 = some (opLoad, 0, false, ⟨⟨0, 0⟩, [], [0], 1, []⟩) ∧
    loading.weightRow opLoad 0 0 (chainRow ch0 0 0) 1 = some [⟨0, false⟩] ∧ 1 ≤ loading.width ⟨chainEng ch0 0, 0⟩ := by decide +kernel

/-- Swap_front_copies_one_stage. -/
theorem test_swap_front_met : swapping.swapLoad ch0 = some ⟨⟨0, 0⟩, [0], [0], 1, []⟩ ∧ 0 < swapping.chainDepth ch0 ∧ 0 < stagesOf ch0 ∧
    ([] : List Nat).elem (0 * 8 + 0) = false ∧ (blockRows ch0 0 0).all (fun r => !([0] : List Nat).elem r || ([0] : List Nat).elem r) = true ∧
    swapping.olderTokens ch0 ⟨0, 0⟩ = false ∧ swapping.loadUsed ch0 ⟨0, 0⟩ = true := by decide +kernel

/-- Token_enters_its_chain. -/
theorem test_token_met : presenting.presentable ch0 = some (opRoll, 0, 0) ∧
    presenting.tokenLanes opRoll 0 0 = some [.zero] := by decide +kernel

/-- Running_sum_enters_its_register, for a sum and for a candidate. -/
theorem test_running_sum_met : summing.addable ch0 0 0 = some ({ opRoll with pres := [1] }, 0, tok0, 0) ∧
    summing.sumFails { opRoll with pres := [1] } ch0 0 tok0 0 0 none 0 = none := by decide +kernel

/-- The example of spec/01 R25 and spec/02 R56: 0x4004 × 0x4015 is 37,518 × 2^256, with residues 86 and 33. -/
theorem test_running_sum_adds : (nextOf (exec (.runningSumAdd ch0 0 0 none) summing)).map (fun t =>
    ((t.reg 0).n, (t.reg 0).r127.toNat, (t.reg 0).r255.toNat)) = some (BitVec.ofNat 576 (37518 * 2 ^ 256), 86, 33) := by decide +kernel

/-- The example of spec/01 R25: 0xF000 × 0x7000 is −2^192, 2^463 least significant bits. -/
theorem test_product_above_range : (Incoming.ofTerm (product 0xF000 0x7000 false)).v = -(2 ^ 463) := by decide +kernel

/-- Failing_sum_is_held_for_retry. -/
theorem test_failing_sum_met : ch0.wf = true ∧ (SumFault.mk 0x013 0 0 0 1).wf = true ∧
    summing.addable ch0 0 0 = some ({ opRoll with pres := [1] }, 0, tok0, 0) ∧
    faultSeen ({ opRoll with pres := [1] } : Op).d ⟨0x013, 0, 0, 0, 1⟩ = true ∧ ({ opRoll with pres := [1] } : Op).retried = false ∧
    summing.coreHealth (coreOf (summing.sumFault (tokCtx { opRoll with pres := [1] } 0 tok0 0 0) ch0 0 ⟨0x013, 0, 0, 0, 1⟩ 0).eng) ≠ 2 := by decide +kernel

/-- Local_retry_presents_held_tokens_again. -/
theorem test_local_retry_met : (holdingToken.chain ch0).held = [tok0] ∧
    holdingToken.mayEnter ch0.core (tok0.cells (holdingToken.tokCols ch0 tok0)) = true ∧
    ({ holdingToken with pwr := on.pwr } : State).mayEnter ch0.core (tok0.cells (holdingToken.tokCols ch0 tok0)) = false := by decide +kernel

/-! ### Rows, the spine, regions and deliveries -/

/-- A DRAIN and a PRELOAD that have started. -/
def draining : State := { on with ops := [opDrain], regs := [(0, LongReg.ofVal 5 false false false false)] }
def preloading : State := { on with ops := [opPre] }

/-- A spine set of two cores: a STREAM of two K blocks, one on each core, its sums added. -/
def dSpine : Desc := mk 0x02 2 (4 * 2 ^ 13) (2 ^ 32 + 33) (2 ^ 40) 0 0 0x1000 (2 ^ 40 + 2 ^ 37 + 32)
def opSpine : Op := { on.newOp .stream dSpine false none none with id := 0, started := true, pres := [1, 1], added := [1, 1] }
def reg5 : LongReg := LongReg.ofVal 5 false false false false
def spining : State := { on with cores := [(0, ⟨4, []⟩), (1, ⟨4, []⟩)], ops := [opSpine], regs := [(0, reg5)] }
/-- The trimmed long of that register, sent on the link of core 0, and the block with it on the wire. -/
def msg5 : SpineMsg := ⟨0, 0, 0, 0, 0, trim reg5 1, false⟩
def onWire (m : SpineMsg) : State := { spining with regs := [], spine := [(0, ⟨[m], [m], false⟩)] }

/-- Region 5 with a snapshot to be taken of the NW quarter of engine 0's tile, which has one column, and squashed with it taken. -/
def snap0 : Snap := ⟨32, 0, 0, 81984, [1], [.sums], false, false⟩
def snapping (n : Snap) : State :=
  { on.setObj (key 0x8000 1) 0x7FFFFFFE with regions := [{ region5 with snaps := [n] }], regs := [(0, reg5)] }
def restoring (n : Snap) : State :=
  let t := (nextOf (exec (.snapshotTake 1 5 32 []) (snapping n))).getD on
  { t with regions := t.regions.map (fun g => { g with closing := true, squash := true }) }
/-- The registers that the snapshot holds, and the snapshot as it is once taken. -/
def restored (n : Snap) : List LongReg := ((snapping n).tilePlaces ⟨0, 4⟩).map (fun p => if n.clear then .zero else (snapping n).reg p.2.2)
def taken (n : Snap) : Snap := (((restoring n).region? 1 5).bind (fun g => g.snapOf 32)).getD n
def opCommit : Op := { on.newOp .commit dCommit false none none with id := 0, started := true }
def committing (vs : List Nat) : State := { on with ops := [opCommit], regions := [{ region5 with closing := true, closer := some 0, verdicts := vs }] }

/-- Drain_row_is_converted_and_written. -/
theorem test_drain_row_met : draining.op? 0 = some opDrain ∧ draining.partOf opDrain 0 0 = some (0, ⟨⟨0, 0⟩, 0, 1, 0, 1⟩, 0) ∧
    draining.drainReady opDrain 0 ⟨⟨0, 0⟩, 0, 1, 0, 1⟩ 0 = true ∧
    draining.fusionRow opDrain 0 ⟨⟨0, 0⟩, 0, 1, 0, 1⟩ 0 = some [⟨0, 0, false⟩] ∧
    (∀ k ∈ draining.partKeys ⟨⟨0, 0⟩, 0, 1, 0, 1⟩ 0, (draining.reg k).checks = true) ∧
    refMem dDrain.w5 = false ∧ refMem dDrain.w6 = false := by decide +kernel

/-- Preload_row_overwrites_its_registers. -/
theorem test_preload_row_met : preloading.op? 0 = some opPre ∧ preloading.partOf opPre 0 0 = some (0, ⟨⟨0, 0⟩, 0, 1, 0, 1⟩, 0) ∧
    preloading.preloadReady opPre 0 ⟨⟨0, 0⟩, 0, 1, 0, 1⟩ 0 = true ∧
    preloading.preloadRow opPre 0 ⟨⟨0, 0⟩, 0, 1, 0, 1⟩ 0 = some [⟨0, false, false, false, false⟩] ∧ 1 ≤ preloading.width ⟨0, 0⟩ := by
  decide +kernel

/-- Spine_send_moves_one_register. -/
theorem test_spine_send_met : spining.op? 0 = some opSpine ∧ opSpine.chains[0 * opSpine.d.nchain + 0]? = some ch0 ∧
    spining.spineReg opSpine 0 0 0 0 = some (0, ⟨⟨0, 0⟩, 0⟩) ∧ (spining.reg 0).checks = true ∧ 0 < opSpine.d.spinen ∧
    0 < opSpine.d.nchain ∧ 0 < opSpine.d.m ∧ 0 < spining.opCols opSpine ch0 0 ∧ opSpine.stopped = false ∧
    opSpine.rows.elem (spineKey 0 0 0 0 false) = false ∧ sumsIn opSpine 0 0 = true ∧ spineOrder opSpine 0 0 0 0 1 = true ∧
    linkFlits (spining.link 0) + msgFlits ⟨0, 0, 0, 0, 0, trim (spining.reg 0) (spining.boundOf opSpine (quarterOfReg 0)), false⟩ ≤ 64 ∧
    spining.rowOpen opSpine ⟨⟨0, 0⟩, 0⟩ = true := by decide +kernel

/-- Spine_receive_adds_or_has_it_sent_again: a good trimmed long, a bad one, one that is bad again, and a resend that is owed. -/
theorem test_spine_receive_met : ((onWire msg5).link 0).wire = [msg5] ∧ ((onWire msg5).link 0).resend = false ∧
    (onWire msg5).op? 0 = some opSpine ∧ opSpine.ending ≠ some 6 ∧
    (onWire msg5).spineReg opSpine 1 0 0 0 = some (16384, ⟨⟨16, 0⟩, 0⟩) ∧ (onWire msg5).rowOpen opSpine ⟨⟨16, 0⟩, 0⟩ = true ∧
    (untrim (flipWords msg5.words 0)).map (fun x => x.checks) = some true ∧
    (untrim (flipWords msg5.words 0)).map (fun x => (((onWire msg5).reg 16384).add x.reg.incoming).checks) = some true ∧
    (untrim (flipWords msg5.words (2 ^ 64))).map (fun x => x.checks) = some false := by decide +kernel
/-- A register whose residues do not fit its N: the new N fails its check. -/
theorem test_spine_receive_bad_add_met :
    (untrim (flipWords msg5.words 0)).map (fun x => (({ LongReg.zero with r127 := 1 } : LongReg).add x.reg.incoming).checks) = some false ∧
    (onWire msg5).coreHealth (coreOf (regTile opSpine 16384).n) ≠ 2 := by decide +kernel
theorem test_spine_receive_again_met : ((onWire { msg5 with resent := true }).link 0).wire = [{ msg5 with resent := true }] ∧
    (onWire { msg5 with resent := true }).rowOpen opSpine ⟨⟨16, 0⟩, 0⟩ = true ∧
    (onWire { msg5 with resent := true }).spineReg opSpine 1 0 0 0 = some (16384, ⟨⟨16, 0⟩, 0⟩) ∧
    (untrim (flipWords msg5.words (2 ^ 64))).map (fun x => x.checks) = some false := by decide +kernel
theorem test_spine_resend_met : (({ spining with spine := [(0, ⟨[msg5], [], true⟩)] } : State).link 0).buf = [msg5] ∧
    (({ spining with spine := [(0, ⟨[msg5], [], true⟩)] } : State).link 0).resend = true := by decide +kernel

/-- The example of spec/02 R56: N = −1 has the trimmed long of one limb; here N = 5 has header and limb (R54, R55). -/
theorem test_trimmed_long_round_trip : (untrim (trim reg5 1)).map (fun x => (x.reg, x.checks)) = some (reg5, true) := by decide +kernel

/-- Snapshot_take_keeps_the_registers. -/
theorem test_snapshot_take_met : (snapping snap0).region? 1 5 = some { region5 with snaps := [snap0] } ∧
    ({ region5 with snaps := [snap0] } : Region).snapOf 32 = some snap0 ∧ (snapping snap0).snapReady snap0 = true ∧
    ∀ p ∈ (snapping snap0).tilePlaces ⟨0, 4⟩, ((snapping snap0).reg p.2.2).checks = true := by decide +kernel

/-- Snapshot_restore_gives_back_the_tile: of a tile with values, and of one whose term bounds are 0. -/
def restoreMet (n : Snap) : Bool :=
  (taken n).taken && (taken n).clear == n.clear && ((restoring n).region? 1 5).any (fun g => g.squash && g.snapOf 32 == some (taken n)) &&
    (restoring n).regionLanded 1 5 && !(restoring n).withdrawing 1 5 (taken n) && (restored n).length == ((restoring n).tilePlaces ⟨0, 4⟩).length &&
    (restored n).all (fun r => if n.clear then r == .zero else r.checks)
theorem test_snapshot_restore_met : restoreMet snap0 = true ∧ snap0.clear = false := by decide +kernel
theorem test_snapshot_restore_words_met :
    (restoring snap0).bufWords ((taken snap0).at_ + 64) (((taken snap0).bytes - 64) / 8) =
      (((restoring snap0).tilePlaces ⟨0, 4⟩).zip (restored snap0)).flatMap
        (fun e => (trim e.2 ((taken snap0).boundAt e.1.2.2)).map (fun w => (w, false))) := by decide +kernel
theorem test_snapshot_restore_clear_met : restoreMet { snap0 with tb := [0] } = true ∧ ({ snap0 with tb := [0] } : Snap).clear = true := by
  decide +kernel

/-- Commit_takes_effect_or_squashes: with no verdict that fails, and with one. -/
theorem test_commit_met : Safety.good (committing [0]) = true ∧ (committing [0]).region? 1 5 =
      some { region5 with closing := true, closer := some 0, verdicts := [0] } ∧ (committing [0]).op? 0 = some opCommit ∧
    opCommit.k = .commit ∧ (committing [0]).regionOps 1 5 = [] ∧
    (committing [0]).ops.any (fun p => p.k == .reroll && inRegion 1 5 p) = false ∧ [0].all (fun v => v == 0) = true ∧
    (committing [0]).adm.mute ≤ opCommit.id := by decide +kernel
theorem test_commit_after_failing_verdict_met : Safety.good (committing [1]) = true ∧ (committing [1]).region? 1 5 =
      some { region5 with closing := true, closer := some 0, verdicts := [1] } ∧ (committing [1]).op? 0 = some opCommit ∧
    (committing [1]).regionOps 1 5 = [] ∧ (committing [1]).ops.any (fun p => p.k == .reroll && inRegion 1 5 p) = false ∧
    [1].any (fun v => v != 0) = true := by decide +kernel

/-- Region_expires_by_its_ttl. -/
theorem test_region_ttl_met : ({ on with regions := [{ region5 with ttl := 100 }] } : State).region? 1 5 = some { region5 with ttl := 100 } ∧
    ({ region5 with ttl := 100 } : Region).closing = false ∧ ({ region5 with ttl := 100 } : Region).cGate + 100 ≤ on.now := by decide +kernel

/-- A provisional K sweep of region 5 and its reroll on engine 1, every sum of both added. -/
def dProv : Desc := mk 0x02 2 (5 * 2 ^ 26 + 2 ^ 25 + 4 * 2 ^ 13) (2 ^ 32 + 33) (2 ^ 40) 0 0 0x1000 (2 ^ 40)
def opProv : Op := { on.newOp .stream dProv false none none with id := 0, started := true, pres := [2], added := [2], loads := [2] }
def opReroll : Op := { opProv with id := 1, k := .reroll, rolled := some 0, rd := some dProv, chains := [⟨0, 1, 0⟩] }
def rerolling : State := { on with ops := [opProv, opReroll], regions := [region5], regs := [(0, reg5), (1024, reg5)] }

/-- Reroll_verdict_compares_the_registers. -/
theorem test_reroll_verdict_met : rerolling.ops.find? (fun r => r.k == .reroll && r.rolled == some 0) = some opReroll ∧
    opReroll.rd = some dProv ∧ rerolling.op? 0 = some opProv ∧ opReroll.started = true ∧ opReroll.stopped = false ∧
    opReroll.chains.length = 1 ∧ opProv.chains.length = 1 ∧ tokTotal opReroll 0 ≤ opReroll.added.getD 0 0 ∧
    tokTotal opProv 0 ≤ opProv.added.getD 0 0 ∧ rerolling.rerollPairs opReroll dProv ≠ [] := by decide +kernel

/-- Complete_op_delivers_with_its_record: a LOADW whose row is loaded and swapped, and a fence with nothing before it. -/
def opFence : Op := { on.newOp .fenceOrder (mk 0x10 9 0 0 0 0 0 0 0) false none none with id := 0, started := true }
theorem test_delivery_met : ({ on with ops := [opFence] } : State).op? 0 = some opFence ∧ opFence.stopped = false ∧ opFence.started = true ∧
    ({ on with ops := [opFence] } : State).effectsDone opFence = true ∧ opFence.wout = 0 ∧ staysTagged opFence = false ∧ on.adm.mute ≤ 0 := by
  decide +kernel
theorem test_fence_delivers : (nextOf (exec (.opDelivery ⟨0, []⟩) { on with ops := [opFence] })).map (fun t => t.ops) = some [] := by decide +kernel

/-! ### The supply -/

/-- A change of the power state of the running block, and one of its objects. -/
def withPwr (f : Power → Power) : State := { on with pwr := f on.pwr }
def withObj (k v : Nat) : State := on.setObj k v

/-- Strobe_edge_meters_the_step. -/
theorem test_strobe_edge_met : on.clk.lost = false ∧ on.pwrGood = true := by decide +kernel

/-- Ballast_token_changes_the_draw_only: core 0 in a hold, with a token that passes and one that fails. -/
def ballasting : State := withPwr (fun p => { p with plan := [⟨0, 1000, 0, 5000, 255, 0⟩], im := 10 ^ 10, fLevel := 10 ^ 12 })
theorem test_ballast_token_met : ballasting.chainExists ch0 = true ∧ ballasting.chainLive ch0 = true ∧ ballasting.presentable ch0 = none ∧
    (ballasting.chain ch0).held = [] ∧     ballasting.pwr.lost = false ∧ (∀ e ∈ ballasting.cells, e.2.parityOk = true) ∧ ballasting.ballastLevel 0 = some 255 ∧
    ballasting.mayEnter 0 (ballasting.ballastCells ch0 255) = true ∧ (Instr.ballastToken ch0 (some (0, ⟨0x013, 0, 0, 0, 1⟩))).wf = true ∧
    ballasting.coreHealth (coreOf (ballasting.sumFault (ballasting.ballastCtx ch0 255 0) ch0 0 ⟨0x013, 0, 0, 0, 1⟩
      ((ballasting.regAt ⟨chainEng ch0 (ballasting.chainDepth ch0 - 1), 0⟩ 0 0).getD 0)).eng) ≠ 2 := by decide +kernel
/-- The draw after a hold may only taper: a core whose hold has ended. -/
def tapering : State := withPwr (fun p => { p with im := 10 ^ 10 })
theorem test_taper_token_met : tapering.chainExists ch0 = true ∧ tapering.chainLive ch0 = true ∧ tapering.presentable ch0 = none ∧
    (tapering.chain ch0).held = [] ∧ tapering.pwr.lost = false ∧ tapering.ballastLevel 0 = none ∧ tapering.tapers 0 (tapering.ballastCells ch0 255) = true := by decide +kernel

/-- Island_reports_are_kept_and_settle_a_change: a report in the band of envelope A (0.62 V) and one out of it. -/
theorem test_island_report_met : on.up 25 = true ∧ (0 : BitVec 6).toNat < on.conf.cores ∧ on.pwr.lost = false ∧ on.boot.step ≠ 2 ∧
    on.pwr.up = none ∧ on.pwr.granted = none ∧ on.pwr.ofs = [] ∧
    ¬((620 : BitVec 12).toNat + 20 < vArr on.pwr.env ∨ vArr on.pwr.env + 20 < (620 : BitVec 12).toNat ∨ tjMax on.pwr.env < (50 : BitVec 8).toNat) ∧
    (590 : BitVec 12).toNat + 20 < vArr on.pwr.env := by decide +kernel
/-- Every other island settled in envelope L, with the report of core 0 to come: for a step-up asked for, and one granted. -/
def settling : State := withPwr (fun p => { p with
  islands := (List.range 31).map (fun c => (c + 1, ⟨750, 40, 1, 1, 990, none, false⟩)), up := some (1, 900) })
def steppingDown : State := withPwr (fun p => { p with
  env := 2, islands := (List.range 31).map (fun c => (c + 1, ⟨750, 40, 1, 1, 990, none, false⟩)), granted := some 1 })
theorem test_settled_step_up_met : settling.up 25 = true ∧ settling.pwr.lost = false ∧ settling.boot.step ≠ 2 ∧ settling.pwr.ofs = [] ∧
    settling.pwr.up.map (fun u => u.1) = some 1 ∧ (∀ c, c < settling.conf.cores →
      (if c = 0 then 1 else (settling.island c).rail) = 1 ∧ (if c = 0 then 1 else (settling.island c).env) = 1 ∧
      (if c = 0 then 750 else (settling.island c).mv) ≠ 0 ∧
      vArr 1 + 10 * settling.obj (key (0x2100 + c) 7) ≤ (if c = 0 then 750 else (settling.island c).mv) + 20 ∧
      (if c = 0 then 750 else (settling.island c).mv) ≤ vArr 1 + 10 * settling.obj (key (0x2100 + c) 7) + 20 ∧
      (if c = 0 then 40 else (settling.island c).tj) ≤ tjMax 1) := by decide +kernel
theorem test_settled_step_down_met : steppingDown.up 25 = true ∧ steppingDown.pwr.lost = false ∧ steppingDown.pwr.ofs = [] ∧
    steppingDown.pwr.up = none ∧ steppingDown.pwr.granted = some 1 ∧ (∀ c, c < steppingDown.conf.cores →
      (if c = 0 then 1 else (steppingDown.island c).rail) = 1 ∧ (if c = 0 then 1 else (steppingDown.island c).env) = 1 ∧
      (if c = 0 then 750 else (steppingDown.island c).mv) ≠ 0) := by decide +kernel
/-- That report brings envelope L into effect (R341). -/
theorem test_step_up_in_force : (nextOf (exec (.vt 0 750 40 1 1) settling)).map (fun t => t.pwr.env) = some 1 := by decide +kernel

/-- Stage_steps_down_or_a_step_up_is_given_up: a STEPDN below the envelope, one forced in time, a DENY, a time-out, a denied offset. -/
theorem test_stepdn_met : (withPwr (fun p => { p with env := 2 })).up 25 = true ∧
    (0 : BitVec 2).toNat < (withPwr (fun p => { p with env := 2 })).envTarget := by decide +kernel
theorem test_forced_stepdn_met : ({ withPwr (fun p => { p with env := 2, pendEnv := some 1, firstReq := some 0 }) with
    clk := ⟨100000000, false, 0⟩ } : State).forceDue = true := by decide +kernel
theorem test_deny_met : settling.up 25 = true ∧ settling.pwr.up = some (1, 900) ∧
    900 + 100000000 ≤ ({ settling with clk := ⟨100000900, false, 0⟩ } : State).now := by decide +kernel
theorem test_denied_offset_met : (withPwr (fun p => { p with ofs := [(0, 1)] })).up 25 = true ∧
    (0, 1) ∈ (withPwr (fun p => { p with ofs := [(0, 1)] })).pwr.ofs ∧ (withPwr (fun p => { p with ofs := [(0, 1)] })).marginNow 0 < 15 := by
  decide +kernel

/-- Promise_floor_grants_what_it_admits: a pending margin step, a pending step-down, a pending cap. -/
theorem test_pending_margin_met : (withObj (key 0x2100 3) 5).pwr.pendEnv = none ∧ (withObj (key 0x2100 3) 5).pwr.pendCap = none ∧
    (withObj (key 0x2100 3) 5).obj (key 0x2100 1) < (withObj (key 0x2100 3) 5).obj (key 0x2100 3) ∧
    (withObj (key 0x2100 3) 5).withinFloor 0 = true ∧
    (∀ x, x < on.conf.cores → x ≠ 0 → (withObj (key 0x2100 3) 5).obj (key (0x2100 + x) 3) ≤ (withObj (key 0x2100 3) 5).obj (key (0x2100 + x) 1)) := by
  decide +kernel
theorem test_pending_step_down_met : (∀ x, x < on.conf.cores → on.obj (key (0x2100 + x) 3) ≤ on.obj (key (0x2100 + x) 1)) ∧
    (∀ c, c < on.conf.cores → (withPwr (fun p => { p with env := 2, pendEnv := some 1 })).withinFloor c = true) ∧
    (∀ c, c < on.conf.cores → (withPwr (fun p => { p with pendCap := some 100 })).withinFloor c = true) ∧
    (∀ c, c < on.conf.cores → (withPwr (fun p => { p with env := 2, pendEnv := some 1, pendCap := some 100 })).withinFloor c = true) ∧
    on.pwr.granted = none ∧ on.up 25 = true ∧ on.capW < 4096 := by decide +kernel

/-- Supply_events_have_their_effect, each clause. -/
theorem test_supply_events_met :
    (withPwr (fun p => { p with fcs := [⟨100, 0, 10⟩] })).pwr.fcs.find? (fun f => decide (f.sent + f.lead ≤ on.now)) = some ⟨100, 0, 10⟩ ∧
    (⟨0, 1000, 0, 900, 255, 0⟩ : PlanCore) ∈ (withPwr (fun p => { p with plan := [⟨0, 1000, 0, 900, 255, 0⟩] })).pwr.plan ∧ (withPwr (fun p => { p with plan := [⟨0, 1000, 0, 900, 255, 0⟩] })).holdOver ⟨0, 1000, 0, 900, 255, 0⟩ = true ∧ on.up 25 = true ∧
    ((withPwr (fun p => { p with islands := [(0, ⟨500, 40, 1, 0, 990, some 700, false⟩)] })).island 0).outSince = some 700 ∧ 700 + 200 < on.now ∧
    ((withPwr (fun p => { p with islands := [(0, ⟨500, 40, 1, 0, 990, some 700, false⟩)] })).island 0).exc = false ∧ 0 + 10000 ≤ ({ withPwr (fun p => { p with exc := true }) with clk := ⟨10000, false, 0⟩ } : State).now ∧
    on.clk.lost = false ∧ ({ on with clk := ⟨1000, true, 0⟩ } : State).boot.step ≠ 2 ∧ badWord on.conf (15 * 2 ^ 56) = true := by decide +kernel

/-! ### Commands that write one object -/

/-- Write_without_ok_changes_nothing: a cooling class of 9. -/
theorem test_refused_write_met : Safety.objectOf (.coolingClass (tm [9])) = some (tm [9], 0x2000, 0) ∧ Safety.served on (tm [9]) ∧
    (on.tran (Safety.tranOf (tm [9]) 0x2000 0)).2.1 ≠ 0 := by
  refine ⟨rfl, trivial, ?_⟩
  decide +kernel

/-- Each command that writes one object, with a request that passes every check up to its object's own rules. -/
theorem test_writes_met :
    ([.envelopeStepUpRequest (tm [1]), .envelopeStepDownRequest (tm [0]), .coolingClass (tm [2]), .powerCap (tm [100, 0]),
      .pendingMarginStep 0 (tm [9]), .marginStepInForce 0 (tm [0]), .pendingBypassMap 0 (tm [1, 0, 0, 0]), .tenantState 2 (tm [1]),
      .coreOwner 1 (tm [2]), .quadrantOwners 0 (tm [1, 255, 255, 255]), .bufferRange 1 1 (tm [0, 0, 16, 0]), .debugMode (tm [1]),
      .transferOpen (tm [64, 0, 0, 0, 0, 0, 0, 16]), .transferChunk (tm [0, 0, 0, 0, 0, 0, 0, 0, 7]), .transferVerify (tm [1]),
      .gfwActivate (tm [1]), .coldResetRequest (tm [1]), .warmResetRequest (tm [2]), .portReset 17 (tm [1]),
      .drainRequest (tm [0, 0, 0, 0, 0, 0, 0, 0]), .deckPause (tm [1]), .releaseRequest (tm [0, 0]), .sweepRequest 64 (tm [1])] : List Instr).all
      (fun c => c.wf && (match Safety.objectOf c with
        | some (r, i, sub) => r.role == .t && (on.tranStatus (Safety.tranOf r i sub)).isNone
        | none => false)) = true := by decide +kernel

/-- A request of role M and one of a tenant that are served. -/
theorem test_requests_of_every_role_met : Safety.served on ⟨.m, 0x80FE, 7, 1, 0, [2]⟩ ∧ Safety.served on ⟨.h, 0, 0, 0, 1, [2]⟩ := by
  constructor
  · and_intros <;> decide +kernel
  · show (on.drawH 1).2 = true
    decide +kernel

/-- Power_writes_take_effect: what each clause assumes beyond that. -/
theorem test_power_writes_met : on.pwr.env < ofLe (tm [1]).value ∧ on.pwr.pending = false ∧ on.pwr.up = none ∧
    ofLe (tm [1]).value ≤ (withObj (key 0x2000 0) 2).obj (key 0x2000 0) ∧ on.dwells = false ∧
    ofLe (tm [0]).value < (withPwr (fun p => { p with env := 2 })).envTarget ∧
    on.capRange.1 ≤ ofLe (tm [100, 0]).value ∧ ofLe (tm [100, 0]).value ≤ on.capRange.2 ∧ on.capLowers (ofLe (tm [100, 0]).value) = true ∧
    (withObj (key 0x2000 3) 100).capLowers (ofLe (tm [0, 0]).value) = false ∧
    ofLe (tm [0, 0]).value ≠ (withObj (key 0x2000 3) 100).capPriced ∧ on.mfloor 0 ≤ ofLe (tm [9]).value ∧
    ofLe (tm [4]).value ≤ (withObj (key 0x2100 1) 5).obj (key 0x2100 1) ∧ on.mfloor 0 ≤ ofLe (tm [4]).value := by decide +kernel

/-- Containment_writes_take_effect: what each clause assumes beyond that. -/
theorem test_containment_writes_met : unitBuilt on.conf (relUnit (ofLe (tm [0, 0]).value)) = true ∧ ofLe (tm [1]).value = 1 ∧
    (on.port (65 - 47)).st ≠ 1 ∧ (on.port (65 - 47)).st ≠ 2 ∧ on.drq[roleSlot .t]? = some DrainSlot.zero ∧ DrainSlot.zero.state ≠ 1 := by
  decide +kernel

/-- Tenancy_writes_take_effect: what each clause assumes beyond that. -/
theorem test_tenancy_writes_met : on.hasRegion 1 = false ∧ ofLe (tm [2]).value ≤ 15 ∧
    (∀ q, q < 4 → ofLe (tm [1, 255, 255, 255]).value / 256 ^ q % 256 ≤ 15 ∨ ofLe (tm [1, 255, 255, 255]).value / 256 ^ q % 256 = 0xFF) ∧
    on.moves = [] ∧ on.rangeOk 1 0 ((on.spanNow 1 0).1, ofLe (tm [0, 0, 16, 0]).value) = true ∧ (∀ o ∈ on.ops, o.d.tenant ≠ 1) ∧
    (∃ o ∈ (committing []).ops, o.d.tenant = 1 ∧ o.id < (committing []).adm.nextId) ∧
    (committing []).rangeOk 1 0 (((committing []).spanNow 1 0).1, ofLe (tm [0, 0, 16, 0]).value) = true := by decide +kernel

/-- Trust_writes_take_effect: what each clause assumes beyond that. -/
def transferring : State := { on with tru := { on.tru with xOpen := true, xKind := 1, xTotal := 64 } }
def withImage : State := { on with tru := { on.tru with images := [⟨3, 9, [], false⟩] } }
theorem test_trust_writes_met : transferring.tru.xOpen = true ∧
    ofLe ((tm [0, 0, 0, 0, 0, 0, 0, 0, 7]).value.take 8) = transferring.tru.xBytes.length ∧
    transferring.tru.xBytes.length + ((tm [0, 0, 0, 0, 0, 0, 0, 0, 7]).value.drop 8).length ≤ transferring.tru.xTotal ∧
    transferring.judge transferring.tru.xBytes ≠ 0 ∧ (withImage.otherSlot 3).isSome = true := by decide +kernel

/-- Reset_requests_take_effect: what each clause assumes beyond that. -/
theorem test_reset_requests_met : ofLe (tm [1]).value = 1 ∧ ofLe (tm [0]).value = 0 ∧ ofLe (tm [2]).value = 2 ∧ on.boot.warm = none ∧ on.mayExchange 17 = true := by
  decide +kernel

/-! ### Start-up, resets and ports -/

/-- The running block with another state of a port. -/
def withPort (q : Nat) (p : PortSt) : State := on.setPort q p

/-- Start_up_and_resets: dark, powered, about to open admission, and with a warm reset asked for or an activation under way. -/
def opening : State := { on with boot := ⟨6, true, 0, 0, [], none, 0⟩, adm := { on.adm with openA := false } }
def warming : State := { on with boot := ⟨8, true, 0, 0, [], some 900, 3⟩ }
def activating : State := { on with tru := { on.tru with jobAct := true } }
theorem test_start_up_met : State.reset.pwrGood = false ∧ State.reset.clk.lost = false ∧ on.pwrGood = true ∧ opening.boot.step = 6 ∧
    opening.up 0 = true ∧ opening.up 25 = true ∧ opening.clk.lost = false ∧ opening.tru.gfwDown = false ∧ opening.tru.jobAct = false ∧
    opening.boot.warm = none ∧ opening.boot.cold = true ∧ opening.pwr.up = none ∧
    (opening.setObj (key 0x2000 0) 2).pwr.env < min (((opening.setObj (key 0x2000 0) 2).setObj (key 0x2000 5) 1).obj (key 0x2000 5))
      (((opening.setObj (key 0x2000 0) 2).setObj (key 0x2000 5) 1).obj (key 0x2000 0)) ∧
    warming.boot.warm = some 900 ∧ warming.adm.respQ = [] ∧ activating.boot.warm = none ∧ activating.tru.jobAct = true ∧
    (∀ o ∈ activating.ops, o.k = .reroll ∨ o.k = .tagged) := by decide +kernel
/-- Power comes to the block after reset: it starts up with admission closed (R411). -/
theorem test_power_good_starts : (nextOf (exec (.powerGood []) State.reset)).map (fun t => (t.pwrGood, t.boot.step, t.adm.openA)) =
    some (true, 2, false) := by decide +kernel

/-- Firmware_timers_and_commits, each clause. -/
def later : State := { on with clk := ⟨20000, false, 0⟩ }
theorem test_firmware_timers_met : 6 ≤ later.boot.step ∧ later.tru.heartbeat + 10000 ≤ later.now ∧ later.boot.warm = none ∧
    later.tru.fresh = false ∧ later.tru.gfwDown = false ∧ ({ later with tru := { later.tru with gfwDown := true } } : State).tru.gfwDown = true ∧
    ({ later with tru := { withImage.tru with fresh := true } } : State).otherSlot 3 = some ⟨3, 9, [], false⟩ ∧
    ({ later with tru := { later.tru with dbgOn := true, dbgExpiry := 5 } } : State).tru.dbgExpiry ≤ later.now ∧
    key 0x2000 0 ∈ (withObj (key 0x2000 0) 2).dict.commits := by decide +kernel

/-- Port_exchange_runs_to_up_or_down: a port whose partner appears, one that exchanges, and one in quarantine. -/
def exchanging : State := withPort 17 portEx
theorem test_live_rise_met : portBuilt on.conf 17 = true ∧ ((withPort 17 PortSt.zero).port 17).liveI = false ∧
    ((withPort 17 PortSt.zero).port 17).st = 0 ∧ (withPort 17 PortSt.zero).mayExchange 17 = true ∧
    ((withPort 17 { PortSt.zero with liveO := true }).port 17).liveO = true ∧ State.reset.mayExchange 17 = false ∧
    (exchanging.port 17).st = 1 ∧ ((withPort 17 { portEx with liveI := false }).port 17).liveI = false ∧
    ((withPort 26 PortSt.zero).port 26).st = 0 ∧ (withPort 26 PortSt.zero).mayExchange 26 = true := by decide +kernel
theorem test_cap_met : (Instr.cap 17 (capWord 1 3 1 1 0 0 2048)).wf = true ∧ linkBad (capWord 1 3 1 1 0 0 2048) = false ∧
    (exchanging.port 17).liveI = true ∧ (exchanging.port 17).st = 1 ∧ (exchanging.port 17).capIn = none ∧ (exchanging.port 17).selIn = none ∧
    (exchanging.agreement 17 (capWord 1 (exchanging.pkind 17) 1 1 0 0 (exchanging.leastPool 17))).1 = 0 ∧
    (exchanging.agreement 17 (capWord 1 (exchanging.pkind 17) 2 2 0 0 (exchanging.leastPool 17))).1 ≠ 0 := by decide +kernel
theorem test_capsel_met : (Instr.capsel 17 (capWord 2 3 1 1 0 0 2048)).wf = true ∧ linkBad (capWord 2 3 1 1 0 0 2048) = false ∧
    exchanging.boot.step ≠ 2 ∧ (exchanging.port 17).selOut = none ∧
    ((withPort 17 { portEx with selOut := some (capWord 2 3 1 1 0 0 1024) }).port 17).selOut = some (capWord 2 3 1 1 0 0 1024) ∧
    (capWord 2 3 1 1 0 0 1024).toNat / 2 ^ 24 = (capWord 2 3 1 1 0 0 2048).toNat / 2 ^ 24 ∧
    (capWord 2 3 1 1 0 0 1024).toNat / 2 ^ 24 ≠ (capWord 2 3 1 1 1 0 2048).toNat / 2 ^ 24 := by decide +kernel
theorem test_port_timers_met : (exchanging.port 17).liveI = true ∧ ({ exchanging with clk := ⟨200000, false, 0⟩ } : State).timeUp (exchanging.port 17).since (on.obj (key 0x1302 4)) = true ∧
    ((withPort 17 { PortSt.zero with st := 3 }).port 17).st = 3 ∧ (withPort 17 { PortSt.zero with st := 3 }).mayExchange 17 = true ∧
    ((withPort 17 PortSt.zero).port 17).st = 0 ∧ ((withPort 17 PortSt.zero).port 17).liveO = false ∧
    ({ withPort 17 { PortSt.zero with st := 3 } with clk := ⟨2000000, false, 0⟩ } : State).timeUp 0 (on.obj (key 0x1302 0)) = true := by
  decide +kernel

/-- Port_fault_takes_the_port_down: a port up, one exchanging, the fourth quarantine in an hour, a missing message, a DOWN, and
credits that do not come back; the power stage and the work source. -/
theorem test_port_fault_met : portBuilt on.conf 17 = true ∧ (on.port 17).liveI = true ∧ (on.port 17).st = 2 ∧ (exchanging.port 17).st = 1 ∧
    ¬3 ≤ ((on.port 17).qtimes.filter (fun x => decide (on.now < x + 360000000000))).length ∧
    3 ≤ (((withPort 17 { portUp with qtimes := [1, 2, 3] }).port 17).qtimes.filter (fun x => decide (on.now < x + 360000000000))).length ∧
    on.messageMissing 25 = true ∧ (Instr.down 17 (downWord 5)).wf = true ∧ linkBad (downWord 5) = false ∧
    ((withPort 17 { portUp with cr := 0, fly := [⟨none, none, 3, none⟩] }).port 17).cr = 0 ∧
    ({ on with clk := ⟨200000, false, 0⟩ } : State).timeUp 0 (on.obj (key 0x1302 5)) = true ∧ (on.port 25).st = 2 ∧ (on.port 0).st = 2 := by
  decide +kernel

/-- Credits_return_up_to_the_pool: flits in flight come back. -/
theorem test_credits_met : portBuilt on.conf 1 = true ∧ (withPort 1 { portUp with fly := [⟨none, none, 3, none⟩] }).up 1 = true ∧
    (((withPort 1 { portUp with fly := [⟨none, none, 3, none⟩] }).port 1).wait = []) ∧
    ((withPort 1 { portUp with fly := [⟨none, none, 3, none⟩] }).port 1).cr + 3 ≤ 256 := by decide +kernel

/-- Memory_lines_land_where_they_were_asked_for: a line for a PRELOAD from memory, one for a RESTORE, and one that nobody asked for. -/
def dPreMem : Desc := mk 0x03 4 0 (2 ^ 32) (2 ^ 40) 0 (2 ^ 62 + 64) 0 0
def opPreMem : Op := { on.newOp .preload dPreMem false none none with id := 0, started := true }
def opRestore : Op := { on.newOp .restore (mk 0x19 4 0 128 0 0 (2 ^ 62) 0 0) false none none with id := 0, started := true }
def reading : State := { on with ops := [opPreMem], stg := ⟨[], [⟨1, 7, 0, 5, 0, 1, 2, 900, 0⟩], 8⟩ }
def restoringImage : State := { reading with ops := [opRestore] }
theorem test_memory_lines_met : portBuilt on.conf 1 = true ∧ reading.up 1 = true ∧
    reading.stg.reads.find? (fun r => r.q == 1 && r.tag == 7) = some ⟨1, 7, 0, 5, 0, 1, 2, 900, 0⟩ ∧ reading.op? 0 = some opPreMem ∧
    opPreMem.k ≠ .restore ∧ restoringImage.op? 0 = some opRestore ∧ opRestore.k = .restore ∧
    (nextOf (exec (.memoryReadLines 1 7 [⟨5, 0⟩]) reading)).isSome = true ∧
    reading.stg.reads.find? (fun r => r.q == 1 && r.tag == 8) = none := by decide +kernel
/-- A line lands at the front of its ring (R132): its first byte is at STAGE 0 of the cluster. -/
theorem test_memory_line_lands : (nextOf (exec (.memoryReadLines 1 7 [⟨5, 0⟩]) reading)).map (fun t => t.buf.byte (bufAddr 0 0)) = some 5 := by
  decide +kernel

/-! ### Cascade frames -/

/-- The running block at position 0 of group 5, with member 1 behind cascade port 0 (port index 17). -/
def inGroup : State := ((((((on.setObj (key 0x6000 0) 5).setObj (key 0x6000 1) 0).setObj (key 0x6000 2) 3).setObj (key 0x6000 3) 1).setObj
  (key 0x6040 0) 0xFE).setObj (key 0x6040 1) 0).setGroup 0 { GroupSt.zero with live := [0, 1], first := some 0, term := 1 }

/-- A frame of member 1 for bucket 9 of group 5. -/
def hd (ftype : Nat) : Hdr := { ftype := ftype, tenant := 1, src := 1, dst := 0, group := 5, bucket := 9, relems := 1 }

/-- An owner op of one element in engine 0, with two contributions to come, and the block that holds its range. -/
def dOwner : Desc := mk 0x08 4 0x10 (2 ^ 32) (9 * 2 ^ 32) (5 * 2 ^ 48 + 2 * 2 ^ 24) 0 0 0
def opOwner : Op := { on.newOp .owner dOwner false none none with id := 0, started := true }
def range9 : Range := ⟨0, 5, 9, 0, 1, 2, 0, false, false, 1, [0], [Slot.zero, Slot.zero], [], some 0, 900, false, []⟩
def owning (sl : Slot) : State := { inGroup with ops := [opOwner], ranges := [{ range9 with slots := [sl, Slot.zero] }] }

/-- One EL16 code as a payload. -/
def pay (lo hi : Byte) : List Flit := [⟨BitVec.ofNat 512 (lo.toNat + 256 * hi.toNat), 0⟩]
def fData : Frame := ({ hd 1 with nel := 1 } : Hdr).frame (pay 0 0x40)
def fEnd (cs : Nat) (neg prov : Bool) (n : Nat) : Frame := ({ hd 2 with fseq := n, cs := cs, neg := neg, prov := prov, region := 3 } : Hdr).frame []

theorem arrives_of {s : State} {q : Nat} {f : Frame} {ft g : Nat}
    (h : s.noPort q = false ∧ s.hears q f = true ∧ f.ftype = ft ∧ f.ver = 1 ∧ frameOk f = true ∧ s.slotOf f.group = some g) :
    Safety.arrives s q f ft g := ⟨h.1, h.2.1, h.2.2.1, h.2.2.2.1, .inr h.2.2.2.2.1, h.2.2.2.2.2⟩

/-- The first frame on the loopback path is the one that can arrive there. -/
theorem hears_loop (s : State) (f : Frame) : ({ s with loop := [f] } : State).hears 0xFE f = true := by
  simp [State.hears]

/-- A slot that a frame names, from its parts. -/
theorem slot_of {s : State} {f : Frame} {r : Range} {i : Nat} {sl : Slot}
    (h : s.straggler f = false ∧ s.frameRange f = some r ∧ r.slotIdx f = some i ∧ r.slots[i]? = some sl) : Safety.slotAt s f r i sl := h

/-- Only elements of a range have registers. -/
theorem rangeReg_lt {s : State} {r : Range} {a rk : Nat} (h : s.rangeReg r a = some rk) : a < r.elems := by
  unfold State.rangeReg State.rangePlace at h
  by_cases hl : r.elems ≤ a
  · simp [hl] at h
  · omega

/-- A frame on the loopback path at an empty queue (Step_runs_the_front_command). -/
theorem test_loop_met : ({ owning .zero with loop := [fData] } : State).pending = [] ∧
    ({ owning .zero with loop := [fData] } : State).loop = [fData] := ⟨rfl, rfl⟩

/-- Data_frame_adds_its_elements_exactly: a first element on the loopback path, and one that would pass the term bound. -/
theorem test_data_frame_met : Safety.arrives { owning .zero with loop := [fData] } 0xFE fData 1 0 ∧
    Safety.slotAt (owning .zero) fData { range9 with slots := [.zero, .zero] } 0 .zero ∧ frameSound fData = true ∧
    frameElts fData = some [⟨Incoming.ofCode 0x4000 false, 1⟩] ∧ fData.fseq = Slot.zero.expects (streamOf .zero fData) ∧
    streamOf .zero fData = .contrib ∧ Slot.zero.await = none ∧ Slot.zero.st = .empty ∧ range9.takes fData.efmt = true ∧ fData.relems = 1 ∧
    (owning .zero).widthOk range9 fData = true ∧ (owning .zero).dataWaits fData = false ∧ (owning .zero).behind 17 fData = false ∧
    (((owning .zero).reg 0).add (Incoming.ofCode 0x4000 false)).checks = true ∧ (owning .zero).termsOver (grown [] []) = false :=
  ⟨⟨by decide +kernel, hears_loop _ _, by decide +kernel, by decide +kernel, .inl rfl, by decide +kernel⟩, slot_of (by decide +kernel),
    by and_intros <;> decide +kernel⟩
def fullBound : State := { owning { Slot.zero with used := true } with tiles := [(0, ⟨2 ^ 48, .sums, none⟩)] }
theorem test_data_frame_over_bound_met : fullBound.termsOver
      (grown [] (fullBound.eltTerms { range9 with slots := [{ Slot.zero with used := true }, .zero] } [] fData.feoff
        [⟨Incoming.ofCode 0x4000 false, 1⟩])) = true ∧ fullBound.dataWaits fData = false ∧
    Safety.slotAt fullBound fData { range9 with slots := [{ Slot.zero with used := true }, .zero] } 0 { Slot.zero with used := true } ∧
    fullBound.route 0 fData.src ≠ 0xFF := ⟨by decide +kernel, by decide +kernel, slot_of (by decide +kernel), by decide +kernel⟩
/-- The example of spec/12: contribution A, 0x4000, adds 2^271. -/
theorem test_data_frame_adds : (nextOf (exec (.data 0xFE fData) { owning .zero with loop := [fData] })).map (fun t => (t.reg 0).n) =
    some (BitVec.ofNat 576 (2 ^ 271)) := by
  rw [exec, execData]
  simp only [State.onFrame, hears_loop]
  decide +kernel

/-- End_frame_closes_its_stream: a contribution that is provisional or not, one whose checksum differs, a withdrawal, a retraction. -/
def receiving : Slot := { Slot.zero with st := .receiving, src := 1, nf := 1, cs := 5 }
def withdrawing : Slot := { receiving with await := some 4, wd := some (1, csMod - 5) }
def retracting : Slot := { Slot.zero with st := .final, src := 1, csum := 5, wd := some (1, csMod - 5), ledger := [(0, 8)] }
theorem test_end_frame_met : Safety.arrives (owning receiving) 17 (fEnd 5 false true 1) 2 0 ∧
    Safety.slotAt (owning receiving) (fEnd 5 false true 1) { range9 with slots := [receiving, .zero] } 0 receiving ∧
    (owning receiving).route 0 (fEnd 5 false true 1).src ≠ 0xFF ∧ (fEnd 5 false true 1).fseq = receiving.expects .contrib ∧
    streamOf receiving (fEnd 5 false true 1) = .contrib ∧ receiving.await = none ∧ receiving.cs = (fEnd 5 false true 1).cs ∧
    (fEnd 5 false true 1).prov = true ∧ (fEnd 5 false false 1).prov = false ∧ receiving.cs ≠ (fEnd 6 false false 1).cs :=
  ⟨arrives_of (by decide +kernel), slot_of (by decide +kernel), by and_intros <;> decide +kernel⟩
theorem test_end_of_withdrawal_met : Safety.arrives (owning withdrawing) 17 (fEnd (csMod - 5) true false 1) 2 0 ∧
    Safety.slotAt (owning withdrawing) (fEnd (csMod - 5) true false 1) { range9 with slots := [withdrawing, .zero] } 0 withdrawing ∧
    streamOf withdrawing (fEnd (csMod - 5) true false 1) = .withdraw ∧ (fEnd (csMod - 5) true false 1).fseq = withdrawing.expects .withdraw ∧
    withdrawing.nf = 1 ∧ (fEnd (csMod - 5) true false 1).cs = csMod - 5 ∧ (csMod - 5 + withdrawing.cs) % csMod = 0 :=
  ⟨arrives_of (by decide +kernel), slot_of (by decide +kernel), by and_intros <;> decide +kernel⟩
theorem test_end_of_retraction_met : Safety.arrives (owning retracting) 17 (fEnd (csMod - 5) true false 1) 2 0 ∧
    Safety.slotAt (owning retracting) (fEnd (csMod - 5) true false 1) { range9 with slots := [retracting, .zero] } 0 retracting ∧
    streamOf retracting (fEnd (csMod - 5) true false 1) = .retract ∧ (fEnd (csMod - 5) true false 1).cs = csMod - 5 ∧
    (csMod - 5 + retracting.csum) % csMod = 0 ∧ (owning retracting).rangeReg range9 0 = some 0 ∧
    (∀ a b rk, (owning retracting).rangeReg range9 a = some rk → (owning retracting).rangeReg range9 b = some rk → a = b) :=
  ⟨arrives_of (by decide +kernel), slot_of (by decide +kernel), by decide +kernel, by decide +kernel, by decide +kernel, by decide +kernel,
    fun a b _ ha hb => by
      have h1 := rangeReg_lt ha
      have h2 := rangeReg_lt hb
      simp only [range9] at h1 h2
      omega⟩

/-- Other_frames_have_their_effect: a COLLECT for a range that is outstanding and for none, a notice for a HELD slot, a time-out, a
RESEND for a job, an ABORT, a REVOKE and a reserved type. -/
def held : Slot := { Slot.zero with st := .held, src := 1, prov := some (1, 3, 0) }
def fNotice : Frame := ({ hd 7 with prov := true, region := 3 } : Hdr).frame []
theorem test_collect_met : Safety.arrives (owning .zero) 17 ((hd 6).frame []) 6 0 ∧ (owning .zero).straggler ((hd 6).frame []) = false ∧
    (owning .zero).route 0 ((hd 6).frame []).src ≠ 0xFF ∧
    (owning .zero).frameRange ((hd 6).frame []) = some { range9 with slots := [.zero, .zero] } ∧ range9.op = some 0 ∧
    (inGroup.frameRange ((hd 6).frame [])).bind (fun r => r.op) = none :=
  ⟨arrives_of (by decide +kernel), by and_intros <;> decide +kernel⟩
theorem test_commit_notice_met : Safety.arrives (owning held) 17 fNotice 7 0 ∧ (owning held).epochLive fNotice.tenant fNotice.epoch = true ∧
    (owning held).range? 5 9 0 = some { range9 with slots := [held, .zero] } ∧ held.src = fNotice.src ∧
    held.prov = some (fNotice.tenant, fNotice.region, fNotice.epoch) :=
  ⟨arrives_of (by decide +kernel), by and_intros <;> decide +kernel⟩
theorem test_range_timeout_met : (owning .zero).range? 5 9 0 = some { range9 with slots := [.zero, .zero] } ∧
    ({ range9 with slots := [.zero, .zero] } : Range).complete = false ∧
    900 + (owning .zero).obj (key 0x6000 7) ≤ ({ owning .zero with clk := ⟨1000900, false, 0⟩ } : State).now := by decide +kernel

/-- A contribution of member 0 to the owner at position 1, with its job: two frames, none sent. -/
def dContrib : Desc := mk 0x08 6 0 (2 ^ 32) (9 * 2 ^ 32) (5 * 2 ^ 48 + 2 ^ 42) 0x2000 0 0
def opContrib : Op := { on.newOp .contrib dContrib false none none with id := 0, started := true }
def job0 : Job := ⟨0, 0, .contrib, 0, 1, 0, 1, [], false, false⟩
def sending (j : Job) (o : Op) : State := { inGroup with ops := [o], jobs := [j], nextJob := 1 }
/-- A frame of the owner at position 1 about that contribution. -/
def back (ftype ctl : Nat) : Frame := ({ hd ftype with ctl := ctl } : Hdr).frame []
theorem test_resend_met : Safety.arrives (sending { job0 with next := 1 } opContrib) 17 (back 4 0) 4 0 ∧
    (sending { job0 with next := 1 } opContrib).strayBack (back 4 0) = false ∧
    (sending { job0 with next := 1 } opContrib).resendJob 0 (back 4 0) = some { job0 with next := 1 } :=
  ⟨arrives_of (by decide +kernel), by decide +kernel, by decide +kernel⟩
theorem test_abort_and_revoke_met : Safety.arrives (sending job0 opContrib) 17 (back 9 0) 9 0 ∧
    (sending job0 opContrib).strayBack (back 9 0) = false ∧ Safety.arrives (sending job0 opContrib) 17 (back 8 1) 8 0 ∧
    (sending job0 opContrib).epochLive ((sending job0 opContrib).obj (key 0x6000 3)) ((back 8 1).ctl % 65536) = true :=
  ⟨arrives_of (by decide +kernel), by decide +kernel, arrives_of (by decide +kernel), by decide +kernel⟩
theorem test_reserved_frame_met : (Instr.reservedFrameType 17 (back 0xE 0)).wf = true ∧ inGroup.noPort 17 = false ∧ inGroup.hears 17 (back 0xE 0) = true := by
  decide +kernel

/-- Contributions_are_sent_and_answered: a frame that may leave, each answer, and a RESULT that nobody and that one op awaits. -/
def allotted : State := (sending job0 opContrib).setObj (key 0x6080 1) 64
theorem test_frame_send_met : allotted.jobs.find? (fun j => j.id == 0) = some job0 ∧ job0.ended = false ∧
    allotted.op? 0 = some opContrib ∧ (allotted.nextFrame opContrib job0 []).isSome = true ∧
    allotted.maySend 0 1 2 = true := by decide +kernel
theorem test_ack_met : Safety.arrives (sending { job0 with next := 1 } opContrib) 17 (back 3 0) 3 0 ∧
    (sending { job0 with next := 1 } opContrib).strayBack (back 3 0) = false ∧
    (sending { job0 with next := 1 } opContrib).ackedOp (back 3 0) = some opContrib ∧
    (sending { job0 with next := 1 } opContrib).undoing 0 = false ∧ (∀ h ∈ (sending { job0 with next := 1 } opContrib).regions, h.closer ≠ some 0) :=
  ⟨arrives_of (by decide +kernel), by and_intros <;> decide +kernel⟩
theorem test_ack_of_withdrawal_met :
    Safety.arrives (sending { job0 with k := .withdraw } { opContrib with ackc := some 2 }) 17 (back 3 (0xB * 2 ^ 24)) 3 0 ∧
    (sending { job0 with k := .withdraw } { opContrib with ackc := some 2 }).strayBack (back 3 (0xB * 2 ^ 24)) = false ∧
    (sending { job0 with k := .withdraw } { opContrib with ackc := some 2 }).ackedOp (back 3 (0xB * 2 ^ 24)) = some { opContrib with ackc := some 2 } ∧
    (sending { job0 with k := .withdraw } { opContrib with ackc := some 2 }).undoing 0 = true ∧ opContrib.k ≠ .tagged ∧
    (back 3 (0xB * 2 ^ 24)).ctl / 2 ^ 24 = 0xB :=
  ⟨arrives_of (by decide +kernel), by and_intros <;> decide +kernel⟩
/-- A RESULT of one element on the loopback path. -/
def fResult : Frame := ({ hd 5 with nel := 1 } : Hdr).frame (pay 0 0x40)
theorem test_result_met : Safety.arrives { sending job0 opContrib with loop := [fResult] } 0xFE fResult 5 0 ∧ (sending job0 opContrib).strayBack fResult = false ∧
    inGroup.resultOps fResult = [] ∧ (sending job0 opContrib).resultOps fResult = [opContrib] ∧ fResult.fseq ≤ leading opContrib ∧
    (((sending job0 opContrib).returnCredit 0xFE fResult).takeResults fResult [opContrib]).isSome = true ∧ refMem dContrib.w5 = false :=
  ⟨⟨by decide +kernel, hears_loop _ _, by decide +kernel, by decide +kernel, .inl rfl, by decide +kernel⟩, by and_intros <;> decide +kernel⟩

/-- Groups_elect_and_keep_members, each clause. -/
def claiming : State := inGroup.setGroup 0 { GroupSt.zero with live := [0, 1], term := 1, claim := some ⟨2, 900, [0]⟩ }
def fClaim : Frame := ({ hd 0xA with term := 5 } : Hdr).frame []
def fReply : Frame := ({ hd 0xB with term := 2, ctl := 2 ^ 31 } : Hdr).frame []
theorem test_claim_met : Safety.arrives inGroup 17 fClaim 0xA 0 ∧ (inGroup.group 0).term < fClaim.term ∧ inGroup.route 0 fClaim.src ≠ 0xFF :=
  ⟨arrives_of (by decide +kernel), by decide +kernel, by decide +kernel⟩
theorem test_claimreply_met : Safety.arrives claiming 17 fReply 0xB 0 ∧ (claiming.group 0).claim = some ⟨2, 900, [0]⟩ ∧ fReply.term = 2 ∧
    bitOf (claiming.memberMask 0) fReply.src = true ∧ claiming.now ≤ 900 + 2000 ∧ claiming.members 0 < 2 * (insN [0] fReply.src).length ∧
    2 * [0].length ≤ claiming.members 0 :=
  ⟨arrives_of (by decide +kernel), by and_intros <;> decide +kernel⟩
def byOther : State := inGroup.setGroup 0 { GroupSt.zero with live := [0, 1], first := some 1, term := 5 }
theorem test_elected_and_allot_met : Safety.arrives inGroup 17 (({ hd 0xC with term := 5 } : Hdr).frame []) 0xC 0 ∧
    Safety.arrives byOther 17 (({ hd 0xD with term := 5 } : Hdr).frame []) 0xD 0 ∧ (byOther.group 0).first = some 1 ∧ (byOther.group 0).term = 5 :=
  ⟨arrives_of (by decide +kernel), arrives_of (by decide +kernel), by decide +kernel, by decide +kernel⟩
def claimed : State := { claiming.setGroup 0 { GroupSt.zero with live := [0, 1], term := 2, claim := some ⟨2, 900, [0]⟩ } with clk := ⟨3000, false, 0⟩ }
theorem test_claim_retry_met : (claimed.group 0).claim = some ⟨2, 900, [0]⟩ ∧ 900 + 2000 ≤ claimed.now ∧ 6 ≤ claimed.boot.step ∧
    claimed.memberMask 0 ≠ 0 ∧ (claimed.group 0).first = none ∧ claimed.lowestLive 0 = claimed.posOf 0 ∧ 2 ≤ claimed.members 0 := by decide +kernel
theorem test_beacon_met : (Instr.beacon 17 (beaconWord 1 5)).wf = true ∧ linkBad (beaconWord 1 5) = false ∧ (inGroup.port 17).liveI = true ∧
    inGroup.up 17 = true ∧ inGroup.slotOf (fld (beaconWord 1 5) 49 34) = some 0 ∧ fld (beaconWord 1 5) 55 50 = 1 ∧ bitOf (inGroup.memberMask 0) 1 = true ∧
    inGroup.posOf 0 ≠ 1 ∧ inGroup.route 0 1 = 0 := by decide +kernel
theorem test_member_lost_met : (({ inGroup.setGroup 0 { GroupSt.zero with live := [0, 1], heard := [(1, 900)] } with clk := ⟨5000, false, 0⟩ } : State).group 0).heard.find?
      (fun h => h.1 == 1) = some (1, 900) ∧ 900 + on.obj (key 0x1302 3) ≤ 5000 ∧ inGroup.posOf 0 ≠ 1 := by decide +kernel

/-- Admissible_op_is_accepted for the other kinds of descriptor: each has a state in which it is admissible. -/
def dQuiesce : Desc := mk 0x10 9 0x20 0 0 0 0 0 0
def dOrder : Desc := mk 0x10 9 0 0 0 0 0 0 0
def dScan : Desc := mk 0x05 9 (4 * 2 ^ 13) (2 ^ 32 + 33) (2 ^ 40) 0 0 0x1000 (2 ^ 40)
def dMpass : Desc := mk 0x06 9 (4 * 2 ^ 13) (2 ^ 32 + 33) (2 ^ 40) 0 0 0x1000 (2 ^ 40)
def dBallast : Desc := mk 0x1F 9 0 (64 * 2 ^ 32 + 100) 0 0 0 0 0
def dRead : Desc := mk 0x1C 9 0 (0x22000100 * 2 ^ 32 + 8) 0 0 0 0 0
def dWrite : Desc := mk 0x1C 9 0x10 (0x22000100 * 2 ^ 32 + 8) 0 0 0 0 0
def dTrimmed : Desc := mk 0x08 6 (6 * 2 ^ 16 + 0x20) (2 ^ 32) (9 * 2 ^ 32) (5 * 2 ^ 48 + 2 ^ 42) 0 0 0
def dCollect : Desc := mk 0x08 6 0x20 (2 ^ 32) (9 * 2 ^ 32) (5 * 2 ^ 48 + 2 ^ 42) 0x2000 0 0
def dRetract : Desc := mk 0x09 6 0 (2 ^ 32) (9 * 2 ^ 32) (5 * 2 ^ 48 + 2 ^ 42) 0x2000 0 0
def allotGroup : State := inGroup.setObj (key 0x6080 1) 64
theorem test_array_ops_admissible : arrivesAlone on (.drain dDrain) dDrain .drain = true ∧
    arrivesAlone on (.scan dScan) dScan .scan = true ∧ arrivesAlone on (.mpass dMpass) dMpass .mpass = true ∧
    arrivesAlone on (.ballast dBallast) dBallast .ballast = true := by decide +kernel
theorem test_fences_and_dictionary_ops_admissible : arrivesAlone on (.fenceOrder dOrder) dOrder .fenceOrder = true ∧
    arrivesAlone on (.fenceQuiesce dQuiesce) dQuiesce .fenceQuiesce = true ∧ arrivesAlone on (.dictRead dRead) dRead .dict = true ∧
    arrivesAlone on (.dictWrite dWrite) dWrite .dict = true := by decide +kernel
theorem test_group_ops_admissible : arrivesAlone allotGroup (.ownerXred dOwner) dOwner .owner = true ∧
    arrivesAlone allotGroup (.contribution dContrib) dContrib .contrib = true ∧
    arrivesAlone allotGroup (.trimmedLongContribution dTrimmed) dTrimmed .trimmed = true ∧
    arrivesAlone allotGroup (.collection dCollect) dCollect .collection = true ∧
    arrivesAlone allotGroup (.retract dRetract) dRetract .retract = true := by decide +kernel

/-! ### Records, datagrams and the management port -/

/-- A new key, a repeat of it, and a 65th key while 64 are open (Class_keys_coalesce_repeats). -/
def evA : Event := ⟨0x081, 0, 0x05, 0, none, none, 1⟩
def keyA (loc count : Nat) : CoKey := ⟨0x081, 0, 0x05, loc, 0, 0, none, 0, count, 5, 1⟩
def keyed (ks : List CoKey) : State := { on with errs := ⟨1, [0], [], 0, 0, ks⟩ }
theorem test_class_keys_met : (keyed []).errs.keys.any (fun x => x.isOf evA) = false ∧ (keyed []).errs.keys.length < 64 ∧
    (keyed []).errs.full = false ∧ (keyed [keyA 0 0]).errs.keys.any (fun x => x.isOf evA) = true ∧
    (keyed ((List.range 64).map (fun i => keyA (i + 1) 0))).errs.keys.any (fun x => x.isOf evA) = false ∧
    (keyed ((List.range 64).map (fun i => keyA (i + 1) 0))).errs.keys.length = 64 := by decide +kernel
/-- The interval of a key ends, with no repeat and with three. -/
theorem test_class_key_interval_met : ∃ s : State, s.errs.keys[0]? = some (keyA 0 0) ∧ s.errs.keys[1]? = some (keyA 1 3) ∧
    (keyA 0 0).openedAt + s.obj (key 0x4000 3) ≤ s.now ∧ s.errs.full = false :=
  ⟨{ keyed [keyA 0 0, keyA 1 3] with clk := ⟨2 ^ 40, false, 0⟩ }, by decide +kernel⟩

/-- A message to the block from link-local address 0xFE, 0x80. -/
def msg (mtype index sub : Nat) (value : List Byte) : Datagram :=
  ⟨0x80FE, on.ownAddress, 49152, on.obj (key 0x1400 0), true, dgBytes (dgW0 mtype 0 index sub value.length) (at_ 7 32) value⟩
/-- The running block with the source tracked, and with its WRITE of XID 7 answered. -/
def known (kept : List Kept) : State := { on with mg := { on.mg with buckets := [⟨0x80FE, 6400000000, 900, 900⟩], kept := kept } }
theorem message_of {s : State} {dg : Datagram} {mtype index sub xid seq : Nat} {value : List Byte}
    (h : s.up 26 = true ∧ s.forBlock dg = true ∧
      dg.payload = dgBytes (dgW0 mtype 0 index sub value.length) (at_ xid 32 + seq) value ∧
      index < 65536 ∧ sub < 256 ∧ xid < 2 ^ 32 ∧ seq < 2 ^ 32 ∧ value.length < 65536) :
    Safety.message s dg mtype index sub xid seq value := h
/-- Kept_responses_answer_repeated_writes: a WRITE of XID 7 that has an answer, one of a source that is tracked, one of a source that is
not, and a READ. -/
theorem test_kept_responses_met : ((on.hearSource 0x80FE).drawM 0x80FE).2.1 = true ∧ (((known [⟨0x80FE, 7, 1, 2, 900⟩]).hearSource 0x80FE).drawM 0x80FE).2.1 = true ∧
    Safety.message (known [⟨0x80FE, 7, 1, 2, 900⟩]) (msg 2 0x2000 0 [1]) 2 0x2000 0 7 0 [1] ∧
    (known [⟨0x80FE, 7, 1, 2, 900⟩]).tracked.any (fun b => b.src == 0x80FE) = true ∧
    ((known [⟨0x80FE, 7, 1, 2, 900⟩]).mg.kept.filter (fun k => decide (1000 < k.time + 100000000))).find? (fun k => k.xid == 7) =
      some ⟨0x80FE, 7, 1, 2, 900⟩ ∧
    Safety.message (known []) (msg 2 0x2000 0 [1]) 2 0x2000 0 7 0 [1] ∧ (known []).tracked.any (fun b => b.src == 0x80FE) = true ∧
    Safety.message on (msg 2 0x2000 0 [1]) 2 0x2000 0 7 0 [1] ∧ on.tracked.length < 16 ∧
    Safety.message on (msg 1 0x2200 1 []) 1 0x2200 1 7 0 [] :=
  ⟨by decide +kernel, by decide +kernel, message_of (by decide +kernel), by decide +kernel, by decide +kernel, message_of (by decide +kernel),
    by decide +kernel, message_of (by decide +kernel), by decide +kernel, message_of (by decide +kernel)⟩

/-- Management_messages_have_their_effect: a READ that passes every check, and a WRITE. -/
theorem test_read_and_write_met : on.tranStatus ⟨.m, 0, false, 0x2200, 1, []⟩ = none ∧ ((on.hearSource 0x80FE).drawM 0x80FE).1.keptFor 0x80FE 7 = none := by
  decide +kernel
/-- An EVENT of one record and a NOTICE that await their EVACK; the interval of the first has passed. -/
def flying : State := { on with clk := ⟨2 ^ 40, false, 0⟩, mg := { on.mg with fly := [⟨1, true, 0, 1, 0, 900⟩, ⟨2, false, 0, 0, key 0x2000 1, 900⟩] } }
def evack (n xid seq : Nat) : Datagram :=
  ⟨0x80FE, on.ownAddress, 49152, on.obj (key 0x1400 0), true, dgBytes (dgW0 5 0 0 n 0) (at_ xid 32 + seq) []⟩
def flyingTo : State := flying.setObj (key 0x4002 0) 0x80FE
theorem test_evack_met : Safety.message flyingTo (evack 1 1 0) 5 0 1 1 0 [] ∧ Safety.message flyingTo (evack 0 2 0) 5 0 0 2 0 [] ∧
    Safety.message flyingTo (evack 2 1 0) 5 0 2 1 0 [] ∧ (evack 1 1 0).src = flyingTo.obj (key 0x4002 0) ∧
    flyingTo.mg.fly.find? (fun f => f.xid == 1) = some ⟨1, true, 0, 1, 0, 900⟩ ∧
    flyingTo.mg.fly.find? (fun f => f.xid == 2) = some ⟨2, false, 0, 0, key 0x2000 1, 900⟩ ∧ flyingTo.errs.lostN = 0 :=
  ⟨message_of (by decide +kernel), message_of (by decide +kernel), message_of (by decide +kernel), by and_intros <;> decide +kernel⟩
theorem test_event_send_and_retry_met : on.up 26 = true ∧ on.mg.fly.length < on.obj (key 0x4002 3) ∧
    (keyed []).mg.notices = [] ∧ (keyed []).nextRecords = [0] ∧ on.mg.fly = [] ∧ [key 0x2000 1].Nodup ∧
    ({ on with mg := { on.mg with notices := [key 0x2000 1] } } : State).mg.notices = [key 0x2000 1] ∧
    flying.mg.fly.find? (fun f => f.xid == 1) = some ⟨1, true, 0, 1, 0, 900⟩ ∧ flying.up 26 = true ∧
    900 + flying.obj (key 0x4002 2) ≤ flying.now := by decide +kernel
theorem test_icmp_met : linkLocal 0x80FE = true ∧
    (on.mg.ndTimes.filter (fun x => decide (on.now < x + 100000000))).length < 100 := by decide +kernel
/-- A queued drain request of TMON for row 0 of tile 0, and one of a tenant that owns no core. -/
def drained (i : Nat) : State := { on with drq := (List.replicate 3 DrainSlot.zero).set i ⟨0, 2, 0, 1, [], [], []⟩ }
theorem test_dictionary_drain_met : (drained 2).drq[roleSlot .t]? = some ⟨0, 2, 0, 1, [], [], []⟩ ∧
    (drained 2).drainReach .t ⟨0, 2, 0, 1, [], [], []⟩ = true ∧
    (∀ k ∈ (drained 2).rowKeys (TileRef.ofHandle 0) 0 32, ((drained 2).reg k).checks = true) ∧
    (drained 1).drq[roleSlot .h]? = some ⟨0, 2, 0, 1, [], [], []⟩ ∧ (drained 1).drainReach .h ⟨0, 2, 0, 1, [], [], []⟩ = false := by
  decide +kernel

/-! ### Containment and tenancy -/

/-- The running block with a deck. -/
def decked (d : DeckSt) : State := { on with con := { on.con with deck := d } }
/-- Deck_tests_cores_and_acts: a release test that waits, a turn of the rotation, a test pending on core 0, and one under way. -/
theorem test_deck_rotation_met : on.boot.step = 8 ∧ on.con.deck.state = 0 ∧
    (decked { on.con.deck with prio := [(3, some 50)] }).con.deck.prio.filter
      (fun p => p.2.isSome || !(decked { on.con.deck with prio := [(3, some 50)] }).coreQuarantined p.1) = [(3, some 50)] ∧
    on.con.deck.prio = [] ∧ on.obj (key 0x5000 4) = 0 ∧
    ({ on with clk := ⟨2 ^ 40, false, 0⟩ } : State).con.deck.last + on.obj (key 0x5000 0) / on.conf.cores ≤ 2 ^ 40 ∧
    on.nextInRotation = some 0 := by decide +kernel
def testing (rel : Option Nat) : State := decked ⟨2, some 0, rel, false, [], 1, 900⟩
theorem test_core_test_met : (decked ⟨1, some 0, none, false, [], 1, 900⟩).ops.any (fun o => opOnCore o 0) = false ∧
    (testing none).con.deck.state = 2 ∧ (testing none).con.deck.core = some 0 ∧ (testing none).con.deck.rel = none ∧
    (testing none).coreHealth 0 ≠ 2 ∧ (testing (some 5)).con.deck.rel = some 5 ∧
    ((testing (some 5)).setObj (healthKey (relUnit 5)) 3).obj (healthKey (relUnit 5)) = 3 ∧
    ((testing (some 5)).setObj (healthKey (relUnit 5)) 3).coreHealth 0 ≠ 2 ∧
    (Instr.coreTestEnd 0 (some ⟨.column 0 3, 0, [(0, 3)]⟩)).wf = true := by decide +kernel
/-- A suspect unit without offences that a passing test makes healthy. -/
theorem test_suspect_unit_met : HwUnit.engine 2 ∈ coreUnits 0 ∧
    ((testing none).setObj (healthKey (.engine 2)) 1).obj (healthKey (.engine 2)) = 1 ∧
    ((testing none).setObj (healthKey (.engine 2)) 1).offences (.engine 2) = 0 ∧
    ((testing none).setObj (healthKey (.engine 2)) 1).mapPending (.engine 2) = false := by decide +kernel

/-- Quarantine_decay_and_sweeps: an engine and a core whose quarantine is pending, a suspect unit whose core has passed, a sweep. -/
theorem test_quarantine_met : (on.setObj (healthKey (.engine 2)) 2).obj (healthKey (.engine 2)) = 2 ∧ on.ops = [] ∧
    (on.setObj (healthKey (.drain 1)) 2).obj (healthKey (.drain 1)) = 2 ∧ on.ops.any (fun o => opOnCore o 1) = false := by decide +kernel
theorem test_offence_decay_met : unitBuilt on.conf (.engine 2) = true ∧ (on.setObj (healthKey (.engine 2)) 1).mapPending (.engine 2) = false ∧
    ({ on.setObj (healthKey (.engine 2)) 1 with con := { on.con with clean := [.engine 2] } } : State).obj (healthKey (.engine 2)) = 1 ∧
    (nextOf (exec (.offenceDecay (.engine 2))
      { on.setObj (healthKey (.engine 2)) 1 with con := { on.con with clean := [.engine 2] } })).map (fun t => t.offences (.engine 2)) = some 0 := by
  decide +kernel
theorem test_ageing_sweep_met : ageingBuilt on.conf 0 = true ∧
    ({ on with con := { on.con with sweeps := [0] } } : State).con.sweeps.elem 0 = true ∧ on.outOfUse 0 = true := by decide +kernel

/-- Maps_moves_and_releases: a pending bypass map, a core that moves, a tenant that leaves. -/
theorem test_map_ready_met : (on.setObj (key 0x8002 2) 8).mapReady 2 = true := by decide +kernel
def movingCore : State := { on with moves := [⟨key 0x3200 0, 2, 0⟩] }
theorem test_core_move_met : movingCore.moving 0 = true ∧ movingCore.ops.any (fun o => opOnCore o 0) = false ∧
    (movingCore.moves.map (fun m => m.key)).Nodup := by decide +kernel
theorem test_tenant_release_met : (on.setObj (key 0x3101 0) 2).obj (key (0x3100 + 1) 0) = 2 ∧
    (on.setObj (key 0x3101 0) 2).ops.any (fun o => o.d.tenant == 1) = false := by decide +kernel

/-! ### Worked examples of the spec -/

/-- Rounding to EL16: the midpoints of spec/01 after R29, the bottom of the range, and the overflow threshold of R30. -/
theorem test_rounding_examples : ([(65714 * 2 ^ 255, false), (65714 * 2 ^ 255 + 1, false), (65714 * 2 ^ 255 - 1, false), (66071 * 2 ^ 255, false),
    (16473 * 2 ^ 128, false), (-(16473 * 2 ^ 128), false), (16473 * 2 ^ 128 + 1, false), (-(16473 * 2 ^ 128) - 1, false),
    (130012 * 2 ^ 382, false), (130012 * 2 ^ 382 + 1, false), (130012 * 2 ^ 382 + 1, true)] : List (Int × Bool)).map
      (fun p => (round16 p.1 p.2).code) = [0x4000, 0x4001, 0x4000, 0x4002, 0, 0, 1, 0x8001, 0x7FFE, 0x7FFF, 0x7FFE] := by decide +kernel

/-- R31: direct rounding to EL8 gives 0x41; R32: the comet pair of 1 + 3 × 2^-11. -/
theorem test_el8_and_comet_examples : (round8 (68502 * 2 ^ 255 + 1) false).code = 0x41 ∧
    (convert .comet false (2 ^ 271 + 3 * 2 ^ 260) false false false).head = 0x4000 ∧
    (convert .comet false (2 ^ 271 + 3 * 2 ^ 260) false false false).tail = 0x3B4B := by decide +kernel

/-- R25: 0x4004 × 0x4015 is 37,518 × 2^-15; spec/02: its residues and its canonical trimmed long. -/
theorem test_product_example : (Incoming.ofTerm (product 0x4004 0x4015 false)).v = 37518 * 2 ^ 256 ∧
    trim (LongReg.zero.add (Incoming.ofTerm (product 0x4004 0x4015 false))) 1 = [0x1021560440000000, 0x928E] ∧
    (trim (LongReg.zero.add ⟨-1, false, false, false, false⟩) 1).drop 1 = [0xFFFFFFFFFFFFFFFF] := by decide +kernel

/-- R158: the fused multiplies of spec/06, and a fused add that keeps a bias two roundings lose. -/
theorem test_fusion_examples : (productStep .el16 false 0x4001 0x3F80).head = 0x3F81 ∧ (productStep .el16 false 0x7F00 0x4100).head = 0x7FFF ∧
    (productStep .el16 false 0x7F00 0x4100).ovf = true ∧ (productStep .el16 true 0x7F00 0x4100).head = 0x7FFE ∧
    (productStep .el16 true 0x7F00 0x4100).satd = true ∧ (productStep .el16 false 0x0101 0).head = 0 ∧
    (productStep .el16 false 0x0101 0).unf = false ∧
    (drainAdd .el16 false (LongReg.ofVal (BitVec.ofNat 576 (0x8052 * 2 ^ 256)) false false false false) (Incoming.ofCode 0x3A00 false)).head = 0x4001 ∧
    (drainAdd .el16 false (LongReg.ofVal (BitVec.ofNat 576 (0x8052 * 2 ^ 256)) false false false false) .zero).head = 0x4000 := by decide +kernel

/-- R160: the max record of spec/03 drains to 4.0 with index 0x28. -/
theorem test_compare_example : (drainCompare .el16 false (LongReg.ofVal (BitVec.ofNat 576 (0x8000811400000000 + 0x28 * 2 ^ 64)) false false false false)).head = 0x4100 ∧
    (drainCompare .el16 false (LongReg.ofVal (BitVec.ofNat 576 (0x8000811400000000 + 0x28 * 2 ^ 64)) false false false false)).index = 0x28 := by
  decide +kernel

/-- The descriptor example of spec/05 and its refusal with ALIGN, AUX 5. -/
def dExample (w5 : W64) : Desc :=
  ⟨0x1023000700001001, 0x000000C800200000, 0x0000020000000800, 0x0010000000000000, 0xFEDCBA9876543210, w5, 0x200000, 0x0040010000000000⟩
def tenant3 : State := { on with
  dict := { on.dict with vals := [(key 0x3103 0, 1), (key 0x3103 5, 2 ^ 25), (key 0x3103 6, 7), (key 0x3183 1, 2 ^ 24), (key 0x3200 0, 3)] } }
theorem test_descriptor_example : kindOf (dExample 0) = some .stream ∧ (dExample 0).tenant = 3 ∧ (dExample 0).epoch = 7 ∧ (dExample 0).tag = 0x1001 ∧
    (dExample 0).wreq = 200 ∧ (dExample 0).m = 512 ∧ (dExample 0).k = 2048 ∧ (dExample 0).n = 4096 := by decide +kernel
theorem test_descriptor_align_example : (nextOf (exec (.stream (dExample 0x20)) tenant3)).map (fun t => t.out) =
    some [.resp [(0x1204300500001001, 0)], .credit 0 2 1] := by decide +kernel

/-- The datagrams of spec/15: a READ of the window cap, a WRITE out of range, and one in range. -/
def xread (w0 w1 : Nat) (v : List Byte) : Datagram := ⟨0x80FE, on.ownAddress, 49152, on.obj (key 0x1400 0), true, dgBytes w0 w1 v⟩
theorem test_read_example : (nextOf (exec (.write (xread 0x1100220001000000 0x4200000000 [])) on)).map (fun t => t.out) =
    some [on.sends 0x80FE 49152 (dgBytes 0x1300220001000008 0x4200000000 [0x40, 0x4B, 0x4C, 0, 0, 0, 0, 0])] := by decide +kernel
theorem test_write_range_example : (nextOf (exec (.write (xread 0x1200220001000008 0x4300000000 [0, 0x2D, 0x31, 1, 0, 0, 0, 0])) on)).map
    (fun t => (t.out, t.obj (key 0x2200 1))) = some ([on.sends 0x80FE 49152 (dgBytes 0x1307220001000000 0x4300000000 [])], 5000000) := by
  decide +kernel
theorem test_write_example : (nextOf (exec (.write (xread 0x1200220001000008 0x4400000000 [0x80, 0x84, 0x1E, 0, 0, 0, 0, 0])) on)).map
    (fun t => (t.out, t.obj (key 0x2200 1))) = some ([on.sends 0x80FE 49152 (dgBytes 0x1300220001000000 0x4400000000 [])], 2000000) := by
  decide +kernel

end Sys2Proof.Tests
end

section
/-! The exact sum of a list of terms, and the running sum of a column that holds it modulo 2^576 (R37, R43 to R53). -/

namespace Sys2Proof.Machine

/-! ### Things that enter a register together -/

theorem Incoming.plus_assoc (a b c : Incoming) : (a.plus b).plus c = a.plus (b.plus c) := by
  simp [Incoming.plus, add_assoc, Bool.or_assoc]

@[simp] theorem Incoming.zero_plus (a : Incoming) : Incoming.zero.plus a = a := by
  simp [Incoming.plus, Incoming.zero]

@[simp] theorem Incoming.plus_zero (a : Incoming) : a.plus Incoming.zero = a := by
  simp [Incoming.plus, Incoming.zero]

/-! ### The exact sum of a list of terms -/

@[simp] theorem sumTerms_nil : sumTerms [] = Incoming.zero := rfl

/-- What has entered before the terms stays in front of their sum. -/
theorem foldl_plus_eq_plus_sumTerms (ts : List Term) (a : Incoming) :
    ts.foldl (fun a t => a.plus (Incoming.ofTerm t)) a = a.plus (sumTerms ts) := by
  unfold sumTerms
  induction ts generalizing a with
  | nil => simp
  | cons t r ih => rw [List.foldl_cons, List.foldl_cons, ih, ih (Incoming.zero.plus _), Incoming.zero_plus, Incoming.plus_assoc]

theorem sumTerms_cons (t : Term) (ts : List Term) : sumTerms (t :: ts) = (Incoming.ofTerm t).plus (sumTerms ts) := by
  rw [← foldl_plus_eq_plus_sumTerms, ← Incoming.zero_plus (Incoming.ofTerm t)]
  rfl

theorem sumTerms_append (a b : List Term) : sumTerms (a ++ b) = (sumTerms a).plus (sumTerms b) := by
  rw [← foldl_plus_eq_plus_sumTerms b, sumTerms, List.foldl_append]
  rfl

/-- The rows with which a group is filled up add nothing (R45). -/
theorem sumTerms_replicate_zero (n : Nat) : sumTerms (List.replicate n (specialTerm .zero false)) = Incoming.zero := by
  induction n with
  | zero => rfl
  | succ n ih => rw [List.replicate_succ, sumTerms_cons, ih]; rfl

/-- The exact sum, part by part: the values as integers, and each flag when a term has it. -/
theorem sumTerms_eq (ts : List Term) :
    sumTerms ts = ⟨(ts.map Term.value).sum, ts.any (fun t => t.cls == .nan), ts.any (fun t => t.cls == .pinf),
      ts.any (fun t => t.cls == .ninf), ts.any (fun t => t.psn)⟩ := by
  induction ts with
  | nil => rfl
  | cons t r ih => rw [sumTerms_cons, ih]; rfl

/-! ### Positions of terms, and the window of their group -/

/-- The positions of the format: the anchor of a group of such terms is at most limb 8, the register's highest (R35, R47). -/
def Term.fits (t : Term) : Prop := t.pos ≤ 511

theorem specialTerm_fits (c : Cls) (psn : Bool) : (specialTerm c psn).fits := Nat.zero_le _

/-- The log fields of two codes add up to less than 2^16, so that the position of their product is below 512 (R35). -/
theorem product_fits (a b : Code) (psn : Bool) : (product a b psn).fits := by
  have ha : logField a < 32768 := Nat.mod_lt _ (by decide)
  have hb : logField b < 32768 := Nat.mod_lt _ (by decide)
  have hp : (logField a + logField b) / 128 ≤ 511 := by omega
  unfold product
  dsimp only
  split_ifs
  iterate 4 · exact specialTerm_fits _ _
  · exact hp

theorem cellTerm_fits (d : Desc) (p : Pass) (j : Nat) (a : Cell) (w : Elem) : (cellTerm d p j a w).fits := by
  unfold cellTerm
  dsimp only
  split
  · exact specialTerm_fits _ _
  · exact product_fits _ _ _

theorem colTerms_fit (o : Op) (ci : Nat) (k : Tok) (col j : Nat) : ∀ t ∈ colTerms o ci k col j, t.fits := by
  intro t ht
  obtain ⟨lw, -, rfl⟩ := List.mem_map.mp ht
  exact cellTerm_fits _ _ _ _ _

theorem topPos_le {ts : List Term} (h : ∀ t ∈ ts, t.fits) : ∀ p, topPos ts = some p → p ≤ 511 := by
  unfold topPos
  refine List.foldlRecOn (motive := fun a => ∀ p, a = some p → p ≤ 511) _ _ (by simp) (fun a ha t ht p hp => ?_)
  have htp : t.pos ≤ 511 := h t (List.mem_of_mem_filter ht)
  obtain rfl : max (a.getD t.pos) t.pos = p := by simpa [maxOpt] using hp
  cases a with
  | none => simpa using htp
  | some q => exact Nat.max_le.mpr ⟨ha q rfl, htp⟩

theorem windowLo_le_four {ts : List Term} (h : ∀ t ∈ ts, t.fits) : windowLo ts ≤ 4 := by
  have htop := topPos_le h
  unfold windowLo anchorLimb
  cases hp : topPos ts with
  | none => simp
  | some p =>
    have := htop p hp
    dsimp only
    omega

/-! ### The running sum of a column -/

/-- A running sum whose number is a value modulo 2^576, with the flags and the poison that go with the value. -/
structure RunSum.Holds (r : RunSum) (i : Incoming) : Prop where
  n : r.n = BitVec.ofInt 576 i.v
  nan : r.nan = i.nan
  pinf : r.pinf = i.pinf
  ninf : r.ninf = i.ninf
  psn : r.psn = i.psn

theorem RunSum.zero_holds : RunSum.zero.Holds Incoming.zero :=
  ⟨by simp [RunSum.zero, Incoming.zero], rfl, rfl, rfl, rfl⟩

/-- A group that enters adds the exact sum of its terms (R44, R47, R48). -/
theorem RunSum.Holds.enterGroup {r : RunSum} {i : Incoming} {ts : List Term} (hr : r.Holds i) (ht : ∀ t ∈ ts, t.fits) :
    (r.enterGroup ts).Holds (i.plus (sumTerms ts)) := by
  obtain ⟨hn, hnan, hpinf, hninf, hpsn⟩ := hr
  rw [sumTerms_eq]
  refine ⟨?_, congrArg (· || _) hnan, congrArg (· || _) hpinf, congrArg (· || _) hninf, congrArg (· || _) hpsn⟩
  rw [RunSum.enterGroup_n (windowLo_le_four ht), hn, ← BitVec.ofInt_add]
  rfl

/-- The groups of a list of terms, entering one after another, add the exact sum of the list (R44, R45). -/
theorem RunSum.Holds.enterGroups {g : Nat} (hg : 0 < g) (fuel : Nat) {ts : List Term} (hf : ts.length ≤ fuel)
    {r : RunSum} {i : Incoming} (hr : r.Holds i) (ht : ∀ t ∈ ts, t.fits) :
    ((groupsOf g ts fuel).foldl RunSum.enterGroup r).Holds (i.plus (sumTerms ts)) := by
  induction fuel generalizing ts r i with
  | zero =>
    obtain rfl := List.length_eq_zero_iff.mp (Nat.le_zero.mp hf)
    simpa [groupsOf] using hr
  | succ fuel ih =>
    cases ts with
    | nil => simpa [groupsOf] using hr
    | cons t l =>
      have hsplit : sumTerms (t :: l) = (sumTerms ((t :: l).take g)).plus (sumTerms ((t :: l).drop g)) := by
        rw [← sumTerms_append, List.take_append_drop]
      have hlen : ((t :: l).drop g).length ≤ fuel := by
        simp only [List.length_drop, List.length_cons] at hf ⊢
        omega
      have hpad : ∀ x ∈ (t :: l).take g ++ List.replicate (g - ((t :: l).take g).length) (specialTerm .zero false), x.fits := by
        intro x hx
        rcases List.mem_append.mp hx with hx | hx
        · exact ht x (List.mem_of_mem_take hx)
        · exact List.eq_of_mem_replicate hx ▸ specialTerm_fits _ _
      have hfirst := hr.enterGroup hpad
      rw [sumTerms_append, sumTerms_replicate_zero, Incoming.plus_zero] at hfirst
      rw [hsplit, ← Incoming.plus_assoc]
      exact ih hlen hfirst (fun x hx => ht x (List.mem_of_mem_drop hx))

/-- The running sum of a column holds the exact sum of its terms (R37, R44 to R48). -/
theorem columnSum_holds {g : Nat} (hg : 0 < g) {ts : List Term} (ht : ∀ t ∈ ts, t.fits) : (columnSum g ts).Holds (sumTerms ts) := by
  simpa [columnSum] using RunSum.zero_holds.enterGroups hg ts.length (Nat.le_refl _) ht

theorem groupSize_pos (gs : Nat) : 0 < groupSize gs := by
  unfold groupSize
  split_ifs <;> decide

theorem runningSum_holds (o : Op) (ci : Nat) (k : Tok) (col j : Nat) :
    (runningSum o ci k col j).Holds (sumTerms (colTerms o ci k col j)) := by
  obtain ⟨hn, hnan, hpinf, hninf, hpsn⟩ := columnSum_holds (groupSize_pos o.d.gs) (colTerms_fit o ci k col j)
  exact ⟨hn, hnan, hpinf, hninf, hpsn⟩

/-! ### The register that a running sum without a fault leaves -/

/-- Outside compare mode the value of the running sum is added modulo 2^576 and its flags are ORed (R43, R51). -/
theorem sumNew_adds {d : Desc} (hd : d.op ≠ 0x05) (r : LongReg) {run : RunSum} {i : Incoming} (h : run.Holds i) :
    (sumNew d r run 0).n = r.n + BitVec.ofInt 576 i.v ∧ (sumNew d r run 0).nan = (r.nan || i.nan) ∧
      (sumNew d r run 0).pinf = (r.pinf || i.pinf) ∧ (sumNew d r run 0).ninf = (r.ninf || i.ninf) ∧
      (sumNew d r run 0).poison = (r.poison || i.psn) := by
  obtain ⟨hn, hnan, hpinf, hninf, hpsn⟩ := h
  simp [sumNew, hd, LongReg.addRun, ← hn, ← hnan, ← hpinf, ← hninf, ← hpsn]

/-- In compare mode the running candidate is ranked against the record (R90). -/
theorem sumNew_compares {d : Desc} (hd : d.op = 0x05) (r : LongReg) (run : RunSum) : sumNew d r run 0 = r.compare d.dirMin run := by
  simp [sumNew, hd]

end Sys2Proof.Machine
end

section
/-! RUNNING_SUM_ADD of a sum that passes its checks: what it writes and what it leaves unchanged. -/

namespace Sys2Proof.Machine

/-! ### Updates that touch no register, weight, tile or byte -/

/-- The two states agree in the registers, the weights and their shadow, the planner's tiles and the buffer. -/
structure State.SameArray (s t : State) : Prop where
  regs : t.regs = s.regs
  cells : t.cells = s.cells
  shadow : t.shadow = s.shadow
  tiles : t.tiles = s.tiles
  buf : t.buf = s.buf

namespace State.SameArray

variable {s t u : State}

theorem refl (s : State) : s.SameArray s := ⟨rfl, rfl, rfl, rfl, rfl⟩

theorem trans (h : s.SameArray t) (g : t.SameArray u) : s.SameArray u :=
  ⟨g.regs.trans h.regs, g.cells.trans h.cells, g.shadow.trans h.shadow, g.tiles.trans h.tiles, g.buf.trans h.buf⟩

theorem foldl {α : Type} {f : State → α → State} (hf : ∀ (s : State) a, s.SameArray (f s a)) (l : List α) (s : State) :
    s.SameArray (l.foldl f s) :=
  List.foldlRecOn l f (refl s) (fun t ht a _ => ht.trans (hf t a))

theorem reg (h : s.SameArray t) (k : Nat) : t.reg k = s.reg k := congrArg (sget LongReg.zero · k) h.regs

theorem bump (s : State) (k n : Nat) : s.SameArray (s.bump k n) := ⟨by simp, by simp, by simp, by simp, by simp⟩

theorem event (s : State) (e : Event) : s.SameArray (s.event e) := ⟨by simp, by simp, by simp, by simp, by simp⟩

theorem mapOp (s : State) (id : Nat) (f : Op → Op) : s.SameArray (s.mapOp id f) := ⟨rfl, rfl, rfl, rfl, rfl⟩

theorem setChain (s : State) (c : ChainId) (v : ChainSt) : s.SameArray (s.setChain c v) := ⟨rfl, rfl, rfl, rfl, rfl⟩

theorem capCleared (s : State) (i : Nat) : s.SameArray (s.capCleared i) := ⟨rfl, rfl, rfl, rfl, rfl⟩

theorem retryRecord (s : State) (e : Event) (cleared : Bool) (tag : Nat) : s.SameArray (s.retryRecord e cleared tag) := by
  unfold State.retryRecord
  dsimp only
  split <;> exact (bump _ _ _).trans (event _ _)

theorem retryEvent (s : State) (o : Op) (cleared : Bool) (unit loc : Nat) (pos : Option (Nat × Nat)) (cls : Nat) :
    s.SameArray (s.retryEvent o cleared unit loc pos cls) := retryRecord _ _ _ _

theorem clearRetry (s : State) (o : Op) (c : ChainId) (k : Tok) (col j : Nat) : s.SameArray (s.clearRetry o c k col j) := by
  unfold State.clearRetry
  dsimp only
  split
  · exact refl s
  · split
    · exact (setChain _ _ _).trans (retryEvent _ _ _ _ _ _ _)
    · exact ((setChain _ _ _).trans (capCleared _ _)).trans (retryEvent _ _ _ _ _ _ _)

theorem markSum (s : State) (o : Op) (c : ChainId) (ci : Nat) (k : Tok) (col j : Nat) : s.SameArray (s.markSum o c ci k col j) := by
  unfold State.markSum
  dsimp only
  split
  · exact (setChain _ _ _).trans (mapOp _ _ _)
  · exact setChain _ _ _

theorem laneParity (s : State) (o : Op) (c : ChainId) (k : Tok) (col : Nat) : s.SameArray (s.laneParity o c k col) := by
  unfold State.laneParity
  refine foldl (fun s l => ?_) _ s
  dsimp only
  split
  · exact refl s
  · exact (bump _ _ _).trans (event _ _)

end State.SameArray

/-! ### The command -/

/-- The check of a sum that met no fault reads nothing of the state but the registers. -/
theorem State.sumFails_congr {s t : State} (h : s.SameArray t) (o : Op) (c : ChainId) (ci : Nat) (k : Tok) (col j rk : Nat) :
    t.sumFails o c ci k col j none rk = s.sumFails o c ci k col j none rk := by
  simp only [State.sumFails, h.reg, Option.filter_none, Option.map_none]

/-- A sum that enters changes its one register, and the array no further. -/
theorem State.addSum_sameArray (s : State) (o : Op) (c : ChainId) (ci : Nat) (k : Tok) (col j rk : Nat) :
    (s.setReg rk (sumNew o.d (s.reg rk) (runningSum o ci k col j) 0)).SameArray (s.addSum o c ci k col j none rk) :=
  (SameArray.clearRetry _ _ _ _ _ _).trans (SameArray.markSum _ _ _ _ _ _ _)

/-- RUNNING_SUM_ADD of a sum that passes its checks, as one write of a register. -/
theorem exec_runningSumAdd_passes {ch : ChainId} {col j : Nat} {o : Op} {ci : Nat} {k : Tok} {rk : Nat} {s : State}
    (ha : s.addable ch col j = some (o, ci, k, rk)) (hf : s.sumFails o ch ci k col j none rk = none) :
    ∃ t, exec (.runningSumAdd ch col j none) s = .next t ∧
      (s.setReg rk (sumNew o.d (s.reg rk) (runningSum o ci k col j) 0)).SameArray t := by
  set s1 : State := if j = 0 then s.laneParity o ch k col else s with hs1
  have h1 : s.SameArray s1 := by
    rw [hs1]
    split
    · exact .laneParity _ _ _ _ _
    · exact .refl s
  have hexec : exec (.runningSumAdd ch col j none) s = .next (s1.addSum o ch ci k col j none rk) := by
    change execRunningSumAdd ch col j none s = _
    simp only [execRunningSumAdd, ha, ← hs1, State.sumFails_congr h1, hf]
  obtain ⟨hregs, hcells, hshadow, htiles, hbuf⟩ := s1.addSum_sameArray o ch ci k col j rk
  refine ⟨_, hexec, ?_, hcells.trans h1.cells, hshadow.trans h1.shadow, htiles.trans h1.tiles, hbuf.trans h1.buf⟩
  rw [hregs, State.setReg_regs, State.setReg_regs, h1.regs, h1.reg]

/-- Settles O19: the command is one write of a register, and the running sum holds the exact sum of its column's terms. -/
theorem runningSumEntersItsRegister : Obligations.Running_sum_enters_its_register := by
  intro ch col j o ci k rk s ha hf
  obtain ⟨t, hexec, ht⟩ := exec_runningSumAdd_passes ha hf
  have hrk : t.reg rk = sumNew o.d (s.reg rk) (runningSum o ci k col j) 0 := by rw [ht.reg, State.reg_setReg, if_pos rfl]
  refine ⟨t, hexec, fun hop => ?_, fun hop => ?_, fun x hx => ?_, ht.cells, ht.shadow, ht.tiles, ht.buf⟩
  · rw [hrk]
    exact sumNew_adds hop _ (runningSum_holds o ci k col j)
  · rw [hrk]
    exact sumNew_compares hop _ _
  · rw [ht.reg, State.reg_setReg, if_neg hx]

end Sys2Proof.Machine
end

section
/-! SPINE_SEND of a register that is due and whose read passes. -/

namespace Sys2Proof.Machine

/-- A read that meets no error reads the register. -/
@[simp] theorem LongReg.off_zero (r : LongReg) : r.off 0 = r := by simp [LongReg.off]

/-- A register that passes its check, read without a fault, is delivered as it is. -/
theorem LongReg.read_nil {r : LongReg} (h : r.checks = true) (j : Nat) : r.read [] j = ⟨r, none⟩ := by
  simp [LongReg.read, h]

theorem State.spineWords_nil {s : State} {rk : Nat} (h : (s.reg rk).checks = true) (o : Op) (j : Nat) :
    s.spineWords o rk [] j = trim (s.reg rk) (s.boundOf o (quarterOfReg rk)) := by
  rw [State.spineWords, LongReg.read_nil h]

theorem State.checkRead_nil {s : State} {rk : Nat} (h : (s.reg rk).checks = true) (o : Op) (t : TileRef) (j : Nat) :
    s.checkRead o rk t [] j = s := by
  rw [State.checkRead, LongReg.read_nil h]

@[simp] theorem State.link_setReg (s : State) (k : Nat) (r : LongReg) (c : Nat) : (s.setReg k r).link c = s.link c := by
  rw [State.link, State.setReg_spine, State.link]

/-- A message enters the send buffer of a link and leaves on its wire (R113, R255). -/
def LinkSt.sent (l : LinkSt) (m : SpineMsg) : LinkSt := { l with buf := l.buf ++ [m], wire := l.wire ++ [m] }

/-- What SPINE_SEND leaves of a register whose read passes: it is cleared, its message is on the link of `core`, and its op has it noted
as sent. -/
def State.spineSent (s : State) (core rk : Nat) (m : SpineMsg) : State :=
  ((s.setReg rk .zero).setLink core ((s.link core).sent m)).mapOp m.op
    (fun p => { p with rows := p.rows ++ [spineKey m.sc m.ci m.row m.col false] })

section
variable (s : State) (core rk : Nat) (m : SpineMsg)

theorem State.spineSent_reg (k : Nat) : (s.spineSent core rk m).reg k = if k = rk then LongReg.zero else s.reg k := by
  rw [← State.reg_setReg, State.reg, State.reg, State.spineSent, State.mapOp_regs, State.setLink_regs]

theorem State.spineSent_link : (s.spineSent core rk m).link core = (s.link core).sent m := by
  rw [State.link, State.spineSent, State.mapOp_spine, ← State.link, State.link_setLink, if_pos rfl]

theorem State.spineSent_frame :
    { s.spineSent core rk m with regs := s.regs, spine := s.spine, ops := s.ops } = s := by
  simp only [State.spineSent, State.mapOp, State.setLink, State.setReg]

theorem State.spineSent_ops : (s.spineSent core rk m).ops =
    s.ops.map (fun p => if p.id = m.op then { p with rows := p.rows ++ [spineKey m.sc m.ci m.row m.col false] } else p) := by
  simp only [State.spineSent, State.mapOp, State.setLink_ops, State.setReg_ops, beq_iff_eq]

end

/-- SPINE_SEND of a register that is due and whose read passes (R113). -/
theorem exec_spineSend_due {id sc ci row col : Nat} {o : Op} {c : ChainId} {rk : Nat} {r : RowRef} {s : State} {m : SpineMsg}
    (hm : m = ⟨id, sc, ci, row, col, trim (s.reg rk) (s.boundOf o (quarterOfReg rk)), false⟩)
    (hop : s.op? id = some o) (hc : o.chains[sc * o.d.nchain + ci]? = some c) (hreg : s.spineReg o sc ci row col = some (rk, r))
    (hchk : (s.reg rk).checks = true)
    (hdue : sc < o.d.spinen ∧ ci < o.d.nchain ∧ row < o.d.m ∧ col < s.opCols o c (sc * o.d.nchain + ci) ∧ !o.stopped ∧
      !o.rows.elem (spineKey sc ci row col false) ∧ sumsIn o (sc * o.d.nchain + ci) row ∧
      (sc = 0 ∨ o.rows.elem (spineKey sc ci row col true)) ∧
      spineOrder o sc ci row col (s.opCols o c (sc * o.d.nchain + ci)) ∧
      linkFlits (s.link c.core) + msgFlits m ≤ 64 ∧ s.rowOpen o r) :
    exec (.spineSend ⟨id, []⟩ sc ci row col) s = .next (s.spineSent c.core rk m) := by
  subst hm
  change execSpineSend ⟨id, []⟩ sc ci row col s = _
  simp only [execSpineSend, hop, hc, hreg, State.spineWords_nil hchk, State.checkRead_nil hchk, LongReg.read_nil hchk, if_pos hdue,
    Option.any_none, Bool.false_eq_true, if_false, State.link_setReg]
  rfl

/-- Settles O24: under its conditions the command leaves `State.spineSent`, whose parts are those that the statement names. -/
theorem spineSendMovesOneRegister : Obligations.Spine_send_moves_one_register := by
  intro id sc ci row col o c rk r s m cols hop hc hreg hchk hsc hci hrow hcol hstop hsent hsums harr hord hfit hopen
  have hexec : exec (.spineSend ⟨id, []⟩ sc ci row col) s = .next (s.spineSent c.core rk m) :=
    exec_spineSend_due rfl hop hc hreg hchk
      ⟨hsc, hci, hrow, hcol, by rw [hstop]; rfl, by rw [hsent]; rfl, hsums, harr, hord, hfit, hopen⟩
  refine ⟨_, hexec, ?cleared, fun k hk => ?others, ?wire, ?buf, s.spineSent_frame .., s.spineSent_ops ..⟩
  case cleared => rw [State.spineSent_reg, if_pos rfl]
  case others => rw [State.spineSent_reg, if_neg hk]
  case wire => rw [State.spineSent_link]; rfl
  case buf => rw [State.spineSent_link]; rfl

end Sys2Proof.Machine
end

section
/-! Several writes of a sparse table, one after another, and what a change of the records and the staging leaves unchanged. -/

namespace Sys2Proof.Machine

/-! ### Folds of writes, and filters by key -/

section
variable {α β : Type} [DecidableEq β] {d : β} {f : α → Nat} {v : α → β} {k : Nat}

/-- A key that no write names reads as before. -/
theorem sget_foldl_sset_of_ne {l : List α} (h : ∀ a ∈ l, k ≠ f a) (m : Sparse β) :
    sget d (l.foldl (fun m a => sset d m (f a) (v a)) m) k = sget d m k :=
  List.foldlRecOn l _ (motive := fun m' => sget d m' k = sget d m k) rfl
    (fun _ hm a ha => (sget_sset_ne (h a ha)).trans hm)

/-- Writes of different keys: each key reads the value written to it. -/
theorem sget_foldl_sset_of_mem {l : List α} {a : α} (ha : a ∈ l) (hinj : ∀ b ∈ l, f b = f a → b = a) (m : Sparse β) :
    sget d (l.foldl (fun m a => sset d m (f a) (v a)) m) (f a) = v a := by
  induction l generalizing m with
  | nil => cases ha
  | cons b l ih =>
    rw [List.foldl_cons]
    by_cases hl : a ∈ l
    · exact ih hl (fun x hx => hinj x (List.mem_cons_of_mem _ hx)) _
    · obtain rfl : a = b := (List.mem_cons.mp ha).resolve_right hl
      have hne : ∀ x ∈ l, f a ≠ f x := fun x hx e => hl (hinj x (List.mem_cons_of_mem _ hx) e.symm ▸ hx)
      rw [sget_foldl_sset_of_ne hne, sget_sset, if_pos rfl]

omit [DecidableEq β] in
/-- A table of which the entries with some keys are kept. -/
theorem sget_filter_key {p : Nat → Bool} (m : Sparse β) (k : Nat) :
    sget d (m.filter (fun e => p e.1)) k = if p k = true then sget d m k else d := by
  have hfind : sfind (m.filter (fun e => p e.1)) k = if p k = true then sfind m k else none := by
    induction m with
    | nil => simp [sfind]
    | cons e m ih =>
      obtain ⟨a, w⟩ := e
      by_cases hak : a = k
      · subst hak
        by_cases hp : p a = true <;> simp [sfind, hp, ih]
      · by_cases hp : p a = true <;> simp [sfind, hp, hak, ih]
  unfold sget
  rw [hfind]
  split <;> rfl

end

/-- The members after several insertions. -/
theorem mem_foldl_insN {l m : List Nat} {k : Nat} : k ∈ l.foldl insN m ↔ k ∈ m ∨ k ∈ l := by
  induction l generalizing m with
  | nil => simp
  | cons a l ih => rw [List.foldl_cons, ih, mem_insN, List.mem_cons, or_comm (a := k = a), or_assoc]

/-! ### Keys of registers and cells -/

/-- The key of a cell determines its row and column. -/
theorem regKey_inj {n row row' p p' : Nat} (hp : p < 32) (hp' : p' < 32) (h : regKey n row p = regKey n row' p') :
    row = row' ∧ p = p' := by
  unfold regKey at h
  omega

theorem lt_of_mem_sideCols {q p : Nat} (h : p ∈ sideCols q) : p < 32 := by
  unfold sideCols at h
  split_ifs at h
  · exact List.mem_range.mp h
  · exact Nat.lt_of_lt_of_le (List.mem_range.mp h) (by decide)
  · obtain ⟨i, hi, rfl⟩ := List.mem_map.mp h
    have := List.mem_range.mp hi
    omega

theorem sideCols_nodup (q : Nat) : (sideCols q).Nodup := by
  unfold sideCols
  split_ifs
  · exact List.nodup_range
  · exact List.nodup_range
  · exact List.nodup_range.map (add_left_injective 16)

theorem State.physCols_nodup (s : State) (t : TileRef) : (s.physCols t).Nodup := (sideCols_nodup _).filter _

theorem State.lt_of_mem_physCols {s : State} {t : TileRef} {p : Nat} (h : p ∈ s.physCols t) : p < 32 :=
  lt_of_mem_sideCols (List.mem_of_mem_filter h)

/-! ### Records and staging -/

/-- The two states agree in the array, the shadow-written marks, the chains and the meter, and each op has presented as many tokens. -/
structure State.SameWork (s t : State) : Prop extends State.SameArray s t where
  swr : t.swr = s.swr
  chains : t.chains = s.chains
  pwr : t.pwr = s.pwr
  pres : t.ops.map (fun p => (p.id, p.pres)) = s.ops.map (fun p => (p.id, p.pres))

namespace State.SameWork

variable {s t u : State}

theorem refl (s : State) : s.SameWork s := ⟨.refl s, rfl, rfl, rfl, rfl⟩

theorem trans (h : s.SameWork t) (g : t.SameWork u) : s.SameWork u :=
  ⟨h.toSameArray.trans g.toSameArray, g.swr.trans h.swr, g.chains.trans h.chains, g.pwr.trans h.pwr, g.pres.trans h.pres⟩

theorem foldl {α : Type} {f : State → α → State} (hf : ∀ (s : State) a, s.SameWork (f s a)) (l : List α) (s : State) :
    s.SameWork (l.foldl f s) :=
  List.foldlRecOn l f (refl s) (fun t ht a _ => ht.trans (hf t a))

theorem chain (h : s.SameWork t) (c : ChainId) : t.chain c = s.chain c := congrArg (sget ChainSt.zero · (chainKey c)) h.chains

theorem bump (s : State) (k n : Nat) : s.SameWork (s.bump k n) := ⟨.bump s k n, by simp, by simp, by simp, by simp⟩

theorem event (s : State) (e : Event) : s.SameWork (s.event e) := ⟨.event s e, by simp, by simp, by simp, by simp⟩

/-- Parity failures of weights are counted and recorded (R249). -/
theorem cellParity (s : State) (tn : Option Nat) (c : ChainId) (r cols : Nat) : s.SameWork (s.cellParity tn c r cols) := by
  unfold State.cellParity
  refine foldl (fun s j => ?_) _ s
  split
  · exact refl s
  · exact (bump _ _ _).trans (event _ _)

/-- Parity failures of buffer units are counted and recorded (R249). -/
theorem parityEvents (s : State) (tn : Option Nat) (r : Reader) (keys : List Nat) : s.SameWork (s.parityEvents tn r keys) :=
  foldl (fun _ _ => (bump _ _ _).trans (event _ _)) _ s

/-- What is sent and what the staging holds are no part of the work. -/
theorem staged (s : State) (os : List Out) (g : Staging) : s.SameWork { s with out := os, stg := g } :=
  ⟨⟨rfl, rfl, rfl, rfl, rfl⟩, rfl, rfl, rfl, rfl⟩

theorem freeLines (s : State) (gone : SLine → Bool) : s.SameWork (s.freeLines gone) :=
  (staged s s.out _).trans (foldl (fun s _ => staged s _ s.stg) _ _)

/-- A change of an op that leaves its number and its count of presented tokens. -/
theorem mapOp (s : State) (id : Nat) {f : Op → Op} (hf : ∀ p, ((f p).id, (f p).pres) = (p.id, p.pres)) : s.SameWork (s.mapOp id f) := by
  refine ⟨.mapOp s id f, rfl, rfl, rfl, ?_⟩
  unfold State.mapOp
  rw [List.map_map]
  refine List.map_congr_left (fun p _ => ?_)
  rw [Function.comp_apply]
  split
  · exact hf p
  · rfl

theorem requestRun (s : State) (o : Op) (ten : Nat) : s.SameWork (s.requestRun o ten) := by
  unfold State.requestRun
  dsimp only
  split
  · exact refl s
  · split
    · exact refl s
    · exact (staged s _ _).trans (mapOp _ _ (fun _ => rfl))

theorem requestAll (s : State) (id ten fuel : Nat) : s.SameWork (s.requestAll id ten fuel) := by
  induction fuel generalizing s with
  | zero => exact refl s
  | succ k ih =>
    unfold State.requestAll
    split
    · exact refl s
    · split
      · exact (requestRun _ _ _).trans (ih _)
      · exact refl s

/-- The lines of a ring leave it and the next ones are asked for (Table 09-1). -/
theorem settleRing (s : State) (id ten : Nat) : s.SameWork (s.settleRing id ten) := by
  unfold State.settleRing
  split
  · exact refl s
  · split
    · exact (freeLines _ _).trans (requestAll _ _ _ _)
    · exact refl s

end State.SameWork

end Sys2Proof.Machine
end

section
/-! SHADOW_ROW_WRITE, SWAP_FRONT and TOKEN_PRESENT: what each writes in the array and what it leaves unchanged. -/

namespace Sys2Proof.Machine

/-! ### SHADOW_ROW_WRITE (R70, R83, R248) -/

/-- The key of the shadow cell that logical column `j` of a row steers to (R83). -/
def State.steeredKey (s : State) (t : TileRef) (row j : Nat) : Nat := regKey t.n (t.row0 + row) ((s.physCols t).getD j 0)

/-- The shadow after the write of a row: the columns one after another. -/
theorem State.putShadow_eq (s : State) (t : TileRef) (row : Nat) (es : List Code) (ps : List Bool) :
    s.putShadow t row es ps = { s with
      shadow := (List.range es.length).foldl (fun m j =>
        sset .zero m (s.steeredKey t row j) (Cell.make (es.getD j 0) (ps.getD j false))) s.shadow } := by
  have hfold (l : List Nat) (u : State) :
      l.foldl (fun u j => ({ u with
        shadow := sset .zero u.shadow (s.steeredKey t row j) (Cell.make (es.getD j 0) (ps.getD j false)) } : State)) u =
      { u with
        shadow := l.foldl (fun m j =>
          sset .zero m (s.steeredKey t row j) (Cell.make (es.getD j 0) (ps.getD j false))) u.shadow } := by
    induction l generalizing u with
    | nil => rfl
    | cons j l ih => exact ih _
  exact hfold _ s

section
variable {s : State} {t : TileRef} {row j : Nat} {es : List Code} {ps : List Bool}

/-- A column within the presented width steers to its physical column. -/
theorem State.steeredKey_of_getElem? {p : Nat} (hp : (s.physCols t)[j]? = some p) :
    s.steeredKey t row j = regKey t.n (t.row0 + row) p := by
  rw [State.steeredKey, List.getD_eq_getElem?_getD, hp, Option.getD_some]

/-- Different columns within the presented width steer to different cells. -/
theorem State.steeredKey_inj {i : Nat} (hi : i < s.width t) (hj : j < s.width t) (h : s.steeredKey t row i = s.steeredKey t row j) :
    i = j := by
  have hpi := List.getElem?_eq_getElem hi
  have hpj := List.getElem?_eq_getElem hj
  rw [State.steeredKey_of_getElem? hpi, State.steeredKey_of_getElem? hpj] at h
  have hcol := (regKey_inj (State.lt_of_mem_physCols (List.getElem_mem hi)) (State.lt_of_mem_physCols (List.getElem_mem hj)) h).2
  exact ((s.physCols_nodup t).getElem_inj_iff).mp hcol

/-- A cell of the row takes its code and poison. -/
theorem State.putShadow_at (hw : es.length ≤ s.width t) (hj : j < es.length) :
    sget Cell.zero (s.putShadow t row es ps).shadow (s.steeredKey t row j) = Cell.make (es.getD j 0) (ps.getD j false) := by
  rw [State.putShadow_eq]
  refine sget_foldl_sset_of_mem (v := fun j => Cell.make (es.getD j 0) (ps.getD j false)) (List.mem_range.mpr hj) (fun i hi h => ?_) _
  exact State.steeredKey_inj (Nat.lt_of_lt_of_le (List.mem_range.mp hi) hw) (Nat.lt_of_lt_of_le hj hw) h

/-- The cells of other places stay as they are. -/
theorem State.putShadow_elsewhere {k : Nat} (h : ∀ j, j < es.length → k ≠ s.steeredKey t row j) :
    sget Cell.zero (s.putShadow t row es ps).shadow k = sget Cell.zero s.shadow k := by
  rw [State.putShadow_eq]
  exact sget_foldl_sset_of_ne (fun j hj => h j (List.mem_range.mp hj)) _

end

theorem allSome_length {α : Type} {l : List (Option α)} {r : List α} (h : allSome l = some r) : r.length = l.length := by
  unfold allSome at h
  split at h
  · next hall =>
    obtain rfl := Option.some.inj h
    rw [List.length_filterMap_eq_countP, List.countP_eq_length]
    exact List.all_eq_true.mp hall
  · cases h

/-- A row of weights has one element for each enabled column. -/
theorem State.weightRow_length {s : State} {o : Op} {ci no r cols : Nat} {es : List Elem} (h : s.weightRow o ci no r cols = some es) :
    es.length = cols := by
  rw [allSome_length h, List.length_map, List.length_range]

/-- The array after a shadow row write: the row in the shadow, with its marks (R60, R70). -/
def State.shadowRow (s : State) (t : TileRef) (row : Nat) (d : Desc) (es : List Elem) : State :=
  { s with
    shadow := (s.putShadow t row (es.map (shadowCode d)) (es.map (fun e => e.psn))).shadow
    swr := (swrKeys t row).foldl insN s.swr }

/-- SHADOW_ROW_WRITE of a row that may be written writes that row, and the array no further. -/
theorem exec_shadowRowWrite {ch : ChainId} {e row : Nat} {o : Op} {ci : Nat} {nx : Bool} {l : Load} {es : List Elem} {s : State}
    (ht : s.shadowTarget ch e row = some (o, ci, nx, l)) (hes : s.weightRow o ci l.id.no (chainRow ch e row) l.cols = some es) :
    ∃ t, exec (.shadowRowWrite ch e row) s = .next t ∧
      (s.shadowRow ⟨chainEng ch e, ch.quarter⟩ row o.d es).SameArray t ∧
      t.swr = (s.shadowRow ⟨chainEng ch e, ch.quarter⟩ row o.d es).swr := by
  have hexec : exec (.shadowRowWrite ch e row) s = execShadowRowWrite ch e row s := rfl
  simp only [hexec, execShadowRowWrite, ht, hes, Option.getD_some]
  refine ⟨_, rfl, ?_⟩
  generalize hs3 : State.setChain _ ch _ = s3
  have h3 : (s.shadowRow ⟨chainEng ch e, ch.quarter⟩ row o.d es).SameArray s3 ∧
      s3.swr = (s.shadowRow ⟨chainEng ch e, ch.quarter⟩ row o.d es).swr := by
    subst hs3
    rw [State.shadowRow, State.putShadow_eq]
    exact ⟨⟨rfl, rfl, rfl, rfl, rfl⟩, rfl⟩
  generalize hs4 : (if (l.wrote (chainRow ch e row)).full then _ else s3) = s4
  have h4 : s3.SameArray s4 ∧ s4.swr = s3.swr := by
    subst hs4
    split
    · exact ⟨.mapOp _ _ _, rfl⟩
    · exact ⟨.refl _, rfl⟩
  have h5 : s4.SameWork _ := (State.SameWork.parityEvents s4 (some o.d.tenant)
    ⟨0x07, (TileRef.mk (chainEng ch e) ch.quarter).handle⟩ (s.weightKeys o ci l.id.no (chainRow ch e row) l.cols)).trans (.settleRing _ o.id 6)
  exact ⟨(h3.1.trans h4.1).trans h5.toSameArray, h5.swr.trans (h4.2.trans h3.2)⟩

/-- Settles O16: the command writes one row of the shadow, each column steered to a cell of its own. -/
theorem shadowRowWriteLoadsOneRow : Obligations.Shadow_row_write_loads_one_row := by
  intro ch e row o ci nx l es s ht hes hw
  obtain ⟨t, hexec, harr, hswr⟩ := exec_shadowRowWrite ht hes
  have hlen : (es.map (shadowCode o.d)).length = l.cols := by rw [List.length_map, State.weightRow_length hes]
  have hshadow : t.shadow = _ := harr.shadow
  refine ⟨t, hexec, fun j p x hj hp hx => ?written, fun k hk => ?others, fun k => ?marks, ?_⟩
  case written =>
    rw [← State.steeredKey_of_getElem? hp, hshadow]
    refine (State.putShadow_at (by rwa [hlen]) (by rwa [hlen])).trans ?_
    simp [List.getD_eq_getElem?_getD, hx]
  case others =>
    rw [hshadow]
    refine State.putShadow_elsewhere (fun j hj => ?_)
    rw [hlen] at hj
    have hp := List.getElem?_eq_getElem (Nat.lt_of_lt_of_le hj hw)
    rw [State.steeredKey_of_getElem? hp]
    exact hk _ (List.mem_of_getElem? ((List.getElem?_take_of_lt hj).trans hp))
  case marks =>
    rw [hswr]
    exact mem_foldl_insN
  exact ⟨harr.cells, harr.regs, harr.tiles, harr.buf⟩

end Sys2Proof.Machine
end

section
/-! SWAP_FRONT of a block stage that may swap: what it writes in the array and what it leaves unchanged. -/

namespace Sys2Proof.Machine

/-! ### The cells of a block stage (R71) -/

/-- The key of the cell at row `x.1` of a block stage, physical column `x.2`. -/
def stageKey (c : ChainId) (e b : Nat) (x : Nat × Nat) : Nat :=
  regKey (chainEng c e) ((TileRef.mk (chainEng c e) c.quarter).row0 + (4 * b + x.1)) x.2

/-- The cells of a block stage, each by its row of the stage and its physical column. -/
def stagePlaces (c : ChainId) : List (Nat × Nat) := (List.range 4).flatMap fun i => (sideCols c.quarter).map fun p => (i, p)

/-- What a cell of a block stage takes from the shadow at the swap (R71). -/
def State.swapValue (s : State) (c : ChainId) (l : Load) (e b : Nat) (shadow : Sparse Cell) (x : Nat × Nat) : Cell :=
  if l.rows.elem (chainRow c e (4 * b + x.1)) ∧ ((s.physCols ⟨chainEng c e, c.quarter⟩).take l.cols).elem x.2
  then sget .zero shadow (stageKey c e b x) else .zero

theorem mem_stagePlaces {c : ChainId} {x : Nat × Nat} : x ∈ stagePlaces c ↔ x.1 < 4 ∧ x.2 ∈ sideCols c.quarter := by
  obtain ⟨i, p⟩ := x
  simp [stagePlaces]

/-- Different places of a stage are different cells. -/
theorem stageKey_inj {c : ChainId} {e b : Nat} {x y : Nat × Nat} (hx : x ∈ stagePlaces c) (hy : y ∈ stagePlaces c)
    (h : stageKey c e b x = stageKey c e b y) : x = y := by
  have hpx := lt_of_mem_sideCols (mem_stagePlaces.mp hx).2
  have hpy := lt_of_mem_sideCols (mem_stagePlaces.mp hy).2
  obtain ⟨hrow, hcol⟩ := regKey_inj hpx hpy h
  exact Prod.ext (by omega) hcol

section
variable (s : State) (c : ChainId) (l : Load) (e b : Nat)

/-- The stationary weights after the swap of a stage: its cells one after another. -/
theorem State.swapCells_eq : s.swapCells c l e b = { s with
    cells := (stagePlaces c).foldl (fun m x => sset .zero m (stageKey c e b x) (s.swapValue c l e b s.shadow x)) s.cells } := by
  have hfold (xs : List (Nat × Nat)) (u : State) :
      xs.foldl (fun u x => ({ u with
        cells := sset .zero u.cells (stageKey c e b x) (s.swapValue c l e b u.shadow x) } : State)) u =
      { u with
        cells := xs.foldl (fun m x => sset .zero m (stageKey c e b x) (s.swapValue c l e b u.shadow x)) u.cells } := by
    induction xs generalizing u with
    | nil => rfl
    | cons x xs ih => exact ih _
  rw [← hfold, stagePlaces, List.foldl_flatMap]
  simp only [List.foldl_map]
  rfl

/-- The array after the swap of a stage: its cells, and the marks of its rows gone (R60, R71). -/
def State.swapStage : State :=
  { s with
    cells := (s.swapCells c l e b).cells
    swr := s.swr.filter (fun k => !((List.range 4).flatMap (fun i => swrKeys ⟨chainEng c e, c.quarter⟩ (4 * b + i))).elem k) }

variable {s c l e b}

/-- A cell of the stage. -/
theorem State.swapStage_at {x : Nat × Nat} (hx : x ∈ stagePlaces c) :
    sget Cell.zero (s.swapStage c l e b).cells (stageKey c e b x) = s.swapValue c l e b s.shadow x := by
  rw [State.swapStage, State.swapCells_eq]
  exact sget_foldl_sset_of_mem hx (fun y hy h => stageKey_inj hy hx h) _

/-- The cells of other stages stay as they are. -/
theorem State.swapStage_elsewhere {k : Nat} (h : ∀ x ∈ stagePlaces c, k ≠ stageKey c e b x) :
    sget Cell.zero (s.swapStage c l e b).cells k = sget Cell.zero s.cells k := by
  rw [State.swapStage, State.swapCells_eq]
  exact sget_foldl_sset_of_ne h _

/-- The marks of the stage's rows are gone. -/
theorem State.swapStage_swr {i k : Nat} (hi : i < 4) (hk : k ∈ swrKeys ⟨chainEng c e, c.quarter⟩ (4 * b + i)) :
    k ∉ (s.swapStage c l e b).swr := by
  intro hmem
  have hgone := (List.mem_filter.mp hmem).2
  rw [List.elem_eq_true_of_mem (List.mem_flatMap.mpr ⟨i, List.mem_range.mpr hi, hk⟩)] at hgone
  cases hgone

end

/-! ### The command -/

/-- Tokens that wait take weights of the stage (R72): the chain changes, and parity failures are recorded. -/
theorem State.fillToks_sameArray (s : State) (c : ChainId) (l : LoadId) (rs : List Nat) :
    s.SameArray (s.fillToks c l rs) ∧ (s.fillToks c l rs).swr = s.swr := by
  unfold State.fillToks
  dsimp only
  generalize hs1 : s.setChain c _ = s1
  have h1 : s.SameArray s1 ∧ s1.swr = s.swr := by
    subst hs1
    exact ⟨.setChain _ _ _, rfl⟩
  have hparity {t : State} (h2 : s1.SameWork t) : s.SameArray t ∧ t.swr = s.swr :=
    ⟨h1.1.trans h2.toSameArray, h2.swr.trans h1.2⟩
  refine hparity (.foldl (fun u k => .foldl (fun u r => ?_) _ u) _ _)
  split
  · exact .cellParity _ _ _ _ _
  · exact .refl _

/-- SWAP_FRONT of a stage that may swap writes the cells of that stage, and the array no further. -/
theorem exec_swapFront {ch : ChainId} {e b : Nat} {l : Load} {s : State} (hl : s.swapLoad ch = some l)
    (hmay : e < s.chainDepth ch ∧ b < stagesOf ch ∧ !l.swapped.elem (e * 8 + b) ∧
      (blockRows ch e b).all (fun r => !l.need.elem r || l.rows.elem r) ∧ !s.olderTokens ch l.id ∧ s.loadUsed ch l.id) :
    ∃ t, exec (.swapFront ch e b) s = .next t ∧ (s.swapStage ch l e b).SameArray t ∧ t.swr = (s.swapStage ch l e b).swr := by
  have hexec : exec (.swapFront ch e b) s = execSwapFront ch e b s := rfl
  simp only [hexec, execSwapFront, hl, if_pos hmay]
  refine ⟨_, rfl, ?_⟩
  have hstage : ({ s.swapCells ch l e b with
      swr := (s.swapCells ch l e b).swr.filter (fun k =>
        !((List.range 4).flatMap (fun i => swrKeys ⟨chainEng ch e, ch.quarter⟩ (4 * b + i))).elem k) } : State) =
      s.swapStage ch l e b := by
    rw [State.swapStage, State.swapCells_eq]
  rw [hstage]
  generalize hs3 : State.mapChain _ ch _ = s3
  have h3 : (s.swapStage ch l e b).SameArray s3 ∧ s3.swr = (s.swapStage ch l e b).swr := by
    obtain ⟨harr, hswr⟩ := (s.swapStage ch l e b).fillToks_sameArray ch l.id (blockRows ch e b)
    subst hs3
    exact ⟨harr.trans (.setChain _ _ _), hswr⟩
  split
  · split
    · exact h3
    · split
      · exact h3
      · exact ⟨h3.1.trans (.mapOp _ _ _), h3.2⟩
  · exact h3

/-- Settles O17: the command writes the cells of one stage, each with its own value. -/
theorem swapFrontCopiesOneStage : Obligations.Swap_front_copies_one_stage := by
  intro ch e b l s hl he hb hnew hrows hold hused
  obtain ⟨t, hexec, harr, hswr⟩ := exec_swapFront hl ⟨he, hb, by rw [hnew]; rfl, hrows, by rw [hold]; rfl, hused⟩
  have hcells := harr.cells
  refine ⟨t, hexec, fun i p hi hp => ?stage, fun k hk => ?others, fun i k hi hk => ?marks,
    harr.shadow, harr.regs, harr.tiles, harr.buf⟩
  case stage =>
    rw [hcells]
    exact State.swapStage_at (x := (i, p)) (mem_stagePlaces.mpr ⟨hi, hp⟩)
  case others =>
    rw [hcells]
    exact State.swapStage_elsewhere (fun x hx => hk x.1 x.2 (mem_stagePlaces.mp hx).1 (mem_stagePlaces.mp hx).2)
  case marks =>
    rw [hswr]
    exact State.swapStage_swr hi hk

end Sys2Proof.Machine
end

section
/-! TOKEN_PRESENT of a token that may enter: its place in the chain, and what it leaves unchanged. -/

namespace Sys2Proof.Machine

/-- The meter and the plan are no part of the array. -/
theorem State.SameArray.opToken (s : State) (core cells : Nat) : s.SameArray (s.opToken core cells) :=
  ⟨by simp, by simp, by simp, by simp, by simp⟩

/-- What a token brings into its chain: its lanes and the weights that it meets (R58, R61, R107). -/
def State.tokenOf (s : State) (ch : ChainId) (o : Op) (ci idx : Nat) (lanes : List Cell) : Tok :=
  ⟨o.id, idx, lanes, s.tokenWts ch (tokenLoad o ci idx) (tokenRows o.d (coreIdx o.d ci) idx) (s.opCols o ch ci), []⟩

/-- The state once a token of an op has entered its chain: the op has one fewer to present, and the meter has its cells (R328). -/
def State.tokenIn (s : State) (ch : ChainId) (o : Op) (ci cells : Nat) (tok : Tok) : State :=
  ((s.mapChain ch (fun st => { st with fly := st.fly ++ [tok] })).mapOp o.id
    (fun p => { p with pres := bumpAt p.pres ci })).opToken ch.core cells

section
variable (s : State) (ch : ChainId) (o : Op) (ci cells : Nat) (tok : Tok)

theorem State.tokenIn_fly : ((s.tokenIn ch o ci cells tok).chain ch).fly = (s.chain ch).fly ++ [tok] := by
  have hchain : (s.tokenIn ch o ci cells tok).chain ch = (s.mapChain ch (fun st => { st with fly := st.fly ++ [tok] })).chain ch := rfl
  rw [hchain, State.mapChain, State.chain_setChain, if_pos rfl]

theorem State.tokenIn_pres : (s.tokenIn ch o ci cells tok).ops.map (fun p => (p.id, p.pres)) =
    s.ops.map (fun p => (p.id, if p.id = o.id then bumpAt p.pres ci else p.pres)) := by
  have hops : (s.tokenIn ch o ci cells tok).ops =
      s.ops.map (fun p => if p.id == o.id then { p with pres := bumpAt p.pres ci } else p) := rfl
  rw [hops, List.map_map]
  refine List.map_congr_left (fun p _ => ?_)
  by_cases hp : p.id = o.id <;> simp [hp]

/-- The meter's sum, by the voltage last reported of the core's island (R328, R329). -/
theorem State.tokenIn_energy :
    (s.tokenIn ch o ci cells tok).pwr.energy = s.pwr.energy + cells * s.islandMv ch.core * s.islandMv ch.core := rfl

theorem State.tokenIn_sameArray : s.SameArray (s.tokenIn ch o ci cells tok) :=
  ((SameArray.setChain _ _ _).trans (.mapOp _ _ _)).trans (.opToken _ _ _)

end

/-- TOKEN_PRESENT of a token that may enter: it is in its chain, and beyond that parity failures are recorded and lines asked for. -/
theorem exec_tokenPresent {ch : ChainId} {o : Op} {ci idx : Nat} {lanes : List Cell} {s : State}
    (hp : s.presentable ch = some (o, ci, idx)) (hl : s.tokenLanes o ci idx = some lanes) :
    ∃ t, exec (.tokenPresent ch) s = .next t ∧
      (s.tokenIn ch o ci (tokenRows o.d (coreIdx o.d ci) idx * s.opCols o ch ci) (s.tokenOf ch o ci idx lanes)).SameWork t := by
  have hexec : exec (.tokenPresent ch) s = execTokenPresent ch s := rfl
  simp only [hexec, execTokenPresent, hp, hl, Option.getD_some]
  refine ⟨_, rfl, (State.SameWork.trans (.foldl (fun u r => ?_) _ _) (.parityEvents _ _ _ _)).trans (.settleRing _ _ _)⟩
  split
  · exact .cellParity _ _ _ _ _
  · exact .refl _

/-- Settles O18: the command leaves `State.tokenIn`, up to the records and the staging. -/
theorem tokenEntersItsChain : Obligations.Token_enters_its_chain := by
  intro ch o ci idx lanes s hp hl
  obtain ⟨t, hexec, ht⟩ := exec_tokenPresent hp hl
  have harr := (s.tokenIn_sameArray ch o ci _ _).trans ht.toSameArray
  refine ⟨t, hexec, ?fly, ht.pres.trans (s.tokenIn_pres ..), ?energy, harr.cells, harr.shadow, harr.regs, harr.tiles, harr.buf⟩
  case fly => rw [ht.chain, State.tokenIn_fly, State.tokenOf]
  case energy => rw [ht.pwr, State.tokenIn_energy]

end Sys2Proof.Machine
end

section
/-! Reads of a dictionary object after a write of one, and what a record leaves of the objects. -/

namespace Sys2Proof.Machine

/-- A read of another key, by whatever default, is as before the write. -/
theorem sget_sset_of_ne {α : Type} [DecidableEq α] {d d' v : α} {m : Sparse α} {k j : Nat} (hj : j ≠ k) :
    sget d (sset d' m k v) j = sget d m j := by
  unfold sset sget
  split
  · rw [sfind_sdel, if_neg hj]
  · rw [sfind_sput, if_neg hj]

/-! ### Objects whose default follows another object -/

/-- The object whose stored value the default of an object follows (Tables 03-3, 08-3, 15-6). -/
def defaultSource (j : Nat) : Option Nat :=
  if (0x2100 ≤ j / 256 ∧ j / 256 < 0x2140 ∧ j % 256 = 3) ∨ (0x8000 ≤ j / 256 ∧ j / 256 < 0x8400 ∧ j % 256 = 2) then some (key (j / 256) 1)
  else if j = key 0x1400 1 then some (key 0x0004 0)
  else if j = key 0x1400 4 then some (key 0x0005 0)
  else none

theorem defaultSource_ne_self (j : Nat) : defaultSource j ≠ some j := by
  unfold defaultSource
  split_ifs <;> simp only [ne_eq, Option.some.injEq, reduceCtorEq, not_false_eq_true, key] at * <;> omega

/-- No default follows the count of lost records. -/
theorem defaultSource_ne_lostRecords (j : Nat) : defaultSource j ≠ some (key 0x4000 2) := by
  unfold defaultSource
  split_ifs <;> simp only [ne_eq, Option.some.injEq, reduceCtorEq, not_false_eq_true, key] <;> omega

section
variable {s : State} {j k v : Nat}

/-- A default reads the configuration, the speed tables and its source. -/
theorem State.unset_setObj (h : defaultSource j ≠ some k) : (s.setObj k v).unset j = s.unset j := by
  have hread (d i : Nat) (hi : defaultSource j = some i) :
      sget d (s.setObj k v).dict.vals i = sget d s.dict.vals i := by
    have hik : i ≠ k := fun e => h (hi.trans (congrArg some e))
    rw [State.setObj_vals, sget_sset_of_ne hik]
  have hfloor (c : Nat) : (s.setObj k v).mfloor c = s.mfloor c := by rw [State.mfloor, State.mfloor, State.setObj_speed]
  unfold defaultSource at hread
  unfold State.unset
  simp only [hfloor, State.setObj_conf]
  refine ite_congr rfl (fun _ => rfl) (fun _ => ite_congr rfl (fun hm => ?margin) (fun hm => ite_congr rfl (fun hb => ?bypass)
    (fun hb => ite_congr rfl (fun hi => ?interface) (fun hi => ite_congr rfl (fun hn => ?node) (fun _ => rfl)))))
  case margin => exact hread _ _ (if_pos (.inl hm))
  case bypass => exact hread _ _ (if_pos (.inr hb))
  case interface => rw [hread _ _ (by rw [if_neg (not_or.mpr ⟨hm, hb⟩), if_pos hi])]
  case node => rw [hread _ _ (by rw [if_neg (not_or.mpr ⟨hm, hb⟩), if_neg hi, if_pos hn])]

/-- An object that takes a value reads as it. -/
theorem State.obj_setObj_self : (s.setObj k v).obj k = v := by
  rw [State.obj, State.unset_setObj (defaultSource_ne_self k), State.setObj_vals, sget_sset, if_pos rfl]

/-- Another object, whose default does not follow the one written, reads as before. -/
theorem State.obj_setObj_of_ne (hj : j ≠ k) (h : defaultSource j ≠ some k) : (s.setObj k v).obj j = s.obj j := by
  rw [State.obj, State.unset_setObj h, State.setObj_vals, sget_sset_of_ne hj, State.obj]

/-- An object whose default follows no other, after a write of one. -/
theorem State.obj_setObj (h : defaultSource j = none) : (s.setObj k v).obj j = if j = k then v else s.obj j := by
  split
  · next e => exact e ▸ State.obj_setObj_self
  · next hj => exact State.obj_setObj_of_ne hj (by rw [h]; exact nofun)

/-- A write of an object changes the dictionary and the notices only. -/
theorem State.setObj_frame (s : State) (k v : Nat) : { s.setObj k v with dict := s.dict, mg := s.mg } = s := by
  unfold State.setObj State.notify
  dsimp only
  split
  · split <;> rfl
  · rfl

/-! ### What a record leaves of the objects -/

/-- An object reads the dictionary, the configuration and the speed tables. -/
theorem State.obj_congr {t : State} (hdict : t.dict = s.dict) (hconf : t.conf = s.conf) (hspeed : t.speed = s.speed) :
    t.obj j = s.obj j := by
  unfold State.obj State.unset State.mfloor
  rw [hdict, hconf, hspeed]

theorem State.obj_bump_of_ne {n : Nat} (hj : j ≠ k) (h : defaultSource j ≠ some k) : (s.bump k n).obj j = s.obj j := by
  unfold State.bump
  split
  · rfl
  · exact State.obj_setObj_of_ne hj h

/-- A record that finds no place is counted (R265); no other object changes. -/
theorem State.obj_writeRec (hj : j ≠ key 0x4000 2) (kind sev cls : Nat) (tn : Option Nat) (time : Nat) (w2 w3 : W64) :
    (s.writeRec kind sev cls tn time w2 w3).obj j = s.obj j := by
  unfold State.writeRec
  split
  · exact State.obj_bump_of_ne hj (defaultSource_ne_lostRecords j)
  · rfl

theorem State.obj_closeKey (hj : j ≠ key 0x4000 2) (x : CoKey) : (s.closeKey x).obj j = s.obj j := by
  unfold State.closeKey
  split
  · rfl
  · exact State.obj_writeRec hj _ _ _ _ _ _ _

theorem State.obj_evictKey (hj : j ≠ key 0x4000 2) : s.evictKey.obj j = s.obj j := by
  unfold State.evictKey
  split
  · rfl
  · split
    · rfl
    · exact State.obj_closeKey hj _

/-- An event changes no object but the count of lost records (R263 to R265). -/
theorem State.obj_event (hj : j ≠ key 0x4000 2) (e : Event) : (s.event e).obj j = s.obj j := by
  unfold State.event
  split
  · rfl
  · exact (State.obj_writeRec hj _ _ _ _ _ _ _).trans (State.obj_evictKey hj)

end

end Sys2Proof.Machine
end

section
/-! Requests that write one object: a served write whose checks pass does what the object's own rules say, whoever asks
(R371, R379, R382, R388, R389). -/

namespace Sys2Proof.Machine

/-! ### Rates, kept answers and checks -/

/-- A source within its rate: its draw changes the buckets only (R388). -/
theorem State.drawM_served {s : State} {src : Nat} (h : (s.drawM src).2.1 = true) : ∃ m, (s.drawM src).1 = { s with mg := m } := by
  generalize hd : s.drawM src = d at h ⊢
  unfold State.drawM at hd
  dsimp only at hd
  split at hd
  · subst hd
    unfold State.putBucket
    split <;> exact ⟨_, rfl⟩
  · subst hd
    cases h

/-- A tenant within its rate: its draw changes the buckets only (R389). -/
theorem State.drawH_served {s : State} {tn : Nat} (h : (s.drawH tn).2 = true) : ∃ m, (s.drawH tn).1 = { s with mg := m } := by
  generalize hd : s.drawH tn = d at h ⊢
  unfold State.drawH at hd
  dsimp only at hd
  split at hd
  · subst hd
    exact ⟨_, rfl⟩
  · subst hd
    cases h

theorem State.keep_eq (s : State) (src xid w0 w1 : Nat) : ∃ m, s.keep src xid w0 w1 = { s with mg := m } := by
  unfold State.keep
  dsimp only
  split <;> exact ⟨_, rfl⟩

/-- The checks of a transaction do not look at the management port. -/
theorem State.tranStatus_mg (s : State) (m : Mgmt) (x : Tran) : ({ s with mg := m } : State).tranStatus x = s.tranStatus x := rfl

/-- A write that passes its checks does what its object's rules say (R380). -/
theorem State.tran_write {s : State} {x : Tran} (hw : x.wr = true) (h : s.tranStatus x = none) :
    s.tran x = ((s.applyWrite x).1, (s.applyWrite x).2, []) := by
  unfold State.tran
  rw [h, if_pos hw]

/-- Nothing follows the answer but to a reset request or a port reset (R410, R414). -/
theorem State.afterAnswer_of_lt {x : Tran} (hx : 0x132A < x.index) (s : State) (st : Nat) : s.afterAnswer x st = s := by
  unfold State.afterAnswer
  split_ifs with h1 h2 h3
  · rfl
  · omega
  · omega
  · rfl

/-! ### The effect of a request -/

/-- A command that writes one object, above the port objects: when the object's own rules take the value whatever the buckets and kept
answers hold, the command is answered OK, and what the rules bring about holds after it. -/
theorem writes_of_applyWrite {c : Instr} {s : State} {post : Nat → State → Prop} {r : Req} {index sub : Nat}
    (hobj : Safety.objectOf c = some (r, index, sub)) (hexec : exec c s = .next (s.request r index sub)) (hindex : 0x132A < index)
    (hpost : ∀ (t : State) (m : Mgmt) (os : List Out), post (ofLe r.value) t → post (ofLe r.value) { t with mg := m, out := os })
    (heff : c.wf = true → ∀ m : Mgmt, ∃ t, ({ s with mg := m } : State).applyWrite (Safety.tranOf r index sub) = (t, stOk) ∧
      post (ofLe r.value) t) : Safety.writes c s post := by
  intro r' index' sub' hobj' hwf hserved hstatus
  obtain ⟨rfl, rfl, rfl⟩ : r = r' ∧ index = index' ∧ sub = sub' := by simpa [hobj] using hobj'
  have htran (m : Mgmt) : ∃ t, ({ s with mg := m } : State).tran (Safety.tranOf r index sub) = (t, stOk, []) ∧ post (ofLe r.value) t := by
    obtain ⟨t, happ, ht⟩ := heff hwf m
    exact ⟨t, by rw [State.tran_write rfl ((State.tranStatus_mg s m _).trans hstatus), happ], ht⟩
  have hafter := State.afterAnswer_of_lt (x := Safety.tranOf r index sub) hindex
  refine ⟨_, hexec, ?_⟩
  unfold State.request
  unfold Safety.tranOf at htran hafter
  unfold Safety.served at hserved
  unfold Safety.answered
  dsimp only
  cases hrole : r.role with
  | m =>
    simp only [hrole] at hserved htran hafter ⊢
    obtain ⟨hup, hlocal, hdraw, hkept⟩ := hserved
    obtain ⟨m, hm⟩ := State.drawM_served hdraw
    obtain ⟨t, ht, hp⟩ := htran m
    rw [if_pos ⟨hup, hlocal⟩]
    unfold State.serveM
    simp only [hdraw, hm] at hkept ⊢
    simp only [Bool.true_eq_false, if_false, if_true, hkept, ht, hafter]
    obtain ⟨m', hm'⟩ := State.keep_eq (t.emit (s.sends r.src r.sport (respBytes stOk index sub r.xid [])))
      r.src r.xid (dgW0 3 stOk index sub 0) (at_ r.xid 32)
    rw [hm']
    exact ⟨List.mem_append_right _ (List.mem_singleton_self _), hpost t m' _ hp⟩
  | h =>
    simp only [hrole] at hserved htran hafter ⊢
    obtain ⟨m, hm⟩ := State.drawH_served hserved
    obtain ⟨t, ht, hp⟩ := htran m
    simp only [hserved, hm, if_true, ht, hafter]
    exact ⟨trivial, hp⟩
  | t =>
    simp only [hrole] at htran hafter ⊢
    obtain ⟨t, ht, hp⟩ := htran s.mg
    simp only [ht, hafter]
    exact ⟨List.mem_append_right _ (List.mem_singleton_self _), hpost t t.mg _ hp⟩

end Sys2Proof.Machine
end

section
/-! The writes of containment: each object's own rules, and what is in force after the command. -/

namespace Sys2Proof.Machine

/-! ### Which rules a write meets (R380) -/

section
variable {s : State} {role : Role} {tn index sub v : Nat} {value : List Byte}

/-- No object of ports, start-up or the network has an index above the ports' but the event destination. -/
theorem State.writePorts_none (h : 0x132D ≤ index) (hdest : index ≠ 0x4002) : s.writePorts index sub v = none := by
  unfold State.writePorts
  split
  · omega
  · omega
  · exact absurd rfl hdest
  · exact if_neg (by omega)

/-- Above the containment objects of 0x5010, sweeps and bypass maps have rules. -/
theorem State.writePower_of_lt (h : 0x5010 < index) : s.writePower index sub v =
    if 0x5200 ≤ index ∧ index ≤ 0x5248 ∧ sub = 3 then some (s.requestSweep (index - 0x5200) v)
    else if 0x8000 ≤ index ∧ index < 0x8400 ∧ sub = 1 then some (s.forceMap (index - 0x8000) v)
    else if 0x8000 ≤ index ∧ index < 0x8400 ∧ sub = 2 then some (s.pendMap (index - 0x8000) v, stOk)
    else none := by
  unfold State.writePower
  split
  iterate 6 · omega
  · exact if_neg (by omega)

theorem State.applyWrite_bypassMap {n : Nat} (hn : n < 1024) :
    s.applyWrite ⟨role, tn, true, 0x8000 + n, 2, value⟩ = (s.pendMap n (ofLe value), stOk) := by
  have hp : s.writePower (0x8000 + n) 2 (ofLe value) = some (s.pendMap n (ofLe value), stOk) := by
    rw [State.writePower_of_lt (by omega), if_neg (by omega), if_neg (by omega), if_pos (by omega), Nat.add_sub_cancel_left]
  simp only [State.applyWrite, State.writePorts_none (show 0x132D ≤ 0x8000 + n by omega) (by omega), hp]

theorem State.applyWrite_sweep {u : Nat} (hu : u ≤ 72) :
    s.applyWrite ⟨role, tn, true, 0x5200 + u, 3, value⟩ = s.requestSweep u (ofLe value) := by
  have hp : s.writePower (0x5200 + u) 3 (ofLe value) = some (s.requestSweep u (ofLe value)) := by
    rw [State.writePower_of_lt (by omega), if_pos (by omega), Nat.add_sub_cancel_left]
  simp only [State.applyWrite, State.writePorts_none (show 0x132D ≤ 0x5200 + u by omega) (by omega), hp]

theorem State.applyWrite_deckPause : s.applyWrite ⟨role, tn, true, 0x5000, 4, value⟩ = s.store 0x5000 4 (ofLe value) := by
  simp [State.applyWrite, State.writePorts_none, State.writePower, State.writeTrust]

theorem State.applyWrite_release : s.applyWrite ⟨role, tn, true, 0x5000, 6, value⟩ = s.requestRelease (ofLe value) := by
  simp [State.applyWrite, State.writePorts_none, State.writePower]

theorem State.applyWrite_drain : s.applyWrite ⟨role, tn, true, 0xF010, sub, value⟩ = s.requestDrain sub (ofLe value) tn := by
  simp [State.applyWrite, State.writePorts_none, State.writePower_of_lt, State.writeTrust]

end

/-! ### What the rules bring about -/

section
variable {s : State} {n : Nat}

/-- The default of a bypass map in force follows no other object. -/
theorem defaultSource_bypass (n : Nat) : defaultSource (key (0x8000 + n) 1) = none := by
  unfold defaultSource key
  rw [if_neg (by omega), if_neg (by omega), if_neg (by omega)]

/-- A pending bypass map is written (R84). -/
theorem State.pendMap_obj (s : State) (n v : Nat) : (s.pendMap n v).obj (key (0x8000 + n) 2) = v :=
  (State.obj_event (by unfold key; omega) _).trans State.obj_setObj_self

/-- A pending bypass map leaves the one in force as it is (R84). -/
theorem State.pendMap_bypass (s : State) (n v : Nat) : (s.pendMap n v).bypass n = s.bypass n := by
  refine (State.obj_event (by unfold key; omega) _).trans ?_
  rw [State.obj_setObj (defaultSource_bypass n), if_neg (by unfold key; omega), State.bypass]

/-- A pending bypass map touches no part of the array and no op. -/
theorem State.pendMap_sameArray (s : State) (n v : Nat) :
    Safety.sameArray (s.pendMap n v) s ∧ (s.pendMap n v).swr = s.swr ∧ (s.pendMap n v).ops = s.ops := by
  simp [State.pendMap, Safety.sameArray]

/-- A test asked for is among the priority tests (R274, R279). -/
theorem State.priorityTest_mem (s : State) (c : Nat) (rel : Option Nat) : (c, rel) ∈ (s.priorityTest c rel).con.deck.prio := by
  unfold State.priorityTest
  split
  · next h =>
    obtain ⟨⟨c', rel'⟩, hmem, heq⟩ := List.any_eq_true.mp h
    simp only [Bool.and_eq_true, beq_iff_eq] at heq
    obtain ⟨rfl, rfl⟩ := heq
    exact hmem
  · exact List.mem_append_right _ (List.mem_singleton_self _)

/-- A test asked for changes the deck only. -/
theorem State.priorityTest_frame (s : State) (c : Nat) (rel : Option Nat) : { s.priorityTest c rel with con := s.con } = s := by
  unfold State.priorityTest
  split <;> rfl

/-- An object that takes a value, whatever the management port and the output held, changes the dictionary only besides them. -/
theorem State.setObj_frame_mg (s : State) (m : Mgmt) (k v : Nat) :
    { ({ s with mg := m } : State).setObj k v with dict := s.dict, mg := s.mg, out := s.out } = s :=
  congrArg (fun u : State => { u with mg := s.mg, out := s.out }) (State.setObj_frame { s with mg := m } k v)

/-- A release request of a unit that is built (R279). -/
theorem State.requestRelease_built {v : Nat} (h : unitBuilt s.conf (relUnit v) = true) :
    s.requestRelease v = ((s.setObj (key 0x5000 6) v).priorityTest (unitCore (relUnit v)) (some v), stOk) := by
  rw [State.requestRelease, if_pos h]

/-- A sweep request, of a serializer only while its port is down (R291). -/
theorem State.requestSweep_down {u v : Nat} (hv : v = 1)
    (h : 64 ≤ u → u < 72 → (s.port (u - 47)).st ≠ 1 ∧ (s.port (u - 47)).st ≠ 2) :
    s.requestSweep u v = (s.startSweep u, stOk) := by
  subst hv
  unfold State.requestSweep
  dsimp only
  rw [if_neg Nat.one_ne_zero, if_neg]
  rintro ⟨hlo, hhi, hst⟩
  rw [show 17 + (u - 64) = u - 47 by omega] at hst
  obtain ⟨h1, h2⟩ := h hlo hhi
  exact hst.elim h1 h2

/-- A drain request at a slot that is not busy (R170, R171). -/
theorem State.requestDrain_free {i v tn : Nat} {q : DrainSlot} (hq : s.drq[i]? = some q) (hst : q.state ≠ 1) :
    s.requestDrain (2 * i) v tn =
      (s.setDrq i ⟨v, tn, s.adm.nextId, 1, s.cmpQuarters (TileRef.ofHandle (v % 65536)).quarters, [], []⟩, stOk) := by
  have hat : s.drqAt (2 * i) = q := by
    rw [State.drqAt, Nat.mul_div_cancel_left i (by decide), List.getD_eq_getElem?_getD, hq, Option.getD_some]
  rw [State.requestDrain, hat, if_neg hst, Nat.mul_div_cancel_left i (by decide)]

theorem State.setDrq_at {i : Nat} {q : DrainSlot} (hq : s.drq[i]? = some q) (q' : DrainSlot) : (s.setDrq i q').drq[i]? = some q' :=
  List.getElem?_set_self (List.getElem?_eq_some_iff.mp hq).1

end

/-! ### The commands -/

/-- PENDING_BYPASS_MAP (R84). -/
theorem pendingBypassMap_writes (s : State) (n : Nat) (r : Req) : Safety.writes (.pendingBypassMap n r) s fun v t =>
    t.obj (key (0x8000 + n) 2) = v ∧ t.bypass n = s.bypass n ∧ Safety.sameArray t s ∧ t.swr = s.swr ∧ t.ops = s.ops := by
  refine writes_of_applyWrite rfl rfl (by omega) (fun _ _ _ h => h) (fun hwf m => ?_)
  have hn : n < 1024 := of_decide_eq_true (Bool.and_eq_true_iff.mp hwf).1
  exact ⟨_, State.applyWrite_bypassMap hn, State.pendMap_obj _ n _, State.pendMap_bypass { s with mg := m } n _,
    State.pendMap_sameArray { s with mg := m } n _⟩

/-- DECK_PAUSE (R286). -/
theorem deckPause_writes (s : State) (r : Req) : Safety.writes (.deckPause r) s fun v t =>
    t.obj (key 0x5000 4) = v ∧ { t with dict := s.dict, mg := s.mg, out := s.out } = s :=
  writes_of_applyWrite rfl rfl (by decide) (fun _ _ _ h => h) (fun _ m =>
    ⟨_, State.applyWrite_deckPause, State.obj_setObj_self, State.setObj_frame_mg s m _ _⟩)

/-- RELEASE_REQUEST of a unit that is built (R279). -/
theorem releaseRequest_writes (s : State) (r : Req) (hu : unitBuilt s.conf (relUnit (ofLe r.value)) = true) :
    Safety.writes (.releaseRequest r) s fun v t => t.obj (key 0x5000 6) = v ∧ (unitCore (relUnit v), some v) ∈ t.con.deck.prio ∧
      { t with dict := s.dict, con := s.con, mg := s.mg, out := s.out } = s := by
  refine writes_of_applyWrite rfl rfl (by decide) (fun _ _ _ h => h) (fun _ m => ⟨_, State.applyWrite_release.trans
    (State.requestRelease_built hu), ?value, State.priorityTest_mem _ _ _, ?frame⟩)
  case value =>
    refine Eq.trans ?_ (State.obj_setObj_self (s := { s with mg := m }) (k := key 0x5000 6))
    exact (congrArg (fun u : State => u.obj (key 0x5000 6)) (State.priorityTest_frame _ (unitCore (relUnit (ofLe r.value))) _) :)
  case frame =>
    refine Eq.trans ?_ (State.setObj_frame_mg s m (key 0x5000 6) (ofLe r.value))
    exact (congrArg (fun u : State => { u with dict := s.dict, con := s.con, mg := s.mg, out := s.out })
      (State.priorityTest_frame _ (unitCore (relUnit (ofLe r.value))) _) :)

/-- SWEEP_REQUEST, of a serializer while its port is down (R291). -/
theorem sweepRequest_writes (s : State) (u : Nat) (r : Req) (hv : ofLe r.value = 1)
    (hport : 64 ≤ u → u < 72 → (s.port (u - 47)).st ≠ 1 ∧ (s.port (u - 47)).st ≠ 2) :
    Safety.writes (.sweepRequest u r) s fun _ t => u ∈ t.con.sweeps ∧ t.obj (key (0x5200 + u) 3) = 1 ∧
      { t with dict := s.dict, con := s.con, mg := s.mg, out := s.out } = s := by
  refine writes_of_applyWrite rfl rfl (by omega) (fun _ _ _ h => h) (fun hwf m => ?_)
  have hu : u ≤ 72 := of_decide_eq_true (Bool.and_eq_true_iff.mp hwf).1
  refine ⟨_, (State.applyWrite_sweep hu).trans (State.requestSweep_down (s := { s with mg := m }) hv hport), mem_insN.mpr (.inl rfl),
    State.obj_setObj_self (s := { s with mg := m }), ?_⟩
  exact congrArg (fun u : State => { u with con := s.con }) (State.setObj_frame_mg s m (key (0x5200 + u) 3) 1)

/-- DRAIN_REQUEST at a slot that is not busy (R170, R171). -/
theorem drainRequest_writes (s : State) (r : Req) (q : DrainSlot) (hq : s.drq[roleSlot r.role]? = some q) (hst : q.state ≠ 1) :
    Safety.writes (.drainRequest r) s fun v t =>
      t.drq[roleSlot r.role]? =
        some ⟨v, r.tenant, s.adm.nextId, 1, s.cmpQuarters (TileRef.ofHandle (v % 65536)).quarters, [], []⟩ ∧
      { t with drq := s.drq, mg := s.mg, out := s.out } = s :=
  writes_of_applyWrite rfl rfl (by decide) (fun _ _ _ h => h) (fun _ m =>
    ⟨_, State.applyWrite_drain.trans (State.requestDrain_free (s := { s with mg := m }) hq hst), State.setDrq_at hq _, rfl⟩)

/-- Settles O40: each command writes one object, and its object's rules bring about what the clause says. -/
theorem containmentWritesTakeEffect : Obligations.Containment_writes_take_effect := fun s =>
  ⟨pendingBypassMap_writes s, deckPause_writes s, releaseRequest_writes s, sweepRequest_writes s, drainRequest_writes s⟩

end Sys2Proof.Machine
end

section
/-! BYPASS_MAP_APPLY and CORE_MOVE_COMPLETE: what is clear and what is in force after them, and what stays. -/

namespace Sys2Proof.Machine

/-! ### Several writes of objects -/

/-- Writes of objects change the dictionary and the notices only. -/
theorem State.foldl_setObj_frame (ms : List Move) (s : State) :
    { ms.foldl (fun s m => s.setObj m.key m.val) s with dict := s.dict, mg := s.mg } = s := by
  refine List.foldlRecOn _ _ (motive := fun t : State => { t with dict := s.dict, mg := s.mg } = s) rfl (fun t ht m _ => ?_)
  exact (congrArg (fun u : State => { u with dict := s.dict, mg := s.mg }) (State.setObj_frame t m.key m.val)).trans ht

/-- Moves of different objects: each object reads as its move's value. -/
theorem State.obj_foldl_setObj {ms : List Move} {m : Move} (hm : m ∈ ms) (hnodup : (ms.map (fun m => m.key)).Nodup)
    (hsrc : defaultSource m.key = none) (s : State) : (ms.foldl (fun s m => s.setObj m.key m.val) s).obj m.key = m.val := by
  induction ms generalizing s with
  | nil => cases hm
  | cons a ms ih =>
    obtain ⟨hnotin, hnodup⟩ := List.nodup_cons.mp hnodup
    rw [List.foldl_cons]
    rcases List.mem_cons.mp hm with rfl | hm
    · refine List.foldlRecOn ms _ (motive := fun t : State => t.obj m.key = m.val) State.obj_setObj_self (fun t ht b hb => ?_)
      have hne : m.key ≠ b.key := fun e => hnotin (List.mem_map.mpr ⟨b, hb, e.symm⟩)
      rw [State.obj_setObj hsrc, if_neg hne, ht]
    · exact ih hm hnodup _

/-! ### Clearing engines (R84, R358) -/

/-- Ending ranges frees ledger entries: the dictionary, its notices and the range records change, nothing else (R312). -/
theorem State.endRanges_frame (s : State) (f : Range → Bool) :
    { s.endRanges f with ranges := s.ranges, dict := s.dict, mg := s.mg } = s := by
  unfold State.endRanges
  dsimp only
  refine List.foldlRecOn _ _ (motive := fun t : State => { t with ranges := s.ranges, dict := s.dict, mg := s.mg } = s) rfl
    (fun t ht r _ => ?_)
  exact (congrArg (fun u : State => { u with ranges := s.ranges, dict := s.dict, mg := s.mg }) (State.setObj_frame t _ _)).trans ht

/-- The engines of `p` are clear in `t`, with the registers and planner state of their tiles; the others are as in `s`, and so are the
ops and the buffers. -/
structure State.Clears (p : Nat → Bool) (s t : State) : Prop where
  reg : ∀ k, t.reg k = if p (k / 1024) = true then LongReg.zero else s.reg k
  cell : ∀ k, sget Cell.zero t.cells k = if p (k / 1024) = true then Cell.zero else sget Cell.zero s.cells k
  shadow : ∀ k, sget Cell.zero t.shadow k = if p (k / 1024) = true then Cell.zero else sget Cell.zero s.shadow k
  tile : ∀ k, t.tileQ k = if p (k / 4) = true then TileQ.zero else s.tileQ k
  swr : ∀ k, k ∈ t.swr ↔ k ∈ s.swr ∧ p (k / 64) = false
  ops : t.ops = s.ops
  buf : t.buf = s.buf

namespace State.Clears

variable {p q : Nat → Bool} {s t u : State}

theorem refl (s : State) : s.Clears (fun _ => false) s := by
  constructor <;> simp

theorem trans (h : s.Clears p t) (g : t.Clears q u) : s.Clears (fun n => p n || q n) u where
  reg k := by rw [g.reg, h.reg]; cases p (k / 1024) <;> cases q (k / 1024) <;> rfl
  cell k := by rw [g.cell, h.cell]; cases p (k / 1024) <;> cases q (k / 1024) <;> rfl
  shadow k := by rw [g.shadow, h.shadow]; cases p (k / 1024) <;> cases q (k / 1024) <;> rfl
  tile k := by rw [g.tile, h.tile]; cases p (k / 4) <;> cases q (k / 4) <;> rfl
  swr k := by rw [g.swr, h.swr, Bool.or_eq_false_iff, and_assoc]
  ops := g.ops.trans h.ops
  buf := g.buf.trans h.buf

/-- Objects may be written and moves end besides. -/
theorem of_frame (h : s.Clears p t) (hf : { u with dict := t.dict, mg := t.mg, moves := t.moves } = t) : s.Clears p u where
  reg k := (congrArg (fun x : State => x.reg k) hf).trans (h.reg k)
  cell k := (congrArg (fun x : State => sget Cell.zero x.cells k) hf).trans (h.cell k)
  shadow k := (congrArg (fun x : State => sget Cell.zero x.shadow k) hf).trans (h.shadow k)
  tile k := (congrArg (fun x : State => x.tileQ k) hf).trans (h.tile k)
  swr k := (iff_of_eq (congrArg (fun x : State => k ∈ x.swr) hf)).trans (h.swr k)
  ops := (congrArg State.ops hf).trans h.ops
  buf := (congrArg State.buf hf).trans h.buf

theorem setObj (h : s.Clears p t) (k v : Nat) : s.Clears p (t.setObj k v) :=
  h.of_frame (congrArg (fun x : State => { x with moves := t.moves }) (State.setObj_frame t k v) :)

/-- An engine's weights and its tile are cleared (R84). -/
theorem clearEngine (s : State) (n : Nat) : s.Clears (fun x => x == n) ((s.clearWeights n).clearTile n) := by
  have hf := State.endRanges_frame (s.clearWeights n) (fun r => r.onTiles [⟨n, 0⟩])
  have hkeep (a : Nat) : ((a != n) = true ↔ ¬ (a == n) = true) := by simp
  constructor
  case reg =>
    intro k
    have hregs : ((s.clearWeights n).clearTile n).regs = s.regs.filter (fun e => e.1 / 1024 != n) :=
      congrArg (List.filter (fun e : Nat × LongReg => e.1 / 1024 != n)) (congrArg State.regs hf :)
    rw [State.reg, hregs, sget_filter_key (p := fun k => k / 1024 != n)]
    simp only [hkeep, ite_not, State.reg]
  case tile =>
    intro k
    have htiles : ((s.clearWeights n).clearTile n).tiles = s.tiles.filter (fun e => e.1 / 4 != n) :=
      congrArg (List.filter (fun e : Nat × TileQ => e.1 / 4 != n)) (congrArg State.tiles hf :)
    rw [State.tileQ, htiles, sget_filter_key (p := fun k => k / 4 != n)]
    simp only [hkeep, ite_not, State.tileQ]
  case cell =>
    intro k
    have hcells : ((s.clearWeights n).clearTile n).cells = s.cells.filter (fun e => e.1 / 1024 != n) := congrArg State.cells hf
    rw [hcells, sget_filter_key (p := fun k => k / 1024 != n)]
    simp only [hkeep, ite_not]
  case shadow =>
    intro k
    have hshadow : ((s.clearWeights n).clearTile n).shadow = s.shadow.filter (fun e => e.1 / 1024 != n) := congrArg State.shadow hf
    rw [hshadow, sget_filter_key (p := fun k => k / 1024 != n)]
    simp only [hkeep, ite_not]
  case swr =>
    intro k
    have hswr : ((s.clearWeights n).clearTile n).swr = s.swr.filter (fun k => k / 64 != n) := congrArg State.swr hf
    rw [hswr, List.mem_filter, bne, Bool.not_eq_true']
  case ops => exact (congrArg State.ops hf :)
  case buf => exact (congrArg State.buf hf :)

/-- Engines are cleared one after another. -/
theorem foldl (l : List Nat) (f : Nat → Nat) (s : State) :
    s.Clears (fun n => l.any (fun e => n == f e)) (l.foldl (fun s e => (s.clearWeights (f e)).clearTile (f e)) s) := by
  induction l generalizing s with
  | nil => exact refl s
  | cons e l ih => exact (clearEngine s (f e)).trans (ih _)

end State.Clears

/-! ### BYPASS_MAP_APPLY (R84) -/

/-- A map that comes into force clears its engine. -/
theorem State.setMap_clears (s : State) (n v : Nat) : s.Clears (fun x => x == n) (s.setMap n v) := by
  have hmap := (State.Clears.clearEngine s n).setObj (key (0x8000 + n) 1) v
  unfold State.setMap
  dsimp only
  split
  · exact hmap.setObj _ _
  · exact hmap

theorem State.setMap_bypass (s : State) (n v : Nat) : (s.setMap n v).bypass n = v := by
  unfold State.setMap
  dsimp only
  split
  · rw [State.bypass, State.obj_setObj (defaultSource_bypass n), if_neg (by unfold key; omega), State.obj_setObj_self]
  · exact State.obj_setObj_self

theorem exec_bypassMapApply_ready {n : Nat} {s : State} (hn : n < s.conf.engines) (h : s.mapReady n = true) :
    exec (.bypassMapApply n) s = .next (s.applyMap n) := by
  have hexec : exec (.bypassMapApply n) s = execBypassMapApply n s := rfl
  rw [hexec, execBypassMapApply, if_neg (Nat.not_le.mpr hn), if_pos h]

/-! ### CORE_MOVE_COMPLETE (R358) -/

/-- The moves of a core are those that make it move. -/
theorem State.moving_eq (s : State) (c : Nat) : s.moving c = s.moves.any (isMoveOf c) := rfl

/-- No default follows an owner from another object. -/
theorem defaultSource_of_isMoveOf {c : Nat} {m : Move} (h : isMoveOf c m = true) : defaultSource m.key = none := by
  have hkey : m.key = key (0x3200 + c) 0 ∨ (key 0x8000 0 ≤ m.key ∧ m.key % 256 = 6) := by
    simp only [isMoveOf, Bool.or_eq_true, Bool.and_eq_true, beq_iff_eq, decide_eq_true_eq] at h
    exact h.imp id (fun h => ⟨h.1.1, h.2⟩)
  unfold key at hkey
  unfold defaultSource key
  rw [if_neg (by omega), if_neg (by omega), if_neg (by omega)]

/-- The sixteen engines of a core. -/
theorem any_engine_of_core (c n : Nat) : ((List.range 16).any fun e => n == c * 16 + e) = (n / 16 == c) := by
  rw [Bool.eq_iff_iff, List.any_eq_true, beq_iff_eq]
  constructor
  · rintro ⟨e, he, h⟩
    have := List.mem_range.mp he
    have := eq_of_beq h
    omega
  · intro h
    exact ⟨n % 16, List.mem_range.mpr (Nat.mod_lt _ (by decide)), beq_iff_eq.mpr (by omega)⟩

/-- A core's engines are clear (R358). -/
theorem State.clearCore_clears (s : State) (c : Nat) : s.Clears (fun n => n / 16 == c) (s.clearCore c) := by
  have h := State.Clears.foldl (List.range 16) (fun e => c * 16 + e) s
  simp only [any_engine_of_core] at h
  unfold State.clearCore
  generalize List.foldl _ s _ = s1 at h ⊢
  exact ⟨h.reg, h.cell, h.shadow, h.tile, h.swr, h.ops, h.buf⟩

/-- The moves that wait still wait. -/
theorem State.clearCore_moves (s : State) (c : Nat) : (s.clearCore c).moves = s.moves := by
  have h : ((List.range 16).foldl (fun s e => (s.clearWeights (c * 16 + e)).clearTile (c * 16 + e)) s).moves = s.moves :=
    List.foldlRecOn _ _ (motive := fun t : State => t.moves = s.moves) rfl
      (fun t ht e _ => (congrArg State.moves (State.endRanges_frame (t.clearWeights (c * 16 + e)) _) :).trans ht)
  unfold State.clearCore
  generalize List.foldl _ s _ = s1 at h ⊢
  exact h

/-- A core that is clear has shape 16×1 (R358). -/
theorem State.clearCore_core (s : State) (c : Nat) : (s.clearCore c).core c = .zero := by
  unfold State.clearCore
  generalize List.foldl _ s _ = s1
  exact (State.core_setCore (s := s1) (c := c) (j := c) (v := .zero)).trans (if_pos rfl)

/-- A core's moves come into force and are no longer pending. -/
def State.takeMoves (s : State) (c : Nat) : State :=
  (s.moves.filter (isMoveOf c)).foldl (fun s m => s.setObj m.key m.val) { s with moves := s.moves.filter (fun m => !isMoveOf c m) }

section
variable (s : State) (c : Nat)

theorem State.takeMoves_frame :
    { s.takeMoves c with dict := s.dict, mg := s.mg } = { s with moves := s.moves.filter (fun m => !isMoveOf c m) } :=
  State.foldl_setObj_frame _ { s with moves := s.moves.filter (fun m => !isMoveOf c m) }

theorem State.takeMoves_moves : (s.takeMoves c).moves = s.moves.filter (fun m => !isMoveOf c m) :=
  congrArg State.moves (s.takeMoves_frame c)

theorem State.takeMoves_core (n : Nat) : (s.takeMoves c).core n = s.core n :=
  (congrArg (fun t : State => t.core n) (s.takeMoves_frame c) :)

theorem State.takeMoves_moving : (s.takeMoves c).moving c = false := by
  rw [State.moving_eq, State.takeMoves_moves, List.any_filter]
  simp

/-- Each move of the core is in force, when no object has two. -/
theorem State.takeMoves_obj {m : Move} (hnodup : (s.moves.map (fun m => m.key)).Nodup) (hm : m ∈ s.moves) (hc : isMoveOf c m = true) :
    (s.takeMoves c).obj m.key = m.val :=
  State.obj_foldl_setObj (List.mem_filter.mpr ⟨hm, hc⟩) (hnodup.sublist (List.filter_sublist.map _)) (defaultSource_of_isMoveOf hc) _

end

theorem State.Clears.takeMoves {p : Nat → Bool} {s t : State} (h : s.Clears p t) (c : Nat) : s.Clears p (t.takeMoves c) :=
  h.of_frame (congrArg (fun x : State => { x with moves := t.moves }) (t.takeMoves_frame c) :)

theorem exec_coreMoveComplete_moving {c : Nat} {s : State} (hc : c < s.conf.cores) (hm : s.moving c = true)
    (hops : s.ops.any (fun o => opOnCore o c) = false) : exec (.coreMoveComplete c) s = .next ((s.clearCore c).takeMoves c) := by
  have hexec : exec (.coreMoveComplete c) s = execCoreMoveComplete c s := rfl
  rw [hexec, execCoreMoveComplete, if_neg (Nat.not_le.mpr hc), if_pos ⟨hm, hops⟩, State.takeMoves]
  dsimp only
  rw [s.clearCore_moves c]

end Sys2Proof.Machine
end

section
/-! TENANT_RELEASE: which owners and ranges it releases, and what stays; with it the obligation on maps, moves and releases. -/

namespace Sys2Proof.Machine

/-! ### What an object will hold (R358, R359) -/

section
variable {s : State} {j k v : Nat}

/-- Of moves that keep all of an object's, the first of the object is the same. -/
theorem find?_move_filter {ms : List Move} {p : Move → Bool} (h : ∀ m : Move, m.key = j → p m = true) :
    (ms.filter p).find? (fun m => m.key == j) = ms.find? (fun m => m.key == j) := by
  rw [List.find?_filter]
  congr 1
  funext m
  by_cases hm : m.key = j
  · simp [hm, h m hm]
  · simp [hm]

/-- Moves that keep none of an object's. -/
theorem find?_move_filter_none {ms : List Move} {p : Move → Bool} (h : ∀ m : Move, m.key = j → p m = false) :
    (ms.filter p).find? (fun m => m.key == j) = none := by
  refine List.find?_eq_none.mpr (fun m hm hmj => ?_)
  have hp := (List.mem_filter.mp hm).2
  rw [h m (eq_of_beq hmj)] at hp
  cases hp

theorem State.willBe_of_find? {t : State} (hfind : t.moves.find? (fun m => m.key == j) = s.moves.find? (fun m => m.key == j))
    (hobj : t.obj j = s.obj j) : t.willBe j = s.willBe j := by
  unfold State.willBe
  rw [hfind, hobj]

theorem State.willBe_of_find?_none (h : s.moves.find? (fun m => m.key == j) = none) : s.willBe j = s.obj j := by
  unfold State.willBe
  rw [h]

/-- What an object will hold once a change is to come. -/
theorem State.willBe_pendMove : (s.pendMove k v).willBe j = if j = k then v else s.willBe j := by
  have hmoves : (s.pendMove k v).moves = s.moves.filter (fun m => m.key != k) ++ [⟨k, v, s.adm.nextId⟩] := rfl
  split
  · next hj =>
    subst hj
    unfold State.willBe
    rw [hmoves, List.find?_append, find?_move_filter_none (fun m hm => by simp [hm])]
    simp
  · next hj =>
    refine State.willBe_of_find? ?_ rfl
    rw [hmoves, List.find?_append, find?_move_filter (fun m hm => by simp [hm, hj])]
    simp [Ne.symm hj]

theorem State.willBe_setObj_of_ne (hsrc : defaultSource j = none) (hj : j ≠ k) : (s.setObj k v).willBe j = s.willBe j :=
  State.willBe_of_find? (by simp) (by rw [State.obj_setObj hsrc, if_neg hj])

/-- A range that takes effect becomes what it was to be, and what any other object will hold stays. -/
theorem State.willBe_settleRange (hsrc : defaultSource j = none) (tn cl : Nat) : (s.settleRange tn cl).willBe j = s.willBe j := by
  unfold State.settleRange
  dsimp only
  split
  · generalize hk : key (0x3180 + tn) (2 * cl) = k
    have heven : k % 2 = 0 := by unfold key at hk; omega
    by_cases hj : j / 2 = k / 2
    · rw [State.willBe_of_find?_none, State.obj_setObj hsrc, State.obj_setObj hsrc]
      · split
        · next h => rw [h, ← hk]; rfl
        · rw [if_pos (by omega), show j = k by omega, ← hk]; rfl
      · simp only [State.setObj_moves]
        exact find?_move_filter_none (fun m hm => by simp [hm, hj])
    · rw [State.willBe_setObj_of_ne hsrc (by omega), State.willBe_setObj_of_ne hsrc (by omega)]
      exact State.willBe_of_find? (find?_move_filter (fun m hm => by simp [hm, hj])) rfl
  · rfl

end

/-! ### Changes one after another -/

section
variable {α : Type} {step : State → α → State} {touches : α → Prop} {F : Nat → Nat} {j : Nat} {l : List α}

/-- An object that no step of a list touches will hold what it was to. -/
theorem State.willBe_foldl_of_not (hstep : ∀ s a, ¬ touches a → (step s a).willBe j = s.willBe j) (h : ∀ a ∈ l, ¬ touches a)
    (s : State) : (l.foldl step s).willBe j = s.willBe j :=
  List.foldlRecOn l step (motive := fun t => t.willBe j = s.willBe j) rfl (fun t ht a ha => (hstep t a (h a ha)).trans ht)

/-- An object that one step of a list touches will hold what that step makes of it. -/
theorem State.willBe_foldl_of_mem (hstep : ∀ s a, ¬ touches a → (step s a).willBe j = s.willBe j)
    (htouch : ∀ s a, touches a → (step s a).willBe j = F (s.willBe j)) (hnodup : l.Nodup) {a : α} (ha : a ∈ l) (hta : touches a)
    (hone : ∀ b, touches b → b = a) (s : State) : (l.foldl step s).willBe j = F (s.willBe j) := by
  induction l generalizing s with
  | nil => cases ha
  | cons b l ih =>
    obtain ⟨hb, hnodup⟩ := List.nodup_cons.mp hnodup
    rw [List.foldl_cons]
    rcases List.mem_cons.mp ha with rfl | ha
    · rw [State.willBe_foldl_of_not hstep (fun x hx htx => hb (hone x htx ▸ hx)), htouch s a hta]
    · have hnb : ¬ touches b := fun htb => hb (hone b htb ▸ ha)
      rw [ih hnodup ha, hstep s b hnb]

end

/-! ### What a release leaves unchanged -/

/-- The two states agree in the registers, the weights and the ops. -/
structure State.SameHeld (s t : State) : Prop where
  regs : t.regs = s.regs
  cells : t.cells = s.cells
  ops : t.ops = s.ops

namespace State.SameHeld

theorem refl (s : State) : s.SameHeld s := ⟨rfl, rfl, rfl⟩

theorem trans {s t u : State} (h : s.SameHeld t) (g : t.SameHeld u) : s.SameHeld u :=
  ⟨g.regs.trans h.regs, g.cells.trans h.cells, g.ops.trans h.ops⟩

theorem foldl {α : Type} {f : State → α → State} (hf : ∀ (s : State) a, s.SameHeld (f s a)) (l : List α) (s : State) :
    s.SameHeld (l.foldl f s) :=
  List.foldlRecOn l f (refl s) (fun t ht a _ => ht.trans (hf t a))

theorem setObj (s : State) (k v : Nat) : s.SameHeld (s.setObj k v) := ⟨by simp, by simp, by simp⟩

theorem pendMove (s : State) (k v : Nat) : s.SameHeld (s.pendMove k v) := ⟨rfl, rfl, rfl⟩

/-- A range that takes effect clears bytes of the buffer only (R359). -/
theorem settleRange (s : State) (tn cl : Nat) : s.SameHeld (s.settleRange tn cl) := by
  unfold State.settleRange
  dsimp only
  split
  · refine SameHeld.trans ?_ ((setObj _ _ _).trans (setObj _ _ _))
    exact ⟨rfl, rfl, rfl⟩
  · exact refl s

end State.SameHeld

/-! ### The release of a tenant (R356) -/

section
variable (s : State) (tn : Nat)

/-- A core that is to be the tenant's goes to none. -/
def State.releaseCore (c : Nat) : State :=
  if s.willBe (key (0x3200 + c) 0) = tn then s.pendMove (key (0x3200 + c) 0) 0xFF else s

/-- The quadrants of an engine that are to be the tenant's go to none. -/
def State.releaseQuads (n : Nat) : State :=
  if freeQuads tn (s.willBe (key (0x8000 + n) 6)) = s.willBe (key (0x8000 + n) 6) then s
  else s.pendMove (key (0x8000 + n) 6) (freeQuads tn (s.willBe (key (0x8000 + n) 6)))

/-- The tenant's range in a cluster becomes empty. -/
def State.releaseSpan (cl : Nat) : State :=
  if s.spanNext tn cl = (0, 0) then s
  else ((s.pendMove (key (0x3180 + tn) (2 * cl)) 0).pendMove (key (0x3180 + tn) (2 * cl + 1)) 0).settleRange tn cl

/-- The owners and ranges of a tenant are released: its cores, then its quadrants, then its ranges. -/
def State.releaseHoldings : State :=
  (List.range s.conf.clusters).foldl (fun u cl => u.releaseSpan tn cl)
    ((List.range s.conf.engines).foldl (fun u n => u.releaseQuads tn n)
      ((List.range s.conf.cores).foldl (fun u c => u.releaseCore tn c) s))

end

section
variable {s : State} {tn j : Nat}

/-- TENANT_RELEASE releases the tenant's holdings, and the tenant's state is 0. -/
theorem State.releaseTenant_eq : s.releaseTenant tn = (s.releaseHoldings tn).setObj (key (0x3100 + tn) 0) 0 := rfl

theorem State.willBe_releaseCore_self (c : Nat) : (s.releaseCore tn c).willBe (key (0x3200 + c) 0) =
    if s.willBe (key (0x3200 + c) 0) = tn then 0xFF else s.willBe (key (0x3200 + c) 0) := by
  unfold State.releaseCore
  split
  · exact State.willBe_pendMove.trans (if_pos rfl)
  · rfl

theorem State.willBe_releaseCore_of_ne {c : Nat} (h : j ≠ key (0x3200 + c) 0) : (s.releaseCore tn c).willBe j = s.willBe j := by
  unfold State.releaseCore
  split
  · exact State.willBe_pendMove.trans (if_neg h)
  · rfl

theorem State.willBe_releaseQuads_self (n : Nat) : (s.releaseQuads tn n).willBe (key (0x8000 + n) 6) =
    freeQuads tn (s.willBe (key (0x8000 + n) 6)) := by
  unfold State.releaseQuads
  split
  · next h => exact h.symm
  · exact State.willBe_pendMove.trans (if_pos rfl)

theorem State.willBe_releaseQuads_of_ne {n : Nat} (h : j ≠ key (0x8000 + n) 6) : (s.releaseQuads tn n).willBe j = s.willBe j := by
  unfold State.releaseQuads
  split
  · rfl
  · exact State.willBe_pendMove.trans (if_neg h)

theorem State.willBe_releaseSpan_self {cl : Nat} (hsrc : defaultSource j = none)
    (h : j = key (0x3180 + tn) (2 * cl) ∨ j = key (0x3180 + tn) (2 * cl + 1)) : (s.releaseSpan tn cl).willBe j = 0 := by
  unfold State.releaseSpan
  split
  · next hz =>
    obtain ⟨hbase, hlen⟩ := Prod.mk.inj hz
    rcases h with rfl | rfl
    · exact hbase
    · exact hlen
  · rw [State.willBe_settleRange hsrc, State.willBe_pendMove, State.willBe_pendMove]
    rcases h with h | h
    · rw [if_pos h, ite_self]
    · rw [if_pos h]

theorem State.willBe_releaseSpan_of_ne {cl : Nat} (hsrc : defaultSource j = none)
    (h : ¬ (j = key (0x3180 + tn) (2 * cl) ∨ j = key (0x3180 + tn) (2 * cl + 1))) :
    (s.releaseSpan tn cl).willBe j = s.willBe j := by
  obtain ⟨hbase, hlen⟩ := not_or.mp h
  unfold State.releaseSpan
  split
  · rfl
  · rw [State.willBe_settleRange hsrc, State.willBe_pendMove, State.willBe_pendMove, if_neg hlen, if_neg hbase]

/-- A release touches no register, no weight and no op. -/
theorem State.releaseTenant_sameHeld (s : State) (tn : Nat) : s.SameHeld (s.releaseTenant tn) := by
  have hcore (u : State) (c : Nat) : u.SameHeld (u.releaseCore tn c) := by
    unfold State.releaseCore
    split
    · exact .pendMove _ _ _
    · exact .refl u
  have hquads (u : State) (n : Nat) : u.SameHeld (u.releaseQuads tn n) := by
    unfold State.releaseQuads
    split
    · exact .refl u
    · exact .pendMove _ _ _
  have hspan (u : State) (cl : Nat) : u.SameHeld (u.releaseSpan tn cl) := by
    unfold State.releaseSpan
    split
    · exact .refl u
    · exact ((SameHeld.pendMove _ _ _).trans (.pendMove _ _ _)).trans (.settleRange _ _ _)
  rw [State.releaseTenant_eq]
  exact (((SameHeld.foldl hcore _ _).trans (.foldl hquads _ _)).trans (.foldl hspan _ _)).trans (.setObj _ _ _)

/-! What the tenant's cores, quadrants and ranges will be. -/

theorem defaultSource_core (c : Nat) : defaultSource (key (0x3200 + c) 0) = none := by
  unfold defaultSource key
  rw [if_neg (by omega), if_neg (by omega), if_neg (by omega)]

theorem defaultSource_quads (n : Nat) : defaultSource (key (0x8000 + n) 6) = none := by
  unfold defaultSource key
  rw [if_neg (by omega), if_neg (by omega), if_neg (by omega)]

theorem defaultSource_span {tn i : Nat} (htn : tn < 16) (hi : i < 16) : defaultSource (key (0x3180 + tn) i) = none := by
  unfold defaultSource key
  rw [if_neg (by omega), if_neg (by omega), if_neg (by omega)]

theorem core_key_inj {c x : Nat} (h : key (0x3200 + c) 0 = key (0x3200 + x) 0) : c = x := by
  unfold key at h
  omega

theorem quads_key_inj {n x : Nat} (h : key (0x8000 + n) 6 = key (0x8000 + x) 6) : n = x := by
  unfold key at h
  omega

theorem clusters_le (conf : Conf) : conf.clusters ≤ 8 := by cases conf <;> decide

/-- A core that is to be the tenant's is to be no one's. -/
theorem State.willBe_releaseTenant_core (s : State) {tn c : Nat} (htn : tn < 16) (hc : c < s.conf.cores) :
    (s.releaseTenant tn).willBe (key (0x3200 + c) 0) =
      if s.willBe (key (0x3200 + c) 0) = tn then 0xFF else s.willBe (key (0x3200 + c) 0) := by
  have hsrc := defaultSource_core c
  have hclusters := clusters_le s.conf
  rw [State.releaseTenant_eq, State.willBe_setObj_of_ne hsrc (by unfold key; omega), State.releaseHoldings,
    State.willBe_foldl_of_not (fun _ _ => State.willBe_releaseSpan_of_ne hsrc)
      (fun cl hcl => by have := List.mem_range.mp hcl; unfold key; omega),
    State.willBe_foldl_of_not (fun _ _ => State.willBe_releaseQuads_of_ne) (fun n _ => by unfold key; omega)]
  exact State.willBe_foldl_of_mem (F := fun v => if v = tn then 0xFF else v) (fun _ _ => State.willBe_releaseCore_of_ne)
    (fun u x hx => (core_key_inj hx) ▸ State.willBe_releaseCore_self c) List.nodup_range (List.mem_range.mpr hc) rfl
    (fun x hx => (core_key_inj hx).symm) s

/-- An engine's quadrants that are to be the tenant's are to be no one's. -/
theorem State.willBe_releaseTenant_quads (s : State) {tn n : Nat} (htn : tn < 16) (hn : n < s.conf.engines) :
    (s.releaseTenant tn).willBe (key (0x8000 + n) 6) = freeQuads tn (s.willBe (key (0x8000 + n) 6)) := by
  have hsrc := defaultSource_quads n
  have hclusters := clusters_le s.conf
  rw [State.releaseTenant_eq, State.willBe_setObj_of_ne hsrc (by unfold key; omega), State.releaseHoldings,
    State.willBe_foldl_of_not (fun _ _ => State.willBe_releaseSpan_of_ne hsrc)
      (fun cl hcl => by have := List.mem_range.mp hcl; unfold key; omega),
    State.willBe_foldl_of_mem (F := freeQuads tn) (fun _ _ => State.willBe_releaseQuads_of_ne)
      (fun u x hx => (quads_key_inj hx) ▸ State.willBe_releaseQuads_self n) List.nodup_range (List.mem_range.mpr hn) rfl
      (fun x hx => (quads_key_inj hx).symm),
    State.willBe_foldl_of_not (fun _ _ => State.willBe_releaseCore_of_ne) (fun c _ => by unfold key; omega)]

/-- The tenant's range in a cluster is to be empty. -/
theorem State.spanNext_releaseTenant (s : State) {tn cl : Nat} (htn : tn < 16) (hcl : cl < s.conf.clusters) :
    (s.releaseTenant tn).spanNext tn cl = (0, 0) := by
  have hclusters := clusters_le s.conf
  have hzero (j : Nat) (hsrc : defaultSource j = none) (h : j = key (0x3180 + tn) (2 * cl) ∨ j = key (0x3180 + tn) (2 * cl + 1)) :
      (s.releaseTenant tn).willBe j = 0 := by
    rw [State.releaseTenant_eq, State.willBe_setObj_of_ne hsrc (by unfold key at *; omega), State.releaseHoldings]
    exact State.willBe_foldl_of_mem (F := fun _ => 0)
      (touches := fun x => j = key (0x3180 + tn) (2 * x) ∨ j = key (0x3180 + tn) (2 * x + 1)) (fun _ _ => State.willBe_releaseSpan_of_ne hsrc)
      (fun _ _ => State.willBe_releaseSpan_self hsrc) List.nodup_range (List.mem_range.mpr hcl) h
      (fun x hx => by unfold key at *; omega) _
  exact Prod.ext (hzero _ (defaultSource_span htn (by omega)) (.inl rfl)) (hzero _ (defaultSource_span htn (by omega)) (.inr rfl))

end

theorem exec_tenantRelease_leaving {tn : Nat} {s : State} (htn : tn < 16) (hst : s.obj (key (0x3100 + tn) 0) = 2)
    (hops : s.ops.any (fun o => o.d.tenant == tn) = false) : exec (.tenantRelease tn) s = .next (s.releaseTenant tn) := by
  have hexec : exec (.tenantRelease tn) s = execTenantRelease tn s := rfl
  rw [hexec, execTenantRelease, if_pos ⟨htn, hst, hops⟩]

/-! ### The obligation -/

/-- Settles O60: each command clears or releases what is its own, and the moves or the map are in force. -/
theorem mapsMovesAndReleases : Obligations.Maps_moves_and_releases := by
  refine ⟨fun n s hn hready => ?map, fun c s hc hmoving hops hnodup => ?move, fun tn s htn hst hops => ?release⟩
  case map =>
    have h : s.Clears (fun x => x == n) (s.applyMap n) := s.setMap_clears n _
    refine ⟨_, exec_bypassMapApply_ready hn hready, s.setMap_bypass n _, h.ops, h.buf, fun k hk => ?clear, fun k hk => ?kept,
      fun k hk => ?marks, fun k hk => ?tiles⟩
    case clear =>
      rw [h.reg, h.cell, h.shadow]
      simp [hk]
    case kept =>
      rw [h.reg, h.cell, h.shadow]
      simp [hk]
    case marks => exact ne_of_beq_false ((h.swr k).mp hk).2
    case tiles => rw [h.tile, if_pos (beq_iff_eq.mpr hk)]
  case move =>
    refine ⟨_, exec_coreMoveComplete_moving hc hmoving hops, ?_⟩
    have hmoves := s.clearCore_moves c
    have hcore := s.clearCore_core c
    have h := (s.clearCore_clears c).takeMoves c
    generalize s.clearCore c = u at hmoves hcore h ⊢
    rw [← hmoves] at hnodup ⊢
    refine ⟨u.takeMoves_moving c, (u.takeMoves_core c c).trans hcore, h.ops, h.buf, fun m hm hmc => u.takeMoves_obj c hnodup hm hmc,
      fun m hm hmc => ?others, fun k hk => ?clear, fun k hk => ?kept, fun k hk => ?terms⟩
    case others =>
      rw [u.takeMoves_moves]
      exact List.mem_filter.mpr ⟨hm, by rw [hmc]; rfl⟩
    case clear =>
      have hkc : k / 1024 / 16 = c := by omega
      rw [h.reg, h.cell, h.shadow]
      simp [hkc]
    case kept =>
      have hkc : k / 1024 / 16 ≠ c := by omega
      rw [h.reg, h.cell]
      simp [hkc]
    case terms =>
      have hkc : k / 4 / 16 = c := by omega
      rw [h.tile, if_pos (beq_iff_eq.mpr hkc)]
      rfl
  case release =>
    have hsame := s.releaseTenant_sameHeld tn
    refine ⟨_, exec_tenantRelease_leaving htn hst hops, ?state, fun c hc hown => ?cores,
      fun n hn => State.willBe_releaseTenant_quads s htn hn, fun cl hcl => State.spanNext_releaseTenant s htn hcl,
      hsame.regs, hsame.cells, hsame.ops⟩
    case state => rw [State.releaseTenant_eq, State.obj_setObj_self]
    case cores => rw [State.willBe_releaseTenant_core s htn hc, if_pos hown]

end Sys2Proof.Machine
end

section
/-! SPINE_RECEIVE and SPINE_RESEND: what an arrival leaves in its register, on its link and on its op (R113, R252, R254, R255). -/

namespace Sys2Proof.Machine

/-! ### Records and offences -/

/-- The two states agree in the array, the spine links and the ops. -/
structure State.SameSpine (s t : State) : Prop extends State.SameArray s t where
  spine : t.spine = s.spine
  ops : t.ops = s.ops

namespace State.SameSpine

variable {s t u : State}

theorem refl (s : State) : s.SameSpine s := ⟨.refl s, rfl, rfl⟩

theorem trans (h : s.SameSpine t) (g : t.SameSpine u) : s.SameSpine u :=
  ⟨h.toSameArray.trans g.toSameArray, g.spine.trans h.spine, g.ops.trans h.ops⟩

theorem setObj (s : State) (k v : Nat) : s.SameSpine (s.setObj k v) :=
  ⟨⟨by simp, by simp, by simp, by simp, by simp⟩, by simp, by simp⟩

theorem bump (s : State) (k n : Nat) : s.SameSpine (s.bump k n) := ⟨.bump s k n, by simp, by simp⟩

theorem event (s : State) (e : Event) : s.SameSpine (s.event e) := ⟨.event s e, by simp, by simp⟩

theorem withCon (s : State) (x : Contain) : s.SameSpine { s with con := x } := ⟨⟨rfl, rfl, rfl, rfl, rfl⟩, rfl, rfl⟩

/-- The same link changes in both. -/
theorem setLink (h : s.SameSpine t) (c : Nat) (l : LinkSt) : (s.setLink c l).SameSpine (t.setLink c l) :=
  ⟨⟨h.regs, h.cells, h.shadow, h.tiles, h.buf⟩, congrArg (sset LinkSt.zero · c l) h.spine, h.ops⟩

theorem retryRecord (s : State) (e : Event) (cleared : Bool) (tag : Nat) : s.SameSpine (s.retryRecord e cleared tag) := by
  unfold State.retryRecord
  dsimp only
  split <;> exact (bump _ _ _).trans (event _ _)

theorem capture (s : State) (e : Event) (d : CapData) : s.SameSpine (s.capture e d) := by
  have hcheck : s.SameSpine (s.countResidue.event e) := (bump _ _ _).trans (event _ _)
  unfold State.capture
  dsimp only
  split
  · exact hcheck.trans (bump _ _ _)
  · exact ((hcheck.trans (withCon _ _)).trans (bump _ _ _)).trans (event _ _)

theorem priorityTest (s : State) (c : Nat) (rel : Option Nat) : s.SameSpine (s.priorityTest c rel) := by
  unfold State.priorityTest
  split
  · exact refl s
  · exact withCon _ _

theorem suspect (s : State) (x : HwUnit) (cls : Nat) : s.SameSpine (s.suspect x cls) := by
  have hmark (k v : Nat) (e : Event) : s.SameSpine (if s.obj k = 0 then (s.setObj k v).event e else s) := by
    split
    · exact (setObj _ _ _).trans (event _ _)
    · exact refl s
  cases x with
  | engine n => exact (hmark _ _ _).trans (priorityTest _ _ _)
  | drain c => exact (hmark _ _ _).trans (priorityTest _ _ _)
  | link c => exact (setObj _ _ _).trans (withCon _ _)

theorem noteOffence (s : State) (x : HwUnit) : s.SameSpine (s.noteOffence x) := by
  cases x with
  | engine n => exact (setObj _ _ _).trans (setObj _ _ _)
  | drain c => exact refl s
  | link c => exact refl s

theorem pendQuarantine (s : State) (x : HwUnit) : s.SameSpine (s.pendQuarantine x) := by
  unfold State.pendQuarantine
  split
  · exact refl s
  · exact (setObj _ _ _).trans (event _ _)

end State.SameSpine

/-! ### The health of a core -/

/-- No default follows another object to the health of a core. -/
theorem defaultSource_coreHealth (c : Nat) : defaultSource (key (0x2100 + c) 8) = none := by
  unfold defaultSource key
  rw [if_neg (by omega), if_neg (by omega), if_neg (by omega)]

section
variable (s : State) (c : Nat)

/-- A write of an object of another sub-index leaves the health of a core. -/
theorem State.coreHealth_setObj {k : Nat} (v : Nat) (hk : k % 256 ≠ 8) : (s.setObj k v).coreHealth c = s.coreHealth c := by
  rw [State.coreHealth, State.obj_setObj (defaultSource_coreHealth c), if_neg (by unfold key; omega), State.coreHealth]

theorem State.coreHealth_bump {k : Nat} (n : Nat) (hk : k % 256 ≠ 8) : (s.bump k n).coreHealth c = s.coreHealth c :=
  State.obj_bump_of_ne (by unfold key; omega) (by rw [defaultSource_coreHealth]; exact nofun)

theorem State.coreHealth_event (e : Event) : (s.event e).coreHealth c = s.coreHealth c :=
  State.obj_event (by unfold key; omega) e

theorem State.coreHealth_withCon (x : Contain) : ({ s with con := x } : State).coreHealth c = s.coreHealth c :=
  State.obj_congr rfl rfl rfl

theorem State.coreHealth_noteOffence (x : HwUnit) : (s.noteOffence x).coreHealth c = s.coreHealth c := by
  cases x with
  | engine n =>
    exact (State.coreHealth_setObj _ c _ (by unfold key; omega)).trans (State.coreHealth_setObj _ c _ (by unfold key; omega))
  | drain c => rfl
  | link c => rfl

theorem State.coreHealth_capture (e : Event) (d : CapData) : (s.capture e d).coreHealth c = s.coreHealth c := by
  have hcheck : (s.countResidue.event e).coreHealth c = s.coreHealth c :=
    (State.coreHealth_event _ c e).trans (s.coreHealth_bump c 1 (by decide))
  unfold State.capture
  dsimp only
  split
  · exact (State.coreHealth_bump _ c 1 (by decide)).trans hcheck
  · refine (State.coreHealth_event _ c _).trans ((State.coreHealth_bump _ c 1 (by decide)).trans ?_)
    exact (State.coreHealth_withCon (s.countResidue.event e) c _).trans hcheck

end

/-! ### Offences that lose nothing (R274, R275, R277) -/

/-- An offence of a link starts an ageing sweep (R275). -/
theorem State.SameSpine.offend_link (s : State) (c cls : Nat) : s.SameSpine (s.offend (.link c) cls) := by
  unfold State.offend
  exact (State.SameSpine.withCon _ _).trans (State.SameSpine.suspect _ _ _)

/-- An offence of an engine whose core does not await quarantine makes it suspect, or its own quarantine pending. -/
theorem State.SameSpine.offend_engine {s : State} {n : Nat} (h : s.coreHealth (coreOf n) ≠ 2) (cls : Nat) :
    s.SameSpine (s.offend (.engine n) cls) := by
  unfold State.offend
  dsimp only
  set noted := State.noteOffence _ (.engine n) with hnoted
  have hsame : s.SameSpine noted := (State.SameSpine.withCon _ _).trans (State.SameSpine.noteOffence _ _)
  have hhealth : noted.coreHealth (unitCore (.engine n)) ≠ 2 := by
    rw [hnoted, State.coreHealth_noteOffence]
    exact ne_of_eq_of_ne (State.coreHealth_withCon s (coreOf n) _) h
  rw [if_neg hhealth]
  split
  · exact (hsame.trans (.suspect _ _ _)).trans (.pendQuarantine _ _)
  · exact hsame.trans (.suspect _ _ _)

/-! ### The op of an arrival -/

/-- An op of that number has failed. -/
def State.HasFailed (s : State) (id : Nat) : Prop := ∃ p ∈ s.ops, p.id = id ∧ p.failed = true

theorem State.op?_mem {s : State} {id : Nat} {o : Op} (h : s.op? id = some o) : o ∈ s.ops ∧ o.id = id :=
  ⟨List.mem_of_find?_eq_some h, beq_iff_eq.mp (List.find?_some (p := fun o : Op => o.id == id) h)⟩

theorem State.hasFailed_mapOp {s : State} {o : Op} (ho : o ∈ s.ops) :
    (s.mapOp o.id (fun p => { p with failed := true })).HasFailed o.id :=
  ⟨_, List.mem_map_of_mem ho, by simp, by simp⟩

/-- A change of an op that leaves its number and its failure. -/
theorem State.HasFailed.mapOp {s : State} {id : Nat} (h : s.HasFailed id) (i : Nat) {f : Op → Op}
    (hf : ∀ p, (f p).id = p.id ∧ (f p).failed = p.failed) : (s.mapOp i f).HasFailed id := by
  obtain ⟨p, hp, hid, hfail⟩ := h
  refine ⟨_, List.mem_map_of_mem hp, ?_, ?_⟩
  · split
    · exact (hf p).1.trans hid
    · exact hid
  · split
    · exact (hf p).2.trans hfail
    · exact hfail

theorem State.HasFailed.of_ops {s t : State} {id : Nat} (h : s.HasFailed id) (hops : t.ops = s.ops) : t.HasFailed id := by
  unfold State.HasFailed
  rwa [hops]

/-! ### What an arrival leaves -/

/-- `t` holds `v` in register `rk`, the oldest message of the link of `core` has left it and its send buffer, and no other register, no
weight and no tile has changed. -/
structure State.SpineTook (s t : State) (core rk : Nat) (v : LongReg) : Prop where
  regs : t.regs = (s.setReg rk v).regs
  spine : t.spine = (s.setLink core (s.link core).took).spine
  cells : t.cells = s.cells
  tiles : t.tiles = s.tiles

namespace State.SpineTook

variable {s t u : State} {core rk : Nat} {v : LongReg}

theorem reg_self (h : s.SpineTook t core rk v) : t.reg rk = v :=
  (congrArg (sget LongReg.zero · rk) h.regs).trans (State.reg_setReg.trans (if_pos rfl))

theorem reg_of_ne (h : s.SpineTook t core rk v) {k : Nat} (hk : k ≠ rk) : t.reg k = s.reg k :=
  (congrArg (sget LongReg.zero · k) h.regs).trans (State.reg_setReg.trans (if_neg hk))

theorem link_eq (h : s.SpineTook t core rk v) : t.link core = (s.link core).took :=
  (congrArg (sget LinkSt.zero · core) h.spine).trans (State.link_setLink.trans (if_pos rfl))

theorem wire_eq (h : s.SpineTook t core rk v) {m : SpineMsg} {w : List SpineMsg} (hw : (s.link core).wire = m :: w) :
    (t.link core).wire = w := by
  rw [h.link_eq, LinkSt.took, hw]
  rfl

theorem buf_eq (h : s.SpineTook t core rk v) : (t.link core).buf = (s.link core).buf.drop 1 := by
  rw [h.link_eq, LinkSt.took]

theorem of_sameSpine (h : s.SpineTook t core rk v) (g : t.SameSpine u) : s.SpineTook u core rk v :=
  ⟨g.regs.trans h.regs, g.spine.trans h.spine, g.cells.trans h.cells, g.tiles.trans h.tiles⟩

/-- A state that differs from `s` in that register as far as these go, once the message has left and its arrival is noted. -/
theorem arrived (hregs : u.regs = (s.setReg rk v).regs) (hspine : u.spine = s.spine) (hcells : u.cells = s.cells)
    (htiles : u.tiles = s.tiles) (m : SpineMsg) : s.SpineTook ((u.setLink core (s.link core).took).arrived m) core rk v := by
  refine ⟨hregs, ?_, hcells, htiles⟩
  rw [State.arrived, State.mapOp_spine, State.setLink_spine, hspine, State.setLink_spine]

end State.SpineTook

/-- The arrival of a message of an op that has failed. -/
theorem State.HasFailed.arrived {s : State} {id : Nat} (h : s.HasFailed id) (core : Nat) (l : LinkSt) (m : SpineMsg) :
    ((s.setLink core l).arrived m).HasFailed id :=
  (h.of_ops (s.setLink_ops core l)).mapOp m.op (fun _ => ⟨rfl, rfl⟩)

/-- A register is left with POISON, and the op that reads or adds it has failed (R254). -/
def State.spoil (s : State) (id rk : Nat) : State :=
  (s.setReg rk (s.reg rk).mark).mapOp id (fun p => { p with failed := true })

/-- The message of an op whose register is spoilt leaves its link, whatever is recorded before and after. -/
theorem State.SpineTook.spoilt {s t u : State} {core rk : Nat} {o : Op} (ho : o ∈ s.ops) (ht : s.SameSpine t)
    (hu : (t.spoil o.id rk).SameSpine u) (m : SpineMsg) :
    s.SpineTook ((u.setLink core (s.link core).took).arrived m) core rk (s.reg rk).mark ∧
      ((u.setLink core (s.link core).took).arrived m).HasFailed o.id := by
  have hregs : (t.spoil o.id rk).regs = (s.setReg rk (s.reg rk).mark).regs := by
    rw [State.spoil, State.mapOp_regs, State.setReg_regs, State.setReg_regs, ht.regs, ht.reg]
  have hfailed : (t.spoil o.id rk).HasFailed o.id := State.hasFailed_mapOp (by rwa [State.setReg_ops, ht.ops])
  exact ⟨.arrived (hu.regs.trans hregs) (hu.spine.trans ht.spine) (hu.cells.trans ht.cells) (hu.tiles.trans ht.tiles) m,
    (hfailed.of_ops hu.ops).arrived core _ m⟩

/-! ### SPINE_RECEIVE -/

/-- A trimmed long that is added: N modulo 2^576, the flags ORed (Table 02-4). -/
theorem LongReg.add_incoming (r x : LongReg) : (r.add x.incoming).n = r.n + BitVec.ofInt 576 x.val ∧
    (r.add x.incoming).nan = (r.nan || x.nan) ∧ (r.add x.incoming).pinf = (r.pinf || x.pinf) ∧
    (r.add x.incoming).ninf = (r.ninf || x.ninf) ∧ (r.add x.incoming).poison = (r.poison || x.poison) := by
  simp only [LongReg.add, LongReg.incoming, and_self]

/-- A register add that fails its check, on a core that does not await quarantine, is recorded and spoils the register (R252, R254). -/
theorem State.addReg_fails {s : State} {id tn tag rk : Nat} {t : TileRef} {new : LongReg} (hnew : new.checks = false)
    (hhealth : s.coreHealth (coreOf t.n) ≠ 2) : ∃ u, s.SameSpine u ∧ s.addReg (some id) tn tag t rk new = u.spoil id rk := by
  have hcap (e : Event) (d : CapData) : s.SameSpine ((s.capture e d).offend (.engine t.n) 0x013) :=
    (State.SameSpine.capture s e d).trans (.offend_engine (by rwa [State.coreHealth_capture]) _)
  have hretry (v : State) (e : Event) : (v.retryRecord e false tag).reg rk = v.reg rk := (State.SameSpine.retryRecord _ _ _ _).reg rk
  unfold State.addReg
  dsimp only
  rw [if_neg (by rw [hnew]; exact Bool.false_ne_true), ← hretry]
  exact ⟨_, (hcap _ _).trans (.retryRecord _ _ _ _), rfl⟩

section
variable {s : State} {core : Nat} {o : Op} {m : SpineMsg} {ws : List W64} {rk : Nat} {x : Trimmed}

/-- A trimmed long that passes its check is added (R113). -/
theorem State.spineTake_passes (hx : untrim ws = some x) (hchk : x.checks = true) : s.spineTake core o m ws rk =
    ((s.addReg (some o.id) o.d.tenant o.d.tag (regTile o rk) rk ((s.reg rk).add x.reg.incoming)).setLink core
      (s.link core).took).arrived m := by
  simp only [State.spineTake, hx, if_pos hchk]

theorem State.spineTake_adds (hx : untrim ws = some x) (hchk : x.checks = true) (hadd : ((s.reg rk).add x.reg.incoming).checks = true) :
    s.SpineTook (s.spineTake core o m ws rk) core rk ((s.reg rk).add x.reg.incoming) := by
  rw [State.spineTake_passes hx hchk, State.addReg, if_pos hadd]
  exact .arrived rfl rfl rfl rfl m

/-- A sum whose new N fails its check spoils its register (R252, R254; log 107). -/
theorem State.spineTake_addFails (hx : untrim ws = some x) (hchk : x.checks = true)
    (hadd : ((s.reg rk).add x.reg.incoming).checks = false) (hhealth : s.coreHealth (coreOf (regTile o rk).n) ≠ 2) (ho : o ∈ s.ops) :
    s.SpineTook (s.spineTake core o m ws rk) core rk (s.reg rk).mark ∧ (s.spineTake core o m ws rk).HasFailed o.id := by
  obtain ⟨u, hu, hreg⟩ := State.addReg_fails (id := o.id) (tn := o.d.tenant) (tag := o.d.tag) (rk := rk) hadd hhealth
  rw [State.spineTake_passes hx hchk, hreg]
  exact State.SpineTook.spoilt ho hu (.refl _) m

/-- A failed check of an arrival is counted and recorded (R254). -/
theorem State.SameSpine.residueEvent (s : State) (e : Event) : s.SameSpine (s.countResidue.event e) :=
  (State.SameSpine.bump _ _ _).trans (.event _ _)

/-- A trimmed long that fails its check leaves the wire and is asked for again (R255). -/
theorem State.spineTake_asksAgain (hx : untrim ws = some x) (hchk : x.checks = false) (hm : m.resent = false) :
    (s.setLink core { s.link core with wire := (s.link core).wire.drop 1, resend := true }).SameSpine (s.spineTake core o m ws rk) := by
  simp only [State.spineTake, hx, hchk, hm, Bool.false_eq_true, if_false]
  exact ((State.SameSpine.residueEvent s _).setLink core _).trans (.offend_link _ core 0x016)

/-- One that fails its check again spoils its register (R254, R255). -/
theorem State.spineTake_failsAgain (hx : untrim ws = some x) (hchk : x.checks = false) (hm : m.resent = true) (ho : o ∈ s.ops) :
    s.SpineTook (s.spineTake core o m ws rk) core rk (s.reg rk).mark ∧ (s.spineTake core o m ws rk).HasFailed o.id := by
  have hrec (e : Event) := State.SameSpine.residueEvent s e
  have hlink (e : Event) : ((s.countResidue.event e).spoil o.id rk).link core = s.link core :=
    congrArg (sget LinkSt.zero · core) (hrec e).spine
  have htake : ∃ e e', s.spineTake core o m ws rk = ((((s.countResidue.event e).spoil o.id rk).retryRecord e' false o.d.tag).setLink core
      (((s.countResidue.event e).spoil o.id rk).link core).took).arrived m := by
    simp only [State.spineTake, hx, hchk, hm, Bool.false_eq_true, if_false, if_true]
    exact ⟨_, _, rfl⟩
  obtain ⟨e, e', htake⟩ := htake
  rw [htake, hlink]
  exact State.SpineTook.spoilt ho (hrec e) (.retryRecord _ _ _ _) m

end

/-- SPINE_RECEIVE of a message whose register is open and whose op no fence has stopped: the message is taken, and a retry that clears is
recorded (R113, R254). -/
theorem exec_spineReceive_open {core err : Nat} {m : SpineMsg} {w : List SpineMsg} {o : Op} {rk : Nat} {r : RowRef} {s : State}
    (hw : (s.link core).wire = m :: w) (hres : (s.link core).resend = false) (hop : s.op? m.op = some o) (hend : o.ending ≠ some 0x06)
    (hreg : s.spineReg o (m.sc + 1) m.ci m.row m.col = some (rk, r)) (hopen : s.rowOpen o r = true) :
    ∃ t, exec (.spineReceive core err) s = .next t ∧ (s.spineTake core o m (flipWords m.words err) rk).SameSpine t := by
  have hexec : exec (.spineReceive core err) s = execSpineReceive core err s := rfl
  simp only [hexec, execSpineReceive, hw, hres, hop, if_neg hend, hreg, if_pos hopen, Bool.false_eq_true, if_false]
  refine ⟨_, rfl, ?_⟩
  split
  · exact .retryRecord _ _ _ _
  · exact .refl _

/-! ### SPINE_RESEND -/

/-- SPINE_RESEND that is owed: the held copy goes out ahead of what follows it (R255). -/
theorem exec_spineResend_owed {core : Nat} {m : SpineMsg} {b : List SpineMsg} {s : State} (hb : (s.link core).buf = m :: b)
    (hres : (s.link core).resend = true) : exec (.spineResend core) s =
      .next (s.setLink core { s.link core with wire := { m with resent := true } :: (s.link core).wire, resend := false }) := by
  have hexec : exec (.spineResend core) s = execSpineResend core s := rfl
  simp only [hexec, execSpineResend, hb, hres, if_true]

/-! ### The obligation -/

/-- Settles O25: an arrival is one write of a register and one take from its link, or only the request to send it again. -/
theorem spineReceiveAddsOrHasItSentAgain : Obligations.Spine_receive_adds_or_has_it_sent_again := by
  refine ⟨fun core err m w o rk r x s hw hres hop hend hreg hopen hx => ?receive, fun core m b s hb hres => ?resend⟩
  case receive =>
    obtain ⟨t, hexec, ht⟩ := exec_spineReceive_open (err := err) hw hres hop hend hreg hopen
    have ho : o ∈ s.ops := (State.op?_mem hop).1
    refine ⟨fun hchk hadd => ⟨t, hexec, ?adds⟩, fun hchk hadd hhealth => ⟨t, hexec, ?addFails⟩,
      fun hchk hm => ⟨t, hexec, ?asksAgain⟩, fun hchk hm => ⟨t, hexec, ?failsAgain⟩⟩
    case adds =>
      have h := (State.spineTake_adds hx hchk hadd).of_sameSpine ht
      obtain ⟨hn, hnan, hpinf, hninf, hpoison⟩ := LongReg.add_incoming (s.reg rk) x.reg
      rw [h.reg_self]
      exact ⟨hn, hnan, hpinf, hninf, hpoison, fun _ => h.reg_of_ne, h.wire_eq hw, h.buf_eq, h.cells, h.tiles⟩
    case addFails =>
      obtain ⟨htook, hfailed⟩ := State.spineTake_addFails (m := m) hx hchk hadd hhealth ho
      have h := htook.of_sameSpine ht
      exact ⟨h.reg_self, fun _ => h.reg_of_ne, h.wire_eq hw, h.buf_eq, hfailed.of_ops ht.ops⟩
    case asksAgain =>
      have h := (State.spineTake_asksAgain (core := core) (o := o) (rk := rk) hx hchk hm).trans ht
      have hlink := (congrArg (sget LinkSt.zero · core) h.spine).trans (State.link_setLink.trans (if_pos rfl))
      change t.link core = _ at hlink
      rw [hlink, hw]
      exact ⟨h.regs, rfl, rfl, rfl⟩
    case failsAgain =>
      obtain ⟨htook, hfailed⟩ := State.spineTake_failsAgain (core := core) (rk := rk) hx hchk hm ho
      have h := htook.of_sameSpine ht
      exact ⟨h.reg_self, fun _ => h.reg_of_ne, h.wire_eq hw, hfailed.of_ops ht.ops⟩
  case resend =>
    refine ⟨_, exec_spineResend_owed hb hres, ?_, ?_, ?_, fun c hc => ?_, rfl⟩
    · rw [State.link_setLink, if_pos rfl]
    · rw [State.link_setLink, if_pos rfl, hb]
    · rw [State.link_setLink, if_pos rfl]
    · rw [State.link_setLink, if_neg hc]

end Sys2Proof.Machine
end

section
/-! OP_START of an op that may start: its cores are in its arrangement, it has started, and what stays (R94, R96, R197). -/

namespace Sys2Proof.Machine

/-! ### What the start of an op leaves unchanged once its cores are arranged -/

/-- The two states agree in the weights, the chains, the arrangement of the cores and the buffer, and each op has started or not, and has
its descriptor, as before; they agree in the registers too where `keep` holds. -/
structure State.SameStarts (keep : Prop) (s t : State) : Prop where
  regs : keep → t.regs = s.regs
  cells : t.cells = s.cells
  shadow : t.shadow = s.shadow
  chains : t.chains = s.chains
  cores : t.cores = s.cores
  buf : t.buf = s.buf
  ops : t.ops.map (fun p => (p.id, p.started, p.d)) = s.ops.map (fun p => (p.id, p.started, p.d))

namespace State.SameStarts

variable {keep : Prop} {s t u : State}

theorem refl (s : State) : s.SameStarts keep s := ⟨fun _ => rfl, rfl, rfl, rfl, rfl, rfl, rfl⟩

theorem trans (h : s.SameStarts keep t) (g : t.SameStarts keep u) : s.SameStarts keep u :=
  ⟨fun hk => (g.regs hk).trans (h.regs hk), g.cells.trans h.cells, g.shadow.trans h.shadow, g.chains.trans h.chains,
    g.cores.trans h.cores, g.buf.trans h.buf, g.ops.trans h.ops⟩

theorem foldl {α : Type} {f : State → α → State} (hf : ∀ (s : State) a, s.SameStarts keep (f s a)) (l : List α) (s : State) :
    s.SameStarts keep (l.foldl f s) :=
  List.foldlRecOn l f (refl s) (fun t ht a _ => ht.trans (hf t a))

theorem bump (s : State) (k n : Nat) : s.SameStarts keep (s.bump k n) :=
  ⟨fun _ => by simp, by simp, by simp, by simp, by simp, by simp, by simp⟩

theorem event (s : State) (e : Event) : s.SameStarts keep (s.event e) :=
  ⟨fun _ => by simp, by simp, by simp, by simp, by simp, by simp, by simp⟩

/-- What is sent and what the staging holds. -/
theorem staged (s : State) (os : List Out) (g : Staging) : s.SameStarts keep { s with out := os, stg := g } :=
  ⟨fun _ => rfl, rfl, rfl, rfl, rfl, rfl, rfl⟩

theorem addJob (s : State) (op : Nat) (k : JobK) (g dest total : Nat) : s.SameStarts keep (s.addJob op k g dest total) :=
  ⟨fun _ => rfl, rfl, rfl, rfl, rfl, rfl, rfl⟩

theorem mapRange (s : State) (r : Range) (f : Range → Range) : s.SameStarts keep (s.mapRange r f) :=
  ⟨fun _ => rfl, rfl, rfl, rfl, rfl, rfl, rfl⟩

/-- Changes of ops that leave their numbers, their descriptors and whether they have started. -/
theorem mapOps (s : State) {f : Op → Op} (hf : ∀ p, ((f p).id, (f p).started, (f p).d) = (p.id, p.started, p.d)) :
    s.SameStarts keep { s with ops := s.ops.map f } :=
  ⟨fun _ => rfl, rfl, rfl, rfl, rfl, rfl, List.map_map.trans (List.map_congr_left (fun p _ => hf p))⟩

theorem mapOp (s : State) (id : Nat) {f : Op → Op} (hf : ∀ p, ((f p).id, (f p).started, (f p).d) = (p.id, p.started, p.d)) :
    s.SameStarts keep (s.mapOp id f) :=
  mapOps s (fun p => by split <;> [exact hf p; rfl])

/-! Requests of an op's lines (R111, R147). -/

theorem requestRun (s : State) (o : Op) (ten : Nat) : s.SameStarts keep (s.requestRun o ten) := by
  unfold State.requestRun
  dsimp only
  split
  · exact refl s
  · split
    · exact refl s
    · exact (staged s _ _).trans (mapOp _ _ (fun _ => rfl))

theorem requestAll (s : State) (id ten fuel : Nat) : s.SameStarts keep (s.requestAll id ten fuel) := by
  induction fuel generalizing s with
  | zero => exact refl s
  | succ k ih =>
    unfold State.requestAll
    split
    · exact refl s
    · split
      · exact (requestRun _ _ _).trans (ih _)
      · exact refl s

theorem requestImage (s : State) (id : Nat) : s.SameStarts keep (s.requestImage id) := by
  unfold State.requestImage
  split
  · exact refl s
  · dsimp only
    split
    · exact refl s
    · exact staged s _ _

/-! The jobs and checks of a group op (R304, R311). -/

theorem checkComplete (s : State) (r : Range) : s.SameStarts keep (s.checkComplete r) := by
  unfold State.checkComplete
  dsimp only
  split
  · exact refl s
  · split
    · split
      · exact mapOp _ _ (fun _ => rfl)
      · refine ((mapRange s _ _).trans (mapOps _ (fun p => ?_))).trans (event _ _)
        split
        · rfl
        · split <;> rfl
    · exact refl s

theorem startGroup (s : State) (o : Op) : s.SameStarts keep (s.startGroup o) := by
  unfold State.startGroup
  split
  · exact refl s
  · split
    · exact addJob _ _ _ _ _ _
    · exact addJob _ _ _ _ _ _
    · exact addJob _ _ _ _ _ _
    · exact addJob _ _ _ _ _ _
    · split
      · exact refl s
      · exact checkComplete _ _
    · exact refl s

/-! The snapshots that a reroll restores, the registers apart (R284). -/

theorem snapParity (s : State) (tn : Nat) (n : Snap) : s.SameStarts keep (s.snapParity tn n) :=
  foldl (fun _ _ => (bump _ _ _).trans (event _ _)) _ s

theorem setReg (hk : ¬keep) (s : State) (k : Nat) (r : LongReg) : s.SameStarts keep (s.setReg k r) :=
  ⟨fun h => absurd h hk, rfl, rfl, rfl, rfl, rfl, rfl⟩

theorem restoreReg (hk : ¬keep) (s : State) (tn path : Nat) (t : TileRef) (rk : Nat) (x : Option LongReg) (psn : Bool) :
    s.SameStarts keep (s.restoreReg tn path t rk x psn) := by
  unfold State.restoreReg
  split
  · exact event _ _
  · dsimp only
    split
    · exact setReg hk _ _ _
    · exact ((bump _ _ _).trans (event _ _)).trans (setReg hk _ _ _)

theorem seedReroll (hk : ¬keep) (s : State) (r : Op) (d : Desc) : s.SameStarts keep (s.seedReroll r d) := by
  unfold State.seedReroll
  refine (foldl (fun s n => snapParity s _ n) _ s).trans (foldl (fun s c => foldl (fun s off => ?_) _ s) _ _)
  refine (foldl (fun s k => setReg hk s k _) _ s).trans (foldl (fun s p => ?_) _ _)
  split
  · exact restoreReg hk _ _ _ _ _ _ _
  · exact refl s

/-- The op of a number, as far as the two states agree on it. -/
theorem op?_map (h : s.SameStarts keep t) (id : Nat) :
    (t.op? id).map (fun p => (p.id, p.started, p.d)) = (s.op? id).map (fun p => (p.id, p.started, p.d)) := by
  have hfind (v : State) : (v.op? id).map (fun p => (p.id, p.started, p.d)) =
      (v.ops.map (fun p => (p.id, p.started, p.d))).find? (fun e => e.1 == id) :=
    (List.find?_map (p := fun e : Nat × Bool × Desc => e.1 == id)).symm
  rw [hfind, hfind, h.ops]

end State.SameStarts

/-! ### The arrangement of the cores (R94, R96) -/

/-- The cores of an op take its arrangement, one after another. -/
def State.arrangeAll (s : State) (o : Op) : State := (opCores o).foldl (fun s c => s.arrange o c) s

theorem State.arrange_shape (s : State) (o : Op) (a c : Nat) :
    ((s.arrange o a).core c).shape = if c = a then baseShape o.d.shape else (s.core c).shape := by
  unfold State.arrange
  dsimp only
  rw [State.core_setCore]
  split <;> rfl

theorem State.foldl_arrange_shape (o : Op) (c : Nat) (l : List Nat) (s : State) :
    ((l.foldl (fun s a => s.arrange o a) s).core c).shape = if c ∈ l then baseShape o.d.shape else (s.core c).shape := by
  induction l generalizing s with
  | nil => simp
  | cons a l ih =>
    rw [List.foldl_cons, ih, State.arrange_shape]
    by_cases hl : c ∈ l
    · simp [hl]
    · simp [hl]

theorem State.arrangeAll_shape {o : Op} {c : Nat} (hc : c ∈ opCores o) (s : State) :
    ((s.arrangeAll o).core c).shape = baseShape o.d.shape :=
  (s.foldl_arrange_shape o c _).trans (if_pos hc)

/-- An arrangement changes shapes and splits of cores only. -/
theorem State.arrangeAll_frame (s : State) (o : Op) : { s.arrangeAll o with cores := s.cores } = s :=
  List.foldlRecOn _ _ (motive := fun t : State => { t with cores := s.cores } = s) rfl (fun _ ht _ _ => ht)

/-! ### The op that has started -/

/-- An op that has started, its cores in its arrangement. -/
def State.startedOn (s : State) (o : Op) : State :=
  let s1 := s.mapOp o.id (fun p => { p with started := true })
  if o.k.onChains then s1.arrangeAll o else s1

/-- Only shapes and splits of cores differ from the state in which the op is marked as started. -/
theorem State.startedOn_frame (s : State) (o : Op) :
    { s.startedOn o with cores := s.cores } = s.mapOp o.id (fun p => { p with started := true }) := by
  unfold State.startedOn
  dsimp only
  split
  · exact State.arrangeAll_frame _ _
  · rfl

theorem State.startedOn_op {s : State} {id : Nat} {o : Op} (h : s.op? id = some o) :
    (s.startedOn o).op? id = some { o with started := true } := by
  obtain rfl : o.id = id := (State.op?_mem h).2
  have hmark (p : Op) : ((if p.id == o.id then { p with started := true } else p).id == o.id) = (p.id == o.id) := by split <;> rfl
  calc (s.startedOn o).op? o.id
      = (s.mapOp o.id (fun p => { p with started := true })).op? o.id :=
        (congrArg (fun t : State => t.op? o.id) (s.startedOn_frame o) :)
    _ = (s.op? o.id).map (fun p => if p.id == o.id then { p with started := true } else p) := by
      simp only [State.op?, State.mapOp_ops, List.find?_map, Function.comp_def, hmark]
    _ = some { o with started := true } := by rw [h, Option.map_some, if_pos (beq_self_eq_true _)]

/-- A reroll that starts restores the snapshots of its region; another op does not (R284). -/
def State.seeded (s : State) (o : Op) : State :=
  match o.k, o.rd with
  | .reroll, some d => s.seedReroll o d
  | _, _ => s

theorem State.SameStarts.seeded (s : State) (o : Op) : s.SameStarts (o.k ≠ .reroll) (s.seeded o) := by
  unfold State.seeded
  split
  · next hk _ => exact .seedReroll (not_not_intro hk) _ _ _
  · exact .refl _

/-- The lines of an op's tensors, or of a RESTORE's image, are asked for: the tensors that its descriptor names in `s` (R111, R147). -/
def State.askLines (s u : State) (o : Op) : State :=
  if o.k = .restore then u.requestImage o.id else (s.ringTensors o).foldl (fun s t => s.requestAll o.id t 256) u

theorem State.SameStarts.askLines {keep : Prop} (s u : State) (o : Op) : u.SameStarts keep (s.askLines u o) := by
  unfold State.askLines
  split
  · exact .requestImage _ _
  · exact .foldl (fun _ _ => .requestAll _ _ _ _) _ _

/-- The start of an op, in the order of its effects (R197). -/
theorem State.startOp_eq (s : State) (o : Op) : s.startOp o =
    if o.k.group then (s.askLines ((s.startedOn o).seeded o) o).startGroup o else s.askLines ((s.startedOn o).seeded o) o := rfl

theorem State.startOp_sameStarts (s : State) (o : Op) : (s.startedOn o).SameStarts (o.k ≠ .reroll) (s.startOp o) := by
  have hasked := (State.SameStarts.seeded (s.startedOn o) o).trans (.askLines s _ o)
  rw [State.startOp_eq]
  split
  · exact hasked.trans (.startGroup _ _)
  · exact hasked

theorem exec_opStart_ready {id : Nat} {o : Op} {s : State} (hop : s.op? id = some o) (h : s.canStart o = true) :
    exec (.opStart id) s = .next (s.startOp o) := by
  have hexec : exec (.opStart id) s = execOpStart id s := rfl
  simp only [hexec, execOpStart, hop, if_pos h]

/-! ### The obligation -/

/-- Settles O15: the op has started and its cores are arranged, and what follows in the command changes neither. -/
theorem opStartStartsAndArranges : Obligations.Op_start_starts_and_arranges := by
  intro id o s hop hcan
  have h := s.startOp_sameStarts o
  have hframe := s.startedOn_frame o
  have hdesc := h.op?_map id
  rw [State.startedOn_op hop, Option.map_some, Option.map_eq_some_iff] at hdesc
  obtain ⟨p, hp, hpo⟩ := hdesc
  obtain ⟨-, hstarted, hd⟩ : p.id = o.id ∧ p.started = true ∧ p.d = o.d := by simpa only [Prod.mk.injEq] using hpo
  refine ⟨_, p, exec_opStart_ready hop hcan, hp, hstarted, hd, fun hk c hc => ?shape, fun hk => (h.regs hk).trans ?regs,
    h.cells.trans ?cells, h.shadow.trans ?shadow, h.chains.trans ?chains, h.buf.trans ?buf⟩
  case shape =>
    have hcore : (s.startOp o).core c = (s.startedOn o).core c := congrArg (sget CoreSt.zero · c) h.cores
    rw [hcore, State.startedOn, if_pos hk, State.arrangeAll_shape hc]
  case regs => exact (congrArg State.regs hframe :)
  case cells => exact (congrArg State.cells hframe :)
  case shadow => exact (congrArg State.shadow hframe :)
  case chains => exact (congrArg State.chains hframe :)
  case buf => exact (congrArg State.buf hframe :)

end Sys2Proof.Machine
end

section
/-! Descriptors as they arrive on the work port: a refusal at once, and a descriptor that is held for what belongs to it (R118 to R121, R126,
R150, R169). -/

namespace Sys2Proof.Machine

/-! ### Responses (R118, R120, R217) -/

section
variable (s : State) (r : Resp)

/-- A response changes what the work port holds and what the block has sent, no more. -/
theorem State.respond_frame : { s.respond r with adm := s.adm, out := s.out } = s := by
  unfold State.respond
  split <;> rfl

theorem State.respond_adm : (s.respond r).adm =
    if s.adm.respQ = [] ∧ s.adm.respCr ≠ 0 then
      { s.adm with respCr := s.adm.respCr - 1, wdCredits := s.adm.wdCredits + r.credits }
    else { s.adm with respQ := s.adm.respQ ++ [r] } := by
  have hcredits : admissions [r] = r.credits := by simp [admissions, sumN]
  unfold State.respond
  split
  · simp [State.sendFlit, State.giveCredits, State.emit, State.emitAll, hcredits]
  · rfl

/-- The response to one descriptor leaves with its credit, or nothing leaves. -/
theorem State.respond_out (hr : r.credits = 1) : (s.respond r).out =
    if s.adm.respQ = [] ∧ s.adm.respCr ≠ 0 then s.out ++ [.resp [(r.w0, r.w1)], .credit 0 0x02 1] else s.out := by
  have hcredits : admissions [r] = 1 := by simp [admissions, sumN, hr]
  have hgiven : (List.range (ceilDiv 1 255)).map (fun i => Out.credit 0 0x02 (min 255 (1 - 255 * i))) = [.credit 0 0x02 1] := rfl
  unfold State.respond
  split
  · simp [State.sendFlit, State.giveCredits, State.emit, State.emitAll, hcredits, hgiven]
  · rfl

end

/-! ### Arrival -/

section
variable {c : Instr} {d : Desc} {s : State}

/-- A well-formed descriptor row brings its descriptor to the work port. -/
theorem exec_descriptor (h : Safety.descOf c = some d) (hwf : c.wf = true) : exec c s = .next (s.receive d) := by
  cases c
  all_goals simp only [Safety.descOf, Option.some.injEq, reduceCtorEq] at h
  all_goals
    subst h
    exact if_pos (by simpa [Instr.wf, descWf] using hwf)

/-- A descriptor that can arrive costs its credit and is looked at behind those held (R118). -/
theorem State.receive_eq_nextDesc (h : Safety.canArrive s = true) : s.receive d = (Safety.spend s).nextDesc s.adm.held d := by
  simp only [Safety.canArrive, Bool.and_eq_true, bne_iff_ne, beq_iff_eq, Bool.not_eq_true'] at h
  obtain ⟨⟨⟨hup, hcredit⟩, hwait⟩, hroom⟩ := h
  simp [State.receive, hup, hcredit, hwait, hroom, Safety.spend]

theorem wdCredits_ne_zero (h : Safety.canArrive s = true) : s.adm.wdCredits ≠ 0 := by
  simp only [Safety.canArrive, Bool.and_eq_true, bne_iff_ne] at h
  exact h.1.1.2

/-- A descriptor that arrives with nothing held before it is looked at on its own terms. -/
theorem exec_descriptor_first (h : Safety.descOf c = some d) (hwf : c.wf = true) (harr : Safety.canArrive s = true)
    (hheld : s.adm.held = []) : exec c s = .next ((Safety.spend s).startDesc d) := by
  rw [exec_descriptor h hwf, State.receive_eq_nextDesc harr, hheld]
  rfl

theorem State.early_spend : (Safety.spend s).early d = s.early d := rfl

theorem State.startDesc_of_early {r : Reason} (h : s.early d = some r) : s.startDesc d = s.respond (refusal d r 0 1) := by
  simp only [State.startDesc, h, State.refuse]

end

/-! ### Refusals at once (R121, R150) -/

/-- A descriptor that is refused at once: its response, with its credit. -/
theorem exec_descriptor_early {c : Instr} {d : Desc} {r : Reason} {s : State} (h : Safety.descOf c = some d) (hwf : c.wf = true)
    (harr : Safety.canArrive s = true) (hheld : s.adm.held = []) (hearly : s.early d = some r) :
    exec c s = .next ((Safety.spend s).respond (refusal d r 0 1)) := by
  rw [exec_descriptor_first h hwf harr hheld, State.startDesc_of_early (s := Safety.spend s) hearly]

/-- Settles O7: the command is the response to the descriptor, and a response touches the work port and what has been sent only. -/
theorem refusedDescriptorChangesNothing : Obligations.Refused_descriptor_changes_nothing := by
  intro c d r s hc hwf harr hheld hearly
  refine ⟨_, exec_descriptor_early hc hwf harr hheld hearly, ?frame, ?adm, ?out⟩
  case frame =>
    have hframe := (Safety.spend s).respond_frame (refusal d r 0 1)
    exact (congrArg (fun t : State => { t with adm := s.adm }) hframe :)
  case adm =>
    have hcredit : s.adm.wdCredits - 1 + 1 = s.adm.wdCredits := Nat.sub_add_cancel (Nat.pos_of_ne_zero (wdCredits_ne_zero harr))
    have hadm := (Safety.spend s).respond_adm (refusal d r 0 1)
    by_cases hsend : s.adm.respQ = [] ∧ s.adm.respCr ≠ 0
    · rw [hadm, if_pos (show (Safety.spend s).adm.respQ = [] ∧ (Safety.spend s).adm.respCr ≠ 0 from hsend)]
      simp [Safety.spend, hsend, refusal, hcredit]
    · rw [hadm, if_neg (show ¬((Safety.spend s).adm.respQ = [] ∧ (Safety.spend s).adm.respCr ≠ 0) from hsend)]
      simp only [Safety.spend, if_neg hsend]
  case out => exact (Safety.spend s).respond_out _ rfl

/-- An op code that is not listed is none of those of provisional ops (R222). -/
theorem provOp_of_kindOf_none {d : Desc} (h : kindOf d = none) : provOp d = false := by
  unfold kindOf at h
  split at h
  all_goals simp_all [provOp]

/-- OPCODE is the first reason against an op code that is not listed (Table 05-12). -/
theorem State.early_of_kindOf_none {s : State} {d : Desc} (hk : kindOf d = none) (hopen : s.adm.openA = true)
    (hq : s.quiescing d.tenant = false) (hver : d.ver = 1) : s.early d = some (0x02, 0) := by
  simp [State.early, hk, hopen, hq, hver]

/-- Settles O8: OPCODE refuses the descriptor at once, and its response is one record of KIND 2 and CODE 2. -/
theorem unlistedOpIsRefusedWithOpcode : Obligations.Unlisted_op_is_refused_with_opcode := by
  intro d s hk harr hheld hopen hq hver hrespQ hcr
  have hc : Safety.descOf (.unlistedOpDescriptor d) = some d := rfl
  have hwf : (Instr.unlistedOpDescriptor d).wf = true := by simp [Instr.wf, hk]
  obtain ⟨t, hexec, hframe, -, hout⟩ :=
    refusedDescriptorChangesNothing _ d _ s hc hwf harr hheld (State.early_of_kindOf_none hk hopen hq hver)
  refine ⟨t, (refusal d (0x02, 0) 0 1).w1, hexec, hframe, ?_⟩
  rw [hout, if_pos ⟨hrespQ, hcr⟩]
  simp [refusal, respW0, at_, bit, provOp_of_kindOf_none hk]

/-! ### Descriptors that are held (R126, R169) -/

/-- Settles O11: the descriptor is held, and its arrival has only cost its credit. -/
theorem descriptorWithPartnersIsHeld : Obligations.Descriptor_with_partners_is_held := by
  intro c d s hc hwf harr hheld hearly haltf hpart
  have hstart : (Safety.spend s).startDesc d =
      { Safety.spend s with adm := { (Safety.spend s).adm with held := [d] } } := by
    have hp : (takesAlt d || companions d != 0) = true := by simpa using hpart
    simp [State.startDesc, State.early_spend, hearly, haltf, hp]
  exact ⟨_, (exec_descriptor_first hc hwf harr hheld).trans (congrArg _ hstart), rfl, rfl, rfl⟩

end Sys2Proof.Machine
end

section
/-! The acceptance of an op: what it adds to the op table, and what it leaves unchanged (R118 to R120, R126, R204, R212). -/

namespace Sys2Proof.Machine

/-! ### What the planner changes beside the op table -/

/-- The two states agree in the registers, the weights and their shadow, the spine and the buffer. -/
structure State.SameData (s t : State) : Prop where
  regs : t.regs = s.regs
  cells : t.cells = s.cells
  shadow : t.shadow = s.shadow
  spine : t.spine = s.spine
  buf : t.buf = s.buf

namespace State.SameData

theorem refl (s : State) : s.SameData s := ⟨rfl, rfl, rfl, rfl, rfl⟩

theorem trans {s t u : State} (h : s.SameData t) (g : t.SameData u) : s.SameData u :=
  ⟨g.regs.trans h.regs, g.cells.trans h.cells, g.shadow.trans h.shadow, g.spine.trans h.spine, g.buf.trans h.buf⟩

end State.SameData

/-- The two states agree in the data, the work port and the op table. -/
structure State.SamePlan (s t : State) : Prop extends State.SameData s t where
  adm : t.adm = s.adm
  ops : t.ops = s.ops

namespace State.SamePlan

variable {s t u : State}

theorem refl (s : State) : s.SamePlan s := ⟨.refl s, rfl, rfl⟩

theorem trans (h : s.SamePlan t) (g : t.SamePlan u) : s.SamePlan u :=
  ⟨h.toSameData.trans g.toSameData, g.adm.trans h.adm, g.ops.trans h.ops⟩

theorem foldl {α : Type} {f : State → α → State} (hf : ∀ (s : State) a, s.SamePlan (f s a)) (l : List α) (s : State) :
    s.SamePlan (l.foldl f s) :=
  List.foldlRecOn l f (refl s) (fun t ht a _ => ht.trans (hf t a))

theorem setTile (s : State) (k : Nat) (q : TileQ) : s.SamePlan (s.setTile k q) := ⟨⟨rfl, rfl, rfl, rfl, rfl⟩, rfl, rfl⟩

theorem setChain (s : State) (c : ChainId) (v : ChainSt) : s.SamePlan (s.setChain c v) := ⟨⟨rfl, rfl, rfl, rfl, rfl⟩, rfl, rfl⟩

theorem withChains (s : State) (x : Sparse ChainSt) : s.SamePlan { s with chains := x } := ⟨⟨rfl, rfl, rfl, rfl, rfl⟩, rfl, rfl⟩

theorem withRanges (s : State) (x : List Range) : s.SamePlan { s with ranges := x } := ⟨⟨rfl, rfl, rfl, rfl, rfl⟩, rfl, rfl⟩

theorem withRegions (s : State) (x : List Region) : s.SamePlan { s with regions := x } := ⟨⟨rfl, rfl, rfl, rfl, rfl⟩, rfl, rfl⟩

theorem setObj (s : State) (k v : Nat) : s.SamePlan (s.setObj k v) :=
  ⟨⟨by simp, by simp, by simp, by simp, by simp⟩, by simp, by simp⟩

theorem mapTile (s : State) (t : TileRef) (f : TileQ → TileQ) : s.SamePlan (s.mapTile t f) := foldl (fun _ _ => setTile _ _ _) _ s

/-- An op joins its region (R223 to R226). -/
theorem joinRegion (s : State) (o : Op) : s.SamePlan (s.joinRegion o) := by
  unfold State.joinRegion
  split
  · exact (withRegions s _).trans (foldl (fun _ _ => mapTile _ _ _) _ _)
  · exact refl s

/-- Term bounds and modes after an op (R40, R93, R154, R163). -/
theorem planTiles (s : State) (k : OpK) (d : Desc) (rd : Option Desc) : s.SamePlan (s.planTiles k d rd) := by
  have hterms : s.SamePlan ((s.termAdds k d rd).foldl (fun s a => s.addTerms a) s) := foldl (fun _ _ => mapTile _ _ _) _ s
  unfold State.planTiles
  dsimp only
  split
  · split
    · exact hterms
    · exact hterms.trans (foldl (fun _ _ => setTile _ _ _) _ _)
  · exact (hterms.trans (foldl (fun _ _ => mapTile _ _ _) _ _)).trans (foldl (fun _ _ => setTile _ _ _) _ _)
  · split
    · exact hterms
    · exact hterms.trans (foldl (fun _ _ => mapTile _ _ _) _ _)

theorem endRanges (s : State) (f : Range → Bool) : s.SamePlan (s.endRanges f) :=
  (withRanges s _).trans (foldl (fun _ _ => setObj _ _ _) _ _)

theorem planRanges (s : State) (o : Op) : s.SamePlan (s.planRanges o) := by
  unfold State.planRanges
  split
  · exact endRanges _ _
  · exact refl s

theorem regroup (s : State) (c : Nat) (o : Op) : s.SamePlan (s.regroup c o) := by
  unfold State.regroup
  dsimp only
  split <;> exact withChains _ _

/-- Weight sets in force after an op (R134, R180). -/
theorem planSets (s : State) (o : Op) : s.SamePlan (s.planSets o) := by
  unfold State.planSets
  split
  · refine (foldl (fun _ _ => regroup _ _ _) _ s).trans (foldl (fun s c => ?_) _ _)
    dsimp only
    split
    · exact setChain _ _ _
    · split
      · split
        · exact setChain _ _ _
        · exact refl s
      · exact setChain _ _ _
  · exact refl s

theorem takeRamp (s : State) (r : Ramp) : s.SamePlan (s.takeRamp r) := by
  unfold State.takeRamp
  dsimp only
  split <;> exact ⟨⟨rfl, rfl, rfl, rfl, rfl⟩, rfl, rfl⟩

theorem declareRange (s : State) (o : Op) : s.SamePlan (s.declareRange o) := by
  unfold State.declareRange
  dsimp only
  split
  · exact withRanges _ _
  · exact (setObj s _ _).trans (withRanges _ _)

/-- What the acceptance of a kind does beyond the op table, but for those that end other ops (R229, R236). -/
theorem acceptKind {s : State} {o : Op} (hsquash : o.k ≠ .squash) (hfence : o.k ≠ .fenceEpoch) : s.SamePlan (s.acceptKind o) := by
  unfold State.acceptKind
  dsimp only
  split
  · exact withRegions _ _
  · exact withRegions _ _
  · next h => exact absurd h hsquash
  · next h => exact absurd h hfence
  · exact declareRange _ _
  · exact refl s

end State.SamePlan

/-! ### Ops that join the op table -/

/-- `t` is `s` with some ops added to the op table under the next acceptance numbers, as far as the data, the work port and the op table
go. -/
structure State.Adds (s t : State) (l : List Op) : Prop extends State.SameData s t where
  adm : t.adm = { s.adm with nextId := s.adm.nextId + l.length }
  ops : t.ops = s.ops ++ l

namespace State.Adds

variable {s t u : State} {l m : List Op}

theorem trans (h : s.Adds t l) (g : t.Adds u m) : s.Adds u (l ++ m) := by
  refine ⟨h.toSameData.trans g.toSameData, ?_, by rw [g.ops, h.ops, List.append_assoc]⟩
  rw [g.adm, h.adm, List.length_append, ← Nat.add_assoc]

theorem of_samePlan (h : s.Adds t l) (g : t.SamePlan u) : s.Adds u l :=
  ⟨h.toSameData.trans g.toSameData, g.adm.trans h.adm, g.ops.trans h.ops⟩

end State.Adds

/-- An op that is entered joins the op table at its end. -/
theorem State.enterOp_adds {s : State} {o : Op} (hsquash : o.k ≠ .squash) (hfence : o.k ≠ .fenceEpoch) (p : Price) :
    ∃ tbs, s.Adds (s.enterOp o p) [{ o with tbs := tbs }] := by
  unfold State.enterOp
  dsimp only
  set numbered : State := { s with adm := { s.adm with nextId := s.adm.nextId + 1 } } with hnumbered
  set tiled := (numbered.joinRegion o).planTiles o.k o.d o.rd with htiled
  set planned := (tiled.planRanges o).planSets o with hplanned
  have hplan : numbered.SamePlan planned :=
    ((State.SamePlan.joinRegion _ _).trans (.planTiles _ _ _ _)).trans ((State.SamePlan.planRanges _ _).trans (.planSets _ _))
  have hadd : s.Adds { planned with ops := planned.ops ++ [{ o with tbs := tiled.trimBounds o }] }
      [{ o with tbs := tiled.trimBounds o }] :=
    ⟨⟨hplan.regs, hplan.cells, hplan.shadow, hplan.spine, hplan.buf⟩, hplan.adm, congrArg (· ++ _) hplan.ops⟩
  refine ⟨tiled.trimBounds o, hadd.of_samePlan (.trans ?_ (.acceptKind hsquash hfence))⟩
  split
  · exact .refl _
  · exact .takeRamp _ _

/-! ### The plan of an op (R196, R204, R284) -/

/-- The record of an op that is accepted in `s` with a window: outstanding under the next acceptance number, not started. -/
structure Op.AcceptedIn (o : Op) (s : State) (k : OpK) (d : Desc) (form : Bool) (window : Nat) : Prop where
  id : o.id = s.adm.nextId
  k : o.k = k
  d : o.d = d
  form : o.form = form
  cAcc : o.cAcc = s.now
  deadline : o.deadline = s.now + window
  started : o.started = false
  ending : o.ending = none

/-- A reroll that is planned joins the op table behind its op. -/
theorem State.planReroll_adds {s t : State} {o : Op} {d2 : Desc} {b : Nat} (h : s.planReroll o d2 b = some t) : ∃ r, s.Adds t [r] := by
  unfold State.planReroll at h
  dsimp only at h
  split at h
  · cases h
  · split at h
    · cases h
    · obtain ⟨tbs, hadds⟩ := State.enterOp_adds (s := s) (o := s.pricedOp (s.newOp .reroll d2 false (some o.id) (some o.d)) _ _)
        (show OpK.reroll ≠ .squash by decide) (show OpK.reroll ≠ .fenceEpoch by decide) _
      exact ⟨_, Option.some.inj h ▸ hadds⟩

/-- A plan enters its op, and behind it its reroll if it has one. -/
theorem State.plan_adds {s : State} {k : OpK} {d : Desc} {form : Bool} {rolled : Option Nat} {rd : Option Desc} {b : Nat} {p : Plan}
    (h : s.plan k d form rolled rd b = some p) (hsquash : k ≠ .squash) (hfence : k ≠ .fenceEpoch) :
    p.op.AcceptedIn s k d form p.window ∧ ∃ o l, s.Adds p.after (o :: l) ∧ o.AcceptedIn s k d form p.window := by
  unfold State.plan at h
  dsimp only at h
  split at h
  · cases h
  · obtain ⟨price, -, h⟩ := Option.bind_eq_some_iff.mp h
    split at h
    · obtain ⟨after, hafter, rfl⟩ := Option.map_eq_some_iff.mp h
      obtain ⟨d2, -, hreroll⟩ := List.exists_of_findSome?_eq_some hafter
      obtain ⟨r, hr⟩ := State.planReroll_adds hreroll
      obtain ⟨tbs, hadds⟩ := State.enterOp_adds (s := s)
        (o := { s.pricedOp (s.newOp k d form rolled rd) price (s.now + s.windowAt price) with reroll := some (s.adm.nextId + 1) })
        hsquash hfence price
      exact ⟨⟨rfl, rfl, rfl, rfl, rfl, rfl, rfl, rfl⟩, _, [r], hadds.trans hr, ⟨rfl, rfl, rfl, rfl, rfl, rfl, rfl, rfl⟩⟩
    · obtain rfl := Option.some.inj h
      obtain ⟨tbs, hadds⟩ := State.enterOp_adds (s := s)
        (o := s.pricedOp (s.newOp k d form rolled rd) price (s.now + s.windowAt price)) hsquash hfence price
      exact ⟨⟨rfl, rfl, rfl, rfl, rfl, rfl, rfl, rfl⟩, _, [], hadds, ⟨rfl, rfl, rfl, rfl, rfl, rfl, rfl, rfl⟩⟩

/-! ### A group of one op (R118 to R120, R126, R204, R212) -/

/-- What the acceptance of an op that acts on no other leaves: the op outstanding, the data unchanged, the next acceptance number moved on,
as many descriptors held as before, and the response sent if it can be. -/
structure State.Accepts (s t : State) (k : OpK) (d : Desc) (form : Bool) (window : Nat) (r : Resp) : Prop extends State.SameData s t where
  op : ∃ o ∈ t.ops, o.AcceptedIn s k d form window
  nextId : s.adm.nextId < t.adm.nextId
  held : t.adm.held = s.adm.held
  sent : s.adm.respQ = [] → s.adm.respCr ≠ 0 → Out.resp [(r.w0, r.w1)] ∈ t.out

/-- A response that can be sent at once is. -/
theorem State.resp_mem_respond {s : State} {r : Resp} (hq : s.adm.respQ = []) (hcr : s.adm.respCr ≠ 0) :
    Out.resp [(r.w0, r.w1)] ∈ (s.respond r).out := by
  rw [State.respond, if_pos ⟨hq, hcr⟩]
  simp [State.sendFlit, State.giveCredits, State.emit, State.emitAll]

theorem Op.AcceptedIn.withComp {o : Op} {s : State} {k : OpK} {d : Desc} {form : Bool} {window : Nat}
    (h : o.AcceptedIn s k d form window) (l : List Nat) : ({ o with comp := l } : Op).AcceptedIn s k d form window :=
  ⟨h.id, h.k, h.d, h.form, h.cAcc, h.deadline, h.started, h.ending⟩

/-- Acceptance sends and ends nothing at once but for a GATE, a SQUASH and an epoch FENCE. -/
theorem State.afterAccept_eq_self {k : OpK} (hgate : k ≠ .gate) (hsquash : k ≠ .squash) (hfence : k ≠ .fenceEpoch) (s : State)
    (d : Desc) (id : Nat) (discard : Option Nat) : s.afterAccept k d id discard = s := by
  cases k with
  | gate => exact absurd rfl hgate
  | squash => exact absurd rfl hsquash
  | fenceEpoch => exact absurd rfl hfence
  | _ => rfl

/-- A planned op with no companions is accepted. -/
theorem State.acceptGroup_accepts {s : State} {k : OpK} {lead d : Desc} {form : Bool} {p : Plan} {b : Nat}
    (h : s.plan k d form none none b = some p) (hgate : k ≠ .gate) (hsquash : k ≠ .squash) (hfence : k ≠ .fenceEpoch) (credits : Nat) :
    s.Accepts (s.acceptGroup k lead credits p []) k d form p.window (acceptance lead p.op.deadline credits) := by
  obtain ⟨hop, o, l, hadds, ho⟩ := State.plan_adds h hsquash hfence
  have hgroup : s.acceptGroup k lead credits p [] =
      (p.after.mapOp p.op.id (fun o => { o with comp := [] })).respond (acceptance lead p.op.deadline credits) :=
    State.afterAccept_eq_self hgate hsquash hfence _ _ _ _
  have hadm := State.respond_adm (p.after.mapOp p.op.id (fun o => { o with comp := [] })) (acceptance lead p.op.deadline credits)
  have hmapped : (p.after.mapOp p.op.id (fun o => { o with comp := [] })).adm = { s.adm with nextId := s.adm.nextId + (o :: l).length } :=
    hadds.adm
  rw [hmapped] at hadm
  rw [hgroup]
  refine ⟨⟨?_, ?_, ?_, ?_, ?_⟩, ⟨_, ?mem, ho.withComp []⟩, ?next, ?held, fun hq hcr => State.resp_mem_respond ?_ ?_⟩
  case mem =>
    rw [State.respond_ops, State.mapOp_ops]
    have hmem : o ∈ p.after.ops := by simp [hadds.ops]
    refine List.mem_map.mpr ⟨o, hmem, if_pos ?_⟩
    rw [ho.id, hop.id, beq_self_eq_true]
  case next => rw [hadm]; split <;> simp
  case held => rw [hadm]; split <;> rfl
  · rw [State.respond_regs]; exact hadds.regs
  · rw [State.respond_cells]; exact hadds.cells
  · rw [State.respond_shadow]; exact hadds.shadow
  · rw [State.respond_spine]; exact hadds.spine
  · rw [State.respond_buf]; exact hadds.buf
  · rw [hmapped]; exact hq
  · rw [hmapped]; exact hcr

/-- A lead with no companions, and its alternative form if it has one, once nothing is wrong with either: the form chosen is accepted when
its window will do. -/
theorem State.admitGroup_of_chosen {s : State} {k : OpK} {lead d : Desc} {alt : Option Desc} {p : Plan} (hk : kindOf lead = some k)
    (hreason : s.leadReason k lead alt = none) (hchoice : s.chooseForm k lead alt 0 = (d, some p)) (hwin : s.windowOk d p.window = true) :
    s.admitGroup lead alt [] = s.acceptGroup k lead (if alt.isSome then 2 else 1) p [] := by
  have hkind : kindFor lead = k := by rw [kindFor, hk, Option.getD_some]
  have hbytes : maxN [] = 0 := rfl
  have hreasons : (s.trial k lead none none).compReasons s.adm.nextId lead [] = [] := rfl
  have hcomps (run : Desc) (t : Option State) : planComps s.adm.nextId run t [] = [] := by cases t <;> rfl
  simp [State.admitGroup, hkind, hreason, hreasons, hbytes, hchoice, hcomps, allSome, State.planOk, hwin]

theorem State.leadReason_eq {lead : Desc} (h : lead.altf = false) (s : State) (k : OpK) (alt : Option Desc) :
    s.leadReason k lead alt = s.formReason k lead alt := by
  simp [State.leadReason, h]

/-- CLOSED, VERSION and OPCODE come first among the checks (Table 05-12). -/
theorem State.early_of_check {s : State} {x : Cand1} (h : s.check x = none) : s.early x.d = none := by
  unfold State.check at h
  rw [List.findSome?_cons] at h
  split at h
  · cases h
  · next h1 => exact h1

/-! ### The obligations -/

/-- Settles O9: the descriptor goes through every check as a group of one, whose op is accepted. -/
theorem admissibleOpIsAccepted : Obligations.Admissible_op_is_accepted := by
  intro c d k p s hc hwf hk hgate hsquash hfence harr hheld halone hcheck hplan hwin
  simp only [Safety.alone, Bool.and_eq_true, Bool.not_eq_true', beq_iff_eq] at halone
  obtain ⟨⟨haltf, htakes⟩, hcomp⟩ := halone
  have hstart : (Safety.spend s).startDesc d = (Safety.spend s).admitGroup d none [] := by
    have hearly : (Safety.spend s).early d = none := State.early_of_check hcheck
    simp [State.startDesc, hearly, haltf, htakes, hcomp]
  have hreason : (Safety.spend s).leadReason k d none = none := by
    rw [State.leadReason_eq haltf, State.formReason, hcheck]
    rfl
  have hchoice : (Safety.spend s).chooseForm k d none 0 = (d, some p) := by
    simp only [State.chooseForm, hplan]
  have hexec : exec c s = .next ((Safety.spend s).acceptGroup k d 1 p []) := by
    rw [exec_descriptor_first hc hwf harr hheld, hstart, State.admitGroup_of_chosen hk hreason hchoice hwin]
    rfl
  have hacc := State.acceptGroup_accepts (lead := d) hplan hgate hsquash hfence 1
  obtain ⟨o, ho, hop⟩ := hacc.op
  have hdeadline : p.op.deadline = o.deadline := (State.plan_adds hplan hsquash hfence).1.deadline.trans hop.deadline.symm
  obtain ⟨hcap, hwreq⟩ : p.window ≤ (Safety.spend s).windowCap ∧ (d.wreq = 0 ∨ p.window ≤ d.wreq) := by
    simpa [State.windowOk] using hwin
  exact ⟨_, o, hexec, ho, hop.id, hop.k, hop.d, hop.form, hop.cAcc, hop.deadline, hop.started, hop.ending, hacc.nextId, hacc.regs,
    hacc.cells, hacc.shadow, hacc.spine, hacc.buf, hcap, hwreq.resolve_left, fun hq hcr => hdeadline ▸ hacc.sent hq hcr⟩

/-- Only a STREAM and a SCAN take an alternative form (Table 05-2). -/
theorem kindOf_of_takesAlt {a : Desc} {k : OpK} (h : takesAlt a = true) (hk : kindOf a = some k) : k = .stream ∨ k = .scan := by
  simp only [takesAlt, Bool.and_eq_true, Bool.or_eq_true, beq_iff_eq] at h
  obtain ⟨-, hop | hop⟩ := h
  · exact .inl (by simpa [kindOf, hop] using hk.symm)
  · exact .inr (by simpa [kindOf, hop] using hk.symm)

/-- An alternative form behind its primary, of which one is chosen: the form chosen is accepted, and nothing is held any more. -/
theorem exec_alternative {c : Instr} {a b d : Desc} {k : OpK} {form : Bool} {p : Plan} {s : State} (hc : Safety.descOf c = some b)
    (hwf : c.wf = true) (harr : Safety.canArrive s = true) (hheld : s.adm.held = [a]) (htakes : takesAlt a = true)
    (hcomp : companions a = 0) (hpair : altPairs a b = true) (hk : kindOf a = some k)
    (hreason : (Safety.spend s).unhold.formReason k a (some b) = none)
    (hchoice : (Safety.spend s).unhold.chooseForm k a (some b) 0 = (d, some p))
    (hplan : (Safety.spend s).unhold.plan k d form none none 0 = some p) (hwin : (Safety.spend s).unhold.windowOk d p.window = true) :
    ∃ t o, exec c s = .next t ∧ t.adm.held = [] ∧ o ∈ t.ops ∧ o.id = s.adm.nextId ∧ o.d = d ∧ o.form = form ∧
      o.deadline = s.now + p.window := by
  have haltf : a.altf = false := by
    simp only [takesAlt, Bool.and_eq_true, Bool.not_eq_true'] at htakes
    exact htakes.1.2
  have hnext : (Safety.spend s).nextDesc [a] b = (Safety.spend s).unhold.admitGroup a (some b) [] := by
    simp [State.nextDesc, htakes, hpair, hcomp]
  obtain ⟨hgate, hsquash, hfence⟩ : k ≠ .gate ∧ k ≠ .squash ∧ k ≠ .fenceEpoch := by
    rcases kindOf_of_takesAlt htakes hk with rfl | rfl <;> decide
  have hacc := State.acceptGroup_accepts (lead := a) hplan hgate hsquash hfence 2
  obtain ⟨o, ho, hop⟩ := hacc.op
  refine ⟨_, o, ?_, hacc.held, ho, hop.id, hop.d, hop.form, hop.deadline⟩
  rw [exec_descriptor hc hwf, State.receive_eq_nextDesc harr, hheld, hnext,
    State.admitGroup_of_chosen hk ((State.leadReason_eq haltf _ _ _).trans hreason) hchoice hwin]
  rfl

/-- Settles O12: the choice of the form is the one that R212 gives, and the form chosen is accepted as a group of one. -/
theorem alternativeFormIsChosenByWindow : Obligations.Alternative_form_is_chosen_by_window := by
  intro c a b k s hc hwf harr hheld htakes hcomp hpair hk hreason
  refine ⟨fun p hplan hwin => ?primary, fun p hnot hplan hwin => ?alternative⟩
  case primary =>
    have hchoice : (Safety.spend s).unhold.chooseForm k a (some b) 0 = (a, some p) := by
      simp [State.chooseForm, hplan, State.planOk, hwin]
    exact exec_alternative hc hwf harr hheld htakes hcomp hpair hk hreason hchoice hplan hwin
  case alternative =>
    have hchoice : (Safety.spend s).unhold.chooseForm k a (some b) 0 = (b, some p) := by
      have hok : (Safety.spend s).unhold.planOk b (some p) = true := hwin
      simp only [State.chooseForm, hnot, hplan, hok, Bool.false_eq_true, if_true, if_false]
    exact exec_alternative hc hwf harr hheld htakes hcomp hpair hk hreason hchoice hplan hwin

end Sys2Proof.Machine
end

section
/-! RESPONSE_CREDIT: which queued records leave, and what returns with them (R118, R217). -/

namespace Sys2Proof.Machine

/-! ### Sums and the records among what is sent -/

theorem sumN_eq_sum (l : List Nat) : sumN l = l.sum := (List.sum_eq_foldl (xs := l)).symm

theorem admissions_append (a b : List Resp) : admissions (a ++ b) = admissions a + admissions b := by
  simp only [admissions, sumN_eq_sum, List.map_append, List.sum_append]

theorem responses_append (a b : List Out) : Safety.responses (a ++ b) = Safety.responses a ++ Safety.responses b :=
  List.flatMap_append

/-- Credits that return are no response records. -/
theorem responses_credits (q chan n : Nat) :
    Safety.responses ((List.range (ceilDiv n 255)).map (fun i => Out.credit q chan (min 255 (n - 255 * i)))) = [] := by
  simp [Safety.responses]

/-! ### Flits of queued records -/

/-- The state after the first `n` queued records have left in `k` flits, and `os` has been sent with them. -/
def State.respSent (s : State) (n k : Nat) (os : List Out) : State :=
  { s with
    adm := { s.adm with
      respQ := s.adm.respQ.drop n
      respCr := s.adm.respCr - k
      wdCredits := s.adm.wdCredits + admissions (s.adm.respQ.take n) }
    out := s.out ++ os }

/-- What is sent with some records holds them, in their order, and no other record. -/
def carries (os : List Out) (rs : List Resp) : Prop := Safety.responses os = rs.map (fun r => (r.w0, r.w1))

/-- The first flit of up to four queued records. -/
theorem State.sendFlit_respSent (s : State) : ∃ os, carries os (s.adm.respQ.take 4) ∧
    ({ s with adm := { s.adm with respQ := s.adm.respQ.drop 4 } } : State).sendFlit (s.adm.respQ.take 4) = s.respSent 4 1 os := by
  refine ⟨.resp ((s.adm.respQ.take 4).map (fun r => (r.w0, r.w1))) ::
    (List.range (ceilDiv (admissions (s.adm.respQ.take 4)) 255)).map
      (fun i => Out.credit 0 0x02 (min 255 (admissions (s.adm.respQ.take 4) - 255 * i))), ?_, ?_⟩
  · unfold carries
    rw [← List.singleton_append, responses_append, responses_credits]
    simp [Safety.responses]
  · simp only [State.sendFlit, State.giveCredits, State.emit, State.emitAll, State.respSent, List.append_assoc, List.singleton_append]

/-- Records that leave in two parts leave in one. -/
theorem State.respSent_respSent (s : State) (n n' k k' : Nat) (os os' : List Out) :
    (s.respSent n k os).respSent n' k' os' = s.respSent (n + n') (k + k') (os ++ os') := by
  simp only [State.respSent, List.drop_drop, Nat.sub_sub, List.append_assoc, Nat.add_assoc, List.take_add, admissions_append]

theorem State.respSent_zero (s : State) : s.respSent 0 0 [] = s := by
  simp [State.respSent, admissions, sumN]

/-- Queued records leave four to a flit, oldest first, while there is response credit (R217). -/
theorem State.drainResp_eq {fuel : Nat} {s : State} (hfuel : s.adm.respQ.length ≤ 4 * fuel) :
    let k := min s.adm.respCr (ceilDiv s.adm.respQ.length 4)
    ∃ os, carries os (s.adm.respQ.take (4 * k)) ∧ s.drainResp fuel = s.respSent (4 * k) k os := by
  induction fuel generalizing s with
  | zero =>
    have hq : s.adm.respQ = [] := List.length_eq_zero_iff.mp (Nat.le_zero.mp hfuel)
    have hk : min s.adm.respCr (ceilDiv s.adm.respQ.length 4) = 0 := by simp [hq, ceilDiv]
    simp only [hk]
    exact ⟨[], rfl, s.respSent_zero.symm⟩
  | succ fuel ih =>
    unfold State.drainResp
    split
    · next hstop =>
      have hk : min s.adm.respCr (ceilDiv s.adm.respQ.length 4) = 0 := by
        rcases hstop with h | h
        · rw [h, Nat.zero_min]
        · simp [h, ceilDiv]
      simp only [hk]
      exact ⟨[], rfl, s.respSent_zero.symm⟩
    · next hgo =>
      obtain ⟨hcr, hq⟩ := not_or.mp hgo
      have hlen : 0 < s.adm.respQ.length := List.length_pos_iff.mpr hq
      obtain ⟨os, hos, hflit⟩ := s.sendFlit_respSent
      dsimp only
      rw [hflit]
      obtain ⟨os', hos', hrest⟩ := ih (s := s.respSent 4 1 os) (by simp only [State.respSent, List.length_drop]; omega)
      have hk : min s.adm.respCr (ceilDiv s.adm.respQ.length 4) =
          1 + min (s.adm.respCr - 1) (ceilDiv (s.adm.respQ.length - 4) 4) := by
        unfold ceilDiv
        omega
      have hk' : min (s.respSent 4 1 os).adm.respCr (ceilDiv (s.respSent 4 1 os).adm.respQ.length 4) =
          min (s.adm.respCr - 1) (ceilDiv (s.adm.respQ.length - 4) 4) := by
        simp only [State.respSent, List.length_drop]
      rw [hk'] at hos' hrest
      rw [hk, Nat.mul_add, Nat.mul_one]
      refine ⟨os ++ os', ?_, hrest.trans (s.respSent_respSent ..)⟩
      unfold carries at hos hos' ⊢
      rw [responses_append, hos, hos', List.take_add, List.map_append]
      rfl

/-! ### The command -/

/-- The credits that came, no more than the source's pool (log 41). -/
def State.withRespCredits (s : State) (n : Nat) : State :=
  { s with adm := { s.adm with respCr := min (s.port 0).pool (s.adm.respCr + n) } }

theorem exec_responseCredit {n : BitVec 8} {s : State} (hup : s.up 0 = true) (hwait : s.adm.wait = []) :
    exec (.responseCredit n) s =
      .next ((s.withRespCredits n.toNat).drainResp ((s.withRespCredits n.toNat).adm.respQ.length + 1)) := by
  have hexec : exec (.responseCredit n) s = execResponseCredit n s := rfl
  have hnone : (s.withRespCredits n.toNat).adm.wait.length = 0 := List.length_eq_zero_iff.mpr hwait
  rw [hexec, execResponseCredit, if_pos hup]
  change Host.Outcome.next (State.admitWaiting _ (s.withRespCredits n.toNat).adm.wait.length) = _
  rw [hnone]
  rfl

/-- Settles O14: the command is `State.drainResp` on the credits that came. -/
theorem responseCreditSendsQueuedRecords : Obligations.Response_credit_sends_queued_records := by
  intro n s hup hwait c k
  obtain ⟨os, hos, hdrain⟩ := State.drainResp_eq (s := s.withRespCredits n.toNat) (fuel := s.adm.respQ.length + 1)
    (by simp only [State.withRespCredits]; omega)
  refine ⟨_, (exec_responseCredit hup hwait).trans (congrArg _ hdrain), rfl, rfl, rfl, ?_, rfl, rfl⟩
  exact (responses_append _ _).trans (congrArg _ hos)

end Sys2Proof.Machine
end

section
/-! PRELOAD_ROW_WRITE of a row that may be written: what its registers take, and what stays (R139, R163). -/

namespace Sys2Proof.Machine

/-! ### The registers of a row -/

/-- The registers of a row are different ones. -/
theorem State.rowKeys_nodup (s : State) (t : TileRef) (row w : Nat) : (s.rowKeys t row w).Nodup := by
  refine List.Nodup.map_on (fun p hp p' hp' h => ?_) ((s.physCols_nodup t).sublist (List.take_sublist _ _))
  exact (regKey_inj (State.lt_of_mem_physCols (List.mem_of_mem_take hp)) (State.lt_of_mem_physCols (List.mem_of_mem_take hp')) h).2

/-- A row has a register for each column within the presented width. -/
theorem State.partKeys_length {s : State} {p : Part} (hw : p.cols ≤ s.width p.t) (i : Nat) : (s.partKeys p i).length = p.cols := by
  rw [State.partKeys, State.rowKeys, List.length_map, List.length_take]
  exact Nat.min_eq_left hw

/-- A row of a PRELOAD has one element for each column. -/
theorem State.preloadRow_length {s : State} {o : Op} {ci : Nat} {p : Part} {i : Nat} {es : List Incoming}
    (h : s.preloadRow o ci p i = some es) : es.length = p.cols := by
  rw [allSome_length h, List.length_map, List.length_range]

/-! ### The row written -/

/-- Registers that take contents one after another: nothing else changes. -/
theorem State.foldl_setReg {α : Type} (key : α → Nat) (v : α → LongReg) (l : List α) (s : State) :
    l.foldl (fun s a => s.setReg (key a) (v a)) s =
      { s with regs := l.foldl (fun m a => sset .zero m (key a) (v a)) s.regs } := by
  induction l generalizing s with
  | nil => rfl
  | cons a l ih => exact ih _

section
variable (s : State) (keys : List Nat) (es : List Incoming)

/-- A row written: one register after another, and nothing else. -/
theorem State.putPreload_eq : s.putPreload keys es = { s with
    regs := (List.range es.length).foldl (fun m j =>
      sset .zero m (keys.getD j 0) (LongReg.preload (es.getD j Incoming.zero))) s.regs } :=
  State.foldl_setReg (fun j => keys.getD j 0) (fun j => LongReg.preload (es.getD j Incoming.zero)) _ s

variable {s keys es}

/-- A register of the row takes its element. -/
theorem State.reg_putPreload_at (hnodup : keys.Nodup) (hlen : es.length = keys.length) {j k : Nat} {x : Incoming}
    (hk : keys[j]? = some k) (hx : es[j]? = some x) : (s.putPreload keys es).reg k = LongReg.preload x := by
  obtain ⟨hj, hkj⟩ := List.getElem?_eq_some_iff.mp hk
  obtain ⟨hje, -⟩ := List.getElem?_eq_some_iff.mp hx
  have hkey {i : Nat} (hi : i < keys.length) : keys.getD i 0 = keys[i] := by
    rw [List.getD_eq_getElem?_getD, List.getElem?_eq_getElem hi, Option.getD_some]
  have hread := sget_foldl_sset_of_mem (d := LongReg.zero) (f := fun j => keys.getD j 0)
    (v := fun j => LongReg.preload (es.getD j Incoming.zero)) (List.mem_range.mpr hje)
    (fun i hi h => by
      have hi' : i < keys.length := hlen ▸ List.mem_range.mp hi
      rw [hkey hi', hkey hj] at h
      exact (hnodup.getElem_inj_iff).mp h) s.regs
  rw [State.putPreload_eq, ← hkj, ← hkey hj]
  refine hread.trans ?_
  rw [List.getD_eq_getElem?_getD, hx, Option.getD_some]

/-- The registers of other rows stay as they are. -/
theorem State.reg_putPreload_of_not_mem (hlen : es.length ≤ keys.length) {k : Nat} (hk : k ∉ keys) :
    (s.putPreload keys es).reg k = s.reg k := by
  rw [State.putPreload_eq]
  refine sget_foldl_sset_of_ne (fun j hj e => hk ?_) s.regs
  have hj' : j < keys.length := Nat.lt_of_lt_of_le (List.mem_range.mp hj) hlen
  rw [e, List.getD_eq_getElem?_getD, List.getElem?_eq_getElem hj', Option.getD_some]
  exact List.getElem_mem hj'

end

/-- A preloaded register holds its element's value, flags and poison (Table 02-4). -/
theorem LongReg.preload_fields (x : Incoming) : (LongReg.preload x).n = BitVec.ofInt 576 x.v ∧ (LongReg.preload x).nan = x.nan ∧
    (LongReg.preload x).pinf = x.pinf ∧ (LongReg.preload x).ninf = x.ninf ∧ (LongReg.preload x).poison = x.psn := by
  simp [LongReg.preload, LongReg.add, LongReg.zero]

/-! ### The rows that an op has finished -/

/-- The two states agree in the numbers of the ops and the rows that each has finished. -/
def State.SameRows (s t : State) : Prop := t.ops.map (fun p => (p.id, p.rows)) = s.ops.map (fun p => (p.id, p.rows))

namespace State.SameRows

variable {s t u : State}

theorem of_ops (h : t.ops = s.ops) : s.SameRows t := congrArg _ h

theorem trans (h : s.SameRows t) (g : t.SameRows u) : s.SameRows u := Eq.trans g h

theorem foldl {α : Type} {f : State → α → State} (hf : ∀ (s : State) a, s.SameRows (f s a)) (l : List α) (s : State) :
    s.SameRows (l.foldl f s) :=
  List.foldlRecOn l f (motive := fun t => s.SameRows t) (of_ops rfl) (fun t ht a _ => ht.trans (hf t a))

/-- A change of an op that leaves its number and its rows. -/
theorem mapOp (s : State) (id : Nat) {f : Op → Op} (hf : ∀ p, ((f p).id, (f p).rows) = (p.id, p.rows)) : s.SameRows (s.mapOp id f) := by
  unfold State.SameRows State.mapOp
  rw [List.map_map]
  refine List.map_congr_left (fun p _ => ?_)
  rw [Function.comp_apply]
  split
  · exact hf p
  · rfl

theorem parityEvents (s : State) (tn : Option Nat) (r : Reader) (keys : List Nat) : s.SameRows (s.parityEvents tn r keys) :=
  foldl (fun _ _ => of_ops (by simp [State.parityEvent])) _ s

theorem freeLines (s : State) (gone : SLine → Bool) : s.SameRows (s.freeLines gone) :=
  (of_ops (t := { s with stg := _ }) rfl).trans (foldl (fun s x => of_ops (s.giveCredits_ops x _ _)) _ _)

theorem requestRun (s : State) (o : Op) (ten : Nat) : s.SameRows (s.requestRun o ten) := by
  unfold State.requestRun
  dsimp only
  split
  · exact of_ops rfl
  · split
    · exact of_ops rfl
    · exact mapOp _ _ (fun _ => rfl)

theorem requestAll (s : State) (id ten fuel : Nat) : s.SameRows (s.requestAll id ten fuel) := by
  induction fuel generalizing s with
  | zero => exact of_ops rfl
  | succ k ih =>
    unfold State.requestAll
    split
    · exact of_ops rfl
    · split
      · exact (requestRun _ _ _).trans (ih _)
      · exact of_ops rfl

theorem settleRing (s : State) (id ten : Nat) : s.SameRows (s.settleRing id ten) := by
  unfold State.settleRing
  split
  · exact of_ops rfl
  · split
    · exact (freeLines _ _).trans (requestAll _ _ _ _)
    · exact of_ops rfl

/-- A row that an op has finished is finished in the other state too. -/
theorem finished (h : s.SameRows t) {p : Op} (hp : p ∈ s.ops) : ∃ q ∈ t.ops, q.id = p.id ∧ q.rows = p.rows := by
  have hmem : (p.id, p.rows) ∈ t.ops.map (fun q => (q.id, q.rows)) := h ▸ List.mem_map_of_mem hp
  obtain ⟨q, hq, hqp⟩ := List.mem_map.mp hmem
  exact ⟨q, hq, (Prod.mk.inj hqp).1, (Prod.mk.inj hqp).2⟩

end State.SameRows

/-! ### The command -/

/-- The state once a row of a PRELOAD has been written and noted on its op. -/
def State.rowPreloaded (s : State) (o : Op) (ci : Nat) (p : Part) (i : Nat) (es : List Incoming) : State :=
  (s.putPreload (s.partKeys p i) es).mapOp o.id (fun q => { q with rows := q.rows ++ [rowUnit ci i] })

theorem State.rowPreloaded_frame (s : State) (o : Op) (ci : Nat) (p : Part) (i : Nat) (es : List Incoming) :
    { s.rowPreloaded o ci p i es with regs := s.regs, ops := s.ops } = s := by
  rw [State.rowPreloaded, State.putPreload_eq]
  rfl

theorem State.rowPreloaded_noted {s : State} {o : Op} (ho : o ∈ s.ops) (ci : Nat) (p : Part) (i : Nat) (es : List Incoming) :
    ∃ q ∈ (s.rowPreloaded o ci p i es).ops, q.id = o.id ∧ rowUnit ci i ∈ q.rows := by
  rw [State.rowPreloaded, State.putPreload_eq]
  refine ⟨_, List.mem_map_of_mem (f := fun q => if q.id == o.id then { q with rows := q.rows ++ [rowUnit ci i] } else q) ho, ?_⟩
  rw [if_pos (beq_self_eq_true _)]
  exact ⟨rfl, List.mem_append_right _ (List.mem_singleton.mpr rfl)⟩

/-- PRELOAD_ROW_WRITE of a row that may be written writes that row, and then records and asks for lines only. -/
theorem exec_preloadRowWrite {id row : Nat} {o : Op} {ci : Nat} {p : Part} {i : Nat} {es : List Incoming} {s : State}
    (hop : s.op? id = some o) (hpart : s.partOf o row 0 = some (ci, p, i)) (hready : s.preloadReady o ci p i = true)
    (hes : s.preloadRow o ci p i = some es) :
    ∃ t, exec (.preloadRowWrite id row) s = .next t ∧ (s.rowPreloaded o ci p i es).SameWork t ∧
      (s.rowPreloaded o ci p i es).SameRows t := by
  have hexec : exec (.preloadRowWrite id row) s = execPreloadRowWrite id row s := rfl
  simp only [hexec, execPreloadRowWrite, hop, hpart, if_pos hready, hes, Option.getD_some]
  exact ⟨_, rfl, (State.SameWork.parityEvents _ _ _ _).trans (.settleRing _ _ _),
    (State.SameRows.parityEvents _ _ _ _).trans (.settleRing _ _ _)⟩

/-- Settles O23: the command is one write of a row of registers, each taking an element of its own. -/
theorem preloadRowOverwritesItsRegisters : Obligations.Preload_row_overwrites_its_registers := by
  intro id row o ci p i es s hop hpart hready hes hw
  obtain ⟨t, hexec, hwork, hrows⟩ := exec_preloadRowWrite hop hpart hready hes
  have hlen : es.length = (s.partKeys p i).length := (State.preloadRow_length hes).trans (State.partKeys_length hw i).symm
  have hframe := s.rowPreloaded_frame o ci p i es
  have hreg (k : Nat) : t.reg k = (s.putPreload (s.partKeys p i) es).reg k := hwork.reg k
  obtain ⟨ho, rfl⟩ := State.op?_mem hop
  refine ⟨t, hexec, fun j k x hk hx => ?written, fun k hk => ?others, ?noted, ?cells, ?shadow, ?tiles, ?buf⟩
  case written =>
    rw [hreg, State.reg_putPreload_at (keys := s.partKeys p i) (s.rowKeys_nodup _ _ _) hlen hk hx]
    exact LongReg.preload_fields x
  case others => rw [hreg, State.reg_putPreload_of_not_mem hlen.le hk]
  case noted =>
    obtain ⟨q, hq, hid, hmem⟩ := State.rowPreloaded_noted ho ci p i es
    obtain ⟨q', hq', hid', hrows'⟩ := hrows.finished hq
    exact ⟨q', hq', hid'.trans hid, hrows' ▸ hmem⟩
  case cells => exact hwork.cells.trans (congrArg State.cells hframe :)
  case shadow => exact hwork.shadow.trans (congrArg State.shadow hframe :)
  case tiles => exact hwork.tiles.trans (congrArg State.tiles hframe :)
  case buf => exact hwork.buf.trans (congrArg State.buf hframe :)

end Sys2Proof.Machine
end

section
/-! What the end of an op leaves unchanged: registers, ports, and the responses that were formed before (R120, R202, R219). -/

namespace Sys2Proof.Machine

/-! ### Updates that form no response and enter no op -/

/-- `t` has the registers, the work port and the response records of `s`, and its ops are of `s`, with their numbers and kinds. -/
structure State.Quiet (s t : State) : Prop where
  regs : t.regs = s.regs
  adm : t.adm = s.adm
  sent : Safety.responses t.out = Safety.responses s.out
  ops : ∀ p ∈ t.ops, ∃ q ∈ s.ops, q.id = p.id ∧ q.k = p.k

namespace State.Quiet

variable {s t u : State}

theorem of_ops (hregs : t.regs = s.regs) (hadm : t.adm = s.adm) (hout : t.out = s.out) (hops : t.ops = s.ops) : s.Quiet t :=
  ⟨hregs, hadm, congrArg _ hout, fun p hp => ⟨p, hops ▸ hp, rfl, rfl⟩⟩

theorem refl (s : State) : s.Quiet s := of_ops rfl rfl rfl rfl

theorem trans (h : s.Quiet t) (g : t.Quiet u) : s.Quiet u := by
  refine ⟨g.regs.trans h.regs, g.adm.trans h.adm, g.sent.trans h.sent, fun p hp => ?_⟩
  obtain ⟨q, hq, hqid, hqk⟩ := g.ops p hp
  obtain ⟨r, hr, hrid, hrk⟩ := h.ops q hq
  exact ⟨r, hr, hrid.trans hqid, hrk.trans hqk⟩

theorem foldl {α : Type} {f : State → α → State} (hf : ∀ (s : State) a, s.Quiet (f s a)) (l : List α) (s : State) :
    s.Quiet (l.foldl f s) :=
  List.foldlRecOn l f (refl s) (fun t ht a _ => ht.trans (hf t a))

/-- Changes of ops that leave their numbers and kinds. -/
theorem mapOps (s : State) {f : Op → Op} (hf : ∀ p, (f p).id = p.id ∧ (f p).k = p.k) : s.Quiet { s with ops := s.ops.map f } := by
  refine ⟨rfl, rfl, rfl, fun p hp => ?_⟩
  obtain ⟨q, hq, rfl⟩ := List.mem_map.mp hp
  exact ⟨q, hq, (hf q).1.symm, (hf q).2.symm⟩

theorem mapOp (s : State) (id : Nat) {f : Op → Op} (hf : ∀ p, (f p).id = p.id ∧ (f p).k = p.k) : s.Quiet (s.mapOp id f) :=
  mapOps s (fun p => by split <;> [exact hf p; exact ⟨rfl, rfl⟩])

/-- Ops that leave the op table. -/
theorem filterOps (s : State) (keep : Op → Bool) : s.Quiet { s with ops := s.ops.filter keep } :=
  ⟨rfl, rfl, rfl, fun p hp => ⟨p, List.mem_of_mem_filter hp, rfl, rfl⟩⟩

/-- What is sent holds no response record. -/
theorem emitAll (s : State) {os : List Out} (h : Safety.responses os = []) : s.Quiet (s.emitAll os) :=
  ⟨rfl, rfl, by rw [State.emitAll, responses_append, h, List.append_nil], fun p hp => ⟨p, hp, rfl, rfl⟩⟩

theorem emit (s : State) {x : Out} (h : Safety.responses [x] = []) : s.Quiet (s.emit x) := emitAll s h

theorem giveCredits (s : State) (q chan n : Nat) : s.Quiet (s.giveCredits q chan n) := emitAll s (responses_credits q chan n)

theorem setObj (s : State) (k v : Nat) : s.Quiet (s.setObj k v) := of_ops (by simp) (by simp) (by simp) (by simp)

theorem bump (s : State) (k n : Nat) : s.Quiet (s.bump k n) := of_ops (by simp) (by simp) (by simp) (by simp)

theorem event (s : State) (e : Event) : s.Quiet (s.event e) := of_ops (by simp) (by simp) (by simp) (by simp)

theorem answers (h : s.Quiet t) : Safety.answers t = Safety.answers s := by
  unfold Safety.answers
  rw [h.sent, h.adm]

end State.Quiet

/-- A response is the next record formed, whether it leaves or waits (R217). -/
theorem State.answers_respond (s : State) (r : Resp) : Safety.answers (s.respond r) = Safety.answers s ++ [(r.w0, r.w1)] := by
  unfold State.respond
  split
  · next h =>
    obtain ⟨hq, -⟩ := h
    have hflit : Safety.responses (s.sendFlit [r]).out = Safety.responses s.out ++ [(r.w0, r.w1)] := by
      simp only [State.sendFlit, State.giveCredits, State.emit, State.emitAll, responses_append, responses_credits, List.append_nil]
      rfl
    have hqueue : (s.sendFlit [r]).adm.respQ = s.adm.respQ := rfl
    rw [Safety.answers, Safety.answers, hflit, hqueue, hq]
    simp
  · simp [Safety.answers]

/-! ### The parts of a completion (R202, R203, R260) -/

/-- `t` is quiet beside `s` and has its ports. -/
structure State.QuietPorts (s t : State) : Prop extends State.Quiet s t where
  ports : t.ports = s.ports

namespace State.QuietPorts

variable {s t u : State}

theorem refl (s : State) : s.QuietPorts s := ⟨.refl s, rfl⟩

theorem trans (h : s.QuietPorts t) (g : t.QuietPorts u) : s.QuietPorts u := ⟨h.toQuiet.trans g.toQuiet, g.ports.trans h.ports⟩

theorem foldl {α : Type} {f : State → α → State} (hf : ∀ (s : State) a, s.QuietPorts (f s a)) (l : List α) (s : State) :
    s.QuietPorts (l.foldl f s) :=
  List.foldlRecOn l f (refl s) (fun t ht a _ => ht.trans (hf t a))

theorem event (s : State) (e : Event) : s.QuietPorts (s.event e) := ⟨.event s e, by simp⟩

theorem bump (s : State) (k n : Nat) : s.QuietPorts (s.bump k n) := ⟨.bump s k n, by simp⟩

theorem dropOp (s : State) (id : Nat) : s.QuietPorts (s.dropOp id) :=
  ⟨(Quiet.filterOps s _).trans (.of_ops rfl rfl rfl rfl), rfl⟩

theorem dropStaging (s : State) (id : Nat) : s.QuietPorts (s.dropStaging id) := by
  have hlines (g : Staging) : s.QuietPorts { s with stg := g } := ⟨.of_ops rfl rfl rfl rfl, rfl⟩
  exact (hlines _).trans (foldl (fun s q => ⟨.giveCredits s q _ _, rfl⟩) _ _)

theorem relink (s : State) (id : Nat) (c : ChainId) : s.QuietPorts (s.relink id c) := by
  have hchain (v : ChainSt) : s.QuietPorts (s.setChain c v) := ⟨.of_ops rfl rfl rfl rfl, rfl⟩
  exact (hchain _).trans ⟨.mapOps _ (fun _ => ⟨rfl, rfl⟩), rfl⟩

theorem cutChains (s : State) (o : Op) : s.QuietPorts (s.cutChains o) := by
  have hchain (u : State) (c : ChainId) (v : ChainSt) : u.QuietPorts (u.setChain c v) := ⟨.of_ops rfl rfl rfl rfl, rfl⟩
  unfold State.cutChains
  split
  · exact foldl (fun s c => (hchain s c _).trans (relink _ _ _)) _ s
  · exact refl s

theorem tellReroll (s : State) (o : Op) (status : Nat) : s.QuietPorts (s.tellReroll o status) := by
  unfold State.tellReroll
  split
  · exact refl s
  · split
    · exact ⟨.mapOp _ _ (fun _ => ⟨rfl, rfl⟩), rfl⟩
    · exact refl s

theorem consumed (s : State) (o : Op) (status : Nat) : s.QuietPorts (s.consumed o status) := by
  unfold State.consumed
  split
  · exact event _ _
  · exact refl s

theorem countBad (s : State) (o : Op) (status : Nat) : s.QuietPorts (s.countBad o status) := by
  unfold State.countBad
  split
  · exact bump _ _ _
  · exact refl s

theorem unbindTiles (s : State) (tn r : Nat) : s.QuietPorts (s.unbindTiles tn r) := by
  unfold State.unbindTiles
  refine foldl (fun s e => ?_) _ s
  split
  · exact ⟨.of_ops rfl rfl rfl rfl, rfl⟩
  · exact refl s

end State.QuietPorts

/-! ### The completion of an op -/

/-- An op leaves the op table with what it holds, before its completion record is formed. -/
def State.released (s : State) (o : Op) (status : Nat) : State :=
  (((s.dropOp o.id).dropStaging o.id).cutChains o).tellReroll o status

section
variable (s : State) (o : Op) (status : Nat)

theorem State.finishOp_eq : s.finishOp o status =
    if o.k.ghost then s.released o status
    else if o.id < s.adm.mute then ((s.released o status).consumed o status).countBad o status
    else (((s.released o status).consumed o status).countBad o status).respond
      (completion o status (s.stallOf o) (s.elapsed o)) := rfl

/-- Once an op has been dropped, what it leaves is quiet. -/
theorem State.dropOp_released : (s.dropOp o.id).QuietPorts (s.released o status) :=
  ((State.QuietPorts.dropStaging _ _).trans (.cutChains _ _)).trans (.tellReroll _ _ _)

theorem State.dropOp_counted : (s.dropOp o.id).QuietPorts (((s.released o status).consumed o status).countBad o status) :=
  (s.dropOp_released o status).trans ((State.QuietPorts.consumed _ _ _).trans (.countBad _ _ _))

/-- What has completed is outstanding no more. -/
theorem State.id_ne_of_mem_finishOp {p : Op} (hp : p ∈ (s.finishOp o status).ops) : p.id ≠ o.id := by
  have hdropped {t : State} (h : (s.dropOp o.id).QuietPorts t) (hp : p ∈ t.ops) : p.id ≠ o.id := by
    obtain ⟨q, hq, hid, -⟩ := h.ops p hp
    rw [← hid]
    exact bne_iff_ne.mp (List.mem_filter.mp hq).2
  rw [State.finishOp_eq] at hp
  split_ifs at hp
  · exact hdropped (s.dropOp_released o status) hp
  · exact hdropped (s.dropOp_counted o status) hp
  · rw [State.respond_ops] at hp
    exact hdropped (s.dropOp_counted o status) hp

/-- An op that answers forms its completion record next (R120, R202). -/
theorem State.answers_finishOp (hghost : o.k.ghost = false) (hmute : s.adm.mute ≤ o.id) : Safety.answers (s.finishOp o status) =
    Safety.answers s ++ [((completion o status (s.stallOf o) (s.elapsed o)).w0,
      (completion o status (s.stallOf o) (s.elapsed o)).w1)] := by
  have hquiet := (State.QuietPorts.dropOp s o.id).trans (s.dropOp_counted o status)
  rw [State.finishOp_eq, hghost, if_neg Bool.false_ne_true, if_neg (Nat.not_lt.mpr hmute), State.answers_respond, hquiet.answers]

theorem State.finishOp_ports : (s.finishOp o status).ports = s.ports := by
  have hquiet := (State.QuietPorts.dropOp s o.id).trans (s.dropOp_counted o status)
  rw [State.finishOp_eq]
  split_ifs
  · exact ((State.QuietPorts.dropOp s o.id).trans (s.dropOp_released o status)).ports
  · exact hquiet.ports
  · rw [State.respond_ports, hquiet.ports]

end

/-! ### What waits for deliveries (R154, R202, R229, R301, R358) -/

/-- `t` follows `s` by the ends of ops: a register holds what it held or, where rows are to be cleared, is cleared with POISON; the ops
are of `s`; and more response records may have been formed, behind those of `s`. -/
structure State.Settles (clears : Prop) (s t : State) : Prop where
  reg : ∀ k, t.reg k = s.reg k ∨ (t.reg k = LongReg.zero.mark ∧ clears)
  ops : ∀ p ∈ t.ops, ∃ q ∈ s.ops, q.id = p.id ∧ q.k = p.k
  answers : ∃ more, Safety.answers t = Safety.answers s ++ more

theorem State.Quiet.settles {s t : State} (h : s.Quiet t) (clears : Prop) : s.Settles clears t :=
  ⟨fun k => .inl (congrArg (sget LongReg.zero · k) h.regs), h.ops, [], by rw [h.answers, List.append_nil]⟩

namespace State.Settles

variable {clears : Prop} {s t u : State}

theorem refl (s : State) : s.Settles clears s := (State.Quiet.refl s).settles clears

theorem trans (h : s.Settles clears t) (g : t.Settles clears u) : s.Settles clears u := by
  refine ⟨fun k => ?_, fun p hp => ?_, ?_⟩
  · rcases g.reg k with hk | hk
    · exact hk ▸ h.reg k
    · exact .inr hk
  · obtain ⟨q, hq, hqid, hqk⟩ := g.ops p hp
    obtain ⟨r, hr, hrid, hrk⟩ := h.ops q hq
    exact ⟨r, hr, hrid.trans hqid, hrk.trans hqk⟩
  · obtain ⟨a, ha⟩ := h.answers
    obtain ⟨b, hb⟩ := g.answers
    exact ⟨a ++ b, by rw [hb, ha, List.append_assoc]⟩

theorem foldl {α : Type} {f : State → α → State} {l : List α} (hf : ∀ (s : State), ∀ a ∈ l, s.Settles clears (f s a)) (s : State) :
    s.Settles clears (l.foldl f s) :=
  List.foldlRecOn l f (refl s) (fun t ht a ha => ht.trans (hf t a ha))

theorem respond (s : State) (r : Resp) : s.Settles clears (s.respond r) :=
  ⟨fun k => .inl (congrArg (sget LongReg.zero · k) (s.respond_regs r)), fun p hp => ⟨p, s.respond_ops r ▸ hp, rfl, rfl⟩,
    _, s.answers_respond r⟩

/-- A completion leaves every register. -/
theorem finishOp (s : State) (o : Op) (status : Nat) : s.Settles clears (s.finishOp o status) := by
  have hcounted := ((State.QuietPorts.dropOp s o.id).trans (s.dropOp_counted o status)).toQuiet.settles clears
  rw [State.finishOp_eq]
  split_ifs
  · exact ((State.QuietPorts.dropOp s o.id).trans (s.dropOp_released o status)).toQuiet.settles clears
  · exact hcounted
  · exact hcounted.trans (respond _ _)

/-- A region that closes completes the op that closes it (R229). -/
theorem closeRegion (s : State) (g : Region) : s.Settles clears (s.closeRegion g) := by
  have hunbound (x : List Region) : s.Settles clears { s.unbindTiles g.tenant g.num with regions := x } :=
    ((State.QuietPorts.unbindTiles s _ _).toQuiet.trans
      (.of_ops (t := { s.unbindTiles g.tenant g.num with regions := x }) rfl rfl rfl rfl)).settles clears
  unfold State.closeRegion
  split
  · dsimp only
    split
    · exact hunbound _
    · exact (hunbound _).trans (finishOp _ _ _)
  · exact refl s

theorem closeRegions (s : State) : s.Settles clears s.closeRegions := foldl (fun _ _ _ => closeRegion _ _) s

/-- Rows cleared with POISON change registers to nothing else (R154, R259). -/
theorem clearRows (hclears : clears) (s : State) (o : Op) (rows : List (Nat × Part × Nat)) : s.Settles clears (s.clearRows o rows) := by
  have hcleared (ks : List Nat) (v : LongReg) (hv : v = LongReg.zero.mark) : s.Settles clears (s.mapRegs ks (fun _ _ => v)) := by
    refine foldl (f := fun u j => u.setReg j v)
      (fun u j _ => ⟨fun k => ?_, fun p hp => ⟨p, hp, rfl, rfl⟩, [], (List.append_nil _).symm⟩) s
    rw [State.reg_setReg]
    split
    · exact .inr ⟨hv, hclears⟩
    · exact .inl rfl
  exact (hcleared _ _ rfl).trans ((State.Quiet.foldl (fun _ _ => .event _ _) _ _).settles clears)

theorem workClear (hclears : clears) (s : State) (o : Op) : s.Settles clears (s.workClear o) := by
  have hdrop (u : State) : u.Settles clears (u.dropOp o.id) := (State.QuietPorts.dropOp u o.id).toQuiet.settles clears
  have hworked (rows : List (Nat × Part × Nat)) : s.Settles clears
      (if rows = [] then s else (s.clearRows o rows).mapOp o.id (fun p => { p with rows := clearedRows o rows })) := by
    split
    · exact refl s
    · exact (clearRows hclears s o rows).trans
        ((State.Quiet.mapOp _ _ (f := fun p => { p with rows := clearedRows o rows }) (fun _ => ⟨rfl, rfl⟩)).settles clears)
  unfold State.workClear
  extract_lets rows worked
  have hstate : s.Settles clears worked := hworked rows
  split
  · exact hstate.trans (hdrop worked)
  · exact hstate

end State.Settles

/-! ### Frames (R215, R295, R301) -/

namespace State.Quiet

/-- A frame leaves on a cascade port. -/
theorem launch (s : State) (q : Nat) (fl : Flight) (f : Frame) : s.Quiet (s.launch q fl f) := by
  have hport (p : PortSt) : s.Quiet (s.setPort q p) := of_ops rfl rfl rfl rfl
  have hsent (p : PortSt) : s.Quiet ((s.setPort q p).emit (.frame q f)) := (hport p).trans (emit (x := .frame q f) _ rfl)
  have hpeer (u : State) : u.Quiet (match fl.peer with
      | none => u
      | some x => u.setGroup x.1 ((u.group x.1).use x.2 fl.n)) := by
    split
    · exact refl u
    · exact of_ops rfl rfl rfl rfl
  unfold State.launch
  extract_lets p spent s1 s2
  have hs2 : s.Quiet s2 := (hsent _).trans (hpeer s1)
  split
  · exact hs2
  · exact hs2.trans (mapOp _ _ (f := fun o => { o with wout := o.wout + fl.n }) (fun _ => ⟨rfl, rfl⟩))

theorem sendFrame (s : State) (g pp : Nat) (op tenant : Option Nat) (f : Frame) : s.Quiet (s.sendFrame g pp op tenant f) := by
  unfold State.sendFrame
  dsimp only
  split
  · exact of_ops rfl rfl rfl rfl
  · split
    · exact refl s
    · unfold State.sendOn
      dsimp only
      split
      · exact launch _ _ _ _
      · exact of_ops rfl rfl rfl rfl

theorem replyFirst (s : State) (g : Nat) (confirm : Bool) : s.Quiet (s.replyFirst g confirm) := by
  unfold State.replyFirst
  split
  · exact refl s
  · split
    · exact refl s
    · exact sendFrame _ _ _ _ _ _

/-- A member that confirms its reductions (R301). -/
theorem confirmNow (s : State) (g : Nat) : s.Quiet (s.confirmNow g) := by
  have hgroup (u : State) (f : GroupSt → GroupSt) : u.Quiet (u.mapGroup g f) := of_ops rfl rfl rfl rfl
  unfold State.confirmNow
  split
  · exact refl s
  · split
    · exact refl s
    · dsimp only
      split
      · exact (hgroup _ _).trans (hgroup _ _)
      · exact (hgroup _ (fun v => { v with confirm := none })).trans (replyFirst _ _ _)

/-- Ranges that take effect clear bytes of the buffer and are written in the dictionary (R359). -/
theorem settleRange (s : State) (tn cl : Nat) : s.Quiet (s.settleRange tn cl) := by
  unfold State.settleRange
  dsimp only
  split
  · refine trans ?_ ((setObj _ _ _).trans (setObj _ _ _))
    exact of_ops rfl rfl rfl rfl
  · exact refl s

theorem settleRanges (s : State) : s.Quiet s.settleRanges := by
  unfold State.settleRanges
  split
  · exact foldl (fun s _ => foldl (fun s _ => settleRange s _ _) _ s) _ s
  · exact refl s

end State.Quiet

/-- What waits for deliveries goes on: only rows of a DRAIN cut short are cleared. -/
theorem State.settle_settles (s : State) : s.Settles (∃ p ∈ s.ops, p.k = .clear) s.settle := by
  have hclear : s.Settles (∃ p ∈ s.ops, p.k = .clear) ((s.ops.filter (fun o => o.k == .clear)).foldl (fun s o => s.workClear o) s) := by
    refine .foldl (fun u o ho => .workClear ?_ u o) s
    obtain ⟨hmem, hk⟩ := List.mem_filter.mp ho
    exact ⟨o, hmem, beq_iff_eq.mp hk⟩
  have hconfirmed := hclear.trans ((State.Quiet.foldl (fun s g => .confirmNow s g) (List.range 16) _).settles _)
  exact (hconfirmed.trans (.closeRegions _)).trans ((State.Quiet.settleRanges _).settles _)

end Sys2Proof.Machine
end

section
/-! OP_DELIVERY of an op whose effects are complete (R120, R149, R154, R202). -/

namespace Sys2Proof.Machine

/-- The kinds of op whose effects this command waits for. -/
theorem State.kind_of_effectsDone {s : State} {o : Op} (h : s.effectsDone o = true) :
    o.k.ghost = false ∧ o.k ≠ .clear ∧ o.k ≠ .owner ∧ o.k ≠ .dict ∧ o.k ≠ .save ∧ o.k ≠ .restore := by
  unfold State.effectsDone at h
  cases hk : o.k <;> simp_all [OpK.ghost]

/-- An op whose effects are complete, and whose writes have been accepted, delivers. -/
theorem State.workOp_of_effectsDone {s : State} {o : Op} (hstop : o.stopped = false) (hstart : o.started = true)
    (hdone : s.effectsDone o = true) (hwout : o.wout = 0) (faults : List ReadFault) : s.workOp o faults = s.deliver o := by
  obtain ⟨-, hclear, howner, hdict, hsave, hrestore⟩ := State.kind_of_effectsDone hdone
  unfold State.workOp
  rw [if_neg hclear, hstop, if_neg Bool.false_ne_true, hstart, if_neg (Bool.true_eq_false ▸ not_false)]
  split
  · exact absurd ‹_› howner
  · exact absurd ‹_› hdict
  · exact absurd ‹_› hsave
  · exact absurd ‹_› hrestore
  · exact if_pos ⟨hdone, hwout⟩

/-- An op that keeps no place after its delivery leaves with its completion record. -/
theorem State.exec_opDelivery {s : State} {id : Nat} {o : Op} (hop : s.op? id = some o) (hstop : o.stopped = false)
    (hstart : o.started = true) (hdone : s.effectsDone o = true) (hwout : o.wout = 0) (hstay : staysTagged o = false) :
    exec (.opDelivery ⟨id, []⟩) s = .next (s.finishOp o (s.statusOf o)).settle := by
  have hexec : exec (.opDelivery ⟨id, []⟩) s = .next (s.workOp o []).settle := by
    show execOpDelivery ⟨id, []⟩ s = _
    rw [execOpDelivery, hop]
  rw [hexec, State.workOp_of_effectsDone hstop hstart hdone hwout, State.deliver, hstay, if_neg Bool.false_ne_true]

/-- Settles O31: the op leaves with its record (`answers_finishOp`), and what waited for it only clears rows of a DRAIN cut short and
forms records behind it (`settle_settles`). -/
theorem completeOpDeliversWithItsRecord : Obligations.Complete_op_delivers_with_its_record := by
  intro id o s hop hstop hstart hdone hwout hstay hmute
  obtain ⟨-, rfl⟩ := State.op?_mem hop
  obtain ⟨hghost, -⟩ := State.kind_of_effectsDone hdone
  have hfinish : s.Settles False (s.finishOp o (s.statusOf o)) := .finishOp _ _ _
  have hsettle := (s.finishOp o (s.statusOf o)).settle_settles
  obtain ⟨more, hmore⟩ := hsettle.answers
  refine ⟨_, more, State.exec_opDelivery hop hstop hstart hdone hwout hstay, fun p hp => ?_, ?_, fun k => ?_⟩
  · obtain ⟨q, hq, hid, -⟩ := hsettle.ops p hp
    exact hid ▸ s.id_ne_of_mem_finishOp o _ hq
  · rw [hmore, s.answers_finishOp o _ hghost hmute, List.append_assoc]
    rfl
  · have hfin : (s.finishOp o (s.statusOf o)).reg k = s.reg k := (hfinish.reg k).resolve_right And.right
    rcases hsettle.reg k with hk | ⟨hk, p, hp, hclear⟩
    · exact .inl (hk.trans hfin)
    · obtain ⟨q, hq, -, hkind⟩ := hfinish.ops p hp
      exact .inr ⟨hk, q, hq, hkind.trans hclear⟩

end Sys2Proof.Machine
end

section
/-! The loss of a memory port leaves it down or quarantined (R218, R401, R410). -/

namespace Sys2Proof.Machine

/-! ### Ports through the loss of ops -/

theorem foldl_ports {α : Type} {f : State → α → State} (hf : ∀ (s : State) a, (f s a).ports = s.ports) (l : List α) (s : State) :
    (l.foldl f s).ports = s.ports :=
  List.foldlRecOn l f (motive := fun t => t.ports = s.ports) rfl (fun t ht a _ => (hf t a).trans ht)

theorem State.mapRegs_ports (s : State) (ks : List Nat) (f : Nat → LongReg → LongReg) : (s.mapRegs ks f).ports = s.ports :=
  foldl_ports (f := fun u k => u.setReg k (f k (u.reg k))) (fun _ _ => rfl) ks s

theorem State.clearRows_ports (s : State) (o : Op) (rows : List (Nat × Part × Nat)) : (s.clearRows o rows).ports = s.ports :=
  (foldl_ports (fun u _ => u.event_ports _) _ _).trans (s.mapRegs_ports _ _)

theorem State.sweepUnread_ports (s : State) (o : Op) : (s.sweepUnread o).ports = s.ports := by
  unfold State.sweepUnread
  dsimp only
  split
  · rfl
  · split
    · rfl
    · exact s.clearRows_ports _ _

theorem State.closeRegion_ports (s : State) (g : Region) : (s.closeRegion g).ports = s.ports := by
  have hunbound := (State.QuietPorts.unbindTiles s g.tenant g.num).ports
  unfold State.closeRegion
  split
  · dsimp only
    split
    · exact hunbound
    · exact (State.finishOp_ports _ _ _).trans hunbound
  · rfl

theorem State.loseAll_ports (s : State) (f : Op → Bool) : (s.loseAll f).ports = s.ports := by
  have hlost : (s.loseOps f).ports = s.ports :=
    foldl_ports (fun u o => (State.sweepUnread_ports _ _).trans (u.finishOp_ports o 0x03)) _ s
  exact (foldl_ports State.closeRegion_ports _ _).trans hlost

theorem State.loseMemory_ports (s : State) (q : Nat) : (s.loseMemory q).ports = s.ports := State.loseAll_ports _ _

/-! ### A port that goes down -/

/-- A memory or pairing port that goes down is in its new state, with its live line low. -/
theorem State.port_portDown (s : State) {q : Nat} (hlo : 1 ≤ q) (hhi : q ≤ 16) (st reason : Nat) (word : Bool) :
    ((s.portDown q st reason word).port q).st = st ∧ ((s.portDown q st reason word).port q).liveO = false := by
  have hlost (u : State) : (u.partnerLost q).ports = u.ports := by
    rw [State.partnerLost, if_neg (Nat.ne_of_gt hlo), if_pos hhi, State.loseMemory_ports]
  have hdown (u : State) (e : Event) (p : PortSt) : ((u.setPort q p).event e).port q = p := by
    rw [State.port, State.event_ports]
    exact State.port_setPort.trans (if_pos rfl)
  unfold State.portDown State.portEvent
  dsimp only
  split
  · rw [State.port, hlost]
    change (State.port _ q).st = st ∧ (State.port _ q).liveO = false
    rw [hdown]
    exact ⟨rfl, rfl⟩
  · rw [hdown]
    exact ⟨rfl, rfl⟩

/-- A port in quarantine is closed for its wait or for good (R401). -/
theorem State.port_quarantinePort (s : State) {q : Nat} (hlo : 1 ≤ q) (hhi : q ≤ 16) (word : Bool) :
    (((s.quarantinePort q word).port q).st = 3 ∨ ((s.quarantinePort q word).port q).st = 4) ∧
      ((s.quarantinePort q word).port q).liveO = false := by
  have hevent (u : State) (detail : Nat) : (u.portEvent q 0x183 3 detail).port q = u.port q := by
    rw [State.port, State.portEvent, State.event_ports]
    rfl
  unfold State.quarantinePort
  dsimp only
  split
  · rw [hevent]
    obtain ⟨hst, hlive⟩ := State.port_portDown _ hlo hhi _ _ _
    exact ⟨.inr hst, hlive⟩
  · obtain ⟨hst, hlive⟩ := State.port_portDown _ hlo hhi _ _ _
    exact ⟨.inl hst, hlive⟩

end Sys2Proof.Machine
end

section
/-! What a write of the cluster buffer leaves to be read (R109, R248, R249). -/

namespace Sys2Proof.Machine

/-! ### Membership placed by several writes -/

theorem mem_putN {l : List Nat} {k j : Nat} {b : Bool} : j ∈ putN l k b ↔ if j = k then b = true else j ∈ l := by
  unfold putN
  split
  · next hb =>
    rw [mem_insN, hb]
    split <;> simp_all
  · next hb =>
    rw [delN, List.mem_filter, bne_iff_ne]
    split <;> simp_all

section
variable {α : Type} {u : α → Nat} {v : α → Bool} {j : Nat} {ws : List α}

theorem mem_foldl_putN_of_ne (h : ∀ w ∈ ws, j ≠ u w) (l : List Nat) : j ∈ ws.foldl (fun l w => putN l (u w) (v w)) l ↔ j ∈ l :=
  List.foldlRecOn ws _ (motive := fun m => j ∈ m ↔ j ∈ l) Iff.rfl
    (fun _ hm w hw => (mem_putN.trans (iff_of_eq (if_neg (h w hw)))).trans hm)

/-- Writes that agree on a member leave it as each of them places it. -/
theorem mem_foldl_putN {b : Bool} (hv : ∀ w ∈ ws, u w = j → v w = b) (hj : ∃ w ∈ ws, u w = j) (l : List Nat) :
    j ∈ ws.foldl (fun l w => putN l (u w) (v w)) l ↔ b = true := by
  induction ws generalizing l with
  | nil =>
    obtain ⟨w, hw, -⟩ := hj
    cases hw
  | cons w r ih =>
    have hr : ∀ x ∈ r, u x = j → v x = b := fun x hx => hv x (List.mem_cons_of_mem _ hx)
    rw [List.foldl_cons]
    by_cases hrest : ∃ x ∈ r, u x = j
    · exact ih hr hrest _
    · have hne : ∀ x ∈ r, j ≠ u x := fun x hx e => hrest ⟨x, hx, e.symm⟩
      obtain ⟨x, hx, rfl⟩ := hj
      obtain rfl : x = w := (List.mem_cons.mp hx).resolve_right (fun hx => hrest ⟨x, hx, rfl⟩)
      rw [mem_foldl_putN_of_ne hne, mem_putN, if_pos rfl, hv x List.mem_cons_self rfl]

end

/-! ### A unit that has been written -/

section
variable {b : Buffer} {ws : List WByte} {w : WByte}

/-- The parity of a unit is made afresh with each write. -/
theorem Buffer.parityOk_write (hw : w ∈ ws) : (b.write ws).parityOk (w.a / 2) = true := by
  unfold Buffer.parityOk
  rw [beq_iff_eq, Bool.eq_iff_iff, List.elem_iff]
  exact mem_foldl_putN (u := fun x : WByte => x.a / 2) (fun x _ hx => by rw [hx]; rfl) ⟨w, hw, rfl⟩ _

/-- A unit takes the poison that its writes agree on. -/
theorem Buffer.poison_write {q : Bool} (hw : w ∈ ws) (hq : ∀ x ∈ ws, b.newPoison ws x = q) : (b.write ws).poison (w.a / 2) = q := by
  unfold Buffer.poison
  rw [Bool.eq_iff_iff, List.elem_iff]
  exact mem_foldl_putN (u := fun x : WByte => x.a / 2) (fun x hx _ => hq x hx) ⟨w, hw, rfl⟩ _

theorem Buffer.readPsn_write {q : Bool} (hw : w ∈ ws) (hq : ∀ x ∈ ws, b.newPoison ws x = q) : (b.write ws).readPsn w.a = q := by
  rw [Buffer.readPsn, Buffer.poison_write hw hq, Buffer.parityOk_write hw, Bool.not_true, Bool.or_false]

theorem Buffer.byte_write (hw : w ∈ ws) (hinj : ∀ x ∈ ws, x.a = w.a → x = w) : (b.write ws).byte w.a = w.v :=
  sget_foldl_sset_of_mem (f := WByte.a) (v := WByte.v) hw hinj b.bytes

end

/-! ### The bytes of a memory line (R250) -/

section
variable {b : Buffer} {a i : Nat} {l : ReadLine}

theorem mem_lineBytes {w : WByte} : w ∈ lineBytes a l ↔
    ∃ i < 64, (⟨a + i, (l.data.ushiftRight (8 * i)).setWidth 8, decide (2 ≤ l.ecc.toNat)⟩ : WByte) = w := by
  simp only [lineBytes, List.mem_map, List.mem_range]

/-- The two bytes of a unit come together, with the line's own poison. -/
theorem newPoison_lineBytes (ha : a % 2 = 0) {w : WByte} (hw : w ∈ lineBytes a l) :
    b.newPoison (lineBytes a l) w = decide (2 ≤ l.ecc.toNat) := by
  have hq {x : WByte} (hx : x ∈ lineBytes a l) : x.q = decide (2 ≤ l.ecc.toNat) := by
    obtain ⟨i, -, rfl⟩ := mem_lineBytes.mp hx
    rfl
  obtain ⟨i, hi, hwi⟩ := mem_lineBytes.mp hw
  have hsibling : ∃ j < 64, a + j = sibling w.a := by
    subst hwi
    unfold sibling
    split
    · exact ⟨i + 1, by dsimp only at *; omega, rfl⟩
    · exact ⟨i - 1, by omega, by dsimp only at *; omega⟩
  obtain ⟨j, hj, hsj⟩ := hsibling
  unfold Buffer.newPoison
  split
  · next x hx => rw [hq hw, hq (List.mem_of_find?_eq_some hx), Bool.or_self]
  · next hnone =>
    exact absurd (beq_iff_eq.mpr hsj) (List.find?_eq_none.mp hnone _ (mem_lineBytes.mpr ⟨j, hj, rfl⟩))

/-- Each byte of a line reads as it came, with the line's poison. -/
theorem read_write_lineBytes (ha : a % 2 = 0) (hi : i < 64) :
    (b.write (lineBytes a l)).byte (a + i) = (l.data.ushiftRight (8 * i)).setWidth 8 ∧
      (b.write (lineBytes a l)).readPsn (a + i) = decide (2 ≤ l.ecc.toNat) := by
  have hw : (⟨a + i, (l.data.ushiftRight (8 * i)).setWidth 8, decide (2 ≤ l.ecc.toNat)⟩ : WByte) ∈ lineBytes a l :=
    mem_lineBytes.mpr ⟨i, hi, rfl⟩
  refine ⟨Buffer.byte_write hw (fun x hx hxa => ?_), Buffer.readPsn_write hw (fun x hx => newPoison_lineBytes ha hx)⟩
  obtain ⟨j, -, rfl⟩ := mem_lineBytes.mp hx
  obtain rfl : j = i := Nat.add_left_cancel hxa
  rfl

theorem byte_write_lineBytes_of_outside {k : Nat} (hk : k < a ∨ a + 64 ≤ k) : (b.write (lineBytes a l)).byte k = b.byte k := by
  refine byte_write_ne (fun w hw => ?_)
  obtain ⟨i, hi, rfl⟩ := mem_lineBytes.mp hw
  dsimp only
  omega

end

end Sys2Proof.Machine
end

section
/-! MEMORY_READ_LINES: where the lines of a request land (R132, R218, R250, R365). -/

namespace Sys2Proof.Machine

/-! ### What the event of a line, and a returned credit, leave -/

/-- `t` has what a memory line meets as `s` has it: buffer, staging, registers, weights, ops, ports and shape. -/
structure State.SameLines (s t : State) : Prop where
  buf : t.buf = s.buf
  stg : t.stg = s.stg
  regs : t.regs = s.regs
  cells : t.cells = s.cells
  ops : t.ops = s.ops
  ports : t.ports = s.ports
  conf : t.conf = s.conf

namespace State.SameLines

variable {s t u : State}

theorem refl (s : State) : s.SameLines s := ⟨rfl, rfl, rfl, rfl, rfl, rfl, rfl⟩

theorem trans (h : s.SameLines t) (g : t.SameLines u) : s.SameLines u :=
  ⟨g.buf.trans h.buf, g.stg.trans h.stg, g.regs.trans h.regs, g.cells.trans h.cells, g.ops.trans h.ops, g.ports.trans h.ports,
    g.conf.trans h.conf⟩

theorem bump (s : State) (k n : Nat) : s.SameLines (s.bump k n) :=
  ⟨by simp, by simp, by simp, by simp, by simp, by simp, by simp⟩

theorem event (s : State) (e : Event) : s.SameLines (s.event e) :=
  ⟨by simp, by simp, by simp, by simp, by simp, by simp, by simp⟩

theorem giveCredits (s : State) (q chan n : Nat) : s.SameLines (s.giveCredits q chan n) := ⟨rfl, rfl, rfl, rfl, rfl, rfl, rfl⟩

theorem eccEvent (s : State) (q : Nat) (tenant : Option Nat) (line ecc : Nat) : s.SameLines (s.eccEvent q tenant line ecc) := by
  unfold State.eccEvent
  dsimp only
  split
  · exact refl s
  · split
    · exact (bump _ _ _).trans (event _ _)
    · exact (bump _ _ _).trans (event _ _)

end State.SameLines

/-! ### A request after its next line -/

/-- The first entry that a condition names is still the first one after a change of the entries named. -/
theorem find?_filterMap_of_first {α : Type} {p : α → Bool} {f : α → Option α} {a b : α} {l : List α}
    (hother : ∀ x, p x = false → f x = some x) (ha : l.find? p = some a) (hab : f a = some b) (hb : p b = true) :
    (l.filterMap f).find? p = some b := by
  induction l with
  | nil => cases ha
  | cons x l ih =>
    cases hx : p x with
    | true =>
      obtain rfl : x = a := by simpa [List.find?_cons, hx] using ha
      rw [List.filterMap_cons_some hab, List.find?_cons_of_pos hb]
    | false =>
      rw [List.find?_cons_of_neg (by simp [hx])] at ha
      rw [List.filterMap_cons_some (hother x hx), List.find?_cons_of_neg (by simp [hx]), ih ha]

/-- A request that waits for more lines goes on with its next one. -/
theorem State.find?_advanceRead {s : State} {q tag : Nat} {r : ReadReq}
    (hfind : s.stg.reads.find? (fun r => r.q == q && r.tag == tag) = some r) (hleft : 1 < r.left) :
    (s.advanceRead r).stg.reads.find? (fun r => r.q == q && r.tag == tag) =
      some { r with seq := r.seq + 1, line := r.line + 1, left := r.left - 1 } := by
  obtain ⟨rfl, rfl⟩ : r.q = q ∧ r.tag = tag := by
    simpa using List.find?_some (p := fun r : ReadReq => r.q == q && r.tag == tag) hfind
  refine find?_filterMap_of_first (fun x hx => if_neg (Bool.eq_false_iff.mp hx)) hfind ?_ (by simp)
  rw [if_pos (by simp), if_neg (Nat.not_le.mpr hleft)]

/-- A change of an op that leaves its number is met where the op is looked up. -/
theorem State.op?_mapOp (s : State) {id : Nat} {o : Op} {f : Op → Op} (hf : ∀ p, (f p).id = p.id) (ho : s.op? id = some o) :
    (s.mapOp id f).op? id = some (f o) := by
  have hid : ((fun p : Op => p.id == id) ∘ fun p => if p.id == id then f p else p) = fun p : Op => p.id == id := by
    funext p
    simp only [Function.comp_apply]
    split <;> simp_all
  obtain ⟨-, rfl⟩ := State.op?_mem ho
  rw [State.op?, State.mapOp, List.find?_map, hid]
  rw [State.op?] at ho
  rw [ho, Option.map_some, if_pos (beq_self_eq_true _)]

/-! ### A line that lands in a ring -/

/-- The buffer key of the slot that an op's next line of a tensor takes (R132). -/
def State.lineBase (s : State) (o : Op) (r : ReadReq) : Nat :=
  bufAddr (opCluster o.d) (refStage (o.d.word r.ten) * 2048 + s.freeSlot o.id r.ten * 64)

/-- Slots lie on whole lines. -/
theorem State.lineBase_even (s : State) (o : Op) (r : ReadReq) : s.lineBase o r % 2 = 0 := by
  unfold State.lineBase bufAddr
  omega

/-- In `t` the line of a request has landed in the ring of its op, beside what `s` held. -/
structure State.Lands (s t : State) (o : Op) (r : ReadReq) (l : ReadLine) : Prop where
  buf : t.buf = s.buf.write (lineBytes (s.lineBase o r) l)
  lines : ∃ x ∈ t.stg.lines, x.op = o.id ∧ x.ten = r.ten ∧ x.seq = r.seq ∧ x.line = r.line
  reads : t.stg.reads = (s.advanceRead r).stg.reads
  regs : t.regs = s.regs
  cells : t.cells = s.cells
  ops : t.ops = s.ops
  ports : t.ports = s.ports
  conf : t.conf = s.conf

section
variable {s : State} {q tag : Nat} {r : ReadReq} {o : Op} (hfind : s.stg.reads.find? (fun r => r.q == q && r.tag == tag) = some r)
  (hop : s.op? r.op = some o)
include hfind hop

theorem State.takeLine_eq (l : ReadLine) : s.takeLine q tag l =
    ((s.eccEvent q (some o.d.tenant) r.line l.ecc.toNat).advanceRead r).landLine o r l := by
  rw [State.takeLine, hfind]
  dsimp only
  rw [hop]
  rfl

theorem State.takeLine_lands (hk : o.k ≠ .restore) (l : ReadLine) : s.Lands (s.takeLine q tag l) o r l := by
  have hecc := State.SameLines.eccEvent s q (some o.d.tenant) r.line l.ecc.toNat
  rw [State.takeLine_eq hfind hop]
  set u := s.eccEvent q (some o.d.tenant) r.line l.ecc.toNat
  have hslot : (u.advanceRead r).freeSlot o.id r.ten = s.freeSlot o.id r.ten := by
    unfold State.freeSlot State.advanceRead
    rw [hecc.stg]
  have hlands : s.Lands { (u.advanceRead r) with
      buf := (u.advanceRead r).buf.write (lineBytes ((u.advanceRead r).lineBase o r) l)
      stg := { (u.advanceRead r).stg with lines := (u.advanceRead r).stg.lines ++ [⟨o.id, r.ten, r.seq, opCluster o.d,
        refStage (o.d.word r.ten), (u.advanceRead r).freeSlot o.id r.ten, r.line, r.q⟩] } } o r l := by
    refine ⟨?_, ⟨_, List.mem_concat_self, rfl, rfl, rfl, rfl⟩, ?_, hecc.regs, hecc.cells, hecc.ops, hecc.ports, hecc.conf⟩
    · rw [State.lineBase, hslot]
      exact congrArg (fun b => Buffer.write b _) hecc.buf
    · exact congrArg (fun g => (State.advanceRead { s with stg := g } r).stg.reads) hecc.stg
  rw [State.landLine, if_neg hk]
  dsimp only
  split
  · obtain ⟨hbuf, hlines, hreads, hregs, hcells, hops, hports, hconf⟩ := hlands
    exact ⟨hbuf, hlines, hreads, hregs, hcells, hops, hports, hconf⟩
  · exact hlands

/-- A line of an image is read into it (R365). -/
theorem State.takeLine_restore (hk : o.k = .restore) (l : ReadLine) :
    (s.takeLine q tag l).buf = s.buf ∧ (s.takeLine q tag l).regs = s.regs ∧
      ∃ p, (s.takeLine q tag l).op? o.id = some p ∧ (r.line - refAddr o.d.w5 / 64, l.data) ∈ p.img := by
  have hecc := State.SameLines.eccEvent s q (some o.d.tenant) r.line l.ecc.toNat
  obtain ⟨-, hid⟩ := State.op?_mem hop
  rw [State.takeLine_eq hfind hop, State.landLine, if_pos hk]
  have hpres : ((s.eccEvent q (some o.d.tenant) r.line l.ecc.toNat).advanceRead r).op? o.id = some o := by
    rw [hid, ← hop]
    exact congrArg (List.find? _) hecc.ops
  exact ⟨hecc.buf, hecc.regs, _, State.op?_mapOp _ (fun _ => rfl) hpres, List.mem_append_left _ List.mem_concat_self⟩

end

/-! ### The command -/

theorem State.requestImage_op? (s : State) (id k : Nat) : (s.requestImage id).op? k = s.op? k := by
  unfold State.requestImage
  split
  · rfl
  · dsimp only
    split <;> rfl

section
variable {s : State} {q tag : Nat} {ls : List ReadLine} (hbuilt : portBuilt s.conf q = true) (hlo : 1 ≤ q) (hhi : q ≤ 16)
  (hup : s.up q = true) (hls : ls ≠ [])
include hbuilt hlo hhi hup hls

/-- The port is one that takes memory lines, and lines have come. -/
theorem State.linesArrive : ¬((!portBuilt s.conf q) = true ∨ q = 0 ∨ 16 < q) ∧ ¬(s.up q = false ∨ ls = []) := by
  refine ⟨?_, by simp [hup, hls]⟩
  rw [hbuilt, Bool.not_true]
  rintro (h | h | h)
  · cases h
  · omega
  · omega

/-- Lines that nothing asked for are an overrun (R218). -/
theorem State.exec_lines_unasked (hnone : s.stg.reads.find? (fun r => r.q == q && r.tag == tag) = none) :
    exec (.memoryReadLines q tag ls) s = .next (s.overrun q) := by
  obtain ⟨hport, hwork⟩ := State.linesArrive hbuilt hlo hhi hup hls
  show execMemoryReadLines q tag ls s = _
  rw [execMemoryReadLines, if_neg hport, if_neg hwork, hnone]

variable {r : ReadReq} {o : Op} (hfind : s.stg.reads.find? (fun r => r.q == q && r.tag == tag) = some r)
  (hleft : ls.length ≤ r.left) (hop : s.op? r.op = some o)
include hfind hleft hop

/-- Lines of a request land one after another. -/
theorem State.exec_lines (hk : o.k ≠ .restore) :
    exec (.memoryReadLines q tag ls) s = .next (ls.foldl (fun s l => s.takeLine q tag l) s) := by
  obtain ⟨hport, hwork⟩ := State.linesArrive hbuilt hlo hhi hup hls
  show execMemoryReadLines q tag ls s = _
  rw [execMemoryReadLines, if_neg hport, if_neg hwork, hfind]
  dsimp only
  rw [if_neg (Nat.not_lt.mpr hleft), hop, if_neg (by simpa using hk)]

/-- Lines of an image are taken, and more of it is asked for. -/
theorem State.exec_lines_restore (hk : o.k = .restore) :
    exec (.memoryReadLines q tag ls) s = .next ((ls.foldl (fun s l => s.takeLine q tag l) s).requestImage r.op) := by
  obtain ⟨hport, hwork⟩ := State.linesArrive hbuilt hlo hhi hup hls
  show execMemoryReadLines q tag ls s = _
  rw [execMemoryReadLines, if_neg hport, if_neg hwork, hfind]
  dsimp only
  rw [if_neg (Nat.not_lt.mpr hleft), hop, if_pos (by simpa using hk)]

end

/-- Lines after the first meet the request and the op where the first has left them. -/
theorem State.exec_lines_cons {s : State} {q tag : Nat} {l : ReadLine} {ls : List ReadLine} {r : ReadReq} {o : Op}
    (hbuilt : portBuilt s.conf q = true) (hlo : 1 ≤ q) (hhi : q ≤ 16) (hup : s.up q = true) (hls : ls ≠ [])
    (hfind : s.stg.reads.find? (fun r => r.q == q && r.tag == tag) = some r) (hleft : ls.length < r.left)
    (hop : s.op? r.op = some o) (hk : o.k ≠ .restore) :
    exec (.memoryReadLines q tag (l :: ls)) s = exec (.memoryReadLines q tag ls) (s.takeLine q tag l) := by
  have hlands := State.takeLine_lands hfind hop hk l
  have hup' : (s.takeLine q tag l).up q = true := by
    rw [State.up, State.port, hlands.ports]
    exact hup
  have hop' : (s.takeLine q tag l).op? r.op = some o := by
    rw [State.op?, hlands.ops]
    exact hop
  have hpos := List.length_pos_of_ne_nil hls
  have hfind' := State.find?_advanceRead hfind (by omega)
  rw [← hlands.reads] at hfind'
  rw [State.exec_lines hbuilt hlo hhi hup (List.cons_ne_nil l ls) hfind hleft hop hk,
    State.exec_lines (hlands.conf ▸ hbuilt) hlo hhi hup' hls hfind' (Nat.le_sub_one_of_lt hleft) hop' hk, List.foldl_cons]

/-- Settles O49: one line lands as `State.Lands` says, the lines after it one by one (`exec_lines_cons`), and lines without a request
quarantine the port. -/
theorem memoryLinesLandWhereTheyWereAskedFor : Obligations.Memory_lines_land_where_they_were_asked_for := by
  intro q tag l s hbuilt hlo hhi hup
  have hone : [l] ≠ [] := List.cons_ne_nil l []
  refine ⟨fun r o hfind hleft hop => ⟨fun hk => ?_, fun hk => ?_, fun hk x ls t hlen ht => ?_⟩, fun hnone => ?_⟩
  · obtain ⟨hbuf, hlines, -, hregs, hcells, hops, -, -⟩ := State.takeLine_lands hfind hop hk l
    refine ⟨_, State.exec_lines hbuilt hlo hhi hup hone hfind hleft hop hk, fun i hi => ?_, fun a ha => ?_, hlines, hregs, hcells, hops⟩
    · rw [List.foldl_cons, List.foldl_nil, hbuf]
      exact read_write_lineBytes (s.lineBase_even o r) hi
    · rw [List.foldl_cons, List.foldl_nil, hbuf]
      exact byte_write_lineBytes_of_outside ha
  · obtain ⟨hbuf, hregs, p, hp, himg⟩ := State.takeLine_restore hfind hop hk l
    have hrequest := State.SameStarts.requestImage (keep := True) (s.takeLine q tag l) r.op
    exact ⟨_, p, State.exec_lines_restore hbuilt hlo hhi hup hone hfind hleft hop hk, (State.requestImage_op? _ _ _).trans hp, himg,
      hrequest.buf.trans hbuf, (hrequest.regs trivial).trans hregs⟩
  · have hnext : s.takeLine q tag l = t :=
      Host.Outcome.next.inj ((State.exec_lines hbuilt hlo hhi hup hone hfind hleft hop hk).symm.trans ht)
    rw [← hnext]
    exact State.exec_lines_cons hbuilt hlo hhi hup (List.cons_ne_nil x ls) hfind hlen hop hk
  · exact ⟨_, State.exec_lines_unasked hbuilt hlo hhi hup hone hnone, State.port_quarantinePort _ hlo hhi true⟩

end Sys2Proof.Machine
end

section
/-! What frames that are sent, ops that end and ranges that are aborted leave unchanged (R120, R202, R229, R239, R295, R322). -/

namespace Sys2Proof.Machine

/-! ### Ports that are closed (R401, R402) -/

/-- A port in state `st`, with its live line in at `live`, that is clamped: nothing is in flight, no credit is left, and every frame that
waits would cost one. -/
structure PortSt.Closed (p : PortSt) (st : Nat) (live : Bool) : Prop where
  st : p.st = st
  liveO : p.liveO = false
  liveI : p.liveI = live
  fly : p.fly = []
  cr : p.cr = 0
  wait : ∀ x ∈ p.wait, 0 < x.1.n

/-- A closed port has no credit for a frame. -/
theorem State.not_closed_of_fits {s : State} {q : Nat} {fl : Flight} {f : Frame} (hfit : s.fitsPort q fl f = true) (hn : 0 < fl.n) (st : Nat)
    (live : Bool) : ¬(s.port q).Closed st live := by
  intro h
  obtain ⟨hcr, -⟩ : fl.n ≤ (s.port q).cr ∧ _ := by simpa only [State.fitsPort, Bool.and_eq_true, decide_eq_true_eq] using hfit
  rw [h.cr] at hcr
  omega

/-- Every port that is closed in `s` is closed in `t`, in the same state. -/
def State.KeepsClosed (s t : State) : Prop := ∀ q st live, (s.port q).Closed st live → (t.port q).Closed st live

namespace State.KeepsClosed

variable {s t u : State}

theorem refl (s : State) : s.KeepsClosed s := fun _ _ _ h => h

theorem trans (h : s.KeepsClosed t) (g : t.KeepsClosed u) : s.KeepsClosed u := fun q st live hq => g q st live (h q st live hq)

theorem foldl {α : Type} {f : State → α → State} (hf : ∀ (s : State) a, s.KeepsClosed (f s a)) (l : List α) (s : State) :
    s.KeepsClosed (l.foldl f s) :=
  List.foldlRecOn l f (refl s) (fun t ht a _ => ht.trans (hf t a))

theorem of_ports (h : t.ports = s.ports) : s.KeepsClosed t := fun q st live hq => by rwa [State.port, h]

/-- A port changes; if it is closed, it stays so. -/
theorem setPort {q : Nat} {p : PortSt} (h : ∀ st live, (s.port q).Closed st live → p.Closed st live) : s.KeepsClosed (s.setPort q p) := by
  intro x st live hx
  rw [State.port_setPort]
  split
  · next e => exact h st live (e ▸ hx)
  · exact hx

/-- Frames that wait at a port leave the queue there. -/
theorem filterWait (s : State) (q : Nat) (keep : Flight × Frame → Bool) :
    s.KeepsClosed (s.setPort q { s.port q with wait := (s.port q).wait.filter keep }) :=
  setPort fun _ _ h => ⟨h.st, h.liveO, h.liveI, h.fly, h.cr, fun x hx => h.wait x (List.mem_of_mem_filter hx)⟩

end State.KeepsClosed

/-! ### The epoch floors (R236) -/

/-- The object that holds a tenant's epoch floor. -/
abbrev floorKey (tn : Nat) : Nat := key (0x3100 + tn) 1

theorem defaultSource_floorKey {tn : Nat} (h : tn < 16) : defaultSource (floorKey tn) = none := by
  unfold defaultSource floorKey key
  rw [if_neg (by omega), if_neg (by omega), if_neg (by omega)]

/-! ### The relation -/

/-- `t` follows `s` by frames sent, ops that end and ranges that are aborted: the registers, the regions, the closed ports and the epoch
floors stand, and the ops are of `s`, with their numbers, kinds and descriptors, and stopped as before. -/
structure State.Unwinds (s t : State) : Prop where
  regs : t.regs = s.regs
  regions : t.regions = s.regions
  closed : s.KeepsClosed t
  floor : ∀ tn < 16, t.obj (floorKey tn) = s.obj (floorKey tn)
  ops : ∀ p ∈ t.ops, ∃ q ∈ s.ops, q.id = p.id ∧ q.k = p.k ∧ q.d = p.d ∧ q.stopped = p.stopped

namespace State.Unwinds

variable {s t u : State}

/-- What none of these reads may change. -/
theorem of_eq (hregs : t.regs = s.regs) (hregions : t.regions = s.regions) (hports : t.ports = s.ports) (hdict : t.dict = s.dict)
    (hconf : t.conf = s.conf) (hspeed : t.speed = s.speed) (hops : t.ops = s.ops) : s.Unwinds t :=
  ⟨hregs, hregions, .of_ports hports, fun _ _ => State.obj_congr hdict hconf hspeed, fun p hp => ⟨p, hops ▸ hp, rfl, rfl, rfl, rfl⟩⟩

theorem refl (s : State) : s.Unwinds s := of_eq rfl rfl rfl rfl rfl rfl rfl

theorem trans (h : s.Unwinds t) (g : t.Unwinds u) : s.Unwinds u := by
  refine ⟨g.regs.trans h.regs, g.regions.trans h.regions, h.closed.trans g.closed,
    fun tn htn => (g.floor tn htn).trans (h.floor tn htn), fun p hp => ?_⟩
  obtain ⟨q, hq, hqid, hqk, hqd, hqs⟩ := g.ops p hp
  obtain ⟨r, hr, hrid, hrk, hrd, hrs⟩ := h.ops q hq
  exact ⟨r, hr, hrid.trans hqid, hrk.trans hqk, hrd.trans hqd, hrs.trans hqs⟩

theorem foldl {α : Type} {f : State → α → State} (hf : ∀ (s : State) a, s.Unwinds (f s a)) (l : List α) (s : State) :
    s.Unwinds (l.foldl f s) :=
  List.foldlRecOn l f (refl s) (fun t ht a _ => ht.trans (hf t a))

/-- Changes of ops that leave their numbers, kinds and descriptors, and whether they have stopped. -/
theorem mapOps (s : State) {f : Op → Op} (hf : ∀ p, (f p).id = p.id ∧ (f p).k = p.k ∧ (f p).d = p.d ∧ (f p).stopped = p.stopped) :
    s.Unwinds { s with ops := s.ops.map f } := by
  refine ⟨rfl, rfl, .of_ports rfl, fun _ _ => rfl, fun p hp => ?_⟩
  obtain ⟨q, hq, rfl⟩ := List.mem_map.mp hp
  obtain ⟨hid, hk, hd, hstop⟩ := hf q
  exact ⟨q, hq, hid.symm, hk.symm, hd.symm, hstop.symm⟩

theorem mapOp (s : State) (id : Nat) {f : Op → Op}
    (hf : ∀ p, (f p).id = p.id ∧ (f p).k = p.k ∧ (f p).d = p.d ∧ (f p).stopped = p.stopped) : s.Unwinds (s.mapOp id f) :=
  mapOps s (fun p => by split <;> [exact hf p; exact ⟨rfl, rfl, rfl, rfl⟩])

theorem dropOp (s : State) (id : Nat) : s.Unwinds (s.dropOp id) :=
  ⟨rfl, rfl, .of_ports rfl, fun _ _ => rfl, fun p hp => ⟨p, List.mem_of_mem_filter hp, rfl, rfl, rfl, rfl⟩⟩

theorem setPort {q : Nat} {p : PortSt} (h : s.KeepsClosed (s.setPort q p)) : s.Unwinds (s.setPort q p) :=
  ⟨rfl, rfl, h, fun _ _ => rfl, fun p hp => ⟨p, hp, rfl, rfl, rfl, rfl⟩⟩

theorem emitAll (s : State) (os : List Out) : s.Unwinds (s.emitAll os) := of_eq rfl rfl rfl rfl rfl rfl rfl

theorem setGroup (s : State) (g : Nat) (v : GroupSt) : s.Unwinds (s.setGroup g v) := of_eq rfl rfl rfl rfl rfl rfl rfl

theorem dropJobs (s : State) (f : Job → Bool) : s.Unwinds (s.dropJobs f) := of_eq rfl rfl rfl rfl rfl rfl rfl

theorem respond (s : State) (r : Resp) : s.Unwinds (s.respond r) :=
  of_eq (by simp) (by simp) (by simp) (by simp) (by simp) (by simp) (by simp)

theorem setObj (s : State) {k : Nat} (v : Nat) (hk : ∀ tn < 16, floorKey tn ≠ k) : s.Unwinds (s.setObj k v) :=
  ⟨by simp, by simp, .of_ports (by simp), fun tn htn => by rw [State.obj_setObj (defaultSource_floorKey htn), if_neg (hk tn htn)],
    fun p hp => ⟨p, s.setObj_ops k v ▸ hp, rfl, rfl, rfl, rfl⟩⟩

theorem bump (s : State) {k : Nat} (n : Nat) (hk : ∀ tn < 16, floorKey tn ≠ k) : s.Unwinds (s.bump k n) := by
  unfold State.bump
  split
  · exact refl s
  · exact setObj s _ hk

theorem event (s : State) (e : Event) : s.Unwinds (s.event e) :=
  ⟨by simp, by simp, .of_ports (by simp), fun tn htn => State.obj_event (by unfold floorKey key; omega) e,
    fun p hp => ⟨p, s.event_ops e ▸ hp, rfl, rfl, rfl, rfl⟩⟩

/-! Frames (R215, R295). -/

/-- A frame leaves on a port that is not closed. -/
theorem launch {q : Nat} (hopen : ∀ st live, ¬(s.port q).Closed st live) (fl : Flight) (f : Frame) : s.Unwinds (s.launch q fl f) := by
  have hspent (p : PortSt) : s.Unwinds (s.setPort q p) := setPort (.setPort fun st live h => absurd h (hopen st live))
  have hpeer (u : State) : u.Unwinds (match fl.peer with
      | none => u
      | some x => u.setGroup x.1 ((u.group x.1).use x.2 fl.n)) := by
    split
    · exact refl u
    · exact setGroup _ _ _
  unfold State.launch
  extract_lets p spent s1 s2
  have hs2 : s.Unwinds s2 := ((hspent _).trans (emitAll _ [.frame q f])).trans (hpeer s1)
  split
  · exact hs2
  · exact hs2.trans (mapOp _ _ (f := fun o => { o with wout := o.wout + fl.n }) (fun _ => ⟨rfl, rfl, rfl, rfl⟩))

theorem sendOn (s : State) (q : Nat) (op tenant : Option Nat) (at' : Option (Nat × Nat)) (f : Frame) :
    s.Unwinds (s.sendOn q op tenant at' f) := by
  have hflits : 0 < frameFlits f := Nat.lt_add_right _ Nat.zero_lt_one
  unfold State.sendOn
  dsimp only
  split
  · next hfit => exact launch (State.not_closed_of_fits (Bool.and_eq_true_iff.mp hfit).2 hflits) _ _
  · refine setPort (.setPort fun _ _ h => ⟨h.st, h.liveO, h.liveI, h.fly, h.cr, fun x hx => ?_⟩)
    rcases List.mem_append.mp hx with hx | hx
    · exact h.wait x hx
    · rw [List.mem_singleton.mp hx]
      exact hflits

theorem sendFrame (s : State) (g pp : Nat) (op tenant : Option Nat) (f : Frame) : s.Unwinds (s.sendFrame g pp op tenant f) := by
  unfold State.sendFrame
  dsimp only
  split
  · exact of_eq rfl rfl rfl rfl rfl rfl rfl
  · split
    · exact refl s
    · exact sendOn _ _ _ _ _ _

/-! The end of an op (R202, R219, R260). -/

theorem dropStaging (s : State) (id : Nat) : s.Unwinds (s.dropStaging id) := by
  have hlines (g : Staging) : s.Unwinds { s with stg := g } := of_eq rfl rfl rfl rfl rfl rfl rfl
  exact (hlines _).trans (foldl (fun _ _ => emitAll _ _) _ _)

theorem cutChains (s : State) (o : Op) : s.Unwinds (s.cutChains o) := by
  have hchain (u : State) (c : ChainId) (v : ChainSt) : u.Unwinds (u.setChain c v) := of_eq rfl rfl rfl rfl rfl rfl rfl
  have hrelink (u : State) (c : ChainId) : u.Unwinds (u.relink o.id c) := (hchain u c _).trans (mapOps _ (fun _ => ⟨rfl, rfl, rfl, rfl⟩))
  unfold State.cutChains
  split
  · exact foldl (fun u c => (hchain u c _).trans (hrelink _ _)) _ s
  · exact refl s

theorem tellReroll (s : State) (o : Op) (status : Nat) : s.Unwinds (s.tellReroll o status) := by
  unfold State.tellReroll
  split
  · exact refl s
  · split
    · exact mapOp _ _ (fun _ => ⟨rfl, rfl, rfl, rfl⟩)
    · exact refl s

theorem released (s : State) (o : Op) (status : Nat) : s.Unwinds (s.released o status) :=
  (((dropOp s o.id).trans (dropStaging _ _)).trans (cutChains _ _)).trans (tellReroll _ _ _)

theorem counted (s : State) (o : Op) (status : Nat) : s.Unwinds ((s.consumed o status).countBad o status) := by
  have hconsumed : s.Unwinds (s.consumed o status) := by
    unfold State.consumed
    split
    · exact event _ _
    · exact refl s
  unfold State.countBad
  split
  · exact hconsumed.trans (bump _ _ (fun tn htn => by unfold floorKey key; omega))
  · exact hconsumed

theorem finishOp (s : State) (o : Op) (status : Nat) : s.Unwinds (s.finishOp o status) := by
  rw [State.finishOp_eq]
  split_ifs
  · exact released _ _ _
  · exact (released _ _ _).trans (counted _ _ _)
  · exact ((released _ _ _).trans (counted _ _ _)).trans (respond _ _)

theorem unbindTiles (s : State) (tn r : Nat) : s.Unwinds (s.unbindTiles tn r) := by
  unfold State.unbindTiles
  refine foldl (fun s e => ?_) _ s
  split
  · exact of_eq rfl rfl rfl rfl rfl rfl rfl
  · exact refl s

/-! Ranges that are aborted (R322). -/

theorem endRanges (s : State) (f : Range → Bool) : s.Unwinds (s.endRanges f) := by
  have hranges (l : List Range) : s.Unwinds { s with ranges := l } := of_eq rfl rfl rfl rfl rfl rfl rfl
  exact (hranges _).trans (foldl (fun u r => setObj u _ (fun tn htn => by unfold floorKey key; omega)) _ _)

theorem abortRange (s : State) (r : Range) (reason : Nat) : s.Unwinds (s.abortRange r reason) :=
  (foldl (fun _ _ => sendFrame _ _ _ _ _ _) _ s).trans (endRanges _ _)

end State.Unwinds

end Sys2Proof.Machine
end

section
/-! A squash: what has stopped and what is closed after it, and what stays (R229, R230). -/

namespace Sys2Proof.Machine

/-! ### What a squash does to the group ops of its region (R229, R317) -/

namespace State.Unwinds

theorem requestRun (s : State) (o : Op) (ten : Nat) : s.Unwinds (s.requestRun o ten) := by
  have hasked (os : List Out) (g : Staging) : s.Unwinds { s with out := os, stg := g } := of_eq rfl rfl rfl rfl rfl rfl rfl
  unfold State.requestRun
  dsimp only
  split
  · exact refl s
  · split
    · exact refl s
    · exact (hasked _ _).trans (mapOp _ _ (fun _ => ⟨rfl, rfl, rfl, rfl⟩))

theorem requestAll (s : State) (id ten fuel : Nat) : s.Unwinds (s.requestAll id ten fuel) := by
  induction fuel generalizing s with
  | zero => exact refl s
  | succ k ih =>
    unfold State.requestAll
    split
    · exact refl s
    · split
      · exact (requestRun _ _ _).trans (ih _)
      · exact refl s

theorem rereads (s : State) (id frame : Nat) : s.Unwinds (s.rereads id frame) := by
  unfold State.rereads
  split
  · exact refl s
  · dsimp only
    split
    · refine trans ((dropStaging s id).trans ?_) (requestAll _ _ _ _)
      exact mapOp _ _ (fun _ => ⟨rfl, rfl, rfl, rfl⟩)
    · exact refl s

theorem endOp (s : State) (id : Nat) : s.Unwinds (s.endOp id) := mapOp _ _ (fun _ => ⟨rfl, rfl, rfl, rfl⟩)

theorem takeBack (s : State) (o : Op) (g n : Nat) (k : JobK) : s.Unwinds (s.takeBack o g n k) := by
  have hjob (op total : Nat) : s.Unwinds (s.addJob op k g o.d.dest total) := of_eq rfl rfl rfl rfl rfl rfl rfl
  exact (hjob _ _).trans (rereads _ _ _)

theorem squashOne (s : State) (o : Op) : s.Unwinds (s.squashOne o) := by
  unfold State.squashOne
  split
  · exact endOp _ _
  · split_ifs
    · exact dropOp _ _
    · exact refl s
    · refine trans ?_ (takeBack _ _ _ _ _)
      exact mapOp _ _ (fun _ => ⟨rfl, rfl, rfl, rfl⟩)
    · split
      · exact endOp _ _
      · split_ifs
        · exact refl s
        · exact (dropJobs _ _).trans (endOp _ _)
        · exact of_eq rfl rfl rfl rfl rfl rfl rfl

theorem squashSends (s : State) (tn r : Nat) : s.Unwinds (s.squashSends tn r) := by
  unfold State.squashSends
  refine foldl (fun s o => ?_) _ s
  split
  case h_4 => exact (foldl (fun _ _ => abortRange _ _ _) _ s).trans (endOp _ _)
  case h_5 | h_6 => exact (dropJobs _ _).trans (endOp _ _)
  case h_7 => exact refl s
  all_goals exact squashOne _ _

end State.Unwinds

/-! ### A region that is squashed (R229) -/

/-- A region takes no more ops and is squashed, and those that are left of it have stopped, but for completed contributions and rows that are
still to be cleared (R154, R229). -/
structure State.Squashed (s : State) (tn r : Nat) : Prop where
  regions : ∀ g ∈ s.regions, g.tenant = tn → g.num = r → g.closing = true ∧ g.squash = true
  ops : ∀ o ∈ s.ops, inRegion tn r o = true → o.k ≠ .tagged → o.k ≠ .clear → o.stopped = true

namespace State.Squashed

variable {s t : State} {tn r : Nat}

theorem of_unwinds (h : s.Squashed tn r) (g : s.Unwinds t) : t.Squashed tn r := by
  refine ⟨fun x hx => h.regions x (g.regions ▸ hx), fun o ho hin htagged hclear => ?_⟩
  obtain ⟨p, hp, -, hk, hd, hstop⟩ := g.ops o ho
  have hin' : inRegion tn r p = true := by rwa [inRegion, hd]
  exact hstop ▸ h.ops p hp hin' (hk ▸ htagged) (hk ▸ hclear)

theorem foldl {α : Type} {f : State → α → State} (hf : ∀ (s : State) a, s.Squashed tn r → (f s a).Squashed tn r) (l : List α)
    (h : s.Squashed tn r) : (l.foldl f s).Squashed tn r :=
  List.foldlRecOn l f h (fun t ht a _ => hf t a ht)

/-- A region that closes leaves the others as they are. -/
theorem closeRegion (h : s.Squashed tn r) (g : Region) : (s.closeRegion g).Squashed tn r := by
  have hunbound := h.of_unwinds (.unbindTiles s g.tenant g.num)
  have hgone (keep : Region → Bool) : State.Squashed { s.unbindTiles g.tenant g.num with
      regions := (s.unbindTiles g.tenant g.num).regions.filter keep } tn r :=
    ⟨fun x hx => hunbound.regions x (List.mem_of_mem_filter hx), hunbound.ops⟩
  unfold State.closeRegion
  split
  · dsimp only
    split
    · exact hgone _
    · exact (hgone _).of_unwinds (.finishOp _ _ _)
  · exact h

theorem closeRegions (h : s.Squashed tn r) : s.closeRegions.Squashed tn r := foldl (fun _ _ ht => ht.closeRegion _) _ h

end State.Squashed

theorem State.closeRegion_regs (s : State) (g : Region) : (s.closeRegion g).regs = s.regs := by
  have hunbound := (State.Unwinds.unbindTiles s g.tenant g.num).regs
  unfold State.closeRegion
  split
  · dsimp only
    split
    · exact hunbound
    · exact (State.Unwinds.finishOp _ _ _).regs.trans hunbound
  · rfl

theorem State.closeRegions_regs (s : State) : s.closeRegions.regs = s.regs :=
  List.foldlRecOn _ _ (motive := fun t : State => t.regs = s.regs) rfl (fun t ht g _ => (t.closeRegion_regs g).trans ht)

/-- A squash takes effect on its region at once. -/
theorem State.squashRegion_squashed (s : State) (tn r : Nat) : (s.squashRegion tn r).Squashed tn r := by
  unfold State.squashRegion
  extract_lets ids undone s0 s1
  constructor
  case regions =>
    intro g hg htn hr
    obtain ⟨x, -, rfl⟩ := List.mem_map.mp hg
    split at htn
    · next hx => rw [if_pos hx]; exact ⟨rfl, rfl⟩
    · next hx => rw [if_neg hx] at hr; simp [htn, hr] at hx
  case ops =>
    intro o ho hin htagged hclear
    have hops : s0.ops = s.ops := List.foldlRecOn _ _ (motive := fun t : State => t.ops = s.ops) rfl (fun _ ht _ _ => ht)
    obtain ⟨p, hp, rfl⟩ := List.mem_map.mp (show o ∈ s0.ops.map (fun o => if ids.elem o.id then stopOp 0x02 o else o) from ho)
    split
    · rfl
    · next hnot =>
      rw [if_neg hnot] at hin htagged hclear
      refine absurd ?_ hnot
      rw [List.elem_eq_mem, decide_eq_true_eq]
      refine List.mem_map_of_mem (List.mem_filter.mpr ⟨hops ▸ hp, ?_⟩)
      simp only [inRegion, Bool.and_eq_true] at hin
      simp [hin, htagged, hclear]

theorem State.squashRegion_regs (s : State) (tn r : Nat) : (s.squashRegion tn r).regs = s.regs :=
  List.foldlRecOn _ State.putQuarter (motive := fun t : State => t.regs = s.regs) rfl (fun _ ht _ _ => ht)

/-- Settles O29: the region is squashed (`squashRegion_squashed`), and what its group ops send and what ends at once undoes none of it. -/
theorem regionExpiresByItsTtl : Obligations.Region_expires_by_its_ttl := by
  intro tn r g s hregion hopen httl htime
  have hexec : exec (.regionTtlExpiry tn r) s =
      .next ((s.event ⟨0x041, 0, 0x20, 0, none, some tn, at_ r 34⟩).squashNow tn r) := by
    show execRegionTtlExpiry tn r s = _
    rw [execRegionTtlExpiry, hregion]
    exact if_pos ⟨hopen, httl, htime⟩
  set recorded := s.event ⟨0x041, 0, 0x20, 0, none, some tn, at_ r 34⟩ with hrecorded
  have hsends := State.Unwinds.squashSends (recorded.squashRegion tn r) tn r
  have hsquashed := ((recorded.squashRegion_squashed tn r).of_unwinds hsends).closeRegions
  refine ⟨_, hexec, hsquashed.regions, hsquashed.ops, ?_⟩
  calc (recorded.squashNow tn r).regs
      = ((recorded.squashRegion tn r).squashSends tn r).regs := State.closeRegions_regs _
    _ = (recorded.squashRegion tn r).regs := hsends.regs
    _ = recorded.regs := State.squashRegion_regs _ _ _
    _ = s.regs := s.event_regs _

end Sys2Proof.Machine
end

section
/-! GATE, COMMIT, SQUASH and the epoch FENCE: what their acceptance does at once (R221, R228, R229, R236). -/

namespace Sys2Proof.Machine

/-! ### A descriptor that is accepted alone -/

/-- A descriptor that stands alone, with nothing wrong and a window that will do, is accepted as a group of one (R118, R150, R204). -/
theorem exec_alone {c : Instr} {d : Desc} {k : OpK} {p : Plan} {s : State} (hc : Safety.descOf c = some d) (hwf : c.wf = true)
    (hk : kindOf d = some k) (harr : Safety.canArrive s = true) (hheld : s.adm.held = []) (halone : Safety.alone d = true)
    (hcheck : (Safety.spend s).check ⟨k, d, none⟩ = none) (hplan : (Safety.spend s).plan k d false none none 0 = some p)
    (hwin : (Safety.spend s).windowOk d p.window = true) : exec c s = .next ((Safety.spend s).acceptGroup k d 1 p []) := by
  simp only [Safety.alone, Bool.and_eq_true, Bool.not_eq_true', beq_iff_eq] at halone
  obtain ⟨⟨haltf, htakes⟩, hcomp⟩ := halone
  have hstart : (Safety.spend s).startDesc d = (Safety.spend s).admitGroup d none [] := by
    simp [State.startDesc, State.early_of_check hcheck, haltf, htakes, hcomp]
  have hreason : (Safety.spend s).leadReason k d none = none := by
    rw [State.leadReason_eq haltf, State.formReason, hcheck]
    rfl
  have hchoice : (Safety.spend s).chooseForm k d none 0 = (d, some p) := by simp only [State.chooseForm, hplan]
  rw [exec_descriptor_first hc hwf harr hheld, hstart, State.admitGroup_of_chosen hk hreason hchoice hwin]
  rfl

/-- The plan of an op without a reroll enters that op alone (R283). -/
theorem State.plan_of_not_rerolled {s : State} {k : OpK} {d : Desc} {form : Bool} {rolled : Option Nat} {rd : Option Desc} {b : Nat}
    {p : Plan} (h : s.plan k d form rolled rd b = some p) (hreroll : s.rerolled k d = false) :
    ∃ price, p.op = s.pricedOp (s.newOp k d form rolled rd) price (s.now + p.window) ∧ p.after = s.enterOp p.op price := by
  unfold State.plan at h
  dsimp only at h
  rw [hreroll] at h
  split at h
  · cases h
  · obtain ⟨price, -, hp⟩ := Option.bind_eq_some_iff.mp h
    obtain rfl := Option.some.inj hp
    exact ⟨price, rfl, rfl⟩

/-! ### The entry of an op that acts on its region or on its tenant's epochs -/

/-- The kinds of op whose acceptance acts on a region or an epoch floor (R221, R228, R229, R236). -/
def OpK.acts (k : OpK) : Bool := k == .gate || k == .commit || k == .squash || k == .fenceEpoch

theorem OpK.acts_iff {k : OpK} : k.acts = true ↔ k = .gate ∨ k = .commit ∨ k = .squash ∨ k = .fenceEpoch := by
  simp [OpK.acts, or_assoc]

/-- Changes of tiles, one after another, change nothing else. -/
theorem State.foldl_tiles_frame {α : Type} {f : State → α → State} (hf : ∀ (s : State) a, { f s a with tiles := s.tiles } = s)
    (l : List α) (s : State) : { l.foldl f s with tiles := s.tiles } = s :=
  List.foldlRecOn l f (motive := fun t : State => { t with tiles := s.tiles } = s) rfl
    (fun t ht a _ => (congrArg (fun u : State => { u with tiles := s.tiles }) (hf t a)).trans ht)

theorem State.mapTile_frame (s : State) (t : TileRef) (f : TileQ → TileQ) : { s.mapTile t f with tiles := s.tiles } = s :=
  State.foldl_tiles_frame (f := fun s k => s.setTile k (f (s.tileQ k))) (fun _ _ => rfl) t.quarters s

theorem State.joinRegion_frame (s : State) (o : Op) : { s.joinRegion o with tiles := s.tiles, regions := s.regions } = s := by
  unfold State.joinRegion
  split
  · exact congrArg (fun u : State => { u with regions := s.regions }) (State.foldl_tiles_frame (fun u _ => u.mapTile_frame _ _) _ _)
  · rfl

/-- The planner's tile state is all that such an op can change there: it presents and writes nothing (R40, R93). -/
theorem State.planTiles_frame {k : OpK} (hk : k.acts = true) (s : State) (d : Desc) (rd : Option Desc) :
    { s.planTiles k d rd with tiles := s.tiles } = s := by
  have hterms : { (s.termAdds k d rd).foldl (fun s a => s.addTerms a) s with tiles := s.tiles } = s :=
    State.foldl_tiles_frame (fun u _ => u.mapTile_frame _ _) _ s
  rcases OpK.acts_iff.mp hk with rfl | rfl | rfl | rfl <;> exact hterms

/-- Such an op is entered with a state for its own acceptance to act on, which agrees with the state before it beside what every op may
change there: the work port, regions and tiles, the op table, and the plan of the power stage with its messages. -/
theorem State.enterOp_acts {o : Op} (hk : o.k.acts = true) (s : State) (p : Price) : ∃ u : State, s.enterOp o p = u.acceptKind o ∧
    { u with adm := s.adm, regions := s.regions, tiles := s.tiles, ops := s.ops, pwr := s.pwr, out := s.out } = s := by
  have hranges (v : State) : v.planRanges o = v := by
    rcases OpK.acts_iff.mp hk with h | h | h | h <;> simp [State.planRanges, endsRanges, h]
  have hsets (v : State) : v.planSets o = v := by
    rcases OpK.acts_iff.mp hk with h | h | h | h <;> simp [State.planSets, OpK.loads, OpK.tokens, h]
  unfold State.enterOp
  extract_lets _ numbered tiled planned entered ramped
  refine ⟨ramped, rfl, ?_⟩
  have htiled : { tiled with adm := s.adm, tiles := s.tiles, regions := s.regions } = s := by
    have hjoin := congrArg (fun v : State => { v with adm := s.adm }) (numbered.joinRegion_frame o)
    have hplan := congrArg (fun v : State => { v with adm := s.adm, tiles := s.tiles, regions := s.regions })
      ((numbered.joinRegion o).planTiles_frame hk o.d o.rd)
    exact hplan.trans hjoin
  have hplanned : planned = tiled := (hsets _).trans (hranges _)
  have hramped : { ramped with ops := tiled.ops, pwr := tiled.pwr, out := tiled.out } = tiled := by
    rw [← hplanned]
    show ({ (match p.ramp with
      | none => entered
      | some r => entered.takeRamp r) with ops := planned.ops, pwr := planned.pwr, out := planned.out } : State) = planned
    split
    · rfl
    · unfold State.takeRamp
      dsimp only
      split <;> rfl
  exact (congrArg (fun v : State =>
    { v with adm := s.adm, regions := s.regions, tiles := s.tiles, ops := s.ops, pwr := s.pwr, out := s.out }) hramped).trans
    (congrArg (fun v : State => { v with ops := s.ops, pwr := s.pwr, out := s.out }) htiled)

/-- Such an op has no reroll (R283). -/
theorem State.rerolled_of_acts {k : OpK} (hk : k.acts = true) (s : State) (d : Desc) : s.rerolled k d = false := by
  rcases OpK.acts_iff.mp hk with rfl | rfl | rfl | rfl <;> rfl

/-- The state in which a planned op, with no companion, has been entered and answered. -/
def Plan.answered (p : Plan) (r : Resp) : State := (p.after.mapOp p.op.id (fun o => { o with comp := [] })).respond r

theorem Plan.answered_unwinds (p : Plan) (r : Resp) : p.after.Unwinds (p.answered r) := by
  refine .trans ?_ (.respond _ _)
  exact .mapOp _ _ (fun _ => ⟨rfl, rfl, rfl, rfl⟩)

theorem Plan.answered_nextId (p : Plan) (r : Resp) : (p.answered r).adm.nextId = p.after.adm.nextId := by
  rw [Plan.answered, State.respond_adm]
  split <;> rfl

/-- What acceptance sends and ends at once comes behind the response (R118). -/
theorem State.acceptGroup_alone (s : State) (k : OpK) (lead : Desc) (credits : Nat) (p : Plan) : s.acceptGroup k lead credits p [] =
    (p.answered (acceptance lead p.op.deadline credits)).afterAccept k lead p.op.id (s.discards lead) := rfl

section
variable {s : State} {k : OpK} {d : Desc} {p : Plan}

/-- The op of such a plan, under the next acceptance number, acts on a state that has the clock and the objects of the state before. -/
theorem State.plan_acts (h : s.plan k d false none none 0 = some p) (hk : k.acts = true) :
    p.op.id = s.adm.nextId ∧ p.op.k = k ∧ p.op.d = d ∧
      ∃ u : State, p.after = u.acceptKind p.op ∧ u.clk = s.clk ∧ ∀ j, u.obj j = s.obj j := by
  obtain ⟨price, hop, hafter⟩ := State.plan_of_not_rerolled h (State.rerolled_of_acts hk s d)
  have hpk : p.op.k = k := by rw [hop]; rfl
  obtain ⟨u, hu, hframe⟩ := State.enterOp_acts (o := p.op) (by rwa [hpk]) s price
  exact ⟨by rw [hop]; rfl, hpk, by rw [hop]; rfl, u, hafter.trans hu, (congrArg State.clk hframe :),
    fun j => (congrArg (fun t : State => t.obj j) hframe :)⟩

/-! ### GATE (R221) -/

theorem State.finishOp_nextId (s : State) (o : Op) (status : Nat) : (s.finishOp o status).adm.nextId = s.adm.nextId := by
  have hreleased := ((State.QuietPorts.dropOp s o.id).trans (s.dropOp_released o status)).adm
  have hcounted := ((State.QuietPorts.dropOp s o.id).trans (s.dropOp_counted o status)).adm
  rw [State.finishOp_eq]
  split_ifs
  · rw [hreleased]
  · rw [hcounted]
  · rw [State.respond_adm, hcounted]
    split <;> rfl

/-- A GATE has opened its region, and has completed (R221). -/
theorem State.acceptGroup_gate (h : s.plan .gate d false none none 0 = some p) (lead : Desc) (credits : Nat) :
    ⟨d.tenant, d.region, d.kind, d.ttl, s.now, none, false, false, [], [], [], []⟩ ∈ (s.acceptGroup .gate lead credits p []).regions ∧
      s.adm.nextId < (s.acceptGroup .gate lead credits p []).adm.nextId ∧
      ∀ o ∈ (s.acceptGroup .gate lead credits p []).ops, o.id ≠ s.adm.nextId := by
  obtain ⟨hid, hk, hd, u, hafter, hclk, -⟩ := State.plan_acts h rfl
  obtain ⟨-, o, l, hadds, ho⟩ := State.plan_adds h (by decide) (by decide)
  set v := p.answered (acceptance lead p.op.deadline credits) with hv
  have hregion : ⟨d.tenant, d.region, d.kind, d.ttl, s.now, none, false, false, [], [], [], []⟩ ∈ v.regions := by
    have hnow : u.now = s.now := congrArg (fun c : Clock => c.counter.toNat) hclk
    rw [(p.answered_unwinds _).regions, hafter, State.acceptKind, hk, hd]
    exact List.mem_append_right _ (by rw [hnow]; exact List.mem_singleton_self _)
  have hnext : s.adm.nextId < v.adm.nextId := by
    rw [p.answered_nextId, hadds.adm]
    exact Nat.lt_add_of_pos_right (Nat.succ_pos _)
  obtain ⟨g, hg⟩ : ∃ g, v.op? s.adm.nextId = some g := by
    have hmem : o ∈ p.after.ops := by simp [hadds.ops]
    rw [← Option.isSome_iff_exists, State.op?, List.find?_isSome, hv, Plan.answered, State.respond_ops]
    exact ⟨_, List.mem_map_of_mem hmem, by split <;> simp [ho.id]⟩
  have hdone : s.acceptGroup .gate lead credits p [] = v.finishOp g (v.statusOf g) := by
    rw [State.acceptGroup_alone, ← hv, State.afterAccept, hid, hg]
  rw [hdone]
  refine ⟨by rwa [(State.Unwinds.finishOp v g _).regions], by rwa [State.finishOp_nextId], fun q hq => ?_⟩
  rw [← (State.op?_mem hg).2]
  exact v.id_ne_of_mem_finishOp g _ hq

/-! ### COMMIT and SQUASH (R228, R229) -/

/-- A COMMIT has closed its region to further ops (R228). -/
theorem State.acceptGroup_commit (h : s.plan .commit d false none none 0 = some p) (lead : Desc) (credits : Nat) :
    ∀ g ∈ (s.acceptGroup .commit lead credits p []).regions, g.tenant = d.tenant → g.num = d.region →
      g.closing = true ∧ g.closer = some s.adm.nextId := by
  obtain ⟨hid, hk, hd, u, hafter, -, -⟩ := State.plan_acts h rfl
  intro g hg htn hr
  have hmem : g ∈ (u.acceptKind p.op).regions := by
    rw [← hafter, ← (p.answered_unwinds (acceptance lead p.op.deadline credits)).regions]
    exact hg
  rw [State.acceptKind, hk, hd, hid] at hmem
  obtain ⟨x, -, rfl⟩ := List.mem_map.mp hmem
  split at htn
  · next hx => rw [if_pos hx]; exact ⟨rfl, rfl⟩
  · next hx => rw [if_neg hx] at hr; simp [htn, hr] at hx

/-- A SQUASH has closed its region and stopped the ops that are left of it (R229). -/
theorem State.acceptGroup_squash (h : s.plan .squash d false none none 0 = some p) (credits : Nat) :
    (s.acceptGroup .squash d credits p []).Squashed d.tenant d.region := by
  obtain ⟨-, hk, hd, u, hafter, -, -⟩ := State.plan_acts h rfl
  have hsquashed : p.after.Squashed d.tenant d.region := by
    rw [hafter, State.acceptKind, hk, hd]
    exact State.squashRegion_squashed _ _ _
  exact ((hsquashed.of_unwinds (p.answered_unwinds _)).of_unwinds (.squashSends _ _ _)).closeRegions

/-! ### The epoch FENCE (R236, R237, R239) -/

namespace State.Unwinds

theorem dropWaiting (s : State) (tn floor fep : Nat) : s.Unwinds (s.dropWaiting tn floor fep) :=
  foldl (fun _ _ => setPort (.filterWait _ _ _)) _ s

theorem sendRevokes (s : State) (tn epoch : Nat) : s.Unwinds (s.sendRevokes tn epoch) := by
  unfold State.sendRevokes
  extract_lets floor slots notice
  refine foldl (fun s x => ?_) _ _
  extract_lets ends id
  split
  · exact sendOn _ _ _ _ _ _
  · exact foldl (fun _ _ => sendFrame _ _ _ _ _ _) _ _

theorem fenceSends (s : State) : s.Unwinds s.fenceSends := (dropJobs s _).trans (foldl (fun _ _ => abortRange _ _ _) _ _)

end State.Unwinds

/-- An epoch FENCE that takes hold raises the floor of its tenant (R236). -/
theorem State.takeFence_floor {o : Op} (h : s.fenceLive o.d = true) :
    (s.takeFence o).obj (floorKey o.d.tenant) = (o.d.fepoch + 1) % 65536 := by
  unfold State.takeFence
  extract_lets ids tn s1 s2 s3
  rw [if_pos h]
  have hfloor : s2.obj (floorKey o.d.tenant) = (o.d.fepoch + 1) % 65536 := State.obj_setObj_self
  split <;> exact hfloor

theorem State.acceptGroup_fenceEpoch (h : s.plan .fenceEpoch d false none none 0 = some p) (hlive : s.fenceLive d = true)
    (lead : Desc) (credits : Nat) :
    (s.acceptGroup .fenceEpoch lead credits p []).obj (floorKey d.tenant) = (d.fepoch + 1) % 65536 := by
  obtain ⟨-, hk, hd, u, hafter, -, hobj⟩ := State.plan_acts h rfl
  have htenant : d.tenant < 16 := Nat.mod_lt _ (by decide)
  have hlive' : u.fenceLive p.op.d = true := by rw [hd, State.fenceLive, State.epochLive, hobj]; exact hlive
  have htaken : p.after.obj (floorKey d.tenant) = (d.fepoch + 1) % 65536 := by
    rw [hafter, State.acceptKind, hk, ← hd]
    exact State.takeFence_floor hlive'
  have hsent : (p.answered (acceptance lead p.op.deadline credits)).Unwinds (s.acceptGroup .fenceEpoch lead credits p []) := by
    rw [State.acceptGroup_alone]
    unfold State.afterAccept
    dsimp only
    split
    · exact .refl _
    · exact ((State.Unwinds.dropWaiting _ _ _ _).trans (.sendRevokes _ _ _)).trans (.fenceSends _)
  rw [hsent.floor _ htenant, (p.answered_unwinds _).floor _ htenant, htaken]

end

/-- Settles O10: the descriptor is accepted as a group of one, and each clause says what its kind's acceptance has done. -/
theorem regionAndFenceOpsActAtAcceptance : Obligations.Region_and_fence_ops_act_at_acceptance := by
  intro c d k p s hc hwf hk harr hheld halone hcheck hplan hwin
  have hexec := exec_alone hc hwf hk harr hheld halone hcheck hplan hwin
  refine ⟨?gate, ?commit, ?squash, ?fence⟩
  case gate =>
    rintro rfl
    exact ⟨_, hexec, State.acceptGroup_gate hplan d 1⟩
  case commit =>
    rintro rfl
    exact ⟨_, hexec, State.acceptGroup_commit hplan d 1⟩
  case squash =>
    rintro rfl
    obtain ⟨hregions, hops⟩ := State.acceptGroup_squash hplan 1
    exact ⟨_, hexec, hregions, hops⟩
  case fence =>
    rintro rfl hlive
    exact ⟨_, hexec, State.acceptGroup_fenceEpoch hplan hlive d 1⟩

end Sys2Proof.Machine
end

section
/-! A rolling op that is an alternative form without a primary enters with no companion: it is refused with it (R126, R169). -/

namespace Sys2Proof.Machine

/-- A response, and so a refusal, leaves the op table. -/
theorem State.refuseGroup_ops (s : State) (lead : Desc) (r : Reason) (credits : Nat) (comps : List (Desc × Option Reason)) :
    (s.refuseGroup lead r credits comps).ops = s.ops :=
  List.foldlRecOn comps _ (motive := fun t : State => t.ops = s.ops) (s.respond_ops _) (fun t ht _ _ => (t.respond_ops _).trans ht)

/-- A rolling op with ALTF set, held until its companion has come, enters no op: both are refused (R126, R169). -/
theorem exec_companion_of_altf {a b : Desc} {s : State} (hb : kindOf b = some .drain) (harr : Safety.canArrive s = true)
    (hheld : s.adm.held = [a]) (haltf : a.altf = true) (hcomp : companions a = 1) (hpair : isCompanion a b 0 = true) :
    ∃ t, exec (.drain b) s = .next t ∧ t.ops = s.ops := by
  have hexec : exec (.drain b) s = .next (s.receive b) := by
    show execDrain b s = _
    rw [execDrain, if_pos hb]
  have hgroup : (Safety.spend s).nextDesc [a] b = (Safety.spend s).unhold.admitGroup a none [b] := by
    simp [State.nextDesc, takesAlt, haltf, hcomp, hpair]
  have hrefused : ((Safety.spend s).unhold.admitGroup a none [b]).ops = s.ops := by
    unfold State.admitGroup
    dsimp only
    rw [State.leadReason, if_pos haltf]
    exact State.refuseGroup_ops _ _ _ _ _
  refine ⟨_, hexec, ?_⟩
  rw [State.receive_eq_nextDesc harr, hheld, hgroup, hrefused]

/-! ### A block that holds such an op -/

/-- A port that is up. -/
def upPort : PortSt := { PortSt.zero with st := 2, liveI := true, liveO := true, agreed := 0x101, pool := 256, cr := 200 }

/-- A STREAM of one token, rolling on the weight set in force, with ALTF set and no primary before it. -/
def strayForm : Desc :=
  ⟨BitVec.ofNat 64 (2 ^ 60 + 2 * 2 ^ 52 + 2 ^ 48 + 2), BitVec.ofNat 64 (4 * 2 ^ 13 + 2 ^ 22), BitVec.ofNat 64 (2 ^ 32 + 1),
    BitVec.ofNat 64 (2 ^ 40), 0, 0, 0, BitVec.ofNat 64 (2 ^ 40)⟩

/-- The DRAIN that is its companion. -/
def strayCompanion : Desc :=
  ⟨BitVec.ofNat 64 (2 ^ 60 + 4 * 2 ^ 52 + 2 ^ 48 + 3), 0, BitVec.ofNat 64 (2 ^ 32), BitVec.ofNat 64 (2 ^ 40), 0, 0x2000, 0, 0⟩

/-- A running block that holds the STREAM: tenant 1 admitted with core 0, whose first chain has the weight set in force, and no op
outstanding. -/
def holdingStray : State := { State.reset with
  pwrGood := true
  clk := ⟨1000, false, 0⟩
  boot := ⟨8, true, 0, 0, [], none, 0⟩
  speed := [(0, [1152923716829986831, 13379137007544958976], [1, 1, 1, 1, 1, 1])]
  cores := [(0, ⟨4, []⟩)]
  chains := [(chainKey ⟨0, 0, 0⟩, { ChainSt.zero with ws := some ⟨⟨0, 0⟩, 0, 1, 1, 0⟩ })]
  adm := ⟨true, 8, [], [strayForm], [], 8, 1, 0⟩
  ports := [(0, upPort), (25, upPort)]
  dict := { State.reset.dict with
    vals := [(key 0x3101 0, 1), (key 0x3101 5, 2 ^ 20), (key 0x3181 1, 2 ^ 21), (key 0x3200 0, 1)] } }

/-- The group is what the statement speaks of, and the checks of Table 05-12 find nothing wrong with either op. -/
theorem holdingStray_passes : kindOf strayCompanion = some .drain ∧ Safety.canArrive holdingStray = true ∧ takesAlt strayForm = false ∧
    companions strayForm = 1 ∧ isCompanion strayForm strayCompanion 0 = true ∧ kindOf strayForm = some .stream ∧
    (Safety.spend holdingStray).unhold.check ⟨.stream, strayForm, none⟩ = none ∧
    ((Safety.spend holdingStray).unhold.trial .stream strayForm none none).check ⟨.drain, strayCompanion, some strayForm⟩ = none := by
  decide +kernel

/-- Both have a plan whose window will do. -/
theorem holdingStray_plans :
    ((Safety.spend holdingStray).unhold.plan .stream strayForm false none none (compBytes strayForm strayCompanion)).any (fun p =>
      (Safety.spend holdingStray).unhold.windowOk strayForm p.window &&
        (p.after.plan .drain strayCompanion false (some holdingStray.adm.nextId) (some strayForm) 0).any (fun q =>
          (Safety.spend holdingStray).unhold.windowOk strayCompanion q.window)) = true := by
  decide +kernel

/-- Refutes O13: its premises leave out ALTF. They admit a rolling op that is an alternative form and follows no primary, as
`holdingStray` holds one; the block refuses it with its companion (`exec_companion_of_altf`), and no op enters. -/
theorem not_rollingOpEntersWithItsCompanion : ¬Obligations.Rolling_op_enters_with_its_companion := by
  intro h
  obtain ⟨hb, harr, htakes, hcomp, hpair, hk, hcheck, htrial⟩ := holdingStray_passes
  obtain ⟨p, hp, hwindows⟩ := (Option.any_eq_true _ _).mp holdingStray_plans
  obtain ⟨hpwin, hcompanion⟩ := Bool.and_eq_true_iff.mp hwindows
  obtain ⟨q, hq, hqwin⟩ := (Option.any_eq_true _ _).mp hcompanion
  obtain ⟨t, x, -, hexec, -, hx, -⟩ := h strayForm strayCompanion .stream p q holdingStray hb harr rfl htakes hcomp hpair hk hcheck htrial
    hp hpwin hq hqwin
  obtain ⟨u, hexec', hops⟩ := exec_companion_of_altf hb harr rfl (by decide) hcomp hpair
  obtain rfl : t = u := Host.Outcome.next.inj (hexec.symm.trans hexec')
  have hnone : t.ops = [] := hops
  rw [hnone] at hx
  exact List.not_mem_nil hx

end Sys2Proof.Machine
end

section
/-! A closed port stays closed through the loss of the members that a cascade port reached (R299 to R301, R322, R402, R405). -/

namespace Sys2Proof.Machine

theorem State.loseOp_ports (s : State) (o : Op) : (s.loseOp o).ports = s.ports :=
  (State.sweepUnread_ports _ o).trans (s.finishOp_ports o 0x03)

/-- A frame that leaves on a port changes no other. -/
theorem State.launch_port_of_ne {q x : Nat} (hx : x ≠ q) (s : State) (fl : Flight) (f : Frame) : (s.launch q fl f).port x = s.port x := by
  have hports : (s.launch q fl f).ports =
      (s.setPort q { (s.port q).spend fl.n s.portNow with fly := (s.port q).fly ++ [fl] }).ports := by
    unfold State.launch
    dsimp only
    split <;> split <;> rfl
  rw [State.port, hports]
  exact State.port_setPort.trans (if_neg hx)

/-- A frame that may leave among those that wait, waits there and has its credits. -/
theorem State.nextWaiting_mem {s : State} {q : Nat} {x : Flight × Frame} {before l : List (Flight × Frame)}
    (h : s.nextWaiting q before l = some x) : x ∈ l ∧ s.fitsPort q x.1 x.2 = true := by
  induction l generalizing before with
  | nil => cases h
  | cons y l ih =>
    unfold State.nextWaiting at h
    split at h
    · next hfit =>
      obtain rfl := Option.some.inj h
      exact ⟨List.mem_cons_self, (Bool.and_eq_true_iff.mp hfit).2⟩
    · obtain ⟨hx, hfit⟩ := ih h
      exact ⟨List.mem_cons_of_mem y hx, hfit⟩

namespace State.KeepsClosed

variable {s t : State}

/-- A port that is not closed changes, and no other. -/
theorem of_open {q : Nat} (hopen : ∀ st live, ¬(s.port q).Closed st live) (h : ∀ x ≠ q, t.port x = s.port x) : s.KeepsClosed t := by
  intro x st live hx
  have hne : x ≠ q := fun e => hopen st live (e ▸ hx)
  rwa [h x hne]

theorem event (s : State) (e : Event) : s.KeepsClosed (s.event e) := of_ports (s.event_ports e)

theorem mapGroup (s : State) (g : Nat) (f : GroupSt → GroupSt) : s.KeepsClosed (s.mapGroup g f) := of_ports rfl

theorem dropJobs (s : State) (f : Job → Bool) : s.KeepsClosed (s.dropJobs f) := of_ports rfl

theorem sendControl (s : State) (g pp ftype ctl mask term : Nat) (payload : List Flit) :
    s.KeepsClosed (s.sendControl g pp ftype ctl mask term payload) := (Unwinds.sendFrame _ _ _ _ _ _).closed

theorem loseOps (s : State) (f : Op → Bool) : s.KeepsClosed (s.loseOps f) := foldl (fun u o => of_ports (u.loseOp_ports o)) _ s

theorem closeRegions (s : State) : s.KeepsClosed s.closeRegions := foldl (fun u g => of_ports (u.closeRegion_ports g)) _ s

/-! Allotments (R300, R301). -/

theorem flushPort (s : State) (q fuel : Nat) : s.KeepsClosed (s.flushPort q fuel) := by
  induction fuel generalizing s with
  | zero => exact refl s
  | succ k ih =>
    unfold State.flushPort
    split
    · exact refl s
    · next x hx =>
      obtain ⟨hmem, hfit⟩ := State.nextWaiting_mem hx
      have hopen (st : Nat) (live : Bool) : ¬(s.port q).Closed st live :=
        fun h => State.not_closed_of_fits hfit (h.wait x hmem) st live h
      refine (of_open hopen fun y hy => ?_).trans (ih _)
      rw [State.launch_port_of_ne hy, State.port_setPort, if_neg hy]

theorem confirmNow (s : State) (g : Nat) : s.KeepsClosed (s.confirmNow g) := by
  have hreply (u : State) : u.KeepsClosed (u.replyFirst g true) := by
    unfold State.replyFirst
    split
    · exact refl u
    · split
      · exact refl u
      · exact sendControl _ _ _ _ _ _ _ _
  unfold State.confirmNow
  split
  · exact refl s
  · split
    · exact refl s
    · dsimp only
      split
      · exact (mapGroup s g _).trans (mapGroup _ _ _)
      · exact (mapGroup s g _).trans (hreply _)

theorem takeAllot (s : State) (g : Nat) (es : List Nat) : s.KeepsClosed (s.takeAllot g es) := by
  unfold State.takeAllot
  extract_lets written flushed
  have hflushed : s.KeepsClosed flushed :=
    (foldl (fun u _ => of_ports (u.setObj_ports _ _)) _ s).trans (foldl (fun _ _ => flushPort _ _ _) _ written)
  split
  · exact (hflushed.trans (mapGroup _ _ _)).trans (confirmNow _ _)
  · exact hflushed

theorem allot (s : State) (g : Nat) : s.KeepsClosed (s.allot g) := by
  unfold State.allot
  dsimp only
  split
  · exact refl s
  · refine trans (t := s.setGroup g _) (of_ports rfl) (foldl (fun u m => ?_) _ _)
    split
    · exact takeAllot _ _ _
    · exact sendControl _ _ _ _ _ _ _ _

/-! The election (R298, R299). -/

theorem checkClaim (s : State) (g : Nat) : s.KeepsClosed (s.checkClaim g) := by
  unfold State.checkClaim
  split
  · exact refl s
  · split
    · extract_lets me s1 s2
      have hrecorded : s.KeepsClosed s1 := (mapGroup s g _).trans (event _ _)
      exact (hrecorded.trans (foldl (fun _ _ => sendControl _ _ _ _ _ _ _ _) _ s1)).trans (allot _ _)
    · exact refl s

theorem elect (s : State) (g : Nat) : s.KeepsClosed (s.elect g) := by
  unfold State.elect
  extract_lets me v t s1 s2
  split
  · exact refl s
  · have hclaimed : s.KeepsClosed s1 := mapGroup s g _
    exact (hclaimed.trans (foldl (fun _ _ => sendControl _ _ _ _ _ _ _ _) _ s1)).trans (checkClaim _ _)

theorem headless (s : State) (g pp : Nat) : s.KeepsClosed (s.headless g pp) := by
  unfold State.headless
  split
  · exact (mapGroup s g _).trans (event _ _)
  · exact refl s

/-! The loss of a position and of a member (R322, R405). -/

theorem loseRange (s : State) (r : Range) (reason : Nat) : s.KeepsClosed (s.loseRange r reason) := by
  have haborted : s.KeepsClosed (s.abortRange r reason) := (Unwinds.abortRange s r reason).closed
  unfold State.loseRange
  dsimp only
  split
  · exact haborted.trans (event _ _)
  · exact ((haborted.trans (dropJobs _ _)).trans (of_ports (State.loseOp_ports _ _))).trans (event _ _)

theorem losePosition (s : State) (g pp : Nat) : s.KeepsClosed (s.losePosition g pp) := by
  unfold State.losePosition
  extract_lets s1 s2 hit s3 dest s4
  have hs2 : s.KeepsClosed s2 := of_ports rfl
  exact ((hs2.trans (foldl (fun _ _ => loseRange _ _ _) hit s2)).trans (dropJobs s3 _)).trans (loseOps s4 dest)

theorem forgetPeer (s : State) (g pp : Nat) : s.KeepsClosed (s.forgetPeer g pp) := by
  unfold State.forgetPeer
  refine foldl (fun u p => ?_) _ s
  extract_lets q mine u1
  have hmine : u.KeepsClosed u1 := of_ports (foldl_ports (fun v fl => by split <;> rfl) mine u)
  refine hmine.trans (setPort fun _ _ h => ⟨h.st, h.liveO, h.liveI, ?_, h.cr, fun x hx => h.wait x (List.mem_of_mem_filter hx)⟩)
  rw [h.fly, List.map_nil]

theorem loseMember (s : State) (g pp : Nat) : s.KeepsClosed (s.loseMember g pp) := by
  unfold State.loseMember
  extract_lets s1 s2
  have hs2 : s.KeepsClosed s2 := (event s _).trans (mapGroup _ _ _)
  exact ((((((hs2.trans (forgetPeer _ _ _)).trans (losePosition _ _ _)).trans (closeRegions _)).trans (headless _ _ _)).trans
    (allot _ _)).trans (elect _ _))

theorem losePeers (s : State) (p : Nat) : s.KeepsClosed (s.losePeers p) := by
  unfold State.losePeers
  refine foldl (fun u g => foldl (fun v pp => ?_) _ u) _ s
  split
  · exact loseMember _ _ _
  · exact losePosition _ _ _

/-- The loss of a partner opens no port (R406). -/
theorem partnerLost (s : State) (q : Nat) : s.KeepsClosed (s.partnerLost q) := by
  unfold State.partnerLost
  split_ifs
  · exact of_ports rfl
  · exact of_ports (State.loseMemory_ports _ _)
  · exact (losePeers _ _).trans (closeRegions _)
  · exact of_ports (State.loseAll_ports _ _)
  · exact refl s

end State.KeepsClosed

end Sys2Proof.Machine
end

section
/-! The loss of the power stage, and a port fault: what is down, closed and lost after them (R154, R400 to R402, R406). -/

namespace Sys2Proof.Machine

/-! ### Ops that are lost (R154, R203) -/

/-- What an op cut short leaves in the op table is the rows that it has still to clear (R154). -/
theorem State.mem_sweepUnread {s : State} {o p : Op} (h : p ∈ (s.sweepUnread o).ops) :
    p.k = .clear ∨ ∃ q ∈ s.ops, q.id = p.id ∧ q.k = p.k := by
  unfold State.sweepUnread at h
  dsimp only at h
  split_ifs at h
  · exact .inr ⟨p, h, rfl, rfl⟩
  · rcases List.mem_append.mp h with hp | hp
    · exact .inr ⟨p, List.mem_of_mem_filter hp, rfl, rfl⟩
    · rcases List.mem_cons.mp hp with rfl | hp
      · exact .inl rfl
      · exact .inr ⟨p, List.mem_of_mem_filter hp, rfl, rfl⟩
  · exact .inr ((State.Settles.clearRows (clears := True) trivial _ _ _).ops p h)

/-- A lost op is outstanding no more, but for those rows. -/
theorem State.mem_loseOp {s : State} {o p : Op} (h : p ∈ (s.loseOp o).ops) :
    p.k = .clear ∨ ∃ q ∈ s.ops, q.id = p.id ∧ q.k = p.k ∧ p.id ≠ o.id := by
  rcases State.mem_sweepUnread h with hk | ⟨q, hq, hid, hk⟩
  · exact .inl hk
  · obtain ⟨r, hr, hrid, hrk⟩ := (State.Settles.finishOp (clears := True) s o 0x03).ops q hq
    exact .inr ⟨r, hr, hrid.trans hid, hrk.trans hk, hid ▸ s.id_ne_of_mem_finishOp o _ hq⟩

/-- Once every op of a list is lost, rows to be cleared are left of them, and nothing else. -/
theorem State.clear_of_mem_foldl_loseOp {l : List Op} {s : State} (h : ∀ p ∈ s.ops, p.k = .clear ∨ ∃ o ∈ l, o.id = p.id) :
    ∀ p ∈ (l.foldl (fun s o => s.loseOp o) s).ops, p.k = .clear := by
  induction l generalizing s with
  | nil => exact fun p hp => (h p hp).resolve_right (by simp)
  | cons o l ih =>
    refine ih fun p hp => ?_
    rcases State.mem_loseOp hp with hk | ⟨q, hq, hid, hk, hne⟩
    · exact .inl hk
    · rcases h q hq with hclear | ⟨x, hx, hxid⟩
      · exact .inl (hk ▸ hclear)
      · rcases List.mem_cons.mp hx with rfl | hx
        · exact absurd (hid.symm.trans hxid.symm) hne
        · exact .inr ⟨x, hx, hxid.trans hid⟩

/-- The power stage takes every op with it, but for the rows that DRAINs cut short have still to clear (R154, R406). -/
theorem State.clear_of_mem_losePower {s : State} {p : Op} (h : p ∈ s.losePower.ops) : p.k = .clear := by
  obtain ⟨q, hq, -, hk⟩ := (State.Settles.closeRegions (clears := True) (s.loseOps (fun _ => true)).reopenRegions).ops p h
  refine hk ▸ State.clear_of_mem_foldl_loseOp (fun x hx => .inr ⟨x, ?_, rfl⟩) q hq
  exact List.mem_filter.mpr ⟨hx, rfl⟩

/-! ### A port that leaves the exchange or the up state (R401, R402, R406) -/

/-- What `t` is once port `q` of `s` has been closed: with the partner that was there, the power stage and the work source are lost. -/
structure State.Loses (s t : State) (q st : Nat) (live : Bool) : Prop where
  closed : (t.port q).Closed st live
  power : (s.port q).st = 2 → q = 25 → (∀ o ∈ t.ops, o.k = .clear) ∧ t.pwr.lost = true
  work : (s.port q).st = 2 → q = 0 → t.adm.wdCredits = 0 ∧ t.adm.mute = s.adm.nextId

namespace State.Loses

variable {s t : State} {q st : Nat} {live : Bool}

/-- A record changes nothing of it. -/
theorem event (h : s.Loses t q st live) (e : Event) : s.Loses (t.event e) q st live :=
  ⟨KeepsClosed.event t e q st live h.closed, by simpa using h.power, by simpa using h.work⟩

/-- Only the port's state and the next acceptance number count before the fault. -/
theorem of_before {s' : State} (h : s'.Loses t q st live) (hst : (s'.port q).st = (s.port q).st) (hnext : s'.adm.nextId = s.adm.nextId) :
    s.Loses t q st live :=
  ⟨h.closed, fun h2 => h.power (hst.trans h2), fun h2 hq => hnext ▸ h.work (hst.trans h2) hq⟩

end State.Loses

section
variable (s : State) (q : Nat)

/-- Discarding what is in flight leaves the rest of its port (R401). -/
theorem State.port_dropFlights : (s.dropFlights q).port q = { s.port q with fly := [], wait := [], rx := [], cr := 0 } := by
  unfold State.dropFlights
  extract_lets p s1
  have hports : s1.ports = s.ports := foldl_ports (fun u f => by dsimp only; split <;> split <;> rfl) p.fly s
  have hport : s1.port q = s.port q := congrArg (sget PortSt.zero · q) hports
  rw [State.port_setPort, if_pos rfl]
  exact congrArg (fun p : PortSt => { p with fly := [], wait := [], rx := [], cr := 0 }) hport

theorem State.dropFlights_adm : (s.dropFlights q).adm = s.adm :=
  List.foldlRecOn (s.port q).fly _ (motive := fun u : State => u.adm = s.adm) rfl
    (fun _ hu f _ => Eq.trans (by dsimp only; split <;> split <;> rfl) hu)

theorem State.portDown_loses (st reason : Nat) (word : Bool) : s.Loses (s.portDown q st reason word) q st (s.port q).liveI := by
  unfold State.portDown
  extract_lets p s1 s2 s3 cut s4 s5
  have hs2 : { s2 with out := s.out } = s := by
    unfold s2 s1
    split_ifs <;> rfl
  have hport : s2.port q = s.port q := (congrArg (fun u : State => u.port q) hs2 :)
  have hcut : cut = { s.port q with fly := [], wait := [], rx := [], cr := 0 } := by rw [← hport]; exact s2.port_dropFlights q
  have hclosed : (s5.port q).Closed st (s.port q).liveI := by
    refine State.KeepsClosed.event s4 _ q st _ ?_
    rw [State.port_setPort, if_pos rfl, hcut]
    exact ⟨rfl, rfl, rfl, rfl, rfl, by simp⟩
  have hadm : s5.adm = s.adm := (s4.event_adm _).trans ((s2.dropFlights_adm q).trans (congrArg State.adm hs2 :))
  split
  · refine ⟨State.KeepsClosed.partnerLost s5 q q st _ hclosed, ?power, ?work⟩
    case power =>
      rintro - rfl
      exact ⟨fun o ho => State.clear_of_mem_losePower ho, rfl⟩
    case work =>
      rintro - rfl
      exact ⟨rfl, congrArg Adm.nextId hadm⟩
  · next hdown => exact ⟨hclosed, fun h => absurd h hdown, fun h => absurd h hdown⟩

/-- Whether a port has been quarantined three times within the last hour (R401). -/
def State.thrice : Bool := decide (3 ≤ ((s.port q).qtimes.filter (fun x => decide (s.portNow < x + quarantineHour))).length)

theorem State.quarantinePort_loses (word : Bool) :
    s.Loses (s.quarantinePort q word) q (if s.thrice q = true then 4 else 3) (s.port q).liveI := by
  unfold State.quarantinePort
  extract_lets p ts held s1 s2
  have hheld : held = s.thrice q := by
    unfold held ts p State.thrice
    rw [List.length_append, List.length_singleton]
    exact decide_eq_decide.mpr (by omega)
  have hport : s1.port q = { p with qtimes := ts, qcount := min (2 ^ 32 - 1) (p.qcount + 1) } := State.port_setPort.trans (if_pos rfl)
  have hdown : s.Loses s2 q (if held then 4 else 3) (s.port q).liveI := by
    have h := s1.portDown_loses q (if held then 4 else 3) 5 word
    rw [hport] at h
    exact h.of_before (by rw [hport]) rfl
  rw [← hheld]
  generalize (if held = true then 4 else 3) = st at hdown ⊢
  split
  · exact hdown.event _
  · exact hdown

/-- A handshake fault closes its port (R400, R401). -/
theorem State.portFault_loses (chan kind : Nat) :
    s.Loses (s.portFault q chan kind) q (if kind ≤ 7 then (if s.thrice q = true then 4 else 3) else 0) (s.port q).liveI := by
  unfold State.portFault
  extract_lets s1
  have hport : s1.port q = s.port q := congrArg (sget PortSt.zero · q) (s.event_ports _)
  have hthrice : s1.thrice q = s.thrice q := by
    rw [State.thrice, State.thrice, hport, State.portNow, State.portNow, State.now, State.now]
    simp [s1, State.portEvent]
  have hbefore {t : State} {st : Nat} (h : s1.Loses t q st (s1.port q).liveI) : s.Loses t q st (s.port q).liveI := by
    rw [hport] at h
    exact h.of_before (by rw [hport]) (congrArg Adm.nextId (s.event_adm _))
  split
  · exact hthrice ▸ hbefore (s1.quarantinePort_loses q _)
  · exact hbefore (s1.portDown_loses q 0 0 _)

end

/-! ### The commands (R400, R401) -/

section
variable {s : State} {q : Nat} (hbuilt : portBuilt s.conf q = true)
include hbuilt

/-- A racing fault on a port that is watched (R401). -/
theorem exec_racingFault_watched {chan kind : Nat} (hwatched : s.watched q = true) (hlo : 1 ≤ kind) (hhi : kind ≤ 5) :
    exec (.racingFault q chan kind) s = .next (s.portFault q chan kind) := by
  show execRacingFault q chan kind s = _
  simp [execRacingFault, hbuilt, hwatched, hlo, hhi]

/-- Silence on a port that is watched (R400). -/
theorem exec_silenceBoundExpiry_watched {chan kind : Nat} (hwatched : s.watched q = true)
    (hkind : kind = 6 ∨ kind = 7 ∨ kind = 8 ∨ (kind = 0xA ∧ s.messageMissing q = true)) :
    exec (.silenceBoundExpiry q chan kind) s = .next (s.portFault q chan kind) := by
  show execSilenceBoundExpiry q chan kind s = _
  rw [execSilenceBoundExpiry, hbuilt, if_neg (by decide)]
  exact if_pos ⟨hwatched, hkind⟩

/-- Credits that do not come back on a port that is up (R400). -/
theorem exec_creditBoundExpiry_silent {chan : Nat} (hlo : 1 ≤ q) (hhi : q ≤ 24) (hup : (s.port q).st = 2) (hcr : (s.port q).cr = 0)
    (hfly : (s.port q).fly ≠ []) (htime : s.timeUp (s.port q).dry (s.obj (key 0x1302 5)) = true) :
    exec (.creditBoundExpiry q chan) s = .next (s.portFault q chan 0xB) := by
  show execCreditBoundExpiry q chan s = _
  rw [execCreditBoundExpiry, hbuilt, if_neg (by decide)]
  exact if_pos ⟨hlo, hhi, beq_iff_eq.mpr hup, hcr, hfly, htime⟩

/-- The partner of a port that exchanges or is up is gone (R400). -/
theorem exec_liveLoss_present (hq : q ≤ 25) (hlive : (s.port q).liveI = true) (hup : (s.port q).st = 1 ∨ (s.port q).st = 2) :
    exec (.liveLoss q) s = .next ((s.setPort q { s.port q with liveI := false }).portFault q 0x11 9) := by
  show execLiveLoss q s = _
  have hle : ¬26 < q := by omega
  simp [execLiveLoss, hbuilt, hle, hlive, hup]

/-- The partner of a port that exchanges or is up goes down (R401). -/
theorem exec_down_present {w : W64} (hq : q ≤ 25) (hwf : (Instr.down q w).wf = true) (hgood : linkBad w = false)
    (hlive : (s.port q).liveI = true) (hup : (s.port q).st = 1 ∨ (s.port q).st = 2) :
    exec (.down q w) s = .next (s.portDown q 0 (fld w 55 48) false) := by
  show execDown q w s = _
  have hle : ¬25 < q := by omega
  have htype : fld w 59 56 = 4 := beq_iff_eq.mp (Bool.and_eq_true_iff.mp hwf).2
  simp [execDown, State.onLink, hbuilt, hle, hlive, hup, hgood, htype]

end

/-- Settles O47: each command is a handshake fault or a DOWN of the port, which closes it (`portFault_loses`, `portDown_loses`). -/
theorem portFaultTakesThePortDown : Obligations.Port_fault_takes_the_port_down := by
  intro c q st s hbuilt hq hlive hup again hcase
  have hwatched : s.watched q = true := by
    rcases hup with h | h <;> simp [State.watched, hq, hlive, h]
  suffices h : ∃ t live, exec c s = .next t ∧ s.Loses t q st live ∧ live = if c = .liveLoss q then false else true by
    obtain ⟨t, live, hexec, ⟨⟨hst, hliveO, hliveI, hfly, hcr, -⟩, hpower, hwork⟩, rfl⟩ := h
    exact ⟨t, hexec, hst, hliveO, hfly, hcr, hliveI, hpower, hwork⟩
  have hfault (chan kind : Nat) := s.portFault_loses q chan kind
  rw [hlive] at hfault
  rcases hcase with ⟨⟨chan, kind, rfl, hlo, hhi⟩ | ⟨chan, kind, rfl, hkind⟩, rfl⟩ |
    ⟨⟨chan, rfl⟩ | ⟨chan, rfl, hmissing⟩ | rfl | ⟨w, rfl, hwf, hgood⟩ | ⟨chan, rfl, hlo, hhi, hst, hcr, hfly, htime⟩, rfl⟩
  · have h := hfault chan kind
    rw [if_pos (by omega)] at h
    exact ⟨_, _, exec_racingFault_watched hbuilt hwatched hlo hhi, h, rfl⟩
  · have h := hfault chan kind
    rw [if_pos (by omega)] at h
    exact ⟨_, _, exec_silenceBoundExpiry_watched hbuilt hwatched (by omega), h, rfl⟩
  · exact ⟨_, _, exec_silenceBoundExpiry_watched hbuilt hwatched (.inr (.inr (.inl rfl))), hfault chan 8, rfl⟩
  · exact ⟨_, _, exec_silenceBoundExpiry_watched hbuilt hwatched (.inr (.inr (.inr ⟨rfl, hmissing⟩))), hfault chan 0xA, rfl⟩
  · have h := (s.setPort q { s.port q with liveI := false }).portFault_loses q 0x11 9
    have hport : (s.setPort q { s.port q with liveI := false }).port q = { s.port q with liveI := false } :=
      State.port_setPort.trans (if_pos rfl)
    rw [hport] at h
    exact ⟨_, _, exec_liveLoss_present hbuilt hq hlive hup, h.of_before (by rw [hport]) rfl, (if_pos rfl).symm⟩
  · exact ⟨_, _, exec_down_present hbuilt hq hwf hgood hlive hup, hlive ▸ s.portDown_loses q 0 _ _, rfl⟩
  · exact ⟨_, _, exec_creditBoundExpiry_silent hbuilt hlo hhi hst hcr hfly htime, hfault chan 0xB, rfl⟩

end Sys2Proof.Machine
end

section
/-! The state after reset (R192, R265, R340, R402). -/

namespace Sys2Proof.Machine

/-- Settles O2: every table of the state after reset is empty, and no port is listed. -/
theorem resetIsGood : Obligations.Reset_is_good :=
  ⟨by decide, rfl, rfl, rfl, fun _ => ⟨rfl, rfl⟩, rfl, rfl, rfl⟩

end Sys2Proof.Machine
end

section
/-! A strobe edge: which slips advance, and the draw of the step that ends (R192, R201, R329, R331, R332). -/

namespace Sys2Proof.Machine

/-! ### Slips of resources (R201) -/

/-- A slip that advances is the only one that does. -/
theorem State.slipOf_slipUp (s : State) (r x : Res) : (s.slipUp r).slipOf x = if x = r then s.slipOf x + 1 else s.slipOf x := by
  unfold State.slipOf State.slipUp
  split
  · next h => simp [h, State.slipOf]
  · next h =>
    rw [List.find?_cons_of_neg (by simpa using Ne.symm h), List.find?_filter]
    congr 3
    funext e
    by_cases he : e.1 = x <;> simp [he, h]

theorem State.foldl_slipUp_frame (l : List Res) (s : State) : { l.foldl (fun s r => s.slipUp r) s with slips := s.slips } = s := by
  induction l generalizing s with
  | nil => rfl
  | cons r l ih => exact (congrArg (fun u : State => { u with slips := s.slips }) (ih (s.slipUp r)) :)

/-- Of a list of resources without repetitions each slip advances by one, and no other. -/
theorem State.slipOf_foldl_slipUp {l : List Res} (hl : l.Nodup) (s : State) (x : Res) :
    (l.foldl (fun s r => s.slipUp r) s).slipOf x = s.slipOf x + if x ∈ l then 1 else 0 := by
  induction l generalizing s with
  | nil => rfl
  | cons r l ih =>
    obtain ⟨hr, hl⟩ := List.nodup_cons.mp hl
    rw [List.foldl_cons, ih hl, State.slipOf_slipUp]
    by_cases hx : x = r
    · simp [hx, hr]
    · simp [hx]

theorem nodup_eraseDups {α : Type} [DecidableEq α] (l : List α) : l.eraseDups.Nodup := by
  induction h : l.length using Nat.strong_induction_on generalizing l with
  | _ n ih =>
    cases l with
    | nil => simp
    | cons a l =>
      rw [List.eraseDups_cons, List.nodup_cons, List.mem_eraseDups]
      exact ⟨by simp, ih _ (by rw [← h]; exact Nat.lt_succ_of_le (List.length_filter_le _ l)) _ rfl⟩

/-- The resources of the ops in partner stall, each once. -/
def State.stalledRes (s : State) : List Res := ((s.ops.filter s.inStall).flatMap (fun o => o.res.map (fun r => r.1))).eraseDups

theorem State.mem_stalledRes (s : State) (x : Res) :
    x ∈ s.stalledRes ↔ s.ops.any (fun o => s.inStall o && o.res.any (fun r => r.1 == x)) = true := by
  simp only [State.stalledRes, List.mem_eraseDups, List.mem_flatMap, List.mem_filter, List.mem_map, List.any_eq_true, Bool.and_eq_true,
    beq_iff_eq, and_assoc]

theorem State.slip_slipOf (s : State) (x : Res) :
    s.slip.slipOf x = s.slipOf x + if s.ops.any (fun o => s.inStall o && o.res.any (fun r => r.1 == x)) then 1 else 0 := by
  refine (State.slipOf_foldl_slipUp (l := s.stalledRes) (nodup_eraseDups _) s x).trans ?_
  simp only [State.mem_stalledRes]

/-- The own count of an op in partner stall advances by one. -/
theorem State.slip_ops (s : State) : s.slip.ops =
    s.ops.map (fun o => if s.ops.any (fun p => s.inStall p && p.id == o.id) then { o with own := o.own + 1 } else o) := by
  have hops : (s.stalledRes.foldl (fun s r => s.slipUp r) s).ops = s.ops :=
    (congrArg State.ops (State.foldl_slipUp_frame s.stalledRes s) :)
  have hid (o : Op) : ((s.ops.filter s.inStall).map (fun o => o.id)).elem o.id = s.ops.any (fun p => s.inStall p && p.id == o.id) := by
    rw [Bool.eq_iff_iff]
    simp [and_assoc]
  unfold State.slip
  simp only [hid]
  exact congrArg (List.map _) hops

theorem State.slip_frame (s : State) : { s.slip with slips := s.slips, ops := s.ops } = s :=
  (congrArg (fun u : State => { u with ops := s.ops }) (State.foldl_slipUp_frame s.stalledRes s) :)

/-! ### The edge (R192, R329, R331, R332) -/

theorem exec_strobeEdge {s : State} (hlost : s.clk.lost = false) (hgood : s.pwrGood = true) : exec .siderealCounterAdvance s =
    .next { s.slip.meterStep with clk := { s.clk with counter := s.clk.counter + 1 } } := by
  have hclk : s.slip.meterStep.clk = s.clk := (congrArg State.clk s.slip_frame :)
  change execSiderealCounterAdvance s = _
  simp only [execSiderealCounterAdvance, hgood, hlost, hclk, Bool.true_eq_false, Bool.false_eq_true, if_false]

/-- Settles O32: the ops and the slips are those of `State.slip`, the draw that of `State.meterStep`. -/
theorem strobeEdgeMetersTheStep : Obligations.Strobe_edge_meters_the_step := by
  intro s hlost hgood i
  have hpwr : s.slip.pwr = s.pwr := (congrArg State.pwr s.slip_frame :)
  have hconf : s.slip.conf = s.conf := (congrArg State.conf s.slip_frame :)
  have hmeter : max (s.slip.meter s.pwr.energy) (s.pwr.im - s.slip.slew) = i := by
    rw [State.meter, State.slew, hpwr, hconf, ← State.meter]
  refine ⟨_, exec_strobeEdge hlost hgood, ?draw, ?frame, s.slip_ops, s.slip_slipOf⟩
  case draw => simp only [State.meterStep, hpwr, hmeter]
  case frame => exact (congrArg (fun u : State => { u with clk := s.clk, pwr := s.pwr }) s.slip_frame :)

end Sys2Proof.Machine
end

section
/-! Requests that write one object: what holds once the answer has been sent and what follows it has been done (R371, R379, R410, R414). -/

namespace Sys2Proof.Machine

/-- What follows the answer takes back nothing that has been sent. -/
theorem State.mem_out_afterAnswer {s : State} {o : Out} (h : o ∈ s.out) (x : Tran) (st : Nat) : o ∈ (s.afterAnswer x st).out :=
  (State.afterAnswer_keeps (Keeps.refl s)).sent.subset h

/-- A command that writes one object: when a write that passes its checks is taken by the object's own rules, whatever the buckets and
kept answers hold, the command is answered OK, and what the write and that which follows its answer bring about holds after it. -/
theorem writes_of_afterAnswer {c : Instr} {s : State} {post : Nat → State → Prop} {r : Req} {index sub : Nat}
    (hobj : Safety.objectOf c = some (r, index, sub)) (hexec : exec c s = .next (s.request r index sub))
    (heff : c.wf = true → s.tranStatus (Safety.tranOf r index sub) = none → ∀ m : Mgmt, ∃ t,
      ({ s with mg := m } : State).applyWrite (Safety.tranOf r index sub) = (t, stOk) ∧ ∀ (m' : Mgmt) (os : List Out), t.out <+: os →
        post (ofLe r.value) (({ t with mg := m', out := os } : State).afterAnswer (Safety.tranOf r index sub) stOk)) :
    Safety.writes c s post := by
  intro r' index' sub' hobj' hwf hserved hstatus
  obtain ⟨rfl, rfl, rfl⟩ : r = r' ∧ index = index' ∧ sub = sub' := by simpa [hobj] using hobj'
  have htran (m : Mgmt) : ∃ t, ({ s with mg := m } : State).tran (Safety.tranOf r index sub) = (t, stOk, []) ∧
      ∀ (m' : Mgmt) (os : List Out), t.out <+: os →
        post (ofLe r.value) (({ t with mg := m', out := os } : State).afterAnswer (Safety.tranOf r index sub) stOk) := by
    obtain ⟨t, happ, ht⟩ := heff hwf hstatus m
    exact ⟨t, by rw [State.tran_write rfl ((State.tranStatus_mg s m _).trans hstatus), happ], ht⟩
  refine ⟨_, hexec, ?_⟩
  unfold State.request
  unfold Safety.tranOf at htran
  unfold Safety.served at hserved
  unfold Safety.answered
  dsimp only
  cases hrole : r.role with
  | m =>
    simp only [hrole] at hserved htran ⊢
    obtain ⟨hup, hlocal, hdraw, hkept⟩ := hserved
    obtain ⟨m, hm⟩ := State.drawM_served hdraw
    obtain ⟨t, ht, hp⟩ := htran m
    rw [if_pos ⟨hup, hlocal⟩]
    unfold State.serveM
    simp only [hdraw, hm] at hkept ⊢
    simp only [Bool.true_eq_false, if_false, if_true, hkept, ht]
    obtain ⟨m', hm'⟩ := State.keep_eq (t.emit (s.sends r.src r.sport (respBytes stOk index sub r.xid [])))
      r.src r.xid (dgW0 3 stOk index sub 0) (at_ r.xid 32)
    rw [hm']
    exact ⟨State.mem_out_afterAnswer (List.mem_append_right _ (List.mem_singleton_self _)) _ _, hp m' _ (List.prefix_append _ _)⟩
  | h =>
    simp only [hrole] at hserved htran ⊢
    obtain ⟨m, hm⟩ := State.drawH_served hserved
    obtain ⟨t, ht, hp⟩ := htran m
    simp only [hserved, hm, if_true, ht]
    exact ⟨trivial, hp t.mg t.out List.prefix_rfl⟩
  | t =>
    simp only [hrole] at htran ⊢
    obtain ⟨t, ht, hp⟩ := htran s.mg
    simp only [ht]
    exact ⟨State.mem_out_afterAnswer (List.mem_append_right _ (List.mem_singleton_self _)) _ _, hp t.mg _ (List.prefix_append _ _)⟩

end Sys2Proof.Machine
end

section
/-! What leaves the sidereal counter running: the operations that warm resets, port resets and quarantines are made of (R192, R410). -/

namespace Sys2Proof.Machine

/-- A fold of operations that leave the counter. -/
theorem foldl_clk {α : Type} {f : State → α → State} (hf : ∀ (s : State) a, (f s a).clk = s.clk) (l : List α) (s : State) :
    (l.foldl f s).clk = s.clk :=
  List.foldlRecOn l f (motive := fun t => t.clk = s.clk) rfl (fun t ht a _ => (hf t a).trans ht)

section
variable (s : State)

/-! ### Registers, tiles and staging -/

@[simp] theorem State.mapRegs_clk (ks : List Nat) (f : Nat → LongReg → LongReg) : (s.mapRegs ks f).clk = s.clk :=
  foldl_clk (fun t k => t.setReg_clk k _) ks s

@[simp] theorem State.freeLines_clk (gone : SLine → Bool) : (s.freeLines gone).clk = s.clk :=
  foldl_clk (fun t q => t.giveCredits_clk q 0x07 _) _ _

@[simp] theorem State.dropStaging_clk (id : Nat) : (s.dropStaging id).clk = s.clk := s.freeLines_clk _

@[simp] theorem State.unbindTiles_clk (tn r : Nat) : (s.unbindTiles tn r).clk = s.clk :=
  foldl_clk (fun _ _ => by split <;> rfl) _ s

@[simp] theorem State.endRanges_clk (f : Range → Bool) : (s.endRanges f).clk = s.clk :=
  foldl_clk (fun t _ => t.setObj_clk _ _) _ _

/-! ### The end of an op (R202, R203) -/

@[simp] theorem State.consumed_clk (o : Op) (status : Nat) : (s.consumed o status).clk = s.clk := by
  unfold State.consumed
  split <;> simp

@[simp] theorem State.countBad_clk (o : Op) (status : Nat) : (s.countBad o status).clk = s.clk := by
  unfold State.countBad
  split <;> simp

@[simp] theorem State.relink_clk (id : Nat) (c : ChainId) : (s.relink id c).clk = s.clk := rfl

@[simp] theorem State.cutChains_clk (o : Op) : (s.cutChains o).clk = s.clk := by
  unfold State.cutChains
  split
  · exact foldl_clk (fun _ _ => by simp) _ s
  · rfl

@[simp] theorem State.tellReroll_clk (o : Op) (status : Nat) : (s.tellReroll o status).clk = s.clk := by
  unfold State.tellReroll
  split
  · rfl
  · split <;> rfl

@[simp] theorem State.finishOp_clk (o : Op) (status : Nat) : (s.finishOp o status).clk = s.clk := by
  unfold State.finishOp
  dsimp only
  split
  · simp
  · split <;> simp

@[simp] theorem State.poisonRecords_clk (o : Op) (ks : List Nat) : (s.poisonRecords o ks).clk = s.clk :=
  foldl_clk (fun t _ => t.event_clk _) _ s

@[simp] theorem State.clearRows_clk (o : Op) (rows : List (Nat × Part × Nat)) : (s.clearRows o rows).clk = s.clk := by
  simp [State.clearRows]

@[simp] theorem State.loseOp_clk (o : Op) : (s.loseOp o).clk = s.clk := by
  unfold State.loseOp State.sweepUnread
  dsimp only
  split
  · simp
  · split <;> simp

@[simp] theorem State.loseOps_clk (f : Op → Bool) : (s.loseOps f).clk = s.clk := foldl_clk (fun t o => t.loseOp_clk o) _ s

@[simp] theorem State.closeRegion_clk (g : Region) : (s.closeRegion g).clk = s.clk := by
  unfold State.closeRegion
  dsimp only
  split
  · split <;> simp
  · rfl

@[simp] theorem State.closeRegions_clk : s.closeRegions.clk = s.clk := foldl_clk (fun t g => t.closeRegion_clk g) _ s

@[simp] theorem State.loseAll_clk (f : Op → Bool) : (s.loseAll f).clk = s.clk := by
  rw [State.loseAll, State.closeRegions_clk]
  exact s.loseOps_clk f

/-! ### Frames (R295, R300) -/

@[simp] theorem State.launch_clk (q : Nat) (fl : Flight) (f : Frame) : (s.launch q fl f).clk = s.clk := by
  unfold State.launch
  dsimp only
  split <;> split <;> simp

@[simp] theorem State.sendFrame_clk (g pp : Nat) (op tenant : Option Nat) (f : Frame) : (s.sendFrame g pp op tenant f).clk = s.clk := by
  unfold State.sendFrame State.sendOn
  dsimp only
  split_ifs <;> simp

@[simp] theorem State.flushPort_clk (q fuel : Nat) : (s.flushPort q fuel).clk = s.clk := by
  induction fuel generalizing s with
  | zero => rfl
  | succ k ih =>
    unfold State.flushPort
    split
    · rfl
    · simp [ih]

@[simp] theorem State.sendControl_clk (g pp ftype ctl mask term : Nat) (payload : List Flit) :
    (s.sendControl g pp ftype ctl mask term payload).clk = s.clk := s.sendFrame_clk _ _ _ _ _

@[simp] theorem State.replyFirst_clk (g : Nat) (confirm : Bool) : (s.replyFirst g confirm).clk = s.clk := by
  unfold State.replyFirst State.sendReply
  split
  · rfl
  · split <;> simp

@[simp] theorem State.cascadeEvent_clk (cls sev g pp : Nat) (tenant : Option Nat) (detail : Nat) :
    (s.cascadeEvent cls sev g pp tenant detail).clk = s.clk := s.event_clk _

/-! ### Allotments and the election (R298 to R301) -/

@[simp] theorem State.confirmNow_clk (g : Nat) : (s.confirmNow g).clk = s.clk := by
  unfold State.confirmNow
  split
  · rfl
  · dsimp only
    split_ifs <;> simp

@[simp] theorem State.takeAllot_clk (g : Nat) (es : List Nat) : (s.takeAllot g es).clk = s.clk := by
  have hwritten : ∀ l : List (Nat × Nat), (l.foldl (fun s e => s.setObj (key (0x6080 + g) e.2) e.1) s).clk = s.clk :=
    fun l => foldl_clk (fun t _ => t.setObj_clk _ _) l s
  have hflushed (t : State) : ((List.range 8).foldl (fun s p => s.flushPort (17 + p) (s.port (17 + p)).wait.length) t).clk = t.clk :=
    foldl_clk (fun t _ => t.flushPort_clk _ _) _ t
  unfold State.takeAllot
  dsimp only
  split <;> simp [hwritten, hflushed]

@[simp] theorem State.allot_clk (g : Nat) : (s.allot g).clk = s.clk := by
  unfold State.allot
  dsimp only
  split
  · rfl
  · exact foldl_clk (fun _ _ => by split <;> simp) _ _

@[simp] theorem State.checkClaim_clk (g : Nat) : (s.checkClaim g).clk = s.clk := by
  unfold State.checkClaim
  split
  · rfl
  · dsimp only
    split
    · rw [State.allot_clk, foldl_clk (fun _ _ => State.sendControl_clk _ _ _ _ _ _ _ _)]
      exact State.cascadeEvent_clk _ _ _ _ _ _ _
    · rfl

@[simp] theorem State.elect_clk (g : Nat) : (s.elect g).clk = s.clk := by
  unfold State.elect
  dsimp only
  split
  · rfl
  · rw [State.checkClaim_clk, foldl_clk (fun _ _ => State.sendControl_clk _ _ _ _ _ _ _ _)]
    rfl

@[simp] theorem State.electAll_clk : s.electAll.clk = s.clk := foldl_clk (fun t g => t.elect_clk g) _ s

/-! ### The loss of members, positions and partners (R322, R405, R406) -/

@[simp] theorem State.abortRange_clk (r : Range) (reason : Nat) : (s.abortRange r reason).clk = s.clk :=
  (State.endRanges_clk _ _).trans (foldl_clk (fun t _ => t.sendFrame_clk _ _ _ _ _) _ s)

@[simp] theorem State.loseRange_clk (r : Range) (reason : Nat) : (s.loseRange r reason).clk = s.clk := by
  unfold State.loseRange
  dsimp only
  split
  · simp
  · rw [State.cascadeEvent_clk, State.loseOp_clk]
    exact s.abortRange_clk r reason

@[simp] theorem State.losePosition_clk (g pp : Nat) : (s.losePosition g pp).clk = s.clk :=
  (State.loseOps_clk _ _).trans (foldl_clk (fun t r => t.loseRange_clk r 1) _ _)

@[simp] theorem State.headless_clk (g pp : Nat) : (s.headless g pp).clk = s.clk := by
  unfold State.headless
  split <;> simp

@[simp] theorem State.forgetPeer_clk (g pp : Nat) : (s.forgetPeer g pp).clk = s.clk := by
  unfold State.forgetPeer
  refine foldl_clk (fun t p => ?_) _ s
  rw [State.setPort_clk]
  exact foldl_clk (fun _ _ => by split <;> rfl) _ t

@[simp] theorem State.loseMember_clk (g pp : Nat) : (s.loseMember g pp).clk = s.clk := by
  simp [State.loseMember]

@[simp] theorem State.losePeers_clk (p : Nat) : (s.losePeers p).clk = s.clk :=
  foldl_clk (fun t _ => foldl_clk (fun _ _ => by split <;> simp) _ t) _ s

@[simp] theorem State.losePower_clk : s.losePower.clk = s.clk := s.loseAll_clk _

@[simp] theorem State.loseMemory_clk (q : Nat) : (s.loseMemory q).clk = s.clk := State.loseAll_clk _ _

@[simp] theorem State.partnerLost_clk (q : Nat) : (s.partnerLost q).clk = s.clk := by
  unfold State.partnerLost
  split_ifs <;> simp [State.loseWork]

/-! ### Ports that go down, are reset and exchange (R401, R402, R404, R410) -/

@[simp] theorem State.portEvent_clk (q cls sev detail : Nat) : (s.portEvent q cls sev detail).clk = s.clk := s.event_clk _

@[simp] theorem State.dropFlights_clk (q : Nat) : (s.dropFlights q).clk = s.clk :=
  foldl_clk (fun _ _ => by split <;> split <;> rfl) _ s

@[simp] theorem State.portDown_clk (q st reason : Nat) (word : Bool) : (s.portDown q st reason word).clk = s.clk := by
  unfold State.portDown
  dsimp only
  split_ifs <;> simp

@[simp] theorem State.bringPort_clk (q : Nat) : (s.bringPort q).clk = s.clk := by
  unfold State.bringPort State.beginExchange
  dsimp only
  split_ifs <;> simp

@[simp] theorem State.resetPort_clk (q : Nat) : (s.resetPort q).clk = s.clk := by
  unfold State.resetPort
  dsimp only
  split_ifs <;> simp

@[simp] theorem State.bringPorts_clk (qs : List Nat) : (s.bringPorts qs).clk = s.clk :=
  foldl_clk (fun _ _ => by split <;> simp) qs s

@[simp] theorem State.downPorts_clk (qs : List Nat) : (s.downPorts qs).clk = s.clk :=
  foldl_clk (fun _ _ => by split <;> simp) qs s

/-! ### Quarantine and bypass maps (R84, R277) -/

@[simp] theorem State.clearWeights_clk (n : Nat) : (s.clearWeights n).clk = s.clk := rfl

@[simp] theorem State.refreshCores_clk : s.refreshCores.clk = s.clk := s.setObj_clk _ _

@[simp] theorem State.quarEngine_clk (n : Nat) : (s.quarEngine n).clk = s.clk := by simp [State.quarEngine]

@[simp] theorem State.quarCore_clk (c : Nat) (imm : Bool) : (s.quarCore c imm).clk = s.clk := by
  simp [State.quarCore, foldl_clk (fun (t : State) _ => t.clearWeights_clk _)]

@[simp] theorem State.applyMap_clk (n : Nat) : (s.applyMap n).clk = s.clk := by
  have hcleared : ((s.clearWeights n).clearTile n).clk = s.clk := State.endRanges_clk _ _
  unfold State.applyMap State.setMap
  dsimp only
  split <;> simp [hcleared]

@[simp] theorem State.applyPending_clk : s.applyPending.clk = s.clk := by
  unfold State.applyPending
  dsimp only
  rw [foldl_clk, foldl_clk, foldl_clk]
  all_goals
    intro t _
    split <;> simp

/-! ### The warm reset (R353, R410) -/

@[simp] theorem State.finishMoves_clk : s.finishMoves.clk = s.clk :=
  (foldl_clk (fun t _ => t.setObj_clk _ _) _ _).trans (foldl_clk (fun _ _ => by split <;> rfl) _ s)

@[simp] theorem State.warmClear_clk : s.warmClear.clk = s.clk := by
  have h : s.warmClear.clk = (s.endDebug.endRanges fun _ => true).clk := rfl
  simp [h]

@[simp] theorem State.switchSlot_clk (kind : Nat) : (s.switchSlot kind).clk = s.clk := by
  unfold State.switchSlot
  split <;> simp

@[simp] theorem State.warmImage_clk (act : Bool) : (s.warmImage act).clk = s.clk := by
  unfold State.warmImage State.bootSlot
  dsimp only
  split_ifs <;> simp

@[simp] theorem State.enterPorts_clk : s.enterPorts.clk = s.clk := by simp [State.enterPorts]

@[simp] theorem State.resetEvent_clk (cls cause : Nat) : (s.resetEvent cls cause).clk = s.clk := by simp [State.resetEvent]

@[simp] theorem State.warmNow_clk (cause : Nat) (act : Bool) : (s.warmNow cause act).clk = s.clk := by
  unfold State.warmNow
  dsimp only
  split <;> simp

end

end Sys2Proof.Machine
end

section
/-! PORT_RESET leaves the sidereal counter running, whatever object its index names (R192, R410). -/

namespace Sys2Proof.Machine

section
variable (s : State)

/-! ### The buckets and the kept answers (R382, R388, R389) -/

@[simp] theorem State.drawM_clk (src : Nat) : (s.drawM src).1.clk = s.clk := by
  have hput (t : State) (own : Bool) (b : Bucket) : (t.putBucket own b).clk = t.clk := by
    unfold State.putBucket
    split <;> rfl
  generalize hd : s.drawM src = d
  unfold State.drawM at hd
  dsimp only at hd
  split at hd <;> subst hd
  · exact hput s _ _
  · simp [State.flood, hput]

@[simp] theorem State.drawH_clk (tn : Nat) : (s.drawH tn).1.clk = s.clk := by
  generalize hd : s.drawH tn = d
  unfold State.drawH at hd
  dsimp only at hd
  split at hd <;> subst hd
  · rfl
  · simp

@[simp] theorem State.keep_clk (src xid w0 w1 : Nat) : (s.keep src xid w0 w1).clk = s.clk := by
  obtain ⟨m, hm⟩ := s.keep_eq src xid w0 w1
  rw [hm]

/-! ### Writes of group slots and buffer ranges (R294, R298, R300, R359) -/

@[simp] theorem State.rerouted_clk (g : Nat) : (s.rerouted g).clk = s.clk := by
  unfold State.rerouted
  split_ifs <;> simp

@[simp] theorem State.writeGroup_clk (g sub v : Nat) : (s.writeGroup g sub v).1.clk = s.clk := by
  have hreset (t : State) : (t.resetGroup g).clk = t.clk := by
    rw [State.resetGroup, State.elect_clk, State.mapGroup_clk]
    exact foldl_clk (fun u _ => u.setObj_clk _ _) _ t
  unfold State.writeGroup
  dsimp only
  split_ifs <;> simp [hreset]

@[simp] theorem State.writeRoute_clk (g pp v : Nat) : (s.writeRoute g pp v).1.clk = s.clk := by
  unfold State.writeRoute
  split_ifs <;> simp

@[simp] theorem State.writeMode_clk (p v : Nat) : (s.writeMode p v).1.clk = s.clk := by
  unfold State.writeMode
  dsimp only
  split
  · rfl
  · exact (foldl_clk (fun t g => t.rerouted_clk g) _ _).trans (s.setObj_clk _ _)

@[simp] theorem State.moveRange_clk (tn sub v : Nat) : (s.moveRange tn sub v).1.clk = s.clk := by
  have hsettle (t : State) (cl : Nat) : (t.settleRange tn cl).clk = t.clk := by
    unfold State.settleRange
    dsimp only
    split
    · simp [State.vacate]
    · rfl
  unfold State.moveRange
  extract_lets cl r r1
  split
  · exact hsettle _ _
  · rfl

@[simp] theorem State.writeSnapArea_clk (tn v : Nat) : (s.writeSnapArea tn v).1.clk = s.clk := by
  unfold State.writeSnapArea
  split_ifs <;> simp [State.store]

/-! ### Writes of a fifth subindex -/

/-- The rules of power, margins and containment name no fifth subindex. -/
theorem State.writePower_five (index v : Nat) : s.writePower index 5 v = none := by
  unfold State.writePower
  split
  iterate 6 · contradiction
  · simp

theorem State.writePorts_five {index v : Nat} {x : State × Nat} (h : s.writePorts index 5 v = some x) : x.1.clk = s.clk := by
  unfold State.writePorts at h
  split at h
  iterate 3 · contradiction
  · split at h
    · exact Option.some.inj h ▸ rfl
    · cases h

theorem State.requestDrain_clk (sub v tn : Nat) : (s.requestDrain sub v tn).1.clk = s.clk := by
  unfold State.requestDrain
  split <;> rfl

theorem State.writeTrust_five {t : Tran} (ht : t.sub = 5) {v : Nat} {x : State × Nat} (h : s.writeTrust t v = some x) :
    x.1.clk = s.clk := by
  unfold State.writeTrust at h
  split at h
  iterate 5 · omega
  · exact Option.some.inj h ▸ s.requestDrain_clk _ _ _
  · exact Option.some.inj h ▸ s.writeMode_clk _ _
  · rw [ht] at h
    split_ifs at h with _ _ hcore _ _ hquads
    · exact Option.some.inj h ▸ s.writeSnapArea_clk _ _
    · exact Option.some.inj h ▸ s.moveRange_clk _ _ _
    · simp at hcore
    · exact Option.some.inj h ▸ s.writeGroup_clk _ _ _
    · exact Option.some.inj h ▸ s.writeRoute_clk _ _ _
    · simp at hquads

theorem State.applyWrite_five {x : Tran} (hx : x.sub = 5) : (s.applyWrite x).1.clk = s.clk := by
  unfold State.applyWrite
  simp only [hx, s.writePower_five]
  split
  · next h => exact s.writePorts_five h
  · split
    · next h => exact s.writeTrust_five hx h
    · exact s.setObj_clk _ _

theorem State.tran_five {x : Tran} (hx : x.sub = 5) : (s.tran x).1.clk = s.clk := by
  unfold State.tran
  split
  · rfl
  · split
    · exact s.applyWrite_five hx
    · rfl

/-- After the answer a fifth subindex resets a port at most. -/
theorem State.afterAnswer_five {x : Tran} (hx : x.sub = 5) (status : Nat) : (s.afterAnswer x status).clk = s.clk := by
  unfold State.afterAnswer
  split_ifs with _ hreset
  · rfl
  · omega
  · exact s.resetPort_clk _
  · rfl

theorem State.serveM_five (src sport xid : Nat) {x : Tran} (hx : x.sub = 5) (hw : x.wr = true) :
    (s.serveM src sport xid x).clk = s.clk := by
  generalize h : s.serveM src sport xid x = t
  rw [State.serveM] at h
  dsimp only at h
  rw [if_pos hw, if_pos hw] at h
  split at h
  · split at h <;> subst h
    · rw [State.emit_clk, State.drawM_clk]
    · exact s.drawM_clk src
  · split at h <;> subst h
    · rw [State.emit_clk, State.drawM_clk]
    · rw [State.afterAnswer_five _ hx, State.keep_clk, State.emit_clk, State.tran_five _ hx, State.drawM_clk]

theorem State.request_five (r : Req) (index : Nat) : (s.request r index 5).clk = s.clk := by
  have hdraw := s.drawH_clk r.tenant
  rw [State.request]
  generalize s.drawH r.tenant = d at hdraw ⊢
  cases r.role with
  | m =>
    dsimp only
    split
    · exact s.serveM_five _ _ _ rfl rfl
    · rfl
  | h =>
    dsimp only
    split
    · rw [State.afterAnswer_five _ rfl, State.tran_five _ rfl, hdraw]
    · exact hdraw
  | t =>
    dsimp only
    rw [State.afterAnswer_five _ rfl, State.emit_clk, State.tran_five _ rfl]

end

end Sys2Proof.Machine
end

section
/-! The sidereal counter: which commands advance it, clear it and leave it (R192). -/

namespace Sys2Proof.Machine

/-! ### Every command but the strobe edge keeps or clears the counter -/

/-- Every command but the strobe edge keeps the queue, the configuration, a good state and what has been sent, and keeps or clears the
counter. -/
theorem exec_keeps {c : Instr} (hc : c ≠ .siderealCounterAdvance) (s : State) : OutKeeps s (exec c s) := by
  have h := Keeps.refl s
  cases c with
  | loadw => exact execLoadw_keeps h
  | stream => exact execStream_keeps h
  | preload => exact execPreload_keeps h
  | drain => exact execDrain_keeps h
  | scan => exact execScan_keeps h
  | mpass => exact execMpass_keeps h
  | ownerXred => exact execOwnerXred_keeps h
  | contribution => exact execContribution_keeps h
  | trimmedLongContribution => exact execTrimmedLongContribution_keeps h
  | collection => exact execCollection_keeps h
  | retract => exact execRetract_keeps h
  | fenceOrder => exact execFenceOrder_keeps h
  | fenceEpoch => exact execFenceEpoch_keeps h
  | fenceQuiesce => exact execFenceQuiesce_keeps h
  | gate => exact execGate_keeps h
  | commit => exact execCommit_keeps h
  | squash => exact execSquash_keeps h
  | save => exact execSave_keeps h
  | restore => exact execRestore_keeps h
  | dictRead => exact execDictRead_keeps h
  | dictWrite => exact execDictWrite_keeps h
  | ballast => exact execBallast_keeps h
  | responseCredit => exact execResponseCredit_keeps h
  | opStart => exact execOpStart_keeps h
  | shadowRowWrite => exact execShadowRowWrite_keeps h
  | swapFront => exact execSwapFront_keeps h
  | tokenPresent => exact execTokenPresent_keeps h
  | runningSumAdd => exact execRunningSumAdd_keeps h
  | localRetry => exact execLocalRetry_keeps h
  | drainRowConvert => exact execDrainRowConvert_keeps h
  | preloadRowWrite => exact execPreloadRowWrite_keeps h
  | spineSend => exact execSpineSend_keeps h
  | spineReceive => exact execSpineReceive_keeps h
  | spineResend => exact execSpineResend_keeps h
  | snapshotTake => exact execSnapshotTake_keeps h
  | snapshotRestore => exact execSnapshotRestore_keeps h
  | commitTakesEffect => exact execCommitTakesEffect_keeps h
  | regionTtlExpiry => exact execRegionTtlExpiry_keeps h
  | rerollVerdict => exact execRerollVerdict_keeps h
  | opDelivery => exact execOpDelivery_keeps h
  | ballastToken => exact execBallastToken_keeps h
  | ballastHoldExpiry => exact execBallastHoldExpiry_keeps h
  | forecastLeadExpiry => exact execForecastLeadExpiry_keeps h
  | siderealCounterAdvance => exact absurd rfl hc
  | strobeLost => exact execStrobeLost_keeps h
  | strobeRestored => exact execStrobeRestored_keeps h
  | promiseFloorEvaluation => exact execPromiseFloorEvaluation_keeps h
  | vt => exact execVt_keeps h
  | stepdn => exact execStepdn_keeps h
  | deny => exact execDeny_keeps h
  | excursion => exact execExcursion_keeps h
  | excursionEnd => exact execExcursionEnd_keeps h
  | stepUpTimeout => exact execStepUpTimeout_keeps h
  | envelopeStepUpRequest => exact execEnvelopeStepUpRequest_keeps h
  | envelopeStepDownRequest => exact execEnvelopeStepDownRequest_keeps h
  | coolingClass => exact execCoolingClass_keeps h
  | powerCap => exact execPowerCap_keeps h
  | pendingMarginStep => exact execPendingMarginStep_keeps h
  | marginStepInForce => exact execMarginStepInForce_keeps h
  | pendingBypassMap => exact execPendingBypassMap_keeps h
  | bypassMapApply => exact execBypassMapApply_keeps h
  | tenantState => exact execTenantState_keeps h
  | tenantRelease => exact execTenantRelease_keeps h
  | coreOwner => exact execCoreOwner_keeps h
  | quadrantOwners => exact execQuadrantOwners_keeps h
  | bufferRange => exact execBufferRange_keeps h
  | coreMoveComplete => exact execCoreMoveComplete_keeps h
  | debugMode => exact execDebugMode_keeps h
  | debugExpiry => exact execDebugExpiry_keeps h
  | transferOpen => exact execTransferOpen_keeps h
  | transferChunk => exact execTransferChunk_keeps h
  | transferVerify => exact execTransferVerify_keeps h
  | gfwActivate => exact execGfwActivate_keeps h
  | gfwHeartbeat => exact execGfwHeartbeat_keeps h
  | gfwHeartbeatTimeout => exact execGfwHeartbeatTimeout_keeps h
  | flashCommit => exact execFlashCommit_keeps h
  | coldResetRequest => exact execColdResetRequest_keeps h
  | warmResetRequest => exact execWarmResetRequest_keeps h
  | warmReset => exact execWarmReset_keeps h
  | powerGood => exact execPowerGood_keeps h
  | powerGoodLoss => exact execPowerGoodLoss_keeps h
  | admissionOpen => exact execAdmissionOpen_keeps h
  | portReset => exact execPortReset_keeps h
  | quarantineHoldExpiry => exact execQuarantineHoldExpiry_keeps h
  | liveRise => exact execLiveRise_keeps h
  | liveLoss => exact execLiveLoss_keeps h
  | cap => exact execCap_keeps h
  | capsel => exact execCapsel_keeps h
  | down => exact execDown_keeps h
  | exchangeTimeout => exact execExchangeTimeout_keeps h
  | racingFault => exact execRacingFault_keeps h
  | silenceBoundExpiry => exact execSilenceBoundExpiry_keeps h
  | creditBoundExpiry => exact execCreditBoundExpiry_keeps h
  | creditReturn => exact execCreditReturn_keeps h
  | memoryReadLines => exact execMemoryReadLines_keeps h
  | frameSend => exact execFrameSend_keeps h
  | data => exact execData_keeps h
  | end_ => exact execEnd_keeps h
  | ack => exact execAck_keeps h
  | resend => exact execResend_keeps h
  | result => exact execResult_keeps h
  | collect => exact execCollect_keeps h
  | commitNotice => exact execCommitNotice_keeps h
  | revoke => exact execRevoke_keeps h
  | abort => exact execAbort_keeps h
  | claim => exact execClaim_keeps h
  | claimreply => exact execClaimreply_keeps h
  | elected => exact execElected_keeps h
  | allot => exact execAllot_keeps h
  | claimRetry => exact execClaimRetry_keeps h
  | rangeTimeout => exact execRangeTimeout_keeps h
  | beaconPeriod => exact execBeaconPeriod_keeps h
  | beacon => exact execBeacon_keeps h
  | memberLost => exact execMemberLost_keeps h
  | write => exact execWrite_keeps h
  | evack => exact execEvack_keeps h
  | eventSend => exact execEventSend_keeps h
  | eventRetry => exact execEventRetry_keeps h
  | coalescingIntervalExpiry => exact execCoalescingIntervalExpiry_keeps h
  | neighbourSolicitation => exact execNeighbourSolicitation_keeps h
  | echoRequest => exact execEchoRequest_keeps h
  | drainRequest => exact execDrainRequest_keeps h
  | dictionaryDrain => exact execDictionaryDrain_keeps h
  | deckRotation => exact execDeckRotation_keeps h
  | coreTestStart => exact execCoreTestStart_keeps h
  | coreTestEnd => exact execCoreTestEnd_keeps h
  | deckPause => exact execDeckPause_keeps h
  | releaseRequest => exact execReleaseRequest_keeps h
  | quarantine => exact execQuarantine_keeps h
  | offenceDecay => exact execOffenceDecay_keeps h
  | sweepRequest => exact execSweepRequest_keeps h
  | ageingSweep => exact execAgeingSweep_keeps h
  | unlistedOpDescriptor => exact execUnlistedOpDescriptor_keeps h
  | badMessage => exact execBadMessage_keeps h
  | reservedFrameType => exact execReservedFrameType_keeps h

/-! ### Cold resets clear the counter (R192, R402, R410, R411) -/

theorem State.coldState_counter (s : State) : s.coldState.clk.counter = 0 := by
  unfold State.coldState
  rw [foldl_clk, foldl_clk]
  · exact fun _ _ => rfl
  · intro t c
    unfold State.carry
    split_ifs <;> simp

theorem State.coldStart_counter (s : State) (cause : Nat) (deck : List OpeningFail) : (s.coldStart cause deck).clk.counter = 0 := by
  rw [State.coldStart]
  refine (State.bootOn_keeps (Keeps.refl _)).count.elim (fun h => h.trans ?_) id
  rw [State.resetEvent_clk]
  exact s.coldState_counter

theorem State.coldRequest_counter (s : State) : s.coldRequest.clk.counter = 0 := by
  rw [State.coldRequest, State.drawFree_clk]
  exact State.coldStart_counter _ _ _

/-- COLD_RESET_REQUEST (R410). -/
theorem coldResetRequest_writes (s : State) (r : Req) (hv : ofLe r.value = 1) :
    Safety.writes (.coldResetRequest r) s fun _ t => t.clk.counter = 0 := by
  refine writes_of_afterAnswer rfl rfl (fun _ _ m => ⟨_, rfl, fun m' os _ => ?_⟩)
  have hreset (t : State) : t.afterAnswer (Safety.tranOf r 0x1300 0) stOk = t.coldRequest := by
    simp [State.afterAnswer, Safety.tranOf, hv, State.requestReset]
  rw [hreset]
  exact State.coldRequest_counter _

/-! ### Resets that leave the counter running (R192) -/

theorem exec_warmReset_clk {s t : State} (h : exec .warmReset s = .next t) : t.clk = s.clk := by
  change execWarmReset s = _ at h
  unfold execWarmReset at h
  split at h <;> split at h <;> obtain rfl := Host.Outcome.next.inj h
  · exact s.warmNow_clk _ _
  · rfl
  · exact s.warmNow_clk _ _
  · rfl

theorem exec_quarantineHoldExpiry_clk {q : Nat} {s t : State} (h : exec (.quarantineHoldExpiry q) s = .next t) : t.clk = s.clk := by
  change execQuarantineHoldExpiry q s = _ at h
  unfold execQuarantineHoldExpiry at h
  dsimp only at h
  split_ifs at h <;> cases h
  · exact s.resetPort_clk q
  · rfl

theorem exec_quarantine_clk {u : HwUnit} {s t : State} (h : exec (.quarantine u) s = .next t) : t.clk = s.clk := by
  change execQuarantine u s = _ at h
  unfold execQuarantine at h
  split at h
  · cases h
  · split at h
    · cases h
      rfl
    · split at h
      · split at h <;> cases h
        · rfl
        · exact s.quarEngine_clk _
      · split at h <;> cases h
        · rfl
        · exact s.quarCore_clk _ _
      · cases h
        rfl

/-! ### The counter as an object (R192, R369) -/

theorem State.readBytes_counter (s : State) : s.readBytes 0x2200 0 = leBytes 8 s.clk.counter.toNat := by
  have hinfo : objInfo s.conf 0x2200 0 = some (.ro .time 0 .volatile) := by cases s.conf <;> rfl
  have hread : s.readObj 0x2200 0 = s.clk.counter.toNat := rfl
  rw [State.readBytes, hinfo, hread]
  rfl

/-- Settles O5: a strobe edge is `exec_strobeEdge`, every other command keeps or clears the counter, and the operations that the
resets of the sixth clause are made of write no clock. -/
theorem onlyTheStrobeAdvancesTheCounter : Obligations.Only_the_strobe_advances_the_counter := by
  refine ⟨fun s hlost hgood => ⟨_, exec_strobeEdge hlost hgood, rfl⟩, ?other, fun r s hv => coldResetRequest_writes s r hv, ?good, ?loss,
    ?running, State.readBytes_counter⟩
  case other =>
    intro c s t hc hexec
    have hkeeps := exec_keeps hc s
    rw [hexec] at hkeeps
    exact hkeeps.count
  case good =>
    intro fs s hgood
    exact ⟨_, (if_neg (by simp [hgood]) : exec (.powerGood fs) s = _), s.coldStart_counter 1 fs⟩
  case loss =>
    intro s hgood
    exact ⟨_, (if_pos hgood : exec .powerGoodLoss s = _), State.coldState_counter _⟩
  case running =>
    rintro c s t (rfl | ⟨q, r, rfl⟩ | ⟨q, rfl⟩ | ⟨u, rfl⟩) hexec
    · rw [exec_warmReset_clk hexec]
    · cases hexec
      rw [s.request_five r]
    · rw [exec_quarantineHoldExpiry_clk hexec]
    · rw [exec_quarantine_clk hexec]

end Sys2Proof.Machine
end

section
/-! The promise floor grants the lower of the cap in force and a pending one (R208, R342, R344): a pending cap above the cap in force is
given up, not granted. -/

namespace Sys2Proof.Machine

/-- A D4 without speed tables, the power port up, a cap of 50 W in force and a higher one of 100 W pending. -/
def higherCapPending : State := { State.reset with
  dict := { State.reset.dict with vals := [(key 0x2000 3, 50)] }
  ports := [(25, upPort)]
  pwr := { State.reset.pwr with pendCap := some 100 } }

/-- No margin step is pending there. -/
theorem higherCapPending_margins : ∀ x < higherCapPending.conf.cores,
    higherCapPending.obj (key (0x2100 + x) 3) ≤ higherCapPending.obj (key (0x2100 + x) 1) := by decide +kernel

/-- A core without a speed table is within every floor. -/
theorem higherCapPending_withinFloor (c : Nat) : higherCapPending.withinFloor c = true := rfl

/-- The evaluation keeps the cap in force. -/
theorem higherCapPending_granted : higherCapPending.grantMargins.grantDown.capW = 50 := by decide +kernel

/-- Refutes O36: with a cap of 50 W in force and one of 100 W pending alone, every floor admitting it, the cap that is in force after the
evaluation is the lower of the two, not the pending one. -/
theorem not_promiseFloorGrantsWhatItAdmits : ¬Obligations.Promise_floor_grants_what_it_admits := by
  intro h
  obtain ⟨-, hgrants⟩ := h
  obtain ⟨-, -, hcap⟩ := hgrants higherCapPending higherCapPending_margins (fun c _ => higherCapPending_withinFloor c) rfl (by decide +kernel)
    (by decide +kernel)
  obtain ⟨t, hexec, hcapW, -⟩ := hcap 100 rfl (by decide) rfl
  obtain rfl : higherCapPending.grantMargins.grantDown = t := Host.Outcome.next.inj hexec
  exact absurd (higherCapPending_granted.symm.trans hcapW) (by decide)

end Sys2Proof.Machine
end

section
/-! The writes of cooling class, envelope, cap and margin: each object's own rules, and what is in force after the command (R209, R214,
R340 to R344). -/

namespace Sys2Proof.Machine

/-! ### The range of a written value (R380) -/

/-- A value that passes its checks lies in the range of its object. -/
theorem State.range_of_tranStatus {s : State} {x : Tran} {o : Obj} (h : s.tranStatus x = none) (hinfo : objInfo s.conf x.index x.sub = some o)
    (hw : x.wr = true) (hindex : x.index ≠ 0x7011) : o.lo ≤ ofLe x.value ∧ ofLe x.value ≤ o.hi := by
  unfold State.tranStatus at h
  simp only [hinfo, hw, hindex, ne_eq, not_false_eq_true, true_and, Bool.true_eq_false, if_false] at h
  split_ifs at h with _ _ _ _ _ hrange
  omega

/-- A margin object exists for the cores that are built alone. -/
theorem objInfo_margin {conf : Conf} {core sub : Nat} (hcore : core < 64) :
    objInfo conf (0x2100 + core) sub = if core < conf.cores then objCore sub else none := by
  have hidentity : objIdentity conf (0x2100 + core) sub = none := by
    unfold objIdentity
    split
    iterate 13 · omega
    · rfl
  have hports : objPorts (0x2100 + core) sub = none := by
    unfold objPorts
    split
    iterate 17 · omega
    · rfl
  have hmgmt : objMgmt (0x2100 + core) sub = none := by
    unfold objMgmt
    split
    iterate 18 · omega
    · rfl
  have hpower : objPower conf (0x2100 + core) sub = none := by
    unfold objPower
    split
    iterate 19 · omega
    · rfl
  have hrecords : objRecords (0x2100 + core) sub = none := by
    unfold objRecords
    split
    iterate 5 · omega
    · rw [if_neg (by omega), if_neg (by omega), if_neg (by omega), if_neg (by omega)]
  have hdeck : objDeck (0x2100 + core) sub = none := by
    unfold objDeck
    split
    iterate 14 · omega
    · exact if_neg (by omega)
  have htrust : objTrust (0x2100 + core) sub = none := by
    unfold objTrust
    split
    iterate 22 · omega
    · rfl
  rw [objInfo, hidentity, hports, hmgmt, hpower, hrecords, hdeck, htrust]
  change objUnit conf (0x2100 + core) sub = _
  unfold objUnit
  rw [if_neg (by omega)]
  by_cases hbuilt : core < conf.cores
  · rw [if_pos (by omega), if_pos hbuilt]
  · rw [if_neg hbuilt]
    iterate 13 rw [if_neg (by omega)]

/-- A write that passes its checks names an object (R374). -/
theorem State.objInfo_of_tranStatus {s : State} {x : Tran} (h : s.tranStatus x = none) : objInfo s.conf x.index x.sub ≠ none := by
  intro hinfo
  unfold State.tranStatus at h
  simp only [hinfo] at h
  split at h <;> cases h

/-- A pending margin step that passes its checks is of a core that is built, from 0 to 15. -/
theorem objInfo_pendingMargin {s : State} {core : Nat} {r : Req} (hcore : core < 64)
    (h : s.tranStatus (Safety.tranOf r (0x2100 + core) 3) = none) :
    objInfo s.conf (0x2100 + core) 3 = some (.tmon .u8 0 0 15 .volatile) := by
  have hinfo := objInfo_margin (conf := s.conf) (sub := 3) hcore
  split at hinfo
  · exact hinfo
  · exact absurd hinfo (State.objInfo_of_tranStatus h)

/-! ### What a change of the envelope or the cap leaves -/

/-- No default follows the cores that are offered. -/
theorem defaultSource_ne_offered (j : Nat) : defaultSource j ≠ some (key 0x1000 0) := by
  unfold defaultSource
  split_ifs <;> simp only [ne_eq, Option.some.injEq, reduceCtorEq, not_false_eq_true, key] <;> omega

/-- A step-up in progress ends with its record and at most an ENVREQ (R341). -/
theorem State.abandonUp_cases (s : State) (deny down : Bool) : (s.pwr.up = none ∧ s.abandonUp deny down = s) ∨ ∃ os e,
    s.abandonUp deny down = ({ s with pwr := { s.pwr with up := none, metEnv := s.pwr.env }, out := os } : State).event e := by
  unfold State.abandonUp
  split
  · next h => exact .inl ⟨h, rfl⟩
  · refine .inr ?_
    unfold State.sendEnvReq State.sendPower
    dsimp only
    split
    · split <;> exact ⟨_, _, rfl⟩
    · exact ⟨_, _, rfl⟩

/-- From the one state to the other at most the power record, the offered cores, the records, the notices and what has been sent change. -/
structure State.Repowers (s t : State) : Prop where
  obj : ∀ j, j ≠ key 0x1000 0 → j ≠ key 0x4000 2 → t.obj j = s.obj j
  array : Safety.sameArray t s
  ops : t.ops = s.ops

namespace State.Repowers

variable {s t u : State}

theorem refl (s : State) : s.Repowers s := ⟨fun _ _ _ => rfl, ⟨rfl, rfl, rfl, rfl, rfl, rfl, rfl⟩, rfl⟩

theorem trans (h : s.Repowers t) (g : t.Repowers u) : s.Repowers u := by
  obtain ⟨hregs, htiles, hcells, hshadow, hchains, hspine, hbuf⟩ := h.array
  obtain ⟨gregs, gtiles, gcells, gshadow, gchains, gspine, gbuf⟩ := g.array
  exact ⟨fun j hcores hlost => (g.obj j hcores hlost).trans (h.obj j hcores hlost),
    ⟨gregs.trans hregs, gtiles.trans htiles, gcells.trans hcells, gshadow.trans hshadow, gchains.trans hchains, gspine.trans hspine,
      gbuf.trans hbuf⟩, g.ops.trans h.ops⟩

theorem withPwr (s : State) (p : Power) (os : List Out) : s.Repowers { s with pwr := p, out := os } :=
  ⟨fun _ _ _ => rfl, ⟨rfl, rfl, rfl, rfl, rfl, rfl, rfl⟩, rfl⟩

theorem event (s : State) (e : Event) : s.Repowers (s.event e) :=
  ⟨fun _ _ hlost => State.obj_event hlost e, by simp [Safety.sameArray], by simp⟩

theorem refreshCores (s : State) : s.Repowers s.refreshCores :=
  ⟨fun j hcores _ => State.obj_setObj_of_ne hcores (defaultSource_ne_offered j), by simp [State.refreshCores, Safety.sameArray],
    by simp [State.refreshCores]⟩

theorem abandonUp (s : State) (deny down : Bool) : s.Repowers (s.abandonUp deny down) := by
  obtain ⟨-, h⟩ | ⟨os, e, h⟩ := s.abandonUp_cases deny down <;> rw [h]
  · exact refl s
  · exact (withPwr s _ os).trans (event _ e)

theorem pendDown (s : State) (env cap : Option Nat) (stage : Bool) : s.Repowers (s.pendDown env cap stage) :=
  ((abandonUp s _ _).trans (withPwr _ _ _)).trans (refreshCores _)

end State.Repowers

theorem State.Repowers.array_of_setObj {s t : State} {k v : Nat} (h : (s.setObj k v).Repowers t) : Safety.sameArray t s := by
  simpa [Safety.sameArray] using h.array

theorem State.Repowers.ops_of_setObj {s t : State} {k v : Nat} (h : (s.setObj k v).Repowers t) : t.ops = s.ops := by
  simpa using h.ops

/-- A step-up that is abandoned leaves the envelope and what is pending (R341). -/
theorem State.abandonUp_pwr (s : State) (deny down : Bool) : ∃ m, (s.abandonUp deny down).pwr = { s.pwr with up := none, metEnv := m } := by
  obtain ⟨hup, h⟩ | ⟨os, e, h⟩ := s.abandonUp_cases deny down <;> rw [h]
  · exact ⟨s.pwr.metEnv, by rw [← hup]⟩
  · exact ⟨s.pwr.env, State.event_pwr _ e⟩

/-- A step-down that becomes pending, not of the stage's asking (R342). -/
theorem State.pendDown_env (s : State) (e : Nat) : ∃ m, (s.pendDown (some e) none false).pwr =
    { s.pwr with up := none, metEnv := m, pendEnv := some (min e (s.pwr.pendEnv.getD e)) } := by
  obtain ⟨m, hm⟩ := s.abandonUp_pwr false true
  refine ⟨m, (State.setObj_pwr _ _ _).trans ?_⟩
  simp only [State.mapPwr, hm, Bool.or_false, Bool.false_eq_true, if_false]

/-- A lower cap that becomes pending, not of the stage's asking (R344). -/
theorem State.pendDown_cap (s : State) (c : Nat) : ∃ m, (s.pendDown none (some c) false).pwr =
    { s.pwr with up := none, metEnv := m, pendCap := some c } := by
  obtain ⟨m, hm⟩ := s.abandonUp_pwr false true
  refine ⟨m, (State.setObj_pwr _ _ _).trans ?_⟩
  simp only [State.mapPwr, hm, Bool.or_false, Bool.false_eq_true, if_false]

/-- An envelope below every one in force, pending or granted takes the place of a pending one. -/
theorem State.min_pendEnv {s : State} {v : Nat} (h : v < s.envTarget) : min v (s.pwr.pendEnv.getD v) = v := by
  unfold State.envTarget at h
  cases hp : s.pwr.pendEnv with
  | none => simp
  | some e =>
    rw [hp, Option.getD_some] at h
    rw [Option.getD_some]
    omega

/-! ### The rules of the objects -/

/-- COOLING_CLASS (R340). -/
theorem State.setCooling_spec {s : State} {v : Nat} (hv : v ≤ 2) : ∃ t, s.setCooling v = (t, stOk) ∧
    (s.setObj (key 0x2000 0) v).Repowers t ∧ t.pwr.env = s.pwr.env ∧
    t.pwr.pendEnv = if v < s.envTarget then some v else s.pwr.pendEnv := by
  have htarget : (s.setObj (key 0x2000 0) v).envTarget = s.envTarget := by rw [State.envTarget, State.setObj_pwr, State.envTarget]
  rw [State.setCooling, if_neg (by omega)]
  dsimp only
  rw [htarget]
  split
  · next hlow =>
    obtain ⟨m, hm⟩ := (s.setObj (key 0x2000 0) v).pendDown_env v
    exact ⟨_, rfl, .pendDown _ _ _ _, by rw [hm, State.setObj_pwr], by rw [hm, State.setObj_pwr, State.min_pendEnv hlow]⟩
  · split
    · obtain ⟨m, hm⟩ := (s.setObj (key 0x2000 0) v).abandonUp_pwr false true
      exact ⟨_, rfl, .abandonUp _ _ _, by rw [hm, State.setObj_pwr], by rw [hm, State.setObj_pwr]⟩
    · exact ⟨_, rfl, .refl _, by rw [State.setObj_pwr], by rw [State.setObj_pwr]⟩

theorem State.requestEnv_up {s : State} {v : Nat} (hv : v ≤ 2) (henv : s.pwr.env < v) (hpend : s.pwr.pending = false)
    (hup : s.pwr.up = none) (hcool : v ≤ s.obj (key 0x2000 0)) (hdwell : s.dwells = false) : s.requestEnv v = (s.stepUp v, stOk) := by
  rw [State.requestEnv, if_neg (by omega), if_neg (by omega), if_neg (by omega), if_neg]
  simp [hpend, hup, hdwell, hcool]

/-- A step-up asked of the stage changes the power record and what has been sent (R341). -/
theorem State.stepUp_eq (s : State) (v : Nat) : ∃ os, s.stepUp v = { s with pwr := { s.pwr with up := some (v, s.now) }, out := os } := by
  unfold State.stepUp State.sendEnvReq State.sendPower
  split <;> exact ⟨_, rfl⟩

theorem State.sendPower_out {s : State} (h : s.up 25 = true) (type body : Nat) :
    (s.sendPower type body).out = s.out ++ [.power (BitVec.ofNat 64 (at_ 1 60 + at_ type 56 + body))] := by
  rw [State.sendPower, if_pos h]
  rfl

/-- A step-up is asked by an ENVREQ with the cap in force (R341, Table 13-3; log 47). -/
theorem State.mem_stepUp {s : State} (hport : s.up 25 = true) (hcap : s.capW < 4096) (v : Nat) :
    Out.power (BitVec.ofNat 64 (2 ^ 60 + 3 * 2 ^ 56 + v * 2 ^ 54 + s.capW * 2 ^ 42)) ∈ (s.stepUp v).out := by
  have hword : 2 ^ 60 + 3 * 2 ^ 56 + v * 2 ^ 54 + s.capW * 2 ^ 42 = at_ 1 60 + at_ 3 56 + (at_ v 54 + at_ (s.capW % 4096) 42) := by
    rw [Nat.mod_eq_of_lt hcap]
    unfold at_
    omega
  have hout : (s.stepUp v).out = s.out ++ [.power (BitVec.ofNat 64 (at_ 1 60 + at_ 3 56 + (at_ v 54 + at_ (s.capW % 4096) 42)))] := 
    State.sendPower_out (s := s.mapPwr _) hport 3 _
  rw [hword, hout]
  exact List.mem_append_right _ (List.mem_singleton_self _)

theorem State.requestEnv_down {s : State} {v : Nat} (hv : v ≤ 2) (hlow : v < s.envTarget) :
    s.requestEnv v = (s.pendDown (some v) none false, stOk) := by
  have henv : v < s.pwr.env := by
    unfold State.envTarget at hlow
    omega
  rw [State.requestEnv, if_neg (by omega), if_pos henv, if_pos hlow]

theorem State.requestCap_lower {s : State} {v : Nat} (hrange : v = 0 ∨ (s.capRange.1 ≤ v ∧ v ≤ s.capRange.2))
    (hlow : s.capLowers v = true) : s.requestCap v = (s.pendDown none (some v) false, stOk) := by
  rw [State.requestCap]
  rw [if_neg (by omega), if_pos hlow]

theorem State.requestCap_higher {s : State} {v : Nat} (hrange : v = 0 ∨ (s.capRange.1 ≤ v ∧ v ≤ s.capRange.2))
    (hlow : s.capLowers v = false) (hne : v ≠ s.capPriced) (hpend : s.pwr.pending = false) (hdwell : s.dwells = false) :
    s.requestCap v = (s.setObj (key 0x2000 3) v, stOk) := by
  rw [State.requestCap]
  rw [if_neg (by omega), if_neg (by simp [hlow]), if_neg hne, if_neg (by simp [hpend, hdwell])]

theorem State.obj_marginInForce (s : State) {core : Nat} (hcore : core < 64) :
    s.obj (key (0x2100 + core) 1) = s.unset (key (0x2100 + core) 3) := by
  have hindex (sub : Nat) (hsub : sub < 256) : key (0x2100 + core) sub / 256 = 0x2100 + core ∧ key (0x2100 + core) sub % 256 = sub := by
    unfold key
    omega
  obtain ⟨hi1, hs1⟩ := hindex 1 (by omega)
  obtain ⟨hi3, hs3⟩ := hindex 3 (by omega)
  rw [State.obj, State.unset, State.unset, hi1, hs1, hi3, hs3]
  rw [if_pos (by omega), if_neg (by omega), if_pos (by omega)]

/-- A pending margin step smaller than the one in force reads as written once it is in force (R209, R214). -/
theorem State.obj_pendingMargin (s : State) {core v : Nat} (hcore : core < 64) (hlow : v < s.obj (key (0x2100 + core) 1)) :
    ((s.setObj (key (0x2100 + core) 3) v).setObj (key (0x2100 + core) 1) v).obj (key (0x2100 + core) 3) = v := by
  have hne : key (0x2100 + core) 3 ≠ key (0x2100 + core) 1 := by unfold key; omega
  have hstored : v ≠ s.unset (key (0x2100 + core) 3) := by
    rw [← s.obj_marginInForce hcore]
    omega
  rw [State.obj, State.setObj_vals, sget_sset_of_ne hne, State.setObj_vals, sset, if_neg hstored, sget, sfind_sput, if_pos rfl,
    Option.getD_some]

/-- No default follows the pending margin step. -/
theorem defaultSource_ne_pendingMargin (j core : Nat) : defaultSource j ≠ some (key (0x2100 + core) 3) := by
  unfold defaultSource
  split_ifs <;> simp only [ne_eq, Option.some.injEq, reduceCtorEq, not_false_eq_true, key] <;> omega

/-- PENDING_MARGIN_STEP from the floor up (R209, R214; log 40). -/
theorem State.pendMargin_spec {s : State} {core v : Nat} (hcore : core < 64) (hlo : s.mfloor core ≤ v) (hhi : v ≤ 15) : ∃ t,
    s.pendMargin core v = (t, stOk) ∧ t.obj (key (0x2100 + core) 3) = v ∧
    t.obj (key (0x2100 + core) 1) = min v (s.obj (key (0x2100 + core) 1)) ∧ { t with dict := s.dict, mg := s.mg } = s := by
  have hne : key (0x2100 + core) 1 ≠ key (0x2100 + core) 3 := by unfold key; omega
  rw [State.pendMargin, if_neg (by omega)]
  split
  · next hlow =>
    refine ⟨_, rfl, s.obj_pendingMargin hcore hlow, ?_, ?_⟩
    · rw [State.obj_setObj_self]
      omega
    · exact (congrArg (fun u : State => { u with dict := s.dict, mg := s.mg })
        ((s.setObj (key (0x2100 + core) 3) v).setObj_frame (key (0x2100 + core) 1) v) :).trans (s.setObj_frame _ v)
  · refine ⟨_, rfl, State.obj_setObj_self, ?_, s.setObj_frame _ v⟩
    rw [State.obj_setObj_of_ne hne (defaultSource_ne_pendingMargin _ _)]
    omega

/-- MARGIN_STEP_IN_FORCE towards the floor (R209; log 40). -/
theorem State.forceMargin_spec {s : State} {core v : Nat} (hlo : s.mfloor core ≤ v) (hhi : v ≤ s.obj (key (0x2100 + core) 1)) : ∃ t,
    s.forceMargin core v = (t, stOk) ∧ t.obj (key (0x2100 + core) 1) = v ∧
    t.obj (key (0x2100 + core) 3) =
      (if s.obj (key (0x2100 + core) 3) = s.obj (key (0x2100 + core) 1) then v else s.obj (key (0x2100 + core) 3)) ∧
    { t with dict := s.dict, mg := s.mg } = s := by
  have hne : key (0x2100 + core) 1 ≠ key (0x2100 + core) 3 := by unfold key; omega
  rw [State.forceMargin, if_neg (by omega)]
  refine ⟨_, rfl, ?_, State.obj_setObj_self, ?_⟩
  · rw [State.obj_setObj_of_ne hne (defaultSource_ne_pendingMargin _ _), State.obj_setObj_self]
  · exact (congrArg (fun u : State => { u with dict := s.dict, mg := s.mg })
      ((s.setObj (key (0x2100 + core) 1) v).setObj_frame (key (0x2100 + core) 3) _) :).trans (s.setObj_frame _ v)

/-! ### Which rules a write meets (R380) -/

section
variable {s : State} {role : Role} {tn core : Nat} {value : List Byte}

theorem State.applyWrite_cooling : s.applyWrite ⟨role, tn, true, 0x2000, 0, value⟩ = s.setCooling (ofLe value) := by
  simp [State.applyWrite, State.writePorts_none, State.writePower]

theorem State.applyWrite_envelope : s.applyWrite ⟨role, tn, true, 0x2000, 2, value⟩ = s.requestEnv (ofLe value) := by
  simp [State.applyWrite, State.writePorts_none, State.writePower]

theorem State.applyWrite_cap : s.applyWrite ⟨role, tn, true, 0x2000, 3, value⟩ = s.requestCap (ofLe value) := by
  simp [State.applyWrite, State.writePorts_none, State.writePower]

theorem State.writePower_pendingMargin {v : Nat} (hcore : core < 64) : s.writePower (0x2100 + core) 3 v = some (s.pendMargin core v) := by
  unfold State.writePower
  split
  iterate 6 · omega
  · exact (if_pos (by omega)).trans (by simp)

theorem State.writePower_marginInForce {v : Nat} (hcore : core < 64) : s.writePower (0x2100 + core) 1 v = some (s.forceMargin core v) := by
  unfold State.writePower
  split
  iterate 6 · omega
  · exact (if_pos (by omega)).trans (by simp)

theorem State.applyWrite_pendingMargin (hcore : core < 64) :
    s.applyWrite ⟨role, tn, true, 0x2100 + core, 3, value⟩ = s.pendMargin core (ofLe value) := by
  simp only [State.applyWrite, State.writePorts_none (show 0x132D ≤ 0x2100 + core by omega) (by omega),
    State.writePower_pendingMargin hcore]

theorem State.applyWrite_marginInForce (hcore : core < 64) :
    s.applyWrite ⟨role, tn, true, 0x2100 + core, 1, value⟩ = s.forceMargin core (ofLe value) := by
  simp only [State.applyWrite, State.writePorts_none (show 0x132D ≤ 0x2100 + core by omega) (by omega),
    State.writePower_marginInForce hcore]

end

/-! ### The commands -/

/-- A command that writes one object, above the port objects, under the checks that the write has passed. -/
theorem writes_of_checked {c : Instr} {s : State} {post : Nat → State → Prop} {r : Req} {index sub : Nat}
    (hobj : Safety.objectOf c = some (r, index, sub)) (hexec : exec c s = .next (s.request r index sub)) (hindex : 0x132A < index)
    (heff : c.wf = true → s.tranStatus (Safety.tranOf r index sub) = none → ∀ m : Mgmt, ∃ t,
      ({ s with mg := m } : State).applyWrite (Safety.tranOf r index sub) = (t, stOk) ∧ ∀ (m' : Mgmt) (os : List Out), t.out <+: os →
        post (ofLe r.value) { t with mg := m', out := os }) : Safety.writes c s post := by
  refine writes_of_afterAnswer hobj hexec fun hwf hstatus m => ?_
  obtain ⟨t, happ, hpost⟩ := heff hwf hstatus m
  refine ⟨t, happ, fun m' os hos => ?_⟩
  rw [State.afterAnswer_of_lt (x := Safety.tranOf r index sub) hindex]
  exact hpost m' os hos

/-- COOLING_CLASS (R340). -/
theorem coolingClass_writes (s : State) (r : Req) : Safety.writes (.coolingClass r) s fun v t =>
    t.obj (key 0x2000 0) = v ∧ t.pwr.env = s.pwr.env ∧ t.pwr.pendEnv = (if v < s.envTarget then some v else s.pwr.pendEnv) ∧
      Safety.sameArray t s ∧ t.ops = s.ops := by
  refine writes_of_checked rfl rfl (by decide) fun _ hstatus m => ?_
  have hrange : _ ∧ ofLe r.value ≤ 2 := State.range_of_tranStatus hstatus rfl rfl (by simp [Safety.tranOf])
  obtain ⟨t, ht, hkept, henv, hpend⟩ := State.setCooling_spec (s := { s with mg := m }) hrange.2
  exact ⟨t, State.applyWrite_cooling.trans ht, fun _ _ _ => ⟨(hkept.obj _ (by decide) (by decide)).trans State.obj_setObj_self, henv, hpend,
    hkept.array_of_setObj, hkept.ops_of_setObj⟩⟩

/-- A request for a higher envelope than the one in force (R341). -/
theorem envelopeStepUpRequest_writes (s : State) (r : Req) (henv : s.pwr.env < ofLe r.value) (hpend : s.pwr.pending = false)
    (hup : s.pwr.up = none) (hcool : ofLe r.value ≤ s.obj (key 0x2000 0)) (hdwell : s.dwells = false) :
    Safety.writes (.envelopeStepUpRequest r) s fun v t => t.pwr = { s.pwr with up := some (v, s.now) } ∧
      (s.up 25 = true → s.capW < 4096 → Out.power (BitVec.ofNat 64 (2 ^ 60 + 3 * 2 ^ 56 + v * 2 ^ 54 + s.capW * 2 ^ 42)) ∈ t.out) ∧
      { t with pwr := s.pwr, mg := s.mg, out := s.out } = s := by
  refine writes_of_checked rfl rfl (by decide) fun _ hstatus m => ?_
  have hrange : _ ∧ ofLe r.value ≤ 2 := State.range_of_tranStatus hstatus rfl rfl (by simp [Safety.tranOf])
  refine ⟨_, State.applyWrite_envelope.trans
    (State.requestEnv_up (s := { s with mg := m }) hrange.2 henv hpend hup hcool hdwell), fun m' os hos => ?_⟩
  obtain ⟨os', hstep⟩ := ({ s with mg := m } : State).stepUp_eq (ofLe r.value)
  refine ⟨congrArg State.pwr hstep, fun hport hcap => hos.subset (State.mem_stepUp (s := { s with mg := m }) hport hcap _), ?_⟩
  exact (congrArg (fun u : State => { u with pwr := s.pwr, mg := s.mg, out := s.out }) hstep :)

/-- A request for a lower envelope than any in force, pending or granted (R342). -/
theorem envelopeStepDownRequest_writes (s : State) (r : Req) (hlow : ofLe r.value < s.envTarget) :
    Safety.writes (.envelopeStepDownRequest r) s fun v t => t.pwr.pendEnv = some v ∧ t.pwr.byStage = s.pwr.byStage ∧ t.pwr.up = none ∧
      t.pwr.env = s.pwr.env ∧ Safety.sameArray t s ∧ t.ops = s.ops := by
  refine writes_of_checked rfl rfl (by decide) fun _ hstatus m => ?_
  have hrange : _ ∧ ofLe r.value ≤ 2 := State.range_of_tranStatus hstatus rfl rfl (by simp [Safety.tranOf])
  obtain ⟨m', hpwr⟩ := ({ s with mg := m } : State).pendDown_env (ofLe r.value)
  have hkept := State.Repowers.pendDown { s with mg := m } (some (ofLe r.value)) none false
  refine ⟨_, State.applyWrite_envelope.trans (State.requestEnv_down (s := { s with mg := m }) hrange.2 hlow), fun _ _ _ => ?_⟩
  dsimp only
  rw [hpwr]
  exact ⟨congrArg some (State.min_pendEnv hlow), rfl, rfl, rfl, hkept.array, hkept.ops⟩

/-- POWER_CAP, a lower one (R344). -/
theorem powerCap_writes_lower (s : State) (r : Req)
    (hrange : ofLe r.value = 0 ∨ (s.capRange.1 ≤ ofLe r.value ∧ ofLe r.value ≤ s.capRange.2)) (hlow : s.capLowers (ofLe r.value) = true) :
    Safety.writes (.powerCap r) s fun v t => t.pwr.pendCap = some v ∧ t.pwr.up = none ∧ t.capW = s.capW ∧
      t.pwr.pendEnv = s.pwr.pendEnv ∧ Safety.sameArray t s ∧ t.ops = s.ops := by
  refine writes_of_checked rfl rfl (by decide) fun _ _ m => ?_
  obtain ⟨m', hpwr⟩ := ({ s with mg := m } : State).pendDown_cap (ofLe r.value)
  have hkept := State.Repowers.pendDown { s with mg := m } none (some (ofLe r.value)) false
  refine ⟨_, State.applyWrite_cap.trans (State.requestCap_lower (s := { s with mg := m }) hrange hlow), fun _ _ _ => ?_⟩
  dsimp only
  rw [hpwr]
  exact ⟨rfl, rfl, hkept.obj _ (by decide) (by decide), rfl, hkept.array, hkept.ops⟩

/-- POWER_CAP, a higher one (R344). -/
theorem powerCap_writes_higher (s : State) (r : Req)
    (hrange : ofLe r.value = 0 ∨ (s.capRange.1 ≤ ofLe r.value ∧ ofLe r.value ≤ s.capRange.2)) (hlow : s.capLowers (ofLe r.value) = false)
    (hne : ofLe r.value ≠ s.capPriced) (hpend : s.pwr.pending = false) (hdwell : s.dwells = false) :
    Safety.writes (.powerCap r) s fun v t => t.capW = v ∧ t.pwr = s.pwr ∧ Safety.sameArray t s ∧ t.ops = s.ops := by
  refine writes_of_checked rfl rfl (by decide) fun _ _ m => ?_
  have hkept := State.Repowers.refl (({ s with mg := m } : State).setObj (key 0x2000 3) (ofLe r.value))
  exact ⟨_, State.applyWrite_cap.trans (State.requestCap_higher (s := { s with mg := m }) hrange hlow hne hpend hdwell), fun _ _ _ =>
    ⟨State.obj_setObj_self (s := { s with mg := m }), State.setObj_pwr _ _ _, hkept.array_of_setObj, hkept.ops_of_setObj⟩⟩

/-- PENDING_MARGIN_STEP (R209, R214). -/
theorem pendingMarginStep_writes (s : State) (core : Nat) (r : Req) (hfloor : s.mfloor core ≤ ofLe r.value) :
    Safety.writes (.pendingMarginStep core r) s fun v t =>
      t.obj (key (0x2100 + core) 3) = v ∧ t.obj (key (0x2100 + core) 1) = min v (s.obj (key (0x2100 + core) 1)) ∧
      { t with dict := s.dict, mg := s.mg, out := s.out } = s := by
  refine writes_of_checked rfl rfl (by omega) fun hwf hstatus m => ?_
  have hcore : core < 64 := of_decide_eq_true (Bool.and_eq_true_iff.mp hwf).1
  have hhi : ofLe r.value ≤ 15 := (State.range_of_tranStatus hstatus (objInfo_pendingMargin hcore hstatus) rfl (by simp [Safety.tranOf]; omega)).2
  obtain ⟨t, ht, hpend, hforce, hframe⟩ := State.pendMargin_spec (s := { s with mg := m }) hcore hfloor hhi
  exact ⟨t, (State.applyWrite_pendingMargin hcore).trans ht, fun m' os _ => ⟨hpend, hforce,
    (congrArg (fun u : State => { u with mg := s.mg, out := s.out }) hframe :)⟩⟩

/-- MARGIN_STEP_IN_FORCE (R209). -/
theorem marginStepInForce_writes (s : State) (core : Nat) (r : Req) (hfloor : s.mfloor core ≤ ofLe r.value)
    (hold : ofLe r.value ≤ s.obj (key (0x2100 + core) 1)) : Safety.writes (.marginStepInForce core r) s fun v t =>
      t.obj (key (0x2100 + core) 1) = v ∧ t.obj (key (0x2100 + core) 3) =
        (if s.obj (key (0x2100 + core) 3) = s.obj (key (0x2100 + core) 1) then v else s.obj (key (0x2100 + core) 3)) ∧
      { t with dict := s.dict, mg := s.mg, out := s.out } = s := by
  refine writes_of_checked rfl rfl (by omega) fun hwf _ m => ?_
  have hcore : core < 64 := of_decide_eq_true (Bool.and_eq_true_iff.mp hwf).1
  obtain ⟨t, ht, hforce, hpend, hframe⟩ := State.forceMargin_spec (s := { s with mg := m }) hfloor hold
  exact ⟨t, (State.applyWrite_marginInForce hcore).trans ht, fun m' os _ => ⟨hforce, hpend,
    (congrArg (fun u : State => { u with mg := s.mg, out := s.out }) hframe :)⟩⟩

/-- Settles O39: each command writes one object, and its object's rules bring about what the clause says. -/
theorem powerWritesTakeEffect : Obligations.Power_writes_take_effect := fun s =>
  ⟨coolingClass_writes s, envelopeStepUpRequest_writes s, envelopeStepDownRequest_writes s,
    fun r hrange => ⟨powerCap_writes_lower s r hrange, powerCap_writes_higher s r hrange⟩, pendingMarginStep_writes s,
    marginStepInForce_writes s⟩

end Sys2Proof.Machine
end

section
/-! SNAPSHOT_TAKE: the trimmed longs that it writes, and what it changes (R223, R224). -/

namespace Sys2Proof.Machine

section
variable {s : State}

/-- A register that passes its read check is taken as its trimmed long, and nothing changes (R223, R254). -/
theorem State.snapRead_of_checks {p : Nat × Nat × Nat} (h : (s.reg p.2.2).checks = true) (n : Snap) (t : TileRef) :
    s.snapRead n t [] p = (s, trim (s.reg p.2.2) (n.boundAt p.2.2)) := by
  simp [State.snapRead, LongReg.off_zero, h]

/-- The words of a snapshot whose reads all pass. -/
theorem State.foldl_snapRead (n : Snap) (t : TileRef) {ps : List (Nat × Nat × Nat)} (h : ∀ p ∈ ps, (s.reg p.2.2).checks = true)
    (ws : List W64) : ps.foldl (fun (a : State × List W64) p =>
        ((a.1.snapRead n t [] p).1, a.2 ++ (a.1.snapRead n t [] p).2)) (s, ws) =
      (s, ws ++ ps.flatMap (fun p => trim (s.reg p.2.2) (n.boundAt p.2.2))) := by
  induction ps generalizing ws with
  | nil => simp
  | cons p ps ih =>
    obtain ⟨hp, hps⟩ := List.forall_mem_cons.mp h
    rw [List.foldl_cons, State.snapRead_of_checks hp, ih hps, List.flatMap_cons, List.append_assoc]

end

/-! ### Snapshots of a region -/

/-- The region of an identity after a change of it. -/
theorem State.region?_mapRegion (s : State) {tn r : Nat} {g : Region} (h : s.region? tn r = some g) {f : Region → Region}
    (hf : ∀ x, (f x).tenant = x.tenant ∧ (f x).num = x.num) : (s.mapRegion tn r f).region? tn r = some (f g) := by
  have hkey (x : Region) : ((if x.tenant == tn && x.num == r then f x else x).tenant == tn &&
      (if x.tenant == tn && x.num == r then f x else x).num == r) = (x.tenant == tn && x.num == r) := by
    split
    · rw [(hf x).1, (hf x).2]
    · rfl
  have hg : (g.tenant == tn && g.num == r) = true := List.find?_some (p := fun x : Region => x.tenant == tn && x.num == r) h
  show List.find? _ (s.regions.map _) = _
  rw [List.find?_map, Function.comp_def]
  simp only [hkey]
  rw [show s.regions.find? (fun x => x.tenant == tn && x.num == r) = some g from h, Option.map_some, if_pos hg]

/-- The open snapshot of a tile after a change that leaves its tile and leaves it open. -/
theorem Region.snapOf_map {g : Region} {tile : Nat} {n : Snap} (h : g.snapOf tile = some n) {f : Snap → Snap}
    (hf : ∀ x, (f x).tile = x.tile ∧ (f x).closed = x.closed) :
    ({ g with snaps := g.snaps.map (fun x => if x.tile == tile && !x.closed then f x else x) } : Region).snapOf tile = some (f n) := by
  have hkey (x : Snap) : ((if x.tile == tile && !x.closed then f x else x).tile == tile &&
      !(if x.tile == tile && !x.closed then f x else x).closed) = (x.tile == tile && !x.closed) := by
    split
    · rw [(hf x).1, (hf x).2]
    · rfl
  have hn : (n.tile == tile && !n.closed) = true := List.find?_some (p := fun x : Snap => x.tile == tile && !x.closed) h
  show List.find? _ (g.snaps.map _) = _
  rw [List.find?_map, Function.comp_def]
  simp only [hkey]
  rw [show g.snaps.find? (fun x => x.tile == tile && !x.closed) = some n from h, Option.map_some, if_pos hn]

theorem Region.tile_of_snapOf {g : Region} {tile : Nat} {n : Snap} (h : g.snapOf tile = some n) : n.tile = tile := by
  have hn := List.find?_some (p := fun x : Snap => x.tile == tile && !x.closed) h
  exact beq_iff_eq.mp (Bool.and_eq_true_iff.mp hn).1

/-! ### The command -/

/-- The words of a snapshot: none of a clear tile, else the trimmed long of every presented register (R223). -/
def State.snapWords (s : State) (n : Snap) : List W64 :=
  if n.clear then []
  else (s.tilePlaces (TileRef.ofHandle n.tile)).flatMap (fun p => trim (s.reg p.2.2) (n.boundAt p.2.2))

/-- The bytes of a snapshot. -/
def State.snapBytes (s : State) (n : Snap) : List Byte :=
  n.header (s.width (TileRef.ofHandle n.tile)) ++ wordBytes ((s.snapWords n).map (fun w => w.toNat))

/-- A snapshot whose reads pass: its bytes are written and it is noted as taken. -/
theorem State.takeSnap_of_checks {s : State} {n : Snap}
    (h : ∀ p ∈ s.tilePlaces (TileRef.ofHandle n.tile), (s.reg p.2.2).checks = true) (tn r : Nat) :
    s.takeSnap tn r n [] = (s.putBuf n.at_ (s.snapBytes n)).mapSnap tn r n.tile
      (fun x => { x with taken := true, bytes := (s.snapBytes n).length }) := by
  have hread (ps : List (Nat × Nat × Nat)) (hps : ∀ p ∈ ps, (s.reg p.2.2).checks = true) := s.foldl_snapRead n (TileRef.ofHandle n.tile) hps []
  have hwords : (if n.clear then [] else s.tilePlaces (TileRef.ofHandle n.tile)).flatMap
      (fun p => trim (s.reg p.2.2) (n.boundAt p.2.2)) = s.snapWords n := by
    unfold State.snapWords
    split <;> rfl
  unfold State.takeSnap
  dsimp only
  rw [hread _ (fun p hp => h p (by split at hp <;> simp_all)), hwords]
  rfl

section
variable (s : State) (a : Nat) (bs : List Byte) (tn r tile : Nat) (f : Snap → Snap)

theorem State.mapSnap_putBuf_frame :
    { (s.putBuf a bs).mapSnap tn r tile f with regions := s.regions, buf := s.buf } = s := rfl

theorem State.mapSnap_putBuf_buf : ((s.putBuf a bs).mapSnap tn r tile f).buf =
    s.buf.write (bs.zipIdx.map (fun b => ⟨a + b.2, b.1, false⟩)) := rfl

variable {s tn r}

/-- The region and its open snapshot of a tile, once the snapshot has changed. -/
theorem State.snapOf_mapSnap {g : Region} {n : Snap} (hg : s.region? tn r = some g) (hn : g.snapOf tile = some n)
    (hf : ∀ x, (f x).tile = x.tile ∧ (f x).closed = x.closed) :
    ∃ h, (s.mapSnap tn r tile f).region? tn r = some h ∧ h.snapOf tile = some (f n) :=
  ⟨_, s.region?_mapRegion hg (fun _ => ⟨rfl, rfl⟩), Region.snapOf_map hn hf⟩

end

/-- Settles O26: the reads pass and change nothing (`takeSnap_of_checks`), so that the bytes written and the snapshot's own record are all
that changes. -/
theorem snapshotTakeKeepsTheRegisters : Obligations.Snapshot_take_keeps_the_registers := by
  intro tn r tile g n s hregion hsnap hready hchecks tr ws bs
  have htile := Region.tile_of_snapOf hsnap
  have hexec : exec (.snapshotTake tn r tile []) s = .next (s.takeSnap tn r n []) := by
    show execSnapshotTake tn r tile [] s = _
    rw [execSnapshotTake, hregion, Option.bind_some, hsnap]
    exact if_pos hready
  have hbytes : bs = s.snapBytes n := rfl
  rw [State.takeSnap_of_checks hchecks, ← hbytes, htile] at hexec
  clear_value bs
  obtain ⟨h, hh, hx⟩ := State.snapOf_mapSnap (s := s.putBuf n.at_ bs) tile.toNat (fun x => { x with taken := true, bytes := bs.length })
    hregion hsnap (fun _ => ⟨rfl, rfl⟩)
  exact ⟨_, h, _, hexec, s.mapSnap_putBuf_frame _ _ _ _ _ _, s.mapSnap_putBuf_buf _ _ _ _ _ _, hh, hx, rfl, rfl, rfl, rfl, rfl, rfl⟩

end Sys2Proof.Machine
end

section
/-! COMMIT_TAKES_EFFECT: the end of a region whose ops have all completed (R228, R229, R285). -/

namespace Sys2Proof.Machine

/-! ### What the frames sent and the ends of ops leave unchanged -/

namespace State.SameArray

variable {s : State}

theorem launch (s : State) (q : Nat) (fl : Flight) (f : Frame) : s.SameArray (s.launch q fl f) := by
  have hsent (p : PortSt) : s.SameArray ((s.setPort q p).emit (.frame q f)) := ⟨rfl, rfl, rfl, rfl, rfl⟩
  have hpeer (u : State) : u.SameArray (match fl.peer with
      | none => u
      | some x => u.setGroup x.1 ((u.group x.1).use x.2 fl.n)) := by
    split <;> exact ⟨rfl, rfl, rfl, rfl, rfl⟩
  unfold State.launch
  extract_lets p spent s1 s2
  have hs2 : s.SameArray s2 := (hsent _).trans (hpeer s1)
  split
  · exact hs2
  · exact hs2.trans (mapOp _ _ _)

theorem sendFrame (s : State) (g pp : Nat) (op tenant : Option Nat) (f : Frame) : s.SameArray (s.sendFrame g pp op tenant f) := by
  unfold State.sendFrame
  dsimp only
  split
  · exact ⟨rfl, rfl, rfl, rfl, rfl⟩
  · split
    · exact refl s
    · unfold State.sendOn
      dsimp only
      split
      · exact launch _ _ _ _
      · exact ⟨rfl, rfl, rfl, rfl, rfl⟩

theorem commitNotices (s : State) (tn r : Nat) : s.SameArray (s.commitNotices tn r) := by
  unfold State.commitNotices
  refine foldl (fun u w => ?_) _ s
  split
  · exact refl u
  · exact sendFrame _ _ _ _ _ _

theorem cutChains (s : State) (o : Op) : s.SameArray (s.cutChains o) := by
  have hrelink (u : State) (id : Nat) (c : ChainId) : u.SameArray (u.relink id c) := ⟨rfl, rfl, rfl, rfl, rfl⟩
  unfold State.cutChains
  split
  · exact foldl (fun u c => (setChain u c _).trans (hrelink _ _ _)) _ s
  · exact refl s

theorem tellReroll (s : State) (o : Op) (status : Nat) : s.SameArray (s.tellReroll o status) := by
  unfold State.tellReroll
  split
  · exact refl s
  · split
    · exact mapOp _ _ _
    · exact refl s

theorem released (s : State) (o : Op) (status : Nat) : s.SameArray (s.released o status) := by
  have hdropped : s.SameArray (s.dropOp o.id) := ⟨rfl, rfl, rfl, rfl, rfl⟩
  exact ((hdropped.trans (SameWork.freeLines _ _).toSameArray).trans (cutChains _ _)).trans (tellReroll _ _ _)

theorem counted (s : State) (o : Op) (status : Nat) : s.SameArray ((s.consumed o status).countBad o status) := by
  have hconsumed : s.SameArray (s.consumed o status) := by
    unfold State.consumed
    split
    · exact event _ _
    · exact refl s
  unfold State.countBad
  split
  · exact hconsumed.trans (bump _ _ _)
  · exact hconsumed

theorem respond (s : State) (r : Resp) : s.SameArray (s.respond r) := ⟨by simp, by simp, by simp, by simp, by simp⟩

/-- A completion changes no register, weight, tile or byte (R120, R202). -/
theorem finishOp (s : State) (o : Op) (status : Nat) : s.SameArray (s.finishOp o status) := by
  rw [State.finishOp_eq]
  split_ifs
  · exact released _ _ _
  · exact (released _ _ _).trans (counted _ _ _)
  · exact ((released _ _ _).trans (counted _ _ _)).trans (respond _ _)

end State.SameArray

/-! ### The commit notices (R228, R317) -/

theorem State.Quiet.commitNotices (s : State) (tn r : Nat) : s.Quiet (s.commitNotices tn r) := by
  unfold State.commitNotices
  refine foldl (fun u w => ?_) _ s
  split
  · exact refl u
  · exact sendFrame _ _ _ _ _ _

section
variable (s : State)

theorem State.commitNotices_clk (tn r : Nat) : (s.commitNotices tn r).clk = s.clk := by
  unfold State.commitNotices
  refine foldl_clk (fun u w => ?_) _ s
  split
  · rfl
  · exact u.sendFrame_clk _ _ _ _ _

theorem State.launch_slips (q : Nat) (fl : Flight) (f : Frame) : (s.launch q fl f).slips = s.slips := by
  unfold State.launch
  dsimp only
  split <;> split <;> simp

theorem State.sendFrame_slips (g pp : Nat) (op tenant : Option Nat) (f : Frame) : (s.sendFrame g pp op tenant f).slips = s.slips := by
  unfold State.sendFrame State.sendOn
  dsimp only
  split_ifs
  · rfl
  · rfl
  · exact s.launch_slips _ _ _
  · rfl

theorem State.commitNotices_slips (tn r : Nat) : (s.commitNotices tn r).slips = s.slips := by
  unfold State.commitNotices
  refine List.foldlRecOn _ _ (motive := fun u : State => u.slips = s.slips) rfl (fun u hu w _ => ?_)
  split
  · exact hu
  · exact (u.sendFrame_slips _ _ _ _ _).trans hu

end

/-! ### Tiles that are unbound (R226, R228) -/

section
variable {α : Type} {d : α} {m : Sparse α} {k : Nat}

/-- A listed key stands in the table with what it reads as. -/
theorem mem_of_sfind {v : α} (h : sfind m k = some v) : (k, v) ∈ m := by
  induction m with
  | nil => cases h
  | cons e r ih =>
    obtain ⟨a, w⟩ := e
    unfold sfind at h
    split at h
    · next hak =>
      obtain rfl := Option.some.inj h
      exact hak ▸ List.mem_cons_self
    · exact List.mem_cons_of_mem _ (ih h)

/-- A key that does not read as the default is listed. -/
theorem mem_of_sget_ne (h : sget d m k ≠ d) : (k, sget d m k) ∈ m := by
  cases hk : sfind m k with
  | none => exact absurd (by rw [sget, hk, Option.getD_none]) h
  | some v =>
    rw [sget, hk, Option.getD_some]
    exact mem_of_sfind hk

variable [DecidableEq α]

/-- The keys of a canonical table lie above its lower bound. -/
theorem lt_of_mem_from {l : Nat} (h : swfFrom d (some l) m = true) {e : Nat × α} (he : e ∈ m) : l < e.1 := by
  induction m generalizing l with
  | nil => cases he
  | cons x r ih =>
    obtain ⟨hlt, -, hr⟩ := swfFrom_cons.mp (show swfFrom d (some l) ((x.1, x.2) :: r) = true from h)
    rcases List.mem_cons.mp he with rfl | he
    · exact hlt l rfl
    · exact Nat.lt_trans (hlt l rfl) (ih hr he)

/-- An entry of a canonical table is what its key reads as. -/
theorem sget_of_mem (h : swf d m = true) {e : Nat × α} (he : e ∈ m) : sget d m e.1 = e.2 := by
  induction m with
  | nil => cases he
  | cons x r ih =>
    obtain ⟨-, -, hr⟩ := swfFrom_cons.mp (show swfFrom d none ((x.1, x.2) :: r) = true from h)
    rcases List.mem_cons.mp he with rfl | he
    · simp [sget, sfind]
    · have hne : x.1 ≠ e.1 := Nat.ne_of_lt (lt_of_mem_from hr he)
      rw [← ih (swf_of_from hr) he, sget, sget, sfind, if_neg hne]

end

/-- A quarter once the tiles of a region are unbound among some of the table's entries. -/
theorem State.tileQ_foldl_unbind (tn r k : Nat) (l : List (Nat × TileQ)) (s : State) :
    (l.foldl (fun s e => if e.2.bound = some (tn, r) then s.setTile e.1 { s.tileQ e.1 with bound := none } else s) s).tileQ k =
      if l.any (fun e => e.1 == k && e.2.bound == some (tn, r)) then { s.tileQ k with bound := none } else s.tileQ k := by
  induction l generalizing s with
  | nil => simp
  | cons e l ih =>
    rw [List.foldl_cons, ih, List.any_cons]
    by_cases hhit : e.1 = k ∧ e.2.bound = some (tn, r)
    · obtain ⟨rfl, hbound⟩ := hhit
      simp [hbound, State.tileQ_setTile]
    · have hmiss : (e.1 == k && e.2.bound == some (tn, r)) = false := by simpa using hhit
      have hkeep : (if e.2.bound = some (tn, r) then s.setTile e.1 { s.tileQ e.1 with bound := none } else s).tileQ k = s.tileQ k := by
        split
        · next hbound => rw [State.tileQ_setTile, if_neg (fun hk => hhit ⟨hk.symm, hbound⟩)]
        · rfl
      rw [hkeep, hmiss, Bool.false_or]

/-- Once the tiles of a region are unbound, none is bound to it, and each has its term bound and mode. -/
theorem State.tileQ_unbindTiles (s : State) (tn r k : Nat) : ((s.unbindTiles tn r).tileQ k).bound ≠ some (tn, r) ∧
    ((s.unbindTiles tn r).tileQ k).tb = (s.tileQ k).tb ∧ ((s.unbindTiles tn r).tileQ k).mode = (s.tileQ k).mode := by
  rw [State.unbindTiles, State.tileQ_foldl_unbind]
  split
  · exact ⟨nofun, rfl, rfl⟩
  · next hnone =>
    refine ⟨fun hbound => hnone ?_, rfl, rfl⟩
    have hlisted : (k, s.tileQ k) ∈ s.tiles := mem_of_sget_ne fun hzero => by
      rw [State.tileQ, hzero] at hbound
      cases hbound
    exact List.any_eq_true.mpr ⟨_, hlisted, by simp [hbound]⟩

/-- No entry of a good state's table of tiles is bound to a region whose tiles have been unbound. -/
theorem State.bound_of_mem_unbindTiles {s : State} (hgood : Safety.good s = true) (tn r : Nat) :
    ∀ e ∈ (s.unbindTiles tn r).tiles, e.2.bound ≠ some (tn, r) := by
  intro e he
  obtain ⟨⟨-, -, htiles, -⟩, -⟩ := good_iff.mp ((State.unbindTiles_keeps (Keeps.refl s)).good hgood)
  rw [← sget_of_mem htiles he]
  exact (s.tileQ_unbindTiles tn r e.1).1

/-! ### The status of a completion (R201, R203) -/

section
variable {s t : State} (hslips : t.slips = s.slips) (hclk : t.clk = s.clk) (o : Op)
include hslips

theorem State.stallOf_congr : t.stallOf o = s.stallOf o := by
  simp only [State.stallOf, State.slipOf, hslips]

include hclk

/-- The completion of an op reads the clock and the slips only. -/
theorem State.completion_congr :
    completion o (t.statusOf o) (t.stallOf o) (t.elapsed o) = completion o (s.statusOf o) (s.stallOf o) (s.elapsed o) := by
  have hnow : t.now = s.now := congrArg (fun c : Clock => c.counter.toNat) hclk
  rw [State.statusOf, State.statusOf, State.elapsed, State.elapsed, State.stallOf_congr hslips, hnow]

end

/-! ### The command -/

/-- The state in which the COMMIT of a region completes: its notices sent, its tagged contributions and its record gone, its tiles unbound. -/
def State.committed (s : State) (tn r : Nat) : State :=
  let s1 := s.commitNotices tn r
  let s2 : State := { s1 with ops := s1.ops.filter (fun p => !(p.k == .tagged && inRegion tn r p)) }
  let s3 := s2.unbindTiles tn r
  { s3 with regions := s3.regions.filter (fun x => !(x.tenant == tn && x.num == r)) }

theorem State.commitRegion_eq (s : State) (g : Region) (o : Op) : s.commitRegion g o =
    (s.committed g.tenant g.num).finishOp o ((s.committed g.tenant g.num).statusOf o) := rfl

section
variable (s : State) (tn r : Nat)

theorem State.committed_quiet : s.Quiet (s.committed tn r) := by
  unfold State.committed
  extract_lets s1 s2 s3
  have hs3 : s.Quiet s3 := ((State.Quiet.commitNotices s tn r).trans (.filterOps s1 _)).trans (State.QuietPorts.unbindTiles s2 tn r).toQuiet
  exact hs3.trans (.of_ops rfl rfl rfl rfl)

theorem State.committed_region? : (s.committed tn r).region? tn r = none := by
  refine List.find?_eq_none.mpr fun x hx => ?_
  have hne := (List.mem_filter.mp hx).2
  rw [Bool.not_eq_true', ← Bool.not_eq_true] at hne
  exact hne

theorem State.committed_clk : (s.committed tn r).clk = s.clk :=
  (State.unbindTiles_clk _ tn r).trans (s.commitNotices_clk tn r)

theorem State.unbindTiles_slips : (s.unbindTiles tn r).slips = s.slips :=
  List.foldlRecOn s.tiles _ (motive := fun u : State => u.slips = s.slips) rfl (fun u hu e _ => by split <;> exact hu)

theorem State.committed_slips : (s.committed tn r).slips = s.slips :=
  (State.unbindTiles_slips _ tn r).trans (s.commitNotices_slips tn r)

variable {s}

theorem State.bound_of_mem_committed (hgood : Safety.good s = true) : ∀ e ∈ (s.committed tn r).tiles, e.2.bound ≠ some (tn, r) := by
  refine State.bound_of_mem_unbindTiles (s := { s.commitNotices tn r with ops := _ }) ?_ tn r
  exact (State.commitNotices_keeps (Keeps.refl s)).good hgood

end

/-- A COMMIT that takes effect (R228): its region is over, its record is the next one formed, and no register changes. -/
theorem State.commitRegion_spec {s : State} (hgood : Safety.good s = true) {g : Region} {o : Op} (hk : o.k = .commit) :
    (s.commitRegion g o).region? g.tenant g.num = none ∧
    (∀ e ∈ (s.commitRegion g o).tiles, e.2.bound ≠ some (g.tenant, g.num)) ∧ (∀ p ∈ (s.commitRegion g o).ops, p.id ≠ o.id) ∧
    (s.commitRegion g o).regs = s.regs ∧
    (s.adm.mute ≤ o.id → Safety.answers (s.commitRegion g o) = Safety.answers s ++
      [((completion o (s.statusOf o) (s.stallOf o) (s.elapsed o)).w0, (completion o (s.statusOf o) (s.stallOf o) (s.elapsed o)).w1)]) := by
  rw [State.commitRegion_eq]
  set c := s.committed g.tenant g.num
  have hquiet : s.Quiet c := s.committed_quiet _ _
  have hfinish : c.SameArray (c.finishOp o (c.statusOf o)) := .finishOp _ _ _
  refine ⟨?region, ?tiles, fun p => c.id_ne_of_mem_finishOp o _, hfinish.regs.trans hquiet.regs, fun hmute => ?answers⟩
  case region =>
    rw [State.region?, (State.Unwinds.finishOp c o _).regions]
    exact s.committed_region? _ _
  case tiles =>
    rw [hfinish.tiles]
    exact State.bound_of_mem_committed _ _ hgood
  case answers =>
    rw [c.answers_finishOp o _ (by rw [hk]; rfl) (hquiet.adm ▸ hmute), hquiet.answers,
      State.completion_congr (s.committed_slips _ _) (s.committed_clk _ _)]

/-- What the group ops of a region send at its squash, and what ends at once, leave it squashed (R229). -/
theorem State.squashNow_squashed (s : State) (tn r : Nat) : (s.squashNow tn r).Squashed tn r :=
  ((s.squashRegion_squashed tn r).of_unwinds (.squashSends _ _ _)).closeRegions

/-- Settles O28: a COMMIT that takes effect ends its region (`commitRegion_spec`); after a failing verdict it squashes the region, which what
it sends and what ends at once leave squashed (`squashNow_squashed`). -/
theorem commitTakesEffectOrSquashes : Obligations.Commit_takes_effect_or_squashes := by
  intro tn r g o s hgood hregion hcloser hk hsquash hops hrerolls
  obtain ⟨rfl, rfl⟩ : g.tenant = tn ∧ g.num = r := by
    simpa using List.find?_some (p := fun x : Region => x.tenant == tn && x.num == r) hregion
  have hexec : exec (.commitTakesEffect g.tenant g.num) s = if g.verdicts.any (fun v => v != 0) then
      .next ((s.mapOp o.id (fun p => { p with ending := some 0x02 })).squashNow g.tenant g.num)
      else .next (s.commitRegion g o) := by
    show execCommitTakesEffect _ _ s = _
    simp only [execCommitTakesEffect, hregion, hcloser]
    exact if_neg (by simp [hk, hsquash, hops, hrerolls])
  exact ⟨fun hpass => ⟨_, hexec.trans (if_neg (by simpa using hpass)), State.commitRegion_spec hgood hk⟩,
    fun hfail => ⟨_, hexec.trans (if_pos hfail), (State.squashNow_squashed _ _ _).regions⟩⟩

end Sys2Proof.Machine
end

section
/-! Trimmed longs: what is written of a register is read back as that register (R54 to R56). -/

namespace Sys2Proof.Machine

/-! ### The header (Table 02-5) -/

theorem bit_le_one (b : Bool) : bit b ≤ 1 := by cases b <;> decide

theorem beq_one_of_eq_bit {k : Nat} {b : Bool} (h : k = bit b) : (k == 1) = b := by
  subst h
  cases b <;> rfl

section
variable (r : LongReg) {hi lo z te : Nat} (hhi : hi ≤ 8) (hlo : lo ≤ hi) (hz : z ≤ 1) (hte : te ≤ 48)
include hhi hlo hz hte

theorem trimHeader_toNat : (trimHeader r hi lo z te).toNat = 2 ^ 60 + r.r255.toNat * 2 ^ 48 + r.r127.toNat * 2 ^ 40 + bit r.poison * 2 ^ 39 +
    bit r.ninf * 2 ^ 38 + bit r.pinf * 2 ^ 37 + bit r.nan * 2 ^ 36 + hi * 2 ^ 32 + lo * 2 ^ 28 + z * 2 ^ 27 + te * 2 ^ 16 := by
  have h255 := r.r255.isLt
  have h127 := r.r127.isLt
  have hpoison := bit_le_one r.poison
  have hninf := bit_le_one r.ninf
  have hpinf := bit_le_one r.pinf
  have hnan := bit_le_one r.nan
  simp only [trimHeader, at_, BitVec.toNat_ofNat]
  omega

/-- The fields of a header read back. -/
theorem trimHeader_fields : let h := trimHeader r hi lo z te
    fld h 63 60 = 1 ∧ fld h 59 56 = 0 ∧ fld h 55 48 = r.r255.toNat ∧ fld h 47 47 = 0 ∧ fld h 46 40 = r.r127.toNat ∧
      fld h 35 32 = hi ∧ fld h 31 28 = lo ∧ fld h 26 22 = 0 ∧ fld h 21 16 = te ∧ fld h 15 0 = 0 := by
  have h255 := r.r255.isLt
  have h127 := r.r127.isLt
  have hpoison := bit_le_one r.poison
  have hninf := bit_le_one r.ninf
  have hpinf := bit_le_one r.pinf
  have hnan := bit_le_one r.nan
  simp only [fld, fieldOf, trimHeader_toNat r hhi hlo hz hte]
  refine ⟨?_, ?_, ?_, ?_, ?_, ?_, ?_, ?_, ?_, ?_⟩ <;> omega

/-- The flags of a header read back, and whether it stands for zero. -/
theorem trimHeader_flags : let h := (trimHeader r hi lo z te).toNat
    bitOf h 39 = r.poison ∧ bitOf h 38 = r.ninf ∧ bitOf h 37 = r.pinf ∧ bitOf h 36 = r.nan ∧ bitOf h 27 = (z == 1) := by
  have h255 := r.r255.isLt
  have h127 := r.r127.isLt
  have hpoison := bit_le_one r.poison
  have hninf := bit_le_one r.ninf
  have hpinf := bit_le_one r.pinf
  have hnan := bit_le_one r.nan
  simp only [bitOf, trimHeader_toNat r hhi hlo hz hte]
  refine ⟨beq_one_of_eq_bit ?_, beq_one_of_eq_bit ?_, beq_one_of_eq_bit ?_, beq_one_of_eq_bit ?_, congrArg (· == 1) ?_⟩ <;> omega

/-- A header is well-formed and announces its limbs (R54, R55). -/
theorem trimHeader_wf (hzero : z = 1 → hi = 0 ∧ lo = 0) : trimWf (trimHeader r hi lo z te) = true ∧
    trimCount (trimHeader r hi lo z te) = if z = 1 then 0 else hi - lo + 1 := by
  obtain ⟨h63, h59, -, h47, -, h35, h31, h26, h21, h15⟩ := trimHeader_fields r hhi hlo hz hte
  obtain ⟨-, -, -, -, h27⟩ := trimHeader_flags r hhi hlo hz hte
  constructor
  · simp only [trimWf, h63, h59, h47, h35, h31, h26, h21, h15, h27]
    by_cases h1 : z = 1
    · obtain ⟨rfl, rfl⟩ := hzero h1
      simp [hte]
    · simp [hte, hhi, hlo, h1]
  · simp [trimCount, h27, h35, h31]

end

/-- TEXP is at most 48 (R56). -/
theorem texp_le (tb : Nat) : texp tb ≤ 48 := by
  have hfrom (k m : Nat) : texpFrom tb k m ≤ k + m := by
    induction m generalizing k with
    | zero => exact Nat.le_refl k
    | succ m ih =>
      unfold texpFrom
      split
      · omega
      · have := ih (k + 1)
        omega
  exact hfrom 0 48

/-! ### The limbs of a number (R11, R56) -/

section
variable (n : BitVec 576)

theorem limb_toNat (i : Nat) : (limb n i).toNat = n.toNat / 2 ^ (64 * i) % 2 ^ 64 := by
  rw [limb, BitVec.extractLsb'_toNat, Nat.shiftRight_eq_div_pow]

/-- Successive limbs make the number of their bits. -/
theorem wordsNat_limbs (lo k : Nat) : wordsNat ((List.range k).map (fun i => limb n (lo + i))) =
    n.toNat / 2 ^ (64 * lo) % 2 ^ (64 * k) := by
  induction k generalizing lo with
  | zero => simp [wordsNat, Nat.mod_one]
  | succ k ih =>
    have hrest : (List.range k).map ((fun i => limb n (lo + i)) ∘ Nat.succ) = (List.range k).map (fun i => limb n (lo + 1 + i)) :=
      List.map_congr_left fun i _ => by rw [Function.comp_apply, Nat.succ_eq_add_one, Nat.add_assoc, Nat.add_comm 1 i]
    rw [List.range_succ_eq_map, List.map_cons, List.map_map, hrest]
    show (limb n (lo + 0)).toNat + 2 ^ 64 * wordsNat _ = _
    rw [ih, limb_toNat, Nat.add_zero, Nat.mul_add 64 lo, pow_add, ← Nat.div_div_eq_div_mul, Nat.mul_add 64 k, Nat.add_comm (64 * k), pow_add,
      Nat.mod_mul]

/-- The number of limbs that are all zero. -/
theorem wordsNat_zero (k : Nat) : wordsNat (List.replicate k 0) = 0 := by
  induction k with
  | zero => rfl
  | succ k ih =>
    show (0 : W64).toNat + 2 ^ 64 * wordsNat (List.replicate k 0) = 0
    rw [ih]
    rfl

/-- The number of limbs that are all ones. -/
theorem wordsNat_allOnes (k : Nat) : wordsNat (List.replicate k (BitVec.allOnes 64)) = 2 ^ (64 * k) - 1 := by
  induction k with
  | zero => rfl
  | succ k ih =>
    show (BitVec.allOnes 64).toNat + 2 ^ 64 * wordsNat (List.replicate k (BitVec.allOnes 64)) = _
    have hpos : 0 < 2 ^ (64 * k) := Nat.two_pow_pos _
    rw [ih, Nat.mul_add, Nat.mul_one, pow_add, BitVec.toNat_allOnes]
    omega

/-- Limbs that are all one word. -/
theorem limbs_eq_replicate {n} {lo k : Nat} {w : W64} (h : ∀ i, lo ≤ i → i < lo + k → limb n i = w) :
    (List.range k).map (fun i => limb n (lo + i)) = List.replicate k w := by
  refine List.eq_replicate_iff.mpr ⟨by simp, fun x hx => ?_⟩
  obtain ⟨i, hi, rfl⟩ := List.mem_map.mp hx
  exact h _ (Nat.le_add_right lo i) (Nat.add_lt_add_left (List.mem_range.mp hi) lo)

/-- LO is the lowest limb that is not zero (R56). -/
theorem lowLimb_spec {n} {i k : Nat} (h : ∃ j, i ≤ j ∧ j < i + k ∧ limb n j ≠ 0) :
    lowLimb n i k < i + k ∧ ∀ j, i ≤ j → j < lowLimb n i k → limb n j = 0 := by
  induction k generalizing i with
  | zero =>
    obtain ⟨j, hj, hj', -⟩ := h
    omega
  | succ k ih =>
    unfold lowLimb
    split
    · exact ⟨by omega, fun j hj hj' => by omega⟩
    · next hzero =>
      rw [not_ne_iff] at hzero
      have hrest : ∃ j, i + 1 ≤ j ∧ j < i + 1 + k ∧ limb n j ≠ 0 := by
        obtain ⟨j, hj, hj', hne⟩ := h
        have hji : j ≠ i := fun e => hne (e ▸ hzero)
        exact ⟨j, by omega, by omega, hne⟩
      obtain ⟨hlt, hbelow⟩ := ih hrest
      refine ⟨by omega, fun j hj hj' => ?_⟩
      rcases Nat.eq_or_lt_of_le hj with rfl | hlt'
      · exact hzero
      · exact hbelow j hlt' hj'

/-- HI is a limb above which all is sign fill (R56). -/
theorem highLimb_spec {i k : Nat} (h : i + k = 8) : i ≤ highLimb n i k ∧ highLimb n i k ≤ 8 ∧ topFilled n (highLimb n i k) = true := by
  induction k generalizing i with
  | zero =>
    obtain rfl : i = 8 := h
    refine ⟨Nat.le_refl 8, Nat.le_refl 8, List.all_eq_true.mpr fun j hj => ?_⟩
    have hj8 : j ≤ 8 := Nat.le_of_lt_succ (List.mem_range.mp hj)
    simp [highLimb, hj8]
  | succ k ih =>
    unfold highLimb
    split
    · next htop => exact ⟨Nat.le_refl i, by omega, htop⟩
    · obtain ⟨hle, hle8, htop⟩ := ih (i := i + 1) (by omega)
      exact ⟨by omega, hle8, htop⟩

theorem limb_of_topFilled {n} {h i : Nat} (htop : topFilled n h = true) (hi : h < i) (hi9 : i < 9) : limb n i = signFill (limb n h) := by
  have hall := List.all_eq_true.mp htop i (List.mem_range.mpr hi9)
  simpa [Nat.not_le.mpr hi] using hall

theorem toNat_lt_limbs {w : Nat} (h : 576 = w) : n.toNat < 2 ^ w := by
  subst h
  exact n.isLt

/-- All nine limbs make the number. -/
theorem wordsNat_all : wordsNat ((List.range 9).map (fun i => limb n (0 + i))) = n.toNat := by
  rw [wordsNat_limbs, Nat.mul_zero, pow_zero, Nat.div_one, Nat.mod_eq_of_lt (toNat_lt_limbs n (by decide : 576 = 64 * 9))]

/-- A number that is not zero has a limb that is not. -/
theorem exists_limb_ne_zero {n : BitVec 576} (h : n ≠ 0) : ∃ j, 0 ≤ j ∧ j < 0 + 9 ∧ limb n j ≠ 0 := by
  by_contra hnone
  push Not at hnone
  refine h (BitVec.eq_of_toNat_eq ?_)
  rw [← wordsNat_all n, limbs_eq_replicate (w := 0) (fun i hi hi' => hnone i hi hi'), wordsNat_zero]
  exact BitVec.toNat_zero.symm

/-- A number modulo 2^w read as a negative one. -/
theorem ofInt_toNat_sub {w : Nat} (x : BitVec w) : BitVec.ofInt w ((x.toNat : Int) - 2 ^ w) = x := by
  refine BitVec.eq_of_toNat_eq ?_
  have hlt : (x.toNat : Int) < 2 ^ w := by exact_mod_cast x.isLt
  rw [BitVec.toNat_ofInt]
  push_cast
  rw [Int.sub_emod_right, Int.emod_eq_of_lt (Int.natCast_nonneg _) hlt, Int.toNat_natCast]

section
variable {n} {lo hi : Nat} (hlo : lo ≤ hi) (hhi : hi ≤ 8)
include hlo hhi

omit hhi in
/-- The limbs `lo` to `hi` are negative as a signed number when the highest is (R54). -/
theorem wordsNat_negative_iff : 2 ^ (64 * (hi - lo + 1) - 1) ≤ n.toNat / 2 ^ (64 * lo) % 2 ^ (64 * (hi - lo + 1)) ↔
    (limb n hi).msb = true := by
  have hwidth : 64 * (hi - lo + 1) = 64 * (hi - lo) + 64 := by omega
  have hhalf : 64 * (hi - lo + 1) - 1 = 63 + 64 * (hi - lo) := by omega
  have hplace : 64 * lo + 64 * (hi - lo) = 64 * hi := by omega
  have htop : n.toNat / 2 ^ (64 * lo) % 2 ^ (64 * (hi - lo + 1)) / 2 ^ (64 * (hi - lo)) = (limb n hi).toNat := by
    rw [hwidth, pow_add, Nat.mod_mul_right_div_self, Nat.div_div_eq_div_mul, ← pow_add, hplace, limb_toNat]
  rw [hhalf, pow_add, ← Nat.le_div_iff_mul_le (Nat.two_pow_pos _), htop, BitVec.msb_eq_decide, decide_eq_true_eq]

/-- A number by its bits below limb `lo`, its limbs `lo` to `hi`, and what stands above them, less than all of the rest. -/
theorem toNat_eq_limbs (hbelow : ∀ j, j < lo → limb n j = 0) : n.toNat = 2 ^ (64 * lo) *
    (wordsNat ((List.range (hi - lo + 1)).map (fun i => limb n (lo + i))) + 2 ^ (64 * (hi - lo + 1)) *
      wordsNat ((List.range (8 - hi)).map (fun i => limb n (hi + 1 + i)))) := by
  have hlow : n.toNat % 2 ^ (64 * lo) = 0 := by
    have h := wordsNat_limbs n 0 lo
    rw [limbs_eq_replicate (w := 0) (fun i _ hi' => hbelow i (by omega)), wordsNat_zero, Nat.mul_zero, pow_zero, Nat.div_one] at h
    exact h.symm
  have hplace : 64 * lo + 64 * (hi - lo + 1) = 64 * (hi + 1) := by omega
  have hwidth : 576 = 64 * (hi + 1) + 64 * (8 - hi) := by omega
  have hrest : n.toNat / 2 ^ (64 * (hi + 1)) < 2 ^ (64 * (8 - hi)) := by
    rw [Nat.div_lt_iff_lt_mul (Nat.two_pow_pos _), Nat.mul_comm, ← pow_add]
    exact toNat_lt_limbs n hwidth
  rw [wordsNat_limbs, wordsNat_limbs, Nat.mod_eq_of_lt hrest, ← hplace, pow_add, ← Nat.div_div_eq_div_mul, Nat.mod_add_div,
    Nat.mul_div_cancel' (Nat.dvd_of_mod_eq_zero hlow)]

/-- A number whose limbs below `lo` are zero and above `hi` sign fill is made by the limbs between them (R54). -/
theorem fromLimbs_limbs (hbelow : ∀ j, j < lo → limb n j = 0) (htop : topFilled n hi = true) :
    fromLimbs lo ((List.range (hi - lo + 1)).map (fun i => limb n (lo + i))) = n := by
  have hvalue := toNat_eq_limbs hlo hhi hbelow
  have hsign := wordsNat_negative_iff (n := n) hlo
  rw [← wordsNat_limbs] at hsign
  have hfill : (List.range (8 - hi)).map (fun i => limb n (hi + 1 + i)) = List.replicate (8 - hi) (signFill (limb n hi)) :=
    limbs_eq_replicate fun i hi' hi9 => limb_of_topFilled htop (by omega) (by omega)
  have hnonzero : 64 * (hi - lo + 1) ≠ 0 := by omega
  rw [hfill] at hvalue
  show BitVec.ofInt 576 ((if 2 ^ (64 * List.length _ - 1) ≤ wordsNat _ ∧ 64 * List.length _ ≠ 0 then
    (wordsNat _ : Int) - 2 ^ (64 * List.length _) else (wordsNat _ : Int)) * 2 ^ (64 * lo)) = n
  rw [List.length_map, List.length_range]
  generalize wordsNat ((List.range (hi - lo + 1)).map (fun i => limb n (lo + i))) = raw at *
  by_cases hneg : (limb n hi).msb = true
  · rw [signFill, if_pos hneg, wordsNat_allOnes] at hvalue
    have hall : 576 = 64 * lo + 64 * (hi - lo + 1) + 64 * (8 - hi) := by omega
    have hmodulus : (2 : Int) ^ 576 = 2 ^ (64 * lo) * 2 ^ (64 * (hi - lo + 1)) * 2 ^ (64 * (8 - hi)) := by rw [← pow_add, ← pow_add, ← hall]
    have hint : ((raw : Int) - 2 ^ (64 * (hi - lo + 1))) * 2 ^ (64 * lo) = (n.toNat : Int) - 2 ^ 576 := by
      rw [hvalue, hmodulus]
      push_cast [Nat.one_le_two_pow]
      ring
    rw [if_pos ⟨hsign.mpr hneg, hnonzero⟩, hint, ofInt_toNat_sub]
  · rw [signFill, if_neg hneg, wordsNat_zero, Nat.mul_zero, Nat.add_zero] at hvalue
    have hint : (raw : Int) * 2 ^ (64 * lo) = (n.toNat : Int) := by
      rw [hvalue]
      push_cast
      ring
    rw [if_neg (fun h => hneg (hsign.mp h.1)), hint, BitVec.ofInt_natCast, BitVec.ofNat_toNat, BitVec.setWidth_eq]

end

/-- What is written of a register is read back as that register, with the term exponent of its quarter (R54 to R56). -/
theorem untrim_trim (r : LongReg) (tb : Nat) : untrim (trim r tb) = some ⟨r, texp tb⟩ := by
  have hte := texp_le tb
  by_cases hn : r.n = 0
  · obtain ⟨hwf, hcount⟩ := trimHeader_wf r (Nat.zero_le 8) (Nat.le_refl 0) (Nat.le_refl 1) hte (fun _ => ⟨rfl, rfl⟩)
    obtain ⟨-, -, h255, -, h127, -, -, -, h21, -⟩ := trimHeader_fields r (Nat.zero_le 8) (Nat.le_refl 0) (Nat.le_refl 1) hte
    obtain ⟨hpoison, hninf, hpinf, hnan, hzero⟩ := trimHeader_flags r (Nat.zero_le 8) (Nat.le_refl 0) (Nat.le_refl 1) hte
    rw [trim, if_pos hn, untrim]
    simp [hwf, hcount, h255, h127, h21, hpoison, hninf, hpinf, hnan, hzero, ← hn]
  · obtain ⟨hlo9, hbelow⟩ := lowLimb_spec (exists_limb_ne_zero hn)
    have hlo8 : lowLimb r.n 0 9 + (8 - lowLimb r.n 0 9) = 8 := by omega
    obtain ⟨hlo, hhi, htop⟩ := highLimb_spec r.n hlo8
    rw [trim, if_neg hn]
    dsimp only
    generalize lowLimb r.n 0 9 = lo at *
    generalize highLimb r.n lo (8 - lo) = hi at *
    obtain ⟨hwf, hcount⟩ := trimHeader_wf r hhi hlo (Nat.zero_le 1) hte nofun
    obtain ⟨-, -, h255, -, h127, -, h31, -, h21, -⟩ := trimHeader_fields r hhi hlo (Nat.zero_le 1) hte
    obtain ⟨hpoison, hninf, hpinf, hnan, hzero⟩ := trimHeader_flags r hhi hlo (Nat.zero_le 1) hte
    have hlimbs := fromLimbs_limbs hlo hhi (fun j hj => hbelow j (Nat.zero_le j) hj) htop
    rw [untrim]
    simp [hwf, hcount, h255, h127, h21, h31, hpoison, hninf, hpinf, hnan, hzero, hlimbs]

end

end Sys2Proof.Machine
end

section
/-! SNAPSHOT_RESTORE: what a snapshot holds of its tile comes back, and nothing else changes (R229, R252, R254). -/

namespace Sys2Proof.Machine

/-! ### Trimmed longs read back from the buffer (R54, R252) -/

/-- A trimmed long is a header and the limb words that it announces. -/
theorem trim_eq_cons (r : LongReg) (tb : Nat) : ∃ h ls, trim r tb = h :: ls ∧ ls.length = trimCount h := by
  have hread := untrim_trim r tb
  unfold untrim at hread
  split at hread
  · cases hread
  · next h ls htrim =>
    refine ⟨h, ls, htrim, ?_⟩
    by_contra hlen
    rw [if_pos (.inr hlen)] at hread
    cases hread

/-- Trimmed longs one after the other, without poison, are told apart again. -/
theorem storedLongs_flatMap {α : Type} (r : α → LongReg) (tb : α → Nat) (l : List α) :
    storedLongs l.length (l.flatMap (fun e => (trim (r e) (tb e)).map (fun w => (w, false)))) =
      l.map (fun e => ⟨trim (r e) (tb e), false⟩) := by
  induction l with
  | nil => rfl
  | cons e l ih =>
    obtain ⟨h, ls, htrim, hlen⟩ := trim_eq_cons (r e) (tb e)
    have htake : (ls.map (fun w => (w, false)) ++ l.flatMap (fun e => (trim (r e) (tb e)).map (fun w => (w, false)))).take (trimCount h) =
        ls.map (fun w => (w, false)) := by simp [← hlen]
    have hdrop : (ls.map (fun w => (w, false)) ++ l.flatMap (fun e => (trim (r e) (tb e)).map (fun w => (w, false)))).drop (trimCount h) =
        l.flatMap (fun e => (trim (r e) (tb e)).map (fun w => (w, false))) := by simp [← hlen]
    rw [List.flatMap_cons, htrim, List.map_cons, List.cons_append, List.length_cons, List.map_cons, htrim, ← ih]
    simp only [storedLongs, htake, hdrop]
    simp [Function.comp_def]

/-- A register with good residues is that of its number and flags. -/
theorem LongReg.ofVal_of_checks {r : LongReg} (h : r.checks = true) : LongReg.ofVal r.n r.nan r.pinf r.ninf r.poison = r := by
  have hres : (r.r127, r.r255) = LongReg.residuesOf r.n := beq_iff_eq.mp h
  rw [LongReg.ofVal, ← hres]

/-- A register that is read back as it was written takes its saved content (R252). -/
theorem State.restoreLong_trim {r : LongReg} (h : r.checks = true) (s : State) (tn path : Nat) (t : TileRef) (rk tb : Nat) :
    s.restoreLong tn path t rk ⟨trim r tb, false⟩ 0 = s.setReg rk r := by
  simp [State.restoreLong, untrim_trim, State.restoreReg, h, LongReg.ofVal_of_checks h]

/-! ### The registers of a tile -/

section
variable {s : State} {t : TileRef}

/-- Different places of a tile have different registers. -/
theorem State.regAt_inj {row row' col col' k : Nat} (h : s.regAt t row col = some k) (h' : s.regAt t row' col' = some k) :
    row = row' ∧ col = col' := by
  unfold State.regAt at h h'
  split at h
  · cases h
  · next p hp =>
    split at h'
    · cases h'
    · next p' hp' =>
      obtain ⟨hrow, rfl⟩ := regKey_inj (State.lt_of_mem_physCols (List.mem_of_getElem? hp))
        (State.lt_of_mem_physCols (List.mem_of_getElem? hp')) (Option.some.inj (h.trans h'.symm))
      obtain ⟨hi, -⟩ := List.getElem?_eq_some_iff.mp hp
      exact ⟨by omega, (List.getElem?_inj hi (s.physCols_nodup t)).mp (hp.trans hp'.symm)⟩

theorem State.mem_tilePlaces {p : Nat × Nat × Nat} :
    p ∈ s.tilePlaces t ↔ p.1 < t.rows ∧ p.2.1 < s.width t ∧ s.regAt t p.1 p.2.1 = some p.2.2 := by
  obtain ⟨row, col, k⟩ := p
  simp only [State.tilePlaces, List.mem_flatMap, List.mem_filterMap, List.mem_range, Option.map_eq_some_iff, Prod.mk.injEq]
  constructor
  · rintro ⟨r, hr, c, hc, k', hk, rfl, rfl, rfl⟩
    exact ⟨hr, hc, hk⟩
  · rintro ⟨hr, hc, hk⟩
    exact ⟨row, hr, col, hc, k, hk, rfl, rfl, rfl⟩

variable (s t)

theorem State.tilePlaces_nodup : (s.tilePlaces t).Nodup := by
  refine List.nodup_flatMap.mpr ⟨fun r _ => List.nodup_range.filterMap fun c c' p hp hp' => ?_, ?_⟩
  · obtain ⟨k, -, rfl⟩ := Option.map_eq_some_iff.mp hp
    obtain ⟨k', -, he⟩ := Option.map_eq_some_iff.mp hp'
    exact (Prod.mk.inj (Prod.mk.inj he).2).1.symm
  · refine List.nodup_range.imp fun {r r'} hne p hp hp' => hne ?_
    obtain ⟨c, -, hk⟩ := List.mem_filterMap.mp hp
    obtain ⟨c', -, hk'⟩ := List.mem_filterMap.mp hp'
    obtain ⟨k, -, rfl⟩ := Option.map_eq_some_iff.mp hk
    obtain ⟨k', -, he⟩ := Option.map_eq_some_iff.mp hk'
    exact (Prod.mk.inj he).1.symm

/-- The presented registers of a tile are different ones. -/
theorem State.tilePlaces_keys_nodup : ((s.tilePlaces t).map (fun p => p.2.2)).Nodup := by
  refine List.Nodup.map_on (fun p hp p' hp' hk => ?_) (s.tilePlaces_nodup t)
  obtain ⟨-, -, hreg⟩ := State.mem_tilePlaces.mp hp
  obtain ⟨-, -, hreg'⟩ := State.mem_tilePlaces.mp hp'
  obtain ⟨hrow, hcol⟩ := State.regAt_inj hreg (hk ▸ hreg')
  exact Prod.ext hrow (Prod.ext hcol hk)

end

section
variable {ps : List (Nat × Nat × Nat)} {rs : List LongReg} (hlen : rs.length = ps.length)

/-- The registers of a tile with the contents that they are to take. -/
def State.putRegs (s : State) (es : List ((Nat × Nat × Nat) × LongReg)) : State := es.foldl (fun s e => s.setReg e.1.2.2 e.2) s

theorem State.putRegs_eq (s : State) (es : List ((Nat × Nat × Nat) × LongReg)) :
    s.putRegs es = { s with regs := es.foldl (fun m e => sset .zero m e.1.2.2 e.2) s.regs } :=
  State.foldl_setReg (fun e : (Nat × Nat × Nat) × LongReg => e.1.2.2) (fun e => e.2) es s

include hlen in
/-- Each register takes its content, and no other changes. -/
theorem State.reg_putRegs (hnodup : (ps.map (fun p => p.2.2)).Nodup) (s : State) :
    (∀ e ∈ ps.zip rs, (s.putRegs (ps.zip rs)).reg e.1.2.2 = e.2) ∧
      ∀ k, (∀ p ∈ ps, k ≠ p.2.2) → (s.putRegs (ps.zip rs)).reg k = s.reg k := by
  have hkeys : ((ps.zip rs).map (fun e => e.1.2.2)).Nodup := by
    rwa [← List.map_fst_zip (Nat.le_of_eq hlen.symm), List.map_map] at hnodup
  rw [State.putRegs_eq]
  refine ⟨fun e he => sget_foldl_sset_of_mem he (fun b hb hk => List.inj_on_of_nodup_map hkeys hb he hk) _, fun k hk => ?_⟩
  exact sget_foldl_sset_of_ne (fun e he => hk e.1 (List.of_mem_zip he).1) _

include hlen in
/-- Places zipped with what is read for each of them and its content. -/
theorem zip_map_zip {β : Type} (f : (Nat × Nat × Nat) × LongReg → β) : ps.zip ((ps.zip rs).map f) = (ps.zip rs).map (fun e => (e.1, f e)) := by
  calc ps.zip ((ps.zip rs).map f)
      = ((ps.zip rs).map Prod.fst).zip ((ps.zip rs).map f) := by rw [List.map_fst_zip (Nat.le_of_eq hlen.symm)]
    _ = (ps.zip rs).map (fun e => (e.1, f e)) := List.zip_map'

end

/-! ### Term bounds and modes (R40, R93, R229) -/

/-- Quarters that are set back, each once, have the term bound and mode given for them. -/
theorem State.tileQ_foldl_putQuarter {l : List (Nat × Nat × TMode)} (hnodup : (l.map (fun q => q.1)).Nodup) (s : State) :
    (∀ q ∈ l, ((l.foldl State.putQuarter s).tileQ q.1).tb = q.2.1 ∧ ((l.foldl State.putQuarter s).tileQ q.1).mode = q.2.2) ∧
      ∀ k, (∀ q ∈ l, k ≠ q.1) → (l.foldl State.putQuarter s).tileQ k = s.tileQ k := by
  induction l generalizing s with
  | nil => simp
  | cons q l ih =>
    obtain ⟨hq, hl⟩ := List.nodup_cons.mp hnodup
    obtain ⟨hin, hout⟩ := ih hl (s.putQuarter q)
    have hfresh : ∀ x ∈ l, q.1 ≠ x.1 := fun x hx he => hq (List.mem_map.mpr ⟨x, hx, he.symm⟩)
    have hself : (s.putQuarter q).tileQ q.1 = { s.tileQ q.1 with tb := q.2.1, mode := q.2.2 } := by
      rw [State.putQuarter, State.tileQ_setTile, if_pos rfl]
    rw [List.foldl_cons]
    refine ⟨List.forall_mem_cons.mpr ⟨?_, hin⟩, fun k hk => ?_⟩
    · rw [hout q.1 hfresh, hself]
      exact ⟨rfl, rfl⟩
    · obtain ⟨hkq, hkl⟩ := List.forall_mem_cons.mp hk
      rw [hout k hkl, State.putQuarter, State.tileQ_setTile, if_neg hkq]

theorem TileRef.quarters_nodup (t : TileRef) : t.quarters.Nodup := by
  unfold TileRef.quarters
  split
  · simp
  · simp

/-- The two states agree in the registers, the weights and their shadow and the buffer, and in the term bound and mode of every quarter. -/
structure State.SameSaved (s t : State) : Prop where
  regs : t.regs = s.regs
  cells : t.cells = s.cells
  shadow : t.shadow = s.shadow
  buf : t.buf = s.buf
  quarter : ∀ k, (t.tileQ k).tb = (s.tileQ k).tb ∧ (t.tileQ k).mode = (s.tileQ k).mode

namespace State.SameSaved

variable {s t u : State}

theorem of_sameArray (h : s.SameArray t) : s.SameSaved t :=
  ⟨h.regs, h.cells, h.shadow, h.buf, fun k => by rw [State.tileQ, h.tiles]; exact ⟨rfl, rfl⟩⟩

theorem trans (h : s.SameSaved t) (g : t.SameSaved u) : s.SameSaved u :=
  ⟨g.regs.trans h.regs, g.cells.trans h.cells, g.shadow.trans h.shadow, g.buf.trans h.buf,
    fun k => ⟨(g.quarter k).1.trans (h.quarter k).1, (g.quarter k).2.trans (h.quarter k).2⟩⟩

theorem unbindTiles (s : State) (tn r : Nat) : s.SameSaved (s.unbindTiles tn r) := by
  have hframe : { s.unbindTiles tn r with tiles := s.tiles } = s :=
    State.foldl_tiles_frame (fun u e => by split <;> rfl) _ s
  exact ⟨(congrArg State.regs hframe :), (congrArg State.cells hframe :), (congrArg State.shadow hframe :), (congrArg State.buf hframe :),
    fun k => (s.tileQ_unbindTiles tn r k).2⟩

/-- A region that closes takes the binding of its tiles with it, and nothing that they hold (R229). -/
theorem closeRegion (s : State) (g : Region) : s.SameSaved (s.closeRegion g) := by
  have hgone (l : List Region) : s.SameSaved { s.unbindTiles g.tenant g.num with regions := l } :=
    (unbindTiles s g.tenant g.num).trans (of_sameArray ⟨rfl, rfl, rfl, rfl, rfl⟩)
  unfold State.closeRegion
  split
  · dsimp only
    split
    · exact hgone _
    · exact (hgone _).trans (of_sameArray (.finishOp _ _ _))
  · exact of_sameArray (.refl s)

theorem closeRegions (s : State) : s.SameSaved s.closeRegions :=
  List.foldlRecOn s.regions _ (motive := fun t => s.SameSaved t) (of_sameArray (.refl s)) (fun t ht g _ => ht.trans (closeRegion t g))

end State.SameSaved

/-! ### The command -/

section
variable {s : State} {n : Snap} {rs : List LongReg} (hlen : rs.length = (s.tilePlaces (TileRef.ofHandle n.tile)).length)
  (hrs : ∀ r ∈ rs, if n.clear then r = .zero else r.checks = true)
  (hwords : n.clear = false → s.bufWords (n.at_ + 64) ((n.bytes - 64) / 8) =
    ((s.tilePlaces (TileRef.ofHandle n.tile)).zip rs).flatMap (fun e => (trim e.2 (n.boundAt e.1.2.2)).map (fun w => (w, false))))
include hlen hrs hwords

/-- What a snapshot holds of its tile's registers comes back: of a clear tile, registers that are clear (R229). -/
theorem State.restoreSnap_eq (tn : Nat) : ∃ u, s.SameArray u ∧
    s.restoreSnap tn n [] = n.saved.foldl State.putQuarter (u.putRegs ((s.tilePlaces (TileRef.ofHandle n.tile)).zip rs)) := by
  set ps := s.tilePlaces (TileRef.ofHandle n.tile) with hps
  have hzip : (ps.zip rs).length = ps.length := by rw [List.length_zip, hlen, Nat.min_self]
  unfold State.restoreSnap
  dsimp only
  rw [← hps]
  by_cases hclear : n.clear = true
  · have hzero : ∀ e ∈ ps.zip rs, e.2 = LongReg.zero := fun e he => by simpa [hclear] using hrs e.2 (List.of_mem_zip he).2
    have hput : s.putRegs (ps.zip rs) = s.mapRegs (ps.map (fun p => p.2.2)) (fun _ _ => .zero) := by
      conv_rhs => rw [← List.map_fst_zip (Nat.le_of_eq hlen.symm), State.mapRegs, List.foldl_map, List.foldl_map]
      exact List.foldl_ext _ _ _ fun u e he => by rw [hzero e he]
    rw [if_pos hclear, ← hput]
    exact ⟨s, .refl s, rfl⟩
  · rw [Bool.not_eq_true] at hclear
    have hstored : storedLongs ps.length (s.bufWords (n.at_ + 64) ((n.bytes - 64) / 8)) =
        (ps.zip rs).map (fun e => ⟨trim e.2 (n.boundAt e.1.2.2), false⟩) := by
      rw [hwords hclear, ← hzip]
      exact storedLongs_flatMap (fun e : (Nat × Nat × Nat) × LongReg => e.2) (fun e => n.boundAt e.1.2.2) _
    rw [if_neg (by rw [hclear]; exact Bool.false_ne_true), hstored, zip_map_zip hlen, List.foldl_map]
    refine ⟨s.snapParity tn n, (State.SameWork.parityEvents _ _ _ _).toSameArray, ?_⟩
    rw [State.putRegs]
    congr 1
    refine List.foldl_ext _ _ _ fun u e he => ?_
    have hchecks : e.2.checks = true := by simpa [hclear] using hrs e.2 (List.of_mem_zip he).2
    exact State.restoreLong_trim hchecks u tn 0xFF _ _ _

end

theorem State.foldl_putQuarter_frame (s : State) (l : List (Nat × Nat × TMode)) : { l.foldl State.putQuarter s with tiles := s.tiles } = s :=
  State.foldl_tiles_frame (f := State.putQuarter) (fun _ _ => rfl) l s

theorem map_fst_zip_sublist {α β : Type} (l : List α) (m : List β) : ((l.zip m).map (fun e => e.1)).Sublist l := by
  rw [List.zip_eq_zip_take_min, List.map_fst_zip (by simp)]
  exact List.take_sublist _ _

/-- A snapshot holds each quarter of its tile at most once. -/
theorem Snap.saved_keys_nodup (n : Snap) : (n.saved.map (fun q => q.1)).Nodup :=
  (map_fst_zip_sublist _ _).nodup (TileRef.quarters_nodup _)

/-- Settles O27: the trimmed longs of the snapshot are those of the registers (`untrim_trim`), which take them back one by one
(`restoreSnap_eq`); the region may close then, which takes only the binding of its tiles (`SameSaved.closeRegions`). -/
theorem snapshotRestoreGivesBackTheTile : Obligations.Snapshot_restore_gives_back_the_tile := by
  intro tn r tile g n rs s hregion hsnap htaken hsquash hlanded hwithdrawing tr ps hlen hrs hwords
  have hexec : exec (.snapshotRestore tn r tile []) s =
      .next (((s.restoreSnap tn n []).mapSnap tn r n.tile (fun x => { x with closed := true })).closeRegions) := by
    show execSnapshotRestore tn r tile [] s = _
    simp only [execSnapshotRestore, hregion, hsnap]
    exact if_pos (by simp [htaken, hsquash, hlanded, hwithdrawing])
  obtain ⟨u, hu, hrestored⟩ := State.restoreSnap_eq hlen hrs hwords tn
  set v := u.putRegs (ps.zip rs) with hv
  have hframe := State.foldl_putQuarter_frame v n.saved
  have hputs := State.putRegs_eq u (ps.zip rs)
  obtain ⟨hregs, hothers⟩ := State.reg_putRegs hlen (s.tilePlaces_keys_nodup tr) u
  obtain ⟨hquarters, -⟩ := State.tileQ_foldl_putQuarter n.saved_keys_nodup v
  rw [hrestored] at hexec
  set w := n.saved.foldl State.putQuarter v with hw
  have hnoted : w.SameArray (w.mapSnap tn r n.tile (fun x => { x with closed := true })) := ⟨rfl, rfl, rfl, rfl, rfl⟩
  have hclosed := (State.SameSaved.of_sameArray hnoted).trans (.closeRegions _)
  generalize (w.mapSnap tn r n.tile (fun x => { x with closed := true })).closeRegions = t at hexec hclosed
  have hreg (k : Nat) : t.reg k = v.reg k := by
    rw [State.reg, State.reg, hclosed.regs, (congrArg State.regs hframe :)]
  refine ⟨t, hexec, fun e he => (hreg _).trans (hregs e he), fun k hk => ?_, fun q hq => ?_, ?_, ?_, ?_⟩
  · exact (hreg k).trans ((hothers k hk).trans (congrArg (fun m => sget LongReg.zero m k) hu.regs))
  · rw [(hclosed.quarter q.1).1, (hclosed.quarter q.1).2]
    exact hquarters q hq
  · rw [hclosed.cells, (congrArg State.cells hframe :), (congrArg State.cells hputs :), hu.cells]
  · rw [hclosed.shadow, (congrArg State.shadow hframe :), (congrArg State.shadow hputs :), hu.shadow]
  · rw [hclosed.buf, (congrArg State.buf hframe :), (congrArg State.buf hputs :), hu.buf]

end Sys2Proof.Machine
end

section
/-! RANGE_TIMEOUT: the op of a range is lost with it, and leaves the op table only where nothing of it remains to be cleared (R154, R322). -/

namespace Sys2Proof.Machine

/-- RANGE_TIMEOUT of a range past its timeout aborts it and loses its op (R322). -/
theorem exec_rangeTimeout_of_due {s : State} {r : Range} {o : Op} {group bucket eoff : Nat} (hrange : s.range? group bucket eoff = some r)
    (hop : s.rangeOp r = some o) (hopen : r.complete = false) (hdue : r.last + s.obj (key (0x6000 + r.g) 7) ≤ s.now) :
    exec (.rangeTimeout group bucket eoff) s = .next (s.loseRange r 2) := by
  show execRangeTimeout group bucket eoff s = _
  simp only [execRangeTimeout, hrange, hop, hopen]
  exact if_pos ⟨rfl, rfl, by omega⟩

/-- A descriptor with the opcode, of one row of core 0's first tile; a DRAIN with KEEP = 0. -/
def coreZeroDesc (opcode : Nat) : Desc := ⟨BitVec.ofNat 64 (2 ^ 60 + opcode * 2 ^ 52 + 2 ^ 48), 0, BitVec.ofNat 64 (2 ^ 32), 0, 0, 0, 0, 0⟩

/-- A PRELOAD of core 0. -/
def earlierPreload : Op := { State.reset.newOp .preload (coreZeroDesc 3) false none none with id := 0 }

/-- A DRAIN of core 0, accepted after it. -/
def laterDrain : Op := { State.reset.newOp .drain (coreZeroDesc 4) false none none with id := 1 }

/-- A range of one empty slot whose record names the DRAIN. -/
def drainRange : Range :=
  { g := 0, group := 0, bucket := 0, eoff := 0, elems := 1, ncon := 1, fmt := 0, hier := false, excise := false, tenant := 0, tiles := [],
    slots := [.zero], colls := [], op := some 1, last := 0, badSum := false, ccrc := [] }

/-- The two ops and the range, long after its timeout. -/
def drainTimedOut : State :=
  { State.reset with clk := ⟨2 ^ 32, false, 0⟩, ops := [earlierPreload, laterDrain], ranges := [drainRange] }

/-- The range is what the statement speaks of. -/
theorem drainTimedOut_due : drainTimedOut.range? 0 0 0 = some drainRange ∧ drainTimedOut.rangeOp drainRange = some laterDrain ∧
    drainRange.complete = false ∧ drainRange.last + drainTimedOut.obj (key (0x6000 + drainRange.g) 7) ≤ drainTimedOut.now := by
  decide +kernel

/-- The DRAIN's rows are still to be cleared behind the PRELOAD (R154), so that an op of its number stands in the op table. -/
theorem drainTimedOut_keeps_op : ∃ o ∈ (drainTimedOut.loseRange drainRange 2).ops, o.id = laterDrain.id := by
  decide +kernel

/-- Refutes O52: RANGE_TIMEOUT's clause leaves out that the op of the range is an owner op. In `drainTimedOut` it is a DRAIN with KEEP = 0
behind a PRELOAD of its core; it is lost, but stays in the op table under its number to clear its rows (R154). -/
theorem not_otherFramesHaveTheirEffect : ¬Obligations.Other_frames_have_their_effect := by
  intro h
  obtain ⟨hrange, hop, hopen, hdue⟩ := drainTimedOut_due
  obtain ⟨-, -, htimeout, -⟩ := h 0 ⟨0, 0, 0, 0, 0, 0, 0, 0, []⟩ 0 drainTimedOut
  obtain ⟨t, hexec, -, hgone, -⟩ := htimeout drainRange laterDrain hrange hop hopen hdue
  obtain rfl : t = _ := Host.Outcome.next.inj (hexec.symm.trans (exec_rangeTimeout_of_due hrange hop hopen hdue))
  obtain ⟨o, ho, hid⟩ := drainTimedOut_keeps_op
  exact hgone o ho hid

end Sys2Proof.Machine
end

section
/-! The invariant of the block: every command keeps the tables canonical and the error ring sound (R264, R265). -/

namespace Sys2Proof.Machine

/-- Every command, the strobe edge among them, keeps a good state good. -/
theorem exec_good {c : Instr} {s t : State} (hs : Safety.good s = true) (h : exec c s = .next t) : Safety.good t = true := by
  by_cases hc : c = .siderealCounterAdvance
  case pos =>
    subst hc
    obtain ⟨-, -, hgood, -⟩ := execSiderealCounterAdvance_edge h
    exact hgood hs
  case neg =>
    have hkeeps := exec_keeps hc s
    rw [h] at hkeeps
    exact hkeeps.good hs

/-- Settles O3: a step is the front command, the delivery of a frame to the block itself, or idling; `exec_good` covers the first two, and
a good state says nothing about the queue. -/
theorem everyStepKeepsGoodStates : Obligations.Every_step_keeps_good_states := by
  intro s t hs hstep
  unfold step at hstep
  split at hstep
  next =>
    split at hstep
    · cases hstep
      exact hs
    · exact exec_good hs hstep
  next c rest _ =>
    have hrest : Safety.good { s with pending := rest } = true := hs
    exact exec_good hrest hstep

end Sys2Proof.Machine
end

section
/-! Coalescing: what an event and the end of its key's interval leave in the error ring (R264). -/

namespace Sys2Proof.Machine

/-! ### The operations of the ring, case by case -/

theorem CoKey.isOf_iff (x : CoKey) (e : Event) :
    x.isOf e = true ↔ x.cls = e.cls ∧ x.unit = e.unit ∧ x.loc = e.loc ∧ x.pcol = e.pcol ∧ x.tenant = e.tenant := by
  simp only [CoKey.isOf, Bool.and_eq_true, beq_iff_eq, and_assoc]

section
variable {s : State}

/-- A record whose slot is free is placed. -/
theorem State.writeRec_free (hfree : s.errs.full = false) (kind sev cls : Nat) (tenant : Option Nat) (time : Nat) (w2 w3 : W64) :
    s.writeRec kind sev cls tenant time w2 w3 = s.placeRec kind sev cls tenant time w2 w3 :=
  if_neg (by simp [hfree])

/-- A key without repeats closes without a record. -/
theorem State.closeKey_unrepeated {x : CoKey} (hcount : x.count = 0) : s.closeKey x = s := if_pos hcount

/-- A key with repeats closes with its summary record. -/
theorem State.closeKey_repeated {x : CoKey} (hcount : x.count ≠ 0) (hfree : s.errs.full = false) :
    s.closeKey x = s.placeRec 1 x.sev x.cls x.tenant x.firstRep (BitVec.ofNat 64 x.rcvw)
      (BitVec.ofNat 64 (at_ (min x.count (2 ^ 24 - 1)) 40 + x.detail)) :=
  (if_neg hcount).trans (State.writeRec_free hfree _ _ _ _ _ _ _)

/-- No key closes early while the table has room. -/
theorem State.evictKey_of_room (hroom : s.errs.keys.length < 64) : s.evictKey = s := if_pos hroom

/-- The key that opened first closes early when the table is full. -/
theorem State.evictKey_of_full {x : CoKey} {r : List CoKey} (hkeys : s.errs.keys = x :: r) (hfull : s.errs.keys.length = 64) :
    s.evictKey = ({ s with errs := { s.errs with keys := r } } : State).closeKey x := by
  rw [State.evictKey, if_neg (by omega), hkeys]

/-- The key that an event opens. -/
def Event.opens (e : Event) (now : Nat) : CoKey := ⟨e.cls, e.sev, e.unit, e.loc, e.pcol, e.w2.toNat, e.tenant, now, 0, 0, 0⟩

theorem Event.opens_isOf (e : Event) (now : Nat) : (e.opens now).isOf e = true := (CoKey.isOf_iff _ _).mpr ⟨rfl, rfl, rfl, rfl, rfl⟩

/-- The record of an event (Table 10-4), with the key that it opens. -/
def State.openKey (s : State) (e : Event) : State :=
  let t := s.writeRec 0 e.sev e.cls e.tenant s.now e.w2 (BitVec.ofNat 64 (at_ 1 40 + e.detail % 2 ^ 40))
  { t with errs := { t.errs with keys := t.errs.keys ++ [e.opens s.now] } }

variable {e : Event}

/-- An event of no open key: a key closes early if it must, then the event's own opens. -/
theorem State.event_of_new (hnew : s.errs.keys.any (fun x => x.isOf e) = false) : s.event e = s.evictKey.openKey e := by
  have hnow : s.evictKey.now = s.now := congrArg (fun c : Clock => c.counter.toNat) s.evictKey_clk
  rw [State.event, if_neg (by simp [hnew]), State.openKey, hnow]
  rfl

/-- An event of no open key while the table has room. -/
theorem State.event_of_room (hnew : s.errs.keys.any (fun x => x.isOf e) = false) (hroom : s.errs.keys.length < 64) :
    s.event e = s.openKey e := by
  rw [State.event_of_new hnew, State.evictKey_of_room hroom]

/-- An event of an open key. -/
theorem State.event_of_open (hopen : s.errs.keys.any (fun x => x.isOf e) = true) :
    s.event e = { s with errs := { s.errs with keys := s.errs.keys.map (fun x => if x.isOf e then x.repeat_ s.now e.detail else x) } } :=
  if_pos hopen

/-- COALESCING_INTERVAL_EXPIRY of a key whose interval has passed (R264). -/
theorem exec_coalescingIntervalExpiry_of_due {k : Nat} {x : CoKey} (hkey : s.errs.keys[k]? = some x)
    (hdue : x.openedAt + s.obj (key 0x4000 3) ≤ s.now) : exec (.coalescingIntervalExpiry k) s =
      .next (({ s with errs := { s.errs with keys := s.errs.keys.eraseIdx k } } : State).closeKey x) := by
  show execCoalescingIntervalExpiry k s = _
  simp only [execCoalescingIntervalExpiry, hkey, hdue, if_true]

end

/-- Settles O55: an event opens a key (`openKey`), first closing the oldest of a full table, or counts as a repeat; the end of an
interval is `closeKey`. -/
theorem classKeysCoalesceRepeats : Obligations.Class_keys_coalesce_repeats := by
  refine ⟨CoKey.isOf_iff, ?opens, ?repeats, ?evicts, ?expires⟩
  case opens =>
    intro e s hnew hroom hfree
    rw [State.event_of_room hnew hroom, State.openKey, State.writeRec_free hfree]
    exact ⟨e.opens s.now, rfl, e.opens_isOf _, rfl, rfl, rfl, rfl, rfl, by simp [State.placeRec, sget_sset, at_], rfl⟩
  case repeats =>
    intro e s hopen
    rw [State.event_of_open hopen]
    exact ⟨rfl, rfl⟩
  case evicts =>
    intro e x r s hnew hkeys hfull
    have hrest : (({ s with errs := { s.errs with keys := r } } : State).closeKey x).errs.keys = r := State.closeKey_keys _ x
    rw [State.event_of_new hnew, State.evictKey_of_full hkeys hfull]
    rw [hkeys] at hnew hfull
    refine (State.event_of_room ?_ ?_).symm <;> rw [hrest]
    · exact (Bool.or_eq_false_iff.mp hnew).2
    · exact Nat.lt_of_succ_le hfull.le
  case expires =>
    intro k x s hkey hdue
    refine ⟨_, exec_coalescingIntervalExpiry_of_due hkey hdue, State.closeKey_keys _ x, fun hcount => ?_, fun hcount hfree => ?_⟩
    · rw [State.closeKey_unrepeated hcount]
      exact ⟨rfl, rfl⟩
    · rw [State.closeKey_repeated (s := { s with errs := { s.errs with keys := s.errs.keys.eraseIdx k } }) hcount hfree]
      exact ⟨rfl, rfl, by simp [State.placeRec, sget_sset, at_]⟩

end Sys2Proof.Machine
end

section
/-! Checks that are counted and recorded and change nothing else, and the held tokens of a local retry (R249, R252, R269 to R271, R330). -/

namespace Sys2Proof.Machine

/-! ### A failed check that is counted and recorded -/

/-- `t` differs from `s` in the objects of the dictionary and in the error records only. -/
def State.Counts (s t : State) : Prop := { t with dict := s.dict, errs := s.errs } = s

namespace State.Counts

variable {s t u : State}

theorem refl (s : State) : s.Counts s := rfl

theorem trans (h : s.Counts t) (g : t.Counts u) : s.Counts u :=
  (congrArg (fun v : State => { v with dict := s.dict, errs := s.errs }) g :).trans h

theorem foldl {α : Type} {f : State → α → State} (hf : ∀ (s : State) a, s.Counts (f s a)) (l : List α) (s : State) :
    s.Counts (l.foldl f s) :=
  List.foldlRecOn l f (refl s) (fun t ht a _ => ht.trans (hf t a))

/-- A counter that does not notify (R269, R386). -/
theorem bump (s : State) {k : Nat} (hk : notifying k = false) (n : Nat) : s.Counts (s.bump k n) := by
  unfold State.bump
  split
  · rfl
  · rw [State.setObj, if_neg (by simp [hk])]
    rfl

theorem withErrs (s : State) (r : Records) : s.Counts { s with errs := r } := rfl

theorem writeRec (s : State) (kind sev cls : Nat) (tn : Option Nat) (time : Nat) (w2 w3 : W64) :
    s.Counts (s.writeRec kind sev cls tn time w2 w3) := by
  unfold State.writeRec
  split
  · exact (bump s (by decide) 1).trans (withErrs _ _)
  · exact withErrs s _

theorem closeKey (s : State) (x : CoKey) : s.Counts (s.closeKey x) := by
  unfold State.closeKey
  split
  · exact refl s
  · exact writeRec _ _ _ _ _ _ _ _

theorem evictKey (s : State) : s.Counts s.evictKey := by
  unfold State.evictKey
  split
  · exact refl s
  · split
    · exact refl s
    · exact (withErrs s _).trans (closeKey _ _)

theorem event (s : State) (e : Event) : s.Counts (s.event e) := by
  unfold State.event
  split
  · exact withErrs s _
  · exact ((evictKey s).trans (writeRec _ _ _ _ _ _ _ _)).trans (withErrs _ _)

/-- A parity failure (R249). -/
theorem parity (s : State) (e : Event) : s.Counts ((s.bump (key 0x4001 0) 1).event e) := (bump s (by decide) 1).trans (event _ e)

theorem laneParity (s : State) (o : Op) (c : ChainId) (k : Tok) (col : Nat) : s.Counts (s.laneParity o c k col) := by
  unfold State.laneParity
  refine foldl (fun s l => ?_) _ s
  dsimp only
  split
  · exact refl s
  · exact parity s _

theorem cellParity (s : State) (tn : Option Nat) (c : ChainId) (r cols : Nat) : s.Counts (s.cellParity tn c r cols) := by
  unfold State.cellParity
  refine foldl (fun s j => ?_) _ s
  split
  · exact refl s
  · exact parity s _

theorem againParity (s : State) (c : ChainId) (k : Tok) : s.Counts (s.againParity c k) := foldl (fun s _ => cellParity s _ _ _ _) _ s

/-- What reads neither the objects nor the records is the same. -/
theorem same {α : Type} (h : s.Counts t) (f : State → α) (hf : ∀ v d r, f { v with dict := d, errs := r } = f v := by intros; rfl) :
    f t = f s :=
  (hf t s.dict s.errs).symm.trans (congrArg f h)

theorem chain (h : s.Counts t) (c : ChainId) : t.chain c = s.chain c := h.same (fun v => v.chain c)

end State.Counts

/-! ### Weights whose parity holds -/

theorem sget_eq_default_or_mem {α : Type} {d : α} {m : Sparse α} {k : Nat} : sget d m k = d ∨ ∃ e ∈ m, sget d m k = e.2 := by
  induction m with
  | nil => exact .inl rfl
  | cons x r ih =>
    by_cases hx : x.1 = k
    · exact .inr ⟨x, List.mem_cons_self, by simp [sget, sfind, hx]⟩
    · have hr : sget d (x :: r) k = sget d r k := by simp [sget, sfind, hx]
      rw [hr]
      exact ih.imp_right fun ⟨e, he, h⟩ => ⟨e, List.mem_cons_of_mem _ he, h⟩

section
variable {s : State} (hcells : ∀ e ∈ s.cells, e.2.parityOk = true) (c : ChainId)
include hcells

/-- A cell that nothing was written to holds 0x0000, whose parity is even. -/
theorem State.cellAt_parityOk (r j : Nat) : (s.cellAt c r j).parityOk = true := by
  have hzero : Cell.zero.parityOk = true := by decide
  unfold State.cellAt
  dsimp only
  split
  · exact hzero
  · obtain h | ⟨e, he, h⟩ := sget_eq_default_or_mem (d := Cell.zero) (m := s.cells)
    · rw [h]
      exact hzero
    · rw [h]
      exact hcells e he

theorem State.cellParity_eq_self (tn : Option Nat) (r cols : Nat) : s.cellParity tn c r cols = s :=
  List.foldlRecOn (motive := fun t => t = s) _ _ rfl
    (fun t ht j _ => by subst ht; exact if_pos (State.cellAt_parityOk hcells c r j))

theorem State.againParity_eq_self (k : Tok) : s.againParity c k = s :=
  List.foldlRecOn (motive := fun t => t = s) _ _ rfl (fun t ht r _ => by subst ht; exact State.cellParity_eq_self hcells c _ r _)

end

/-! ### LOCAL_RETRY (R270, R271, R330) -/

/-- `t` follows `s` by the entry of held tokens of the chain `c`. -/
structure State.Represents (c : ChainId) (s t : State) : Prop where
  order : (t.chain c).fly ++ (t.chain c).held = (s.chain c).fly ++ (s.chain c).held
  grows : (s.chain c).fly.length ≤ (t.chain c).fly.length
  frame : { t with chains := s.chains, pwr := s.pwr, errs := s.errs, dict := s.dict } = s
  power : { t.pwr with energy := s.pwr.energy, plan := s.pwr.plan } = s.pwr
  sound : (∀ e ∈ s.cells, e.2.parityOk = true) → t.errs = s.errs ∧ t.dict = s.dict

theorem State.Represents.refl (c : ChainId) (s : State) : s.Represents c s := ⟨rfl, le_rfl, rfl, rfl, fun _ => ⟨rfl, rfl⟩⟩

theorem State.Represents.trans {c : ChainId} {s t u : State} (h : s.Represents c t) (g : t.Represents c u) : s.Represents c u where
  order := g.order.trans h.order
  grows := h.grows.trans g.grows
  frame := (congrArg (fun v : State => { v with chains := s.chains, pwr := s.pwr, errs := s.errs, dict := s.dict }) g.frame :).trans h.frame
  power := (congrArg (fun p : Power => { p with energy := s.pwr.energy, plan := s.pwr.plan }) g.power :).trans h.power
  sound := fun hcells => by
    have htcells : t.cells = s.cells := (congrArg State.cells h.frame :)
    obtain ⟨herrs, hdict⟩ := g.sound (by rwa [htcells])
    exact ⟨herrs.trans (h.sound hcells).1, hdict.trans (h.sound hcells).2⟩

theorem State.Counts.represents {s t : State} (h : s.Counts t) (c : ChainId)
    (hsound : (∀ e ∈ s.cells, e.2.parityOk = true) → t.errs = s.errs ∧ t.dict = s.dict) : s.Represents c t where
  order := by rw [h.chain]
  grows := by rw [h.chain]
  frame := (congrArg (fun v : State => { v with chains := s.chains, pwr := s.pwr })
    (h : { t with dict := s.dict, errs := s.errs } = s) :)
  power := by rw [h.same State.pwr]
  sound := hsound

/-- The first held token has moved into the chain and is metered, and `r` stays held. -/
def State.unheld (s : State) (c : ChainId) (k : Tok) (r : List Tok) : State :=
  (s.mapChain c (fun st => { st with fly := st.fly ++ [k], held := r })).opToken c.core (k.cells (s.tokCols c k))

/-- The first held token enters: the weights that it meets are checked anew (R252). -/
def State.reenter (s : State) (c : ChainId) (k : Tok) (r : List Tok) : State := (s.unheld c k r).againParity c k

section
variable {s : State} {c : ChainId} {k : Tok} {r : List Tok}

theorem State.represent_enters (hmay : s.mayEnter c.core (k.cells (s.tokCols c k)) = true) :
    s.represent c (k :: r) = (s.reenter c k r).represent c r := if_pos hmay

theorem State.represent_waits (hmay : s.mayEnter c.core (k.cells (s.tokCols c k)) = false) : s.represent c (k :: r) = s :=
  if_neg (by simp [hmay])

theorem State.chain_unheld : (s.unheld c k r).chain c = { s.chain c with fly := (s.chain c).fly ++ [k], held := r } := by
  rw [State.unheld, State.chain, State.opToken_chains, ← State.chain, State.mapChain, State.chain_setChain, if_pos rfl]

theorem State.chain_reenter : (s.reenter c k r).chain c = { s.chain c with fly := (s.chain c).fly ++ [k], held := r } :=
  ((State.Counts.againParity _ c k).chain c).trans State.chain_unheld

theorem State.unheld_represents (hheld : (s.chain c).held = k :: r) : s.Represents c (s.unheld c k r) where
  order := by rw [State.chain_unheld, hheld, List.append_assoc, List.singleton_append]
  grows := by simp [State.chain_unheld]
  frame := by simp [State.unheld]
  power := by simp only [State.unheld, State.opToken, State.enter, State.mapChain, State.setChain_pwr]
  sound := fun _ => ⟨by rw [State.unheld, State.opToken_errs]; rfl, by rw [State.unheld, State.opToken_dict]; rfl⟩

theorem State.reenter_represents (hheld : (s.chain c).held = k :: r) : s.Represents c (s.reenter c k r) :=
  (State.unheld_represents hheld).trans ((State.Counts.againParity _ c k).represents c
    fun hcells => by rw [State.againParity_eq_self hcells]; exact ⟨rfl, rfl⟩)

end

/-- However many of the held tokens the draw ceiling lets in. -/
theorem State.represent_represents {c : ChainId} {l : List Tok} {s : State} (hheld : (s.chain c).held = l) :
    s.Represents c (s.represent c l) := by
  induction l generalizing s with
  | nil => exact .refl c s
  | cons k r ih =>
    cases hmay : s.mayEnter c.core (k.cells (s.tokCols c k)) with
    | true =>
      rw [State.represent_enters hmay]
      exact (State.reenter_represents hheld).trans (ih (by rw [State.chain_reenter]))
    | false =>
      rw [State.represent_waits hmay]
      exact .refl c s

/-- Settles O21: the command is `State.represent` of the held tokens; the first of them enters where the draw ceiling admits it. -/
theorem localRetryPresentsHeldTokensAgain : Obligations.Local_retry_presents_held_tokens_again := by
  intro ch k l s hheld
  have hexec : exec (.localRetry ch) s = .next (s.represent ch (k :: l)) := by rw [← hheld]; rfl
  obtain ⟨horder, -, hframe, hpower, hsound⟩ := State.represent_represents hheld
  refine ⟨_, hexec, horder, fun hmay => ?first, fun hmay => State.represent_waits hmay, hframe, hpower, hsound⟩
  have hrest := State.represent_represents (s := s.reenter ch k l) (l := l) (by rw [State.chain_reenter])
  rw [State.represent_enters hmay]
  refine Nat.lt_of_lt_of_le ?_ hrest.grows
  rw [State.chain_reenter]
  simp

end Sys2Proof.Machine
end

section
/-! RUNNING_SUM_ADD of a sum whose check fails for the first time of its op: the local retry that it starts (R254, R270, R273, R280). -/

namespace Sys2Proof.Machine

/-! ### The chains under records and offences -/

section
variable (s : State)

theorem State.capture_chains (e : Event) (d : CapData) : (s.capture e d).chains = s.chains := by
  unfold State.capture
  dsimp only
  split <;> simp [State.countResidue]

theorem State.suspect_chains (u : HwUnit) (cls : Nat) : (s.suspect u cls).chains = s.chains := by
  have hmark (k v : Nat) (e : Event) : (if s.obj k = 0 then (s.setObj k v).event e else s).chains = s.chains := by split <;> simp
  have htest (v : State) (c : Nat) : (v.priorityTest c none).chains = v.chains := (congrArg State.chains (v.priorityTest_frame c none) :)
  cases u with
  | engine n => exact (htest _ _).trans (hmark _ _ _)
  | drain c => exact (htest _ _).trans (hmark _ _ _)
  | link c => simp [State.suspect, State.startSweep]

theorem State.noteOffence_chains (u : HwUnit) : (s.noteOffence u).chains = s.chains := by
  cases u <;> simp [State.noteOffence]

theorem State.pendQuarantine_chains (u : HwUnit) : (s.pendQuarantine u).chains = s.chains := by
  unfold State.pendQuarantine
  split <;> simp

end

/-- An offence of an engine whose core does not await quarantine leaves the chains. -/
theorem State.offend_engine_chains {s : State} {n : Nat} (h : s.coreHealth (coreOf n) ≠ 2) (cls : Nat) :
    (s.offend (.engine n) cls).chains = s.chains := by
  unfold State.offend
  dsimp only
  set charged : State := { s with con := _ } with hcharged
  have hnoted : (charged.noteOffence (.engine n)).chains = s.chains := charged.noteOffence_chains _
  have hhealth : (charged.noteOffence (.engine n)).coreHealth (unitCore (.engine n)) ≠ 2 := by
    rw [State.coreHealth_noteOffence]
    exact ne_of_eq_of_ne (State.coreHealth_withCon s (coreOf n) _) h
  rw [if_neg hhealth]
  split
  · rw [State.pendQuarantine_chains, State.suspect_chains, hnoted]
  · rw [State.suspect_chains, hnoted]

/-! ### The retry that a first failure starts -/

/-- Whether a token is not the one named. -/
def Tok.other (k x : Tok) : Bool := !(x.op == k.op && x.idx == k.idx)

/-- The chain once a token has failed: it and those behind it are held, the older ones stay (R270). -/
def ChainSt.hold (st : ChainSt) (k : Tok) (r : Retry) : ChainSt :=
  { st with fly := st.fly.takeWhile k.other, held := st.fly.dropWhile k.other ++ st.held, retry := st.retry ++ [r] }

/-- What a first failure of an op leaves, before its engine is charged: the chain holds its tokens, and the op has had its retry. -/
def State.retryHeld (s : State) (o : Op) (c : ChainId) (k : Tok) (r : Retry) : State :=
  (s.mapOp o.id (fun p => { p with retried := true })).setChain c ((s.chain c).hold k r)

/-- A first failure is captured and recorded, starts its retry, and is charged to its engine (R254, R270, R273, R280). -/
theorem State.failSum_first {o : Op} (hretried : o.retried = false) (s : State) (c : ChainId) (ci : Nat) (k : Tok) (col j : Nat)
    (f : SumFail) (rk : Nat) : s.failSum o c ci k col j f rk =
      ((s.capture (f.event (some o.d.tenant)) (s.capData o c k col f rk)).retryHeld o c k
        ⟨o.id, k.idx, col, j, f.cls, f.unit, f.loc, some (f.prow, f.pcol), s.freeCap⟩).offend (.engine f.eng) f.cls := by
  rw [State.failSum, hretried]
  rfl

section
variable {s : State} {o : Op} {c : ChainId} {k : Tok} {r : Retry}

theorem State.retryHeld_sameArray : s.SameArray (s.retryHeld o c k r) := (SameArray.mapOp _ _ _).trans (.setChain _ _ _)

theorem State.chain_retryHeld : (s.retryHeld o c k r).chain c = (s.chain c).hold k r := by
  rw [State.retryHeld, State.chain_setChain, if_pos rfl]

theorem State.retried_retryHeld (ho : o ∈ s.ops) : ∃ p ∈ (s.retryHeld o c k r).ops, p.id = o.id ∧ p.retried = true :=
  ⟨_, List.mem_map_of_mem ho, by simp, by simp⟩

theorem State.coreHealth_retryHeld (x : Nat) : (s.retryHeld o c k r).coreHealth x = s.coreHealth x := State.obj_congr rfl rfl rfl

end

/-- A first failure on a core that does not await quarantine: the array stays, the chain holds its tokens, the op has had its retry. -/
theorem State.failSum_holds {s : State} {o : Op} (ho : o ∈ s.ops) (hretried : o.retried = false) (c : ChainId) (ci : Nat) (k : Tok)
    (col j : Nat) (f : SumFail) (rk : Nat) (hhealth : s.coreHealth (coreOf f.eng) ≠ 2) :
    s.SameArray (s.failSum o c ci k col j f rk) ∧
      (s.failSum o c ci k col j f rk).chain c =
        (s.chain c).hold k ⟨o.id, k.idx, col, j, f.cls, f.unit, f.loc, some (f.prow, f.pcol), s.freeCap⟩ ∧
      ∃ p ∈ (s.failSum o c ci k col j f rk).ops, p.id = o.id ∧ p.retried = true := by
  rw [State.failSum_first hretried]
  set captured := s.capture (f.event (some o.d.tenant)) (s.capData o c k col f rk) with hcaptured
  set held := captured.retryHeld o c k _ with hheld
  have hsame : s.SameSpine captured := .capture _ _ _
  have hheldHealth : held.coreHealth (coreOf f.eng) ≠ 2 := by
    rwa [hheld, State.coreHealth_retryHeld, hcaptured, State.coreHealth_capture]
  have hoffended := State.SameSpine.offend_engine hheldHealth f.cls
  refine ⟨(hsame.toSameArray.trans State.retryHeld_sameArray).trans hoffended.toSameArray, ?chain, ?op⟩
  case chain =>
    have hchain : captured.chain c = s.chain c := congrArg (sget ChainSt.zero · (chainKey c)) (s.capture_chains _ _)
    rw [State.chain, State.offend_engine_chains hheldHealth, ← State.chain, State.chain_retryHeld, hchain]
  case op =>
    rw [hoffended.ops]
    exact State.retried_retryHeld (by rwa [hsame.ops])

/-! ### The command -/

/-- The op of a sum that may be added is outstanding. -/
theorem State.addable_mem {s : State} {c : ChainId} {col j : Nat} {o : Op} {ci : Nat} {k : Tok} {rk : Nat}
    (h : s.addable c col j = some (o, ci, k, rk)) : o ∈ s.ops := by
  unfold State.addable at h
  split at h
  · cases h
  split at h
  · cases h
  next p hp =>
  split at h
  · cases h
  dsimp only at h
  split at h
  · cases h
  split_ifs at h
  cases h
  exact (State.op?_mem hp).1

/-- Parity failures of operands leave the health of the cores. -/
theorem State.coreHealth_laneParity (s : State) (o : Op) (c : ChainId) (k : Tok) (col x : Nat) :
    (s.laneParity o c k col).coreHealth x = s.coreHealth x := by
  unfold State.laneParity
  refine List.foldlRecOn (motive := fun t : State => t.coreHealth x = s.coreHealth x) _ _ rfl (fun t ht l _ => ?_)
  dsimp only
  split
  · exact ht
  · exact ((State.coreHealth_event _ x _).trans (State.coreHealth_bump t x 1 (by decide))).trans ht

/-- A fault that its check sees fails it (R254). -/
theorem State.sumFails_seen {o : Op} {f : SumFault} (hseen : faultSeen o.d f = true) (s : State) (c : ChainId) (ci : Nat) (k : Tok)
    (col j rk : Nat) : s.sumFails o c ci k col j (some f) rk = some (s.sumFault (tokCtx o ci k col j) c col f rk) := by
  simp only [State.sumFails, Option.filter_some, hseen, if_true]

/-- The engine charged with a fault depends on the arrangement of the cores only. -/
theorem State.sumFault_eng {s t : State} (hcores : t.cores = s.cores) (x : SumCtx) (c : ChainId) (col : Nat) (f : SumFault) (rk : Nat) :
    (t.sumFault x c col f rk).eng = (s.sumFault x c col f rk).eng := by
  have hhop : t.atHop c f = s.atHop c f := by
    rw [State.atHop, State.atHop, State.chainDepth, State.chainDepth, State.core, hcores, State.core]
  simp only [State.sumFault, hhop]

/-- Settles O20: the command is `State.failSum` after the operands' parity has been checked, and `State.failSum_holds` says what a first
failure leaves. -/
theorem failingSumIsHeldForRetry : Obligations.Failing_sum_is_held_for_retry := by
  intro ch col j f o ci k rk s _ _ hadd hseen hretried hhealth
  set s1 : State := if j = 0 then s.laneParity o ch k col else s with hs1
  have hcount : s.Counts s1 := by
    rw [hs1]
    split
    · exact .laneParity _ _ _ _ _
    · exact .refl s
  have hsame (x : Nat) : s1.coreHealth x = s.coreHealth x := by
    rw [hs1]
    split
    · exact State.coreHealth_laneParity _ _ _ _ _ _
    · rfl
  set fail := s1.sumFault (tokCtx o ci k col j) ch col f rk with hfail
  have heng : fail.eng = (s.sumFault (tokCtx o ci k col j) ch col f rk).eng := State.sumFault_eng (hcount.same State.cores) _ _ _ _ _
  have hexec : exec (.runningSumAdd ch col j (some f)) s = .next (s1.failSum o ch ci k col j fail rk) := by
    change execRunningSumAdd ch col j (some f) s = _
    simp only [execRunningSumAdd, hadd, ← hs1, State.sumFails_seen hseen, ← hfail]
  have hmem : o ∈ s1.ops := by rw [hcount.same State.ops]; exact State.addable_mem hadd
  obtain ⟨harray, hchain, hop⟩ := State.failSum_holds hmem hretried ch ci k col j fail rk (by rwa [hsame, heng])
  rw [hcount.chain] at hchain
  refine ⟨_, hexec, harray.regs.trans (hcount.same State.regs), ?older, ?held, ?noted, hop,
    harray.cells.trans (hcount.same State.cells), harray.shadow.trans (hcount.same State.shadow),
    harray.tiles.trans (hcount.same State.tiles), harray.buf.trans (hcount.same State.buf)⟩
  case older => rw [hchain]; rfl
  case held => rw [hchain]; rfl
  case noted =>
    rw [hchain]
    exact ⟨_, List.mem_append_right _ List.mem_cons_self, rfl, rfl, rfl, rfl⟩

end Sys2Proof.Machine
end

section
/-! DATA: the terms of a stream are kept by quarter in a table, and the statement leaves out that this table names no quarter twice (R309,
R418). -/

namespace Sys2Proof.Machine

/-! ### A DATA frame that is taken -/

theorem State.returnCredit_dict (s : State) (q : Nat) (f : Frame) : (s.returnCredit q f).dict = s.dict := by
  unfold State.returnCredit
  split
  · rfl
  · rw [State.giveCredits_dict, State.setPort_dict]

theorem State.returnCredit_conf (s : State) (q : Nat) (f : Frame) : (s.returnCredit q f).conf = s.conf := by
  unfold State.returnCredit
  split
  · rfl
  · rw [State.giveCredits_conf, State.setPort_conf]

theorem State.returnCredit_speed (s : State) (q : Nat) (f : Frame) : (s.returnCredit q f).speed = s.speed := by
  unfold State.returnCredit
  split
  · rfl
  · rw [State.giveCredits_speed, State.setPort_speed]

theorem State.obj_returnCredit (s : State) (q : Nat) (f : Frame) (k : Nat) : (s.returnCredit q f).obj k = s.obj k :=
  State.obj_congr (s.returnCredit_dict q f) (s.returnCredit_conf q f) (s.returnCredit_speed q f)

/-- A frame that its port hears does not overrun the receive pool (R218). -/
theorem State.overflows_of_hears {s : State} {q : Nat} {f : Frame} (h : s.hears q f = true) : s.overflows q f = false := by
  by_cases hq : q = 0xFE
  · simp [State.overflows, hq]
  · rw [State.hears, if_neg hq] at h
    simp only [Bool.and_eq_true] at h
    simp [State.overflows, h.2]

/-- A DATA frame that arrives and need not wait: its credit returns, and it does what it does at the owner. -/
theorem exec_data_taken {q : Nat} {f : Frame} {g : Nat} {s : State} (h : Safety.arrives s q f 1 g) (hwaits : s.dataWaits f = false)
    (hbehind : s.behind q f = false) : exec (.data q f) s = .next ((s.returnCredit q f).dataIn g f) := by
  obtain ⟨hport, hhears, htype, hver, hcrc, hslot⟩ := h
  have hframe : (s.returnCredit q f).frameSlot q f = some g := by
    have hslotOf : (s.returnCredit q f).slotOf f.group = s.slotOf f.group := by
      simp only [State.slotOf, State.obj_returnCredit]
    rw [State.frameSlot, if_neg, hslotOf, hslot]
    rintro (hv | ⟨hq, hbad⟩)
    · exact hv hver
    · rcases hcrc with he | hok
      · exact hq he
      · exact Bool.false_ne_true (hbad.symm.trans hok)
  have hgood : ¬(s.hears q f = true ∧ f.ftype = 1 ∧ q ≠ 0xFE ∧ frameOk f = false) := by
    rintro ⟨-, -, hq, hbad⟩
    rcases hcrc with he | hok
    · exact hq he
    · exact Bool.false_ne_true (hbad.symm.trans hok)
  have hgo : ¬(s.hears q f = true ∧ f.ftype = 1 ∧ s.straggler f = false ∧ (s.dataWaits f = true ∨ s.behind q f = true)) := by
    simp [hwaits, hbehind]
  show execData q f s = _
  rw [execData, hport, if_neg Bool.false_ne_true, if_neg hgood, if_neg hgo, State.onFrame, hport, if_neg Bool.false_ne_true,
    State.overflows_of_hears hhears, if_neg (by simp), if_neg (by simp [hhears, htype])]
  simp only [hframe]

/-! ### A stream whose table of terms names a quarter twice -/

/-- A used slot in the second frame of its contribution, whose table of terms names quarter 0 twice, with 1 and with 2 terms. -/
def twiceNamedSlot : Slot := { Slot.zero with st := .receiving, nf := 1, used := true, tq := [(0, 1), (0, 2)] }

/-- A range of one element on the first tile, with that slot alone. -/
def twiceNamedRange : Range :=
  { g := 0, group := 0, bucket := 0, eoff := 0, elems := 1, ncon := 1, fmt := 0, hier := false, excise := false, tenant := 0, tiles := [0],
    slots := [twiceNamedSlot], colls := [], op := none, last := 0, badSum := false, ccrc := [] }

/-- Frame 1 of the contribution: one EL16 element, 0x4000. -/
def secondFrame : Frame :=
  ⟨BitVec.ofNat 64 (2 ^ 60 + 2 ^ 56), 0, BitVec.ofNat 64 (2 ^ 32), BitVec.ofNat 64 (2 ^ 21 + 2 ^ 15), BitVec.ofNat 64 (2 ^ 32), 0, 0, 0,
    [⟨0x4000, 0⟩]⟩

/-- The elements of the frame. -/
def secondElts : List Elt := [⟨Incoming.ofCode 0x4000 false, 1⟩]

/-- The frame on the loopback path of a block that holds the range, in the group of slot 0. -/
def twiceNamed : State := { State.reset.setObj (key 0x6000 2) 1 with ranges := [twiceNamedRange], loop := [secondFrame] }

theorem twiceNamed_arrives : Safety.arrives twiceNamed 0xFE secondFrame 1 0 := by
  refine ⟨?_, ?_, ?_, ?_, .inl rfl, ?_⟩ <;> decide +kernel

theorem twiceNamed_slotAt : Safety.slotAt twiceNamed secondFrame twiceNamedRange 0 twiceNamedSlot := by
  refine ⟨?_, ?_, ?_, ?_⟩ <;> decide +kernel

theorem twiceNamed_goes : twiceNamed.dataWaits secondFrame = false ∧ twiceNamed.behind 0xFE secondFrame = false := by decide +kernel

/-- A range of one element has one register. -/
theorem twiceNamed_rangeReg_inj (a b rk : Nat) (ha : twiceNamed.rangeReg twiceNamedRange a = some rk)
    (hb : twiceNamed.rangeReg twiceNamedRange b = some rk) : a = b := by
  have hzero (k : Nat) (h : twiceNamed.rangeReg twiceNamedRange k = some rk) : k = 0 := by
    by_contra hk
    have hnone : twiceNamed.rangePlace twiceNamedRange k = none := if_pos (Nat.one_le_iff_ne_zero.mpr hk)
    simp [State.rangeReg, hnone] at h
  rw [hzero a ha, hzero b hb]

/-- The element passes the check at its register. -/
theorem twiceNamed_checks : ∀ e ∈ secondElts.zipIdx, ∀ rk, twiceNamed.rangeReg twiceNamedRange (secondFrame.feoff + e.2) = some rk →
    e.1.special = false →
    ((twiceNamed.reg rk).add { e.1.inc with v := if secondFrame.neg = true then -e.1.inc.v else e.1.inc.v }).checks = true := by
  have hreg : twiceNamed.regs = [] := rfl
  have hreset (rk : Nat) : twiceNamed.reg rk = LongReg.zero := by rw [State.reg, hreg]; rfl
  intro e he rk _ _
  rw [hreset]
  obtain rfl : e = (⟨Incoming.ofCode 0x4000 false, 1⟩, 0) := List.mem_singleton.mp he
  decide +kernel

/-- Both entries of the quarter raise its bound: the first by none, the second by 1. -/
theorem twiceNamed_bound : (((twiceNamed.returnCredit 0xFE secondFrame).dataIn 0 secondFrame).tileQ 0).tb = 1 := by decide +kernel

/-- Refutes O50: the clause on the term bounds leaves out that the slot's table of terms names no quarter twice, as a table that
`State.eltTerms` builds from the empty one does not. In `twiceNamed` it names quarter 0 twice, and the frame raises the bound by the sum of
what both entries grow by, 1, where the statement reads the growth of the first entry, 0. -/
theorem not_dataFrameAddsItsElementsExactly : ¬Obligations.Data_frame_adds_its_elements_exactly := by
  intro h
  obtain ⟨-, hadds, -⟩ := h 0xFE secondFrame 0 0 twiceNamedRange twiceNamedSlot secondElts twiceNamed twiceNamed_arrives
    twiceNamed_slotAt (by decide +kernel) (by decide +kernel) (by decide +kernel)
    (fun _ => ⟨rfl, .inr (by decide +kernel), by decide +kernel, by decide +kernel, by decide +kernel, by decide +kernel⟩)
    (by decide +kernel)
  obtain ⟨hwaits, hbehind⟩ := twiceNamed_goes
  obtain ⟨t, hexec, -, hbound, -⟩ := hadds hwaits hbehind (by decide +kernel) twiceNamed_rangeReg_inj twiceNamed_checks
  have ht := Host.Outcome.next.inj (hexec.symm.trans (exec_data_taken twiceNamed_arrives hwaits hbehind))
  have hread := hbound 0
  rw [ht, twiceNamed_bound] at hread
  exact absurd hread (by decide +kernel)

end Sys2Proof.Machine
end

section
/-! REROLL_VERDICT: the verdict of the compared registers, and what is left of the reroll (R284, R285). -/

namespace Sys2Proof.Machine

/-! ### Regions that close -/

section
variable {s : State} {h : Region}

theorem State.mem_regions_of_closeRegion {g : Region} (hh : h ∈ (s.closeRegion g).regions) : h ∈ s.regions := by
  have hunbound := (State.Unwinds.unbindTiles s g.tenant g.num).regions
  unfold State.closeRegion at hh
  split at hh
  · dsimp only at hh
    split at hh
    · exact hunbound ▸ List.mem_of_mem_filter hh
    · rw [(State.Unwinds.finishOp _ _ _).regions] at hh
      exact hunbound ▸ List.mem_of_mem_filter hh
  · exact hh

/-- Regions that close leave the others as they are. -/
theorem State.mem_regions_of_closeRegions (hh : h ∈ s.closeRegions.regions) : h ∈ s.regions :=
  List.foldlRecOn (motive := fun t : State => h ∈ t.regions → h ∈ s.regions) s.regions _ id
    (fun _ ht _ _ hh => ht (State.mem_regions_of_closeRegion hh)) hh

end

/-! ### The verdict (R285) -/

/-- A verdict that is given: the reroll has left the op table, and the verdict stands in its region. -/
structure State.Judged (s : State) (r : Op) (d : Desc) (v : Nat) : Prop where
  gone : ∀ p ∈ s.ops, p.id ≠ r.id
  stands : ∀ h ∈ s.regions, h.tenant = d.tenant → h.num = d.region → v ∈ h.verdicts

section
variable {s : State} {r : Op} {d : Desc} {v : Nat}

theorem State.judged_dropOp (h : ∀ x ∈ s.regions, x.tenant = d.tenant → x.num = d.region → v ∈ x.verdicts) :
    (s.dropOp r.id).Judged r d v :=
  ⟨fun _ hp => bne_iff_ne.mp (List.mem_filter.mp hp).2, h⟩

theorem State.Judged.closeRegions (h : s.Judged r d v) : s.closeRegions.Judged r d v where
  gone p hp := by
    obtain ⟨q, hq, hid, -⟩ := (State.Settles.closeRegions (clears := True) s).ops p hp
    exact hid ▸ h.gone q hq
  stands x hx := h.stands x (State.mem_regions_of_closeRegions hx)

/-- Whatever is recorded, charged and cleared before, the verdict joins those of its region. -/
theorem State.verdict_mem_mapRegion (s : State) (d : Desc) (v : Nat) :
    ∀ h ∈ (s.mapRegion d.tenant d.region (fun g => { g with verdicts := g.verdicts ++ [v] })).regions,
      h.tenant = d.tenant → h.num = d.region → v ∈ h.verdicts := by
  intro h hh htn hr
  obtain ⟨x, -, rfl⟩ := List.mem_map.mp hh
  split
  · exact List.mem_append_right _ (List.mem_singleton_self v)
  · next hx =>
    rw [if_neg hx] at htn hr
    simp [htn, hr] at hx

theorem State.giveVerdict_judged (s : State) (r : Op) (d : Desc) (v diff : Nat) : (s.giveVerdict r d v diff).Judged r d v := by
  unfold State.giveVerdict
  extract_lets cls sev loc s1 s2 s3
  have hstands := State.verdict_mem_mapRegion (s2.clearScratch r) d v
  split
  · exact State.judged_dropOp hstands
  · exact State.judged_dropOp hstands

end

/-! ### The command -/

/-- The verdict on an op and its reroll that have added every sum (R284, R285; log 48). -/
def State.verdictOf (s : State) (r o : Op) (d : Desc) : Nat :=
  if r.failed then 2
  else if (s.rerollPairs r d).all (fun p => decide (s.reg p.1 = s.reg p.2)) then 0
  else if r.got ≠ 0 ∨ o.failed then 2 else 1

/-- No register differs from its pair exactly when all are equal. -/
theorem State.length_differing_eq_zero (s : State) (l : List (Nat × Nat)) :
    (l.filter (fun p => s.reg p.1 != s.reg p.2)).length = 0 ↔ l.all (fun p => decide (s.reg p.1 = s.reg p.2)) = true := by
  simp [List.filter_eq_nil_iff]

theorem State.verdictOf_eq (s : State) (r o : Op) (d : Desc) :
    (if r.failed = true then 2
      else if ((s.rerollPairs r d).filter (fun p => s.reg p.1 != s.reg p.2)).length = 0 then 0
      else if (r.failed || r.got != 0 || o.failed) = true then 2 else 1) = s.verdictOf r o d := by
  simp only [State.length_differing_eq_zero, State.verdictOf]
  cases hfailed : r.failed
  · simp
  · rfl

theorem exec_rerollVerdict_landed {id : Nat} {r o : Op} {d : Desc} {s : State}
    (hr : s.ops.find? (fun r => r.k == .reroll && r.rolled == some id) = some r) (hd : r.rd = some d) (ho : s.op? id = some o)
    (hstart : r.started = true) (hstop : r.stopped = false)
    (hadded : ∀ x ∈ [r, o], ∀ ci c, x.chains[ci]? = some c → tokTotal x ci ≤ x.added.getD ci 0) :
    ∃ diff, exec (.rerollVerdict id) s = .next (s.giveVerdict r d (s.verdictOf r o d) diff).closeRegions := by
  have hlanded (x : Op) (hx : x ∈ [r, o]) : (List.range x.chains.length).all (fun ci => decide (tokTotal x ci ≤ x.added.getD ci 0) ||
      s.opCols x (x.chains.getD ci ⟨0, 0, 0⟩) ci == 0) = true := by
    refine List.all_eq_true.mpr fun ci hci => ?_
    have hlt := List.mem_range.mp hci
    rw [decide_eq_true (hadded x hx ci _ (List.getElem?_eq_getElem hlt)), Bool.true_or]
  have hrolled := hlanded r (by simp)
  have horig := hlanded o (by simp)
  refine ⟨((s.rerollPairs r d).filter (fun p => s.reg p.1 != s.reg p.2)).length, ?_⟩
  show execRerollVerdict id s = _
  simp only [execRerollVerdict, hr, hd, ho, Option.map_some, Option.getD_some, hstart, hstop, hrolled, horig, State.verdictOf_eq]
  rfl

/-- Settles O30: the command gives the verdict of the compared registers (`exec_rerollVerdict_landed`), and the regions that close behind it
leave it standing and enter no op (`Judged.closeRegions`). -/
theorem rerollVerdictComparesTheRegisters : Obligations.Reroll_verdict_compares_the_registers := by
  intro id r o d s hr hd ho hstart hstop hadded
  obtain ⟨diff, hexec⟩ := exec_rerollVerdict_landed hr hd ho hstart hstop hadded
  have hjudged := (s.giveVerdict_judged r d (s.verdictOf r o d) diff).closeRegions
  exact ⟨_, hexec, hjudged.gone, hjudged.stands⟩

end Sys2Proof.Machine
end

section
/-! What records, offences and the deck's requests leave unchanged (R263, R269, R273 to R276, R280, R286). -/

namespace Sys2Proof.Machine

/-! ### Updates of containment -/

theorem Safety.sameArray_trans {s t u : State} (h : Safety.sameArray t s) (g : Safety.sameArray u t) : Safety.sameArray u s := by
  obtain ⟨hregs, htiles, hcells, hshadow, hchains, hspine, hbuf⟩ := h
  obtain ⟨gregs, gtiles, gcells, gshadow, gchains, gspine, gbuf⟩ := g
  exact ⟨gregs.trans hregs, gtiles.trans htiles, gcells.trans hcells, gshadow.trans hshadow, gchains.trans hchains, gspine.trans hspine,
    gbuf.trans hbuf⟩

/-- The array of a state that differs elsewhere from one equal to `s`. -/
theorem Safety.sameArray_of_eq {s t u : State} (h : u = s) (hu : Safety.sameArray t u) : Safety.sameArray t s := h ▸ hu

/-- The two states agree in all but containment's own record, the objects with their notices, and the error records; and the deck is at the
same test, whatever tests wait. -/
structure State.SameMachine (s t : State) : Prop where
  rest : { t with con := s.con, dict := s.dict, mg := s.mg, errs := s.errs } = s
  test : { t.con.deck with prio := s.con.deck.prio } = s.con.deck

namespace State.SameMachine

variable {s t u : State}

theorem refl (s : State) : s.SameMachine s := ⟨rfl, rfl⟩

theorem trans (h : s.SameMachine t) (g : t.SameMachine u) : s.SameMachine u where
  rest := (congrArg (fun v : State => { v with con := s.con, dict := s.dict, mg := s.mg, errs := s.errs }) g.rest :).trans h.rest
  test := (congrArg (fun d : DeckSt => { d with prio := s.con.deck.prio }) g.test :).trans h.test

theorem foldl {α : Type} {f : State → α → State} (hf : ∀ (s : State) a, s.SameMachine (f s a)) (l : List α) (s : State) :
    s.SameMachine (l.foldl f s) :=
  List.foldlRecOn l f (refl s) (fun t ht a _ => ht.trans (hf t a))

/-- What reads none of these is the same. -/
theorem read {α : Type} (h : s.SameMachine t) (f : State → α)
    (hf : ∀ v c d m r, f { v with con := c, dict := d, mg := m, errs := r } = f v := by intros; rfl) : f t = f s :=
  (hf t s.con s.dict s.mg s.errs).symm.trans (congrArg f h.rest)

theorem sameArray (h : s.SameMachine t) : Safety.sameArray t s :=
  ⟨h.read State.regs, h.read State.tiles, h.read State.cells, h.read State.shadow, h.read State.chains, h.read State.spine,
    h.read State.buf⟩

theorem ops (h : s.SameMachine t) : t.ops = s.ops := h.read State.ops

theorem testState (h : s.SameMachine t) : t.con.deck.state = s.con.deck.state := (congrArg DeckSt.state h.test :)

theorem testCore (h : s.SameMachine t) : t.con.deck.core = s.con.deck.core := (congrArg DeckSt.core h.test :)

theorem of_counts (h : s.Counts t) (hcon : t.con = s.con) : s.SameMachine t where
  rest := (congrArg (fun v : State => { v with con := s.con, mg := s.mg }) (h : { t with dict := s.dict, errs := s.errs } = s) :)
  test := by rw [hcon]

theorem event (s : State) (e : Event) : s.SameMachine (s.event e) := of_counts (.event s e) (s.event_con e)

theorem setObj (s : State) (k v : Nat) : s.SameMachine (s.setObj k v) where
  rest := (congrArg (fun u : State => { u with con := s.con, errs := s.errs }) (State.setObj_frame s k v) :)
  test := by rw [State.setObj_con]

theorem bump (s : State) (k n : Nat) : s.SameMachine (s.bump k n) := by
  unfold State.bump
  split
  · exact refl s
  · exact setObj _ _ _

theorem refreshCores (s : State) : s.SameMachine s.refreshCores := setObj _ _ _

theorem withOffences (s : State) (os : List (HwUnit × Nat)) (us : List HwUnit) :
    s.SameMachine { s with con := { s.con with offences := os, clean := us } } := ⟨rfl, rfl⟩

theorem withCaps (s : State) (caps : Sparse Nat) (busy : List Nat) (next : Nat) (seqs : List (Nat × Nat)) :
    s.SameMachine { s with con := { s.con with caps := caps, capBusy := busy, capNext := next, capSeq := seqs } } := ⟨rfl, rfl⟩

theorem priorityTest (s : State) (c : Nat) (rel : Option Nat) : s.SameMachine (s.priorityTest c rel) := by
  unfold State.priorityTest
  split
  · exact refl s
  · exact ⟨rfl, rfl⟩

theorem capture (s : State) (e : Event) (d : CapData) : s.SameMachine (s.capture e d) := by
  unfold State.capture
  extract_lets s0 cap
  have hcheck : s.SameMachine s0 := (bump _ _ _).trans (event _ _)
  split
  · exact hcheck.trans (bump _ _ _)
  · exact ((hcheck.trans (withCaps _ _ _ _ _)).trans (bump _ _ _)).trans (event _ _)

theorem noteOffence (s : State) (x : HwUnit) : s.SameMachine (s.noteOffence x) := by
  cases x with
  | engine n => exact (setObj _ _ _).trans (setObj _ _ _)
  | drain c => exact refl s
  | link c => exact refl s

theorem pendQuarantine (s : State) (x : HwUnit) : s.SameMachine (s.pendQuarantine x) := by
  unfold State.pendQuarantine
  split
  · exact refl s
  · exact (setObj _ _ _).trans (event _ _)

end State.SameMachine

/-! ### Offences that lose nothing (R273 to R275) -/

/-- An offence is counted for a unit, and its engine's objects follow (R273). -/
def State.charged (s : State) (u : HwUnit) : State :=
  ({ s with con := { s.con with
    offences := s.con.offences ++ [(u, s.now)]
    clean := s.con.clean.filter (fun x => x != u) } } : State).noteOffence u

/-- An engine is noted as suspect, with record 0x080 on its first offence, and a priority test of its core asked for (R274). -/
def State.suspected (s : State) (u : HwUnit) (cls : Nat) : State :=
  (if s.obj (healthKey u) = 0 then
    (s.setObj (healthKey u) 1).event ⟨0x080, 3, unitCode u, unitLoc u, none, none, at_ (s.offences u) 32 + at_ cls 20⟩
  else s).priorityTest (unitCore u) none

section
variable (s : State) (u : HwUnit)

theorem State.SameMachine.charged : s.SameMachine (s.charged u) :=
  (State.SameMachine.withOffences s _ _).trans (.noteOffence _ u)

theorem State.SameMachine.suspected (cls : Nat) : s.SameMachine (s.suspected u cls) := by
  have hmark (e : Event) : s.SameMachine (if s.obj (healthKey u) = 0 then (s.setObj (healthKey u) 1).event e else s) := by
    split
    · exact (setObj _ _ _).trans (event _ _)
    · exact refl s
  exact (hmark _).trans (priorityTest _ _ _)

theorem State.noteOffence_con : (s.noteOffence u).con = s.con := by
  cases u <;> simp [State.noteOffence]

theorem State.charged_offences : (s.charged u).con.offences = s.con.offences ++ [(u, s.now)] := by
  rw [State.charged, State.noteOffence_con]

theorem State.priorityTest_offences (c : Nat) (rel : Option Nat) : (s.priorityTest c rel).con.offences = s.con.offences := by
  unfold State.priorityTest
  split <;> rfl

theorem State.suspected_offences (cls : Nat) : (s.suspected u cls).con.offences = s.con.offences := by
  rw [State.suspected, State.priorityTest_offences]
  split
  · simp
  · rfl

theorem State.pendQuarantine_con : (s.pendQuarantine u).con = s.con := by
  unfold State.pendQuarantine
  split <;> simp

theorem State.coreHealth_charged (c : Nat) : (s.charged u).coreHealth c = s.coreHealth c :=
  (State.coreHealth_noteOffence _ c u).trans (s.coreHealth_withCon c _)

end

section
variable {s : State} {n : Nat} (h : s.coreHealth (coreOf n) ≠ 2) (cls : Nat)
include h

/-- An offence of an engine whose core does not await quarantine makes it suspect, or at the threshold its own quarantine pending. -/
theorem State.offend_engine_eq : s.offend (.engine n) cls =
    if (s.charged (.engine n)).obj (key 0x5010 2) ≤ (s.charged (.engine n)).offences (.engine n)
    then ((s.charged (.engine n)).suspected (.engine n) cls).pendQuarantine (.engine n)
    else (s.charged (.engine n)).suspected (.engine n) cls := by
  have hhealth : (s.charged (.engine n)).coreHealth (unitCore (.engine n)) ≠ 2 := by
    rwa [State.coreHealth_charged]
  exact if_neg hhealth

theorem State.SameMachine.offend_engine : s.SameMachine (s.offend (.engine n) cls) := by
  have hsuspected := (State.SameMachine.charged s (.engine n)).trans (.suspected _ (.engine n) cls)
  rw [State.offend_engine_eq h]
  split
  · exact hsuspected.trans (.pendQuarantine _ _)
  · exact hsuspected

theorem State.offences_offend_engine : (s.offend (.engine n) cls).con.offences = s.con.offences ++ [(.engine n, s.now)] := by
  rw [State.offend_engine_eq h]
  split
  · rw [State.pendQuarantine_con, State.suspected_offences, State.charged_offences]
  · rw [State.suspected_offences, State.charged_offences]

end

end Sys2Proof.Machine
end

section
/-! BALLAST_TOKEN: a token that enters is metered, and one that fails a check is charged to its engine (R270, R273, R334, R335). -/

namespace Sys2Proof.Machine

section
variable {s : State} {ch : ChainId} {level : Nat}

/-- A ballast token that may enter does (R334, R335; log 52). -/
theorem exec_ballastToken_enters (hexists : s.chainExists ch = true) (hlive : s.chainLive ch = true) (hfree : s.presentable ch = none)
    (hheld : (s.chain ch).held = []) (hlost : s.pwr.lost = false)
    (hmay : s.ballastLevel ch.core = some level ∧ s.mayEnter ch.core (s.ballastCells ch level) = true ∨
      s.ballastLevel ch.core = none ∧ level = 255 ∧ s.tapers ch.core (s.ballastCells ch level) = true)
    (fault : Option (Nat × SumFault)) : exec (.ballastToken ch fault) s = .next (s.enterBallast ch level fault) := by
  show execBallastToken ch fault s = _
  rw [execBallastToken, if_pos (by simp [hexists, hlive, hfree, hheld, hlost])]
  rcases hmay with ⟨hlevel, henter⟩ | ⟨hnone, rfl, htaper⟩
  · simp only [hlevel, henter, if_true]
  · simp only [hnone, htaper, if_true]

/-- Weights of good parity are used without a record (R249). -/
theorem State.ballastParity_eq_self (hcells : ∀ e ∈ s.cells, e.2.parityOk = true) : s.ballastParity ch level = s :=
  List.foldlRecOn (motive := fun t => t = s) _ _ rfl
    (fun t ht r _ => by subst ht; exact State.cellParity_eq_self hcells ch none r _)

/-- The draw that a ballast token adds to its step (R329, R335). -/
def State.ballastDraw (s : State) (ch : ChainId) (level : Nat) : Power :=
  { s.pwr with energy := s.pwr.energy + s.ballastCells ch level * s.islandMv ch.core * s.islandMv ch.core }

theorem State.enterBallast_eq (hcells : ∀ e ∈ s.cells, e.2.parityOk = true) (fault : Option (Nat × SumFault)) :
    s.enterBallast ch level fault = match fault with
      | none => { s with pwr := s.ballastDraw ch level }
      | some f => State.ballastFault { s with pwr := s.ballastDraw ch level } ch level f.1 f.2 := by
  have hentered : (s.enter ch.core (s.ballastCells ch level)).ballastParity ch level = { s with pwr := s.ballastDraw ch level } :=
    State.ballastParity_eq_self (s := s.enter ch.core (s.ballastCells ch level)) hcells
  cases fault with
  | none => exact hentered
  | some f => exact congrArg (fun t : State => t.ballastFault ch level f.1 f.2) hentered

/-- The check that a fault of a ballast token fails in a column (R335). -/
def State.ballastFail (s : State) (ch : ChainId) (level col : Nat) (f : SumFault) : SumFail :=
  s.sumFault (s.ballastCtx ch level col) ch col f ((s.regAt ⟨chainEng ch (s.chainDepth ch - 1), ch.quarter⟩ 0 col).getD 0)

theorem State.ballastFault_seen {f : SumFault} (hseen : f.err % 127 ≠ 0 ∨ f.err % 255 ≠ 0) (col : Nat) :
    s.ballastFault ch level col f = (s.capture ((s.ballastFail ch level col f).event none) (s.ballastCap ch)).offend
      (.engine (s.ballastFail ch level col f).eng) (s.ballastFail ch level col f).cls :=
  if_neg (fun h => hseen.elim (absurd h.1) (absurd h.2))

/-- A fault of another check than a chain's names its engine (R273). -/
theorem State.ballastFail_eng {f : SumFault} (hcls : f.cls ≠ 0x013) (col : Nat) :
    (s.ballastFail ch level col f).eng = chainEng ch f.eng := by
  simp [State.ballastFail, State.sumFault, hcls]

/-- A ballast token's failure is recorded and charged, and nothing else changes but the objects and notices that follow (R273, R335). -/
theorem State.ballastFault_spec {f : SumFault} (hseen : f.err % 127 ≠ 0 ∨ f.err % 255 ≠ 0) {col : Nat}
    (hhealth : s.coreHealth (coreOf (s.ballastFail ch level col f).eng) ≠ 2) :
    s.SameMachine (s.ballastFault ch level col f) ∧
      (.engine (s.ballastFail ch level col f).eng, s.now) ∈ (s.ballastFault ch level col f).con.offences := by
  rw [State.ballastFault_seen hseen]
  have hcaptured := State.SameMachine.capture s ((s.ballastFail ch level col f).event none) (s.ballastCap ch)
  have hcaptHealth := ne_of_eq_of_ne (s.coreHealth_capture (coreOf (s.ballastFail ch level col f).eng)
    ((s.ballastFail ch level col f).event none) (s.ballastCap ch)) hhealth
  refine ⟨hcaptured.trans (.offend_engine hcaptHealth _), ?_⟩
  rw [State.offences_offend_engine hcaptHealth, hcaptured.read State.now]
  exact List.mem_append_right _ (List.mem_singleton_self _)

end

/-- Settles O33: the token is metered (`enterBallast_eq`), and a failure of it is charged to its engine, with no register, weight or op changed
(`ballastFault_spec`). -/
theorem ballastTokenChangesTheDrawOnly : Obligations.Ballast_token_changes_the_draw_only := by
  intro ch level s hexists hlive hfree hheld hlost hcells hmay
  have hexec := exec_ballastToken_enters hexists hlive hfree hheld hlost hmay
  simp only [State.enterBallast_eq hcells] at hexec
  refine ⟨hexec none, fun col f _ hseen hhealth => ?_⟩
  obtain ⟨hsame, hoffence⟩ := State.ballastFault_spec (s := { s with pwr := s.ballastDraw ch level }) hseen hhealth
  exact ⟨_, hexec (some (col, f)), hsame.sameArray, hsame.ops, hsame.read State.swr, hsame.read State.pwr, hoffence,
    fun hcls => s.ballastFail_eng hcls col⟩

end Sys2Proof.Machine
end

section
/-! What an offence, a failing test and a passing one leave of the objects, the rows and the health of a unit (R273 to R277, R286, R287). -/

namespace Sys2Proof.Machine

/-! ### The objects that containment writes -/

/-- Defaults follow objects of the subindices 0 and 1 only. -/
theorem defaultSource_ne_of_sub {k : Nat} (hk : 2 ≤ k % 256) (j : Nat) : defaultSource j ≠ some k := by
  unfold defaultSource
  split_ifs <;> simp only [ne_eq, Option.some.injEq, reduceCtorEq, not_false_eq_true, key] <;> omega

theorem defaultSource_healthKey (u : HwUnit) : defaultSource (healthKey u) = none := by
  cases u <;> (simp only [healthKey]; unfold defaultSource key; rw [if_neg (by omega), if_neg (by omega), if_neg (by omega)])

theorem defaultSource_ne_healthKey (j : Nat) (u : HwUnit) : defaultSource j ≠ some (healthKey u) := by
  cases u with
  | engine n => exact defaultSource_ne_of_sub (by simp only [healthKey, key]; omega) j
  | drain c => exact defaultSource_ne_of_sub (by simp only [healthKey, key]; omega) j
  | link c =>
    simp only [healthKey]
    unfold defaultSource
    split_ifs <;> simp only [ne_eq, Option.some.injEq, reduceCtorEq, not_false_eq_true, key] <;> omega

theorem healthKey_inj {u x : HwUnit} (h : healthKey u = healthKey x) : u = x := by
  cases u <;> cases x <;> simp only [healthKey, key, HwUnit.engine.injEq, HwUnit.drain.injEq, HwUnit.link.injEq, reduceCtorEq] at h ⊢ <;>
    omega

theorem healthKey_ne_lostRecords (u : HwUnit) : healthKey u ≠ key 0x4000 2 := by
  cases u <;> (simp only [healthKey, key]; omega)

theorem healthKey_ne_offered (u : HwUnit) : healthKey u ≠ key 0x1000 0 := by
  cases u <;> (simp only [healthKey, key]; omega)

section
variable {s : State} {j : Nat}

theorem State.obj_setObj_of_sub {k v : Nat} (hk : 2 ≤ k % 256) (hj : j ≠ k) : (s.setObj k v).obj j = s.obj j :=
  State.obj_setObj_of_ne hj (defaultSource_ne_of_sub hk j)

/-- The health of a unit, after a write of another object. -/
theorem State.obj_healthKey_setObj {u : HwUnit} {k v : Nat} (hk : healthKey u ≠ k) : (s.setObj k v).obj (healthKey u) = s.obj (healthKey u) := by
  rw [State.obj_setObj (defaultSource_healthKey u), if_neg hk]

theorem State.obj_priorityTest (c : Nat) (rel : Option Nat) : (s.priorityTest c rel).obj j = s.obj j :=
  (congrArg (fun t : State => t.obj j) (s.priorityTest_frame c rel) :)

/-- The count and time of an engine's last offence are written, and no other object (R273). -/
theorem State.obj_charged (u : HwUnit) (hcount : j % 256 ≠ 4) (htime : j % 256 ≠ 5) : (s.charged u).obj j = s.obj j := by
  cases u with
  | engine n =>
    refine (State.obj_setObj_of_sub (by unfold key; omega) (by unfold key; omega)).trans ?_
    exact State.obj_setObj_of_sub (by unfold key; omega) (by unfold key; omega)
  | drain c => rfl
  | link c => rfl

theorem State.obj_suspected_of_ne {u : HwUnit} (hj : j ≠ healthKey u) (hlost : j ≠ key 0x4000 2) (cls : Nat) :
    (s.suspected u cls).obj j = s.obj j := by
  rw [State.suspected, State.obj_priorityTest]
  split
  · rw [State.obj_event hlost, State.obj_setObj_of_ne hj (defaultSource_ne_healthKey j u)]
  · rfl

/-- A first offence makes a unit suspect (R274). -/
theorem State.obj_suspected_self (u : HwUnit) (cls : Nat) : (s.suspected u cls).obj (healthKey u) = max 1 (s.obj (healthKey u)) := by
  rw [State.suspected, State.obj_priorityTest]
  split
  · next h => rw [State.obj_event (healthKey_ne_lostRecords u), State.obj_setObj_self, h]; rfl
  · next h => omega

theorem State.obj_pendQuarantine_of_ne {u : HwUnit} (hj : j ≠ healthKey u) (hlost : j ≠ key 0x4000 2) :
    (s.pendQuarantine u).obj j = s.obj j := by
  unfold State.pendQuarantine
  split
  · rfl
  · rw [State.obj_event hlost, State.obj_setObj_of_ne hj (defaultSource_ne_healthKey j u)]

theorem State.obj_pendQuarantine_self (u : HwUnit) : (s.pendQuarantine u).obj (healthKey u) = max 2 (s.obj (healthKey u)) := by
  unfold State.pendQuarantine
  split
  · omega
  · rw [State.obj_event (healthKey_ne_lostRecords u), State.obj_setObj_self]
    omega

/-! ### The offence of a failing test (R273, R274) -/

/-- A failing test charges its unit as any check does, but asks for a priority test on the first offence only. -/
theorem State.chargeDeck_eq (s : State) (u : HwUnit) : s.chargeDeck u =
    if (s.charged u).obj (healthKey u) = 0 then (s.charged u).suspected u 0x0A1 else s.charged u := by
  refine ite_congr rfl (fun h => ?_) (fun _ => rfl)
  rw [State.suspected, if_pos h]
  rfl

theorem State.SameMachine.chargeDeck (s : State) (u : HwUnit) : s.SameMachine (s.chargeDeck u) := by
  rw [State.chargeDeck_eq]
  split
  · exact (charged s u).trans (suspected _ u _)
  · exact charged s u

theorem State.obj_chargeDeck_of_ne {u : HwUnit} (hj : j ≠ healthKey u) (hlost : j ≠ key 0x4000 2) (hcount : j % 256 ≠ 4)
    (htime : j % 256 ≠ 5) : (s.chargeDeck u).obj j = s.obj j := by
  rw [State.chargeDeck_eq]
  split
  · rw [State.obj_suspected_of_ne hj hlost, State.obj_charged u hcount htime]
  · exact State.obj_charged u hcount htime

theorem State.obj_chargeDeck_self (u : HwUnit) : (s.chargeDeck u).obj (healthKey u) = max 1 (s.obj (healthKey u)) := by
  have hcharged : (s.charged u).obj (healthKey u) = s.obj (healthKey u) := by
    cases u <;> exact State.obj_charged _ (by simp only [healthKey, key]; omega) (by simp only [healthKey, key]; omega)
  rw [State.chargeDeck_eq]
  split
  · rw [State.obj_suspected_self, hcharged]
  · omega

end

/-! ### The rows that a failing test touched (R287) -/

section
variable {s : State}

/-- Registers that are marked: their values stay (R287). -/
theorem State.reg_mapRegs_mark (ks : List Nat) (s : State) (k : Nat) :
    (s.mapRegs ks (fun _ v => v.mark)).reg k = if k ∈ ks then (s.reg k).mark else s.reg k := by
  induction ks generalizing s with
  | nil => rfl
  | cons a ks ih =>
    refine (ih (s.setReg a (s.reg a).mark)).trans ?_
    rw [State.reg_setReg]
    by_cases hk : k = a
    · subst hk; simp [LongReg.mark]
    · simp [hk]

theorem State.mapRegs_frame (ks : List Nat) (f : Nat → LongReg → LongReg) (s : State) : { s.mapRegs ks f with regs := s.regs } = s :=
  List.foldlRecOn _ _ (motive := fun t : State => { t with regs := s.regs } = s) rfl (fun _ ht _ _ => ht)

theorem State.rowKeys_congr {t : State} {x : TileRef} (h : t.bypass x.n = s.bypass x.n) (row w : Nat) :
    t.rowKeys x row w = s.rowKeys x row w := by
  rw [State.rowKeys, State.physCols, h, State.rowKeys, State.physCols]

/-- The registers of the rows of a core that a test touched. -/
def State.touched (s : State) (c : Nat) (rows : List (Nat × Nat)) : List Nat :=
  rows.flatMap fun r => s.rowKeys ⟨c * 16 + r.1, 0⟩ r.2 32

/-- One row is marked. -/
def State.markRow (s : State) (c : Nat) (r : Nat × Nat) : State := s.mapRegs (s.rowKeys ⟨c * 16 + r.1, 0⟩ r.2 32) (fun _ v => v.mark)

theorem State.touched_markRow (s : State) (c : Nat) (r : Nat × Nat) (rows : List (Nat × Nat)) :
    (s.markRow c r).touched c rows = s.touched c rows :=
  (congrArg (fun t : State => t.touched c rows) (State.mapRegs_frame _ _ s) :)

theorem State.poisonRows_eq (c : Nat) (rows : List (Nat × Nat)) (s : State) :
    s.poisonRows c rows = s.mapRegs (s.touched c rows) (fun _ v => v.mark) := by
  induction rows generalizing s with
  | nil => rfl
  | cons r rows ih =>
    calc s.poisonRows c (r :: rows)
        = (s.markRow c r).mapRegs ((s.markRow c r).touched c rows) (fun _ v => v.mark) := ih (s.markRow c r)
      _ = (s.markRow c r).mapRegs (s.touched c rows) (fun _ v => v.mark) := by rw [State.touched_markRow]
      _ = s.mapRegs (s.touched c (r :: rows)) (fun _ v => v.mark) := List.foldl_append.symm

theorem State.poisonRows_frame (c : Nat) (rows : List (Nat × Nat)) (s : State) : { s.poisonRows c rows with regs := s.regs } = s := by
  rw [State.poisonRows_eq]
  exact State.mapRegs_frame _ _ s

theorem State.poison_poisonRows {c k : Nat} {rows : List (Nat × Nat)} {p : Nat × Nat} (hp : p ∈ rows)
    (hk : k ∈ s.rowKeys ⟨c * 16 + p.1, 0⟩ p.2 32) : ((s.poisonRows c rows).reg k).poison = true := by
  have htouched : k ∈ s.touched c rows := List.mem_flatMap.mpr ⟨p, hp, hk⟩
  rw [State.poisonRows_eq, State.reg_mapRegs_mark, if_pos htouched]
  rfl

theorem State.n_poisonRows (c : Nat) (rows : List (Nat × Nat)) (k : Nat) : ((s.poisonRows c rows).reg k).n = (s.reg k).n := by
  rw [State.poisonRows_eq, State.reg_mapRegs_mark]
  split <;> rfl

theorem State.obj_poisonRows (c : Nat) (rows : List (Nat × Nat)) (j : Nat) : (s.poisonRows c rows).obj j = s.obj j :=
  (congrArg (fun t : State => t.obj j) (State.poisonRows_frame c rows s) :)

end

/-! ### What a failing test leads to (R275, R287) -/

/-- The rows that a failing test touched are poisoned, and its unit is charged. -/
def State.testCharged (s : State) (c : Nat) (f : DeckFail) : State :=
  ((s.poisonRows c f.rows).failEvent c f).chargeDeck (scopeUnit c f.scope)

/-- A column of an engine joins its pending bypass map, and the engine's offences are forgotten (R275; log 98). -/
def State.columnMapped (s : State) (n col : Nat) : State :=
  (s.pendMap n (s.obj (key (0x8000 + n) 2) ||| 2 ^ (col % 32))).forgive (.engine n)

section
variable {s : State} {c : Nat} {f : DeckFail}

theorem State.testCharged_same (s : State) (c : Nat) (f : DeckFail) : (s.poisonRows c f.rows).SameMachine (s.testCharged c f) :=
  (State.SameMachine.event _ _).trans (.chargeDeck _ _)

theorem State.obj_testCharged_of_ne {j : Nat} (hj : j ≠ healthKey (scopeUnit c f.scope)) (hlost : j ≠ key 0x4000 2) (hcount : j % 256 ≠ 4)
    (htime : j % 256 ≠ 5) : (s.testCharged c f).obj j = s.obj j :=
  (State.obj_chargeDeck_of_ne hj hlost hcount htime).trans ((State.obj_event hlost _).trans (State.obj_poisonRows _ _ _))

theorem State.obj_testCharged_self (s : State) (c : Nat) (f : DeckFail) :
    (s.testCharged c f).obj (healthKey (scopeUnit c f.scope)) = max 1 (s.obj (healthKey (scopeUnit c f.scope))) := by
  rw [State.testCharged, State.obj_chargeDeck_self, State.failEvent, State.obj_event (healthKey_ne_lostRecords _), State.obj_poisonRows]

theorem State.SameMachine.columnMapped (s : State) (n col : Nat) : s.SameMachine (s.columnMapped n col) :=
  (((setObj s _ _).trans (event _ _)).trans (withOffences _ _ _)).trans (setObj _ _ _)

/-- The forgotten offences are those of the engine's count, the column is that of its pending map. -/
theorem State.obj_columnMapped_of_ne {n col j : Nat} (hmap : j % 256 ≠ 2) (hcount : j % 256 ≠ 4) :
    (s.columnMapped n col).obj j = s.obj j := by
  refine (State.obj_setObj_of_sub (by unfold key; omega) (by unfold key; omega)).trans ?_
  refine (State.obj_event (by unfold key; omega) _).trans ?_
  exact State.obj_setObj_of_sub (by unfold key; omega) (by unfold key; omega)

theorem bitOf_or_two_pow (v i : Nat) : bitOf (v ||| 2 ^ i) i = true := by
  have htest : (v ||| 2 ^ i).testBit i = true := by simp
  rwa [Nat.testBit_eq_decide_div_mod_eq, decide_eq_true_eq, ← beq_iff_eq] at htest

theorem State.obj_columnMapped_map (s : State) (n col : Nat) :
    bitOf ((s.columnMapped n col).obj (key (0x8000 + n) 2)) (col % 32) = true := by
  have hmap : (s.columnMapped n col).obj (key (0x8000 + n) 2) = s.obj (key (0x8000 + n) 2) ||| 2 ^ (col % 32) :=
    (State.obj_setObj_of_sub (by unfold key; omega) (by unfold key; omega)).trans (s.pendMap_obj n _)
  rw [hmap]
  exact bitOf_or_two_pow _ _

/-- A failing test on a core that does not await quarantine (R275). -/
theorem State.deckFails_eq (hcore : s.coreHealth c ≠ 2) : s.deckFails c f = match f.scope with
    | .column e col => (s.testCharged c f).columnMapped (c * 16 + e) col
    | .engine e => (s.testCharged c f).pendQuarantine (.engine (c * 16 + e))
    | .core => (s.testCharged c f).pendQuarantine (.drain c) := by
  unfold State.deckFails
  rw [if_neg (by simpa using hcore)]
  obtain ⟨scope, pattern, rows⟩ := f
  cases scope <;> rfl

theorem State.deckFails_same (hcore : s.coreHealth c ≠ 2) : (s.poisonRows c f.rows).SameMachine (s.deckFails c f) := by
  rw [State.deckFails_eq hcore]
  split
  · exact (s.testCharged_same c f).trans (.columnMapped _ _ _)
  · exact (s.testCharged_same c f).trans (.pendQuarantine _ _)
  · exact (s.testCharged_same c f).trans (.pendQuarantine _ _)

/-- No object changes but the failing unit's own and the count of lost records. -/
theorem State.obj_deckFails_of_ne (hcore : s.coreHealth c ≠ 2) {j : Nat} (hj : j ≠ healthKey (scopeUnit c f.scope))
    (hlost : j ≠ key 0x4000 2) (hmap : j % 256 ≠ 2) (hcount : j % 256 ≠ 4) (htime : j % 256 ≠ 5) :
    (s.deckFails c f).obj j = s.obj j := by
  have hcharged := State.obj_testCharged_of_ne (s := s) hj hlost hcount htime
  rw [State.deckFails_eq hcore]
  split
  · exact (State.obj_columnMapped_of_ne hmap hcount).trans hcharged
  · next e h => exact (State.obj_pendQuarantine_of_ne (by rwa [h] at hj) hlost).trans hcharged
  · next h => exact (State.obj_pendQuarantine_of_ne (by rwa [h] at hj) hlost).trans hcharged

/-- A failing column is pending in its engine's map, and the map in force stays (R275). -/
theorem State.deckFails_column (hcore : s.coreHealth c ≠ 2) {e col : Nat} (hscope : f.scope = .column e col) :
    bitOf ((s.deckFails c f).obj (key (0x8000 + (c * 16 + e)) 2)) (col % 32) = true ∧
      (s.deckFails c f).bypass (c * 16 + e) = s.bypass (c * 16 + e) := by
  refine ⟨?_, State.obj_deckFails_of_ne hcore ?_ ?_ ?_ ?_ ?_⟩
  · rw [State.deckFails_eq hcore]
    simp only [hscope]
    exact State.obj_columnMapped_map _ _ _
  · simp only [hscope, scopeUnit, healthKey, key]
    omega
  all_goals unfold key; omega

/-- A failing engine or core awaits quarantine, unless it is quarantined already (R275). -/
theorem State.deckFails_health (hcore : s.coreHealth c ≠ 2) (hscope : ∀ e col, f.scope ≠ .column e col) :
    (s.deckFails c f).obj (healthKey (scopeUnit c f.scope)) = max 2 (s.obj (healthKey (scopeUnit c f.scope))) := by
  have hpend : s.deckFails c f = (s.testCharged c f).pendQuarantine (scopeUnit c f.scope) := by
    rw [State.deckFails_eq hcore]
    split
    · next e col h => exact absurd h (hscope e col)
    · next e h => rw [h]; rfl
    · next h => rw [h]; rfl
  rw [hpend, State.obj_pendQuarantine_self, State.obj_testCharged_self]
  omega

end

/-! ### Units that are healthy again (R275, R276) -/

/-- A suspect unit without offences, whose core has passed a test since the last one, and no bypass map pending for it. -/
structure State.Healable (s : State) (u : HwUnit) : Prop where
  suspect : s.obj (healthKey u) = 1
  forgiven : s.offences u = 0
  passed : u ∈ s.con.clean
  mapped : s.mapPending u = false

/-- The objects that this reads: the unit's health, the offence window, and an engine's bypass maps. -/
def healReads (u : HwUnit) : List Nat := [healthKey u, key 0x5010 3] ++ match u with
  | .engine n => [key (0x8000 + n) 1, key (0x8000 + n) 2]
  | _ => []

theorem mem_healReads {u : HwUnit} {j : Nat} : j ∈ healReads u ↔ j = healthKey u ∨ j = key 0x5010 3 ∨
    ∃ n, u = .engine n ∧ (j = key (0x8000 + n) 1 ∨ j = key (0x8000 + n) 2) := by
  cases u <;> simp [healReads]

theorem ne_of_mem_healReads {u : HwUnit} {j : Nat} (hj : j ∈ healReads u) : j ≠ key 0x1000 0 ∧ j ≠ key 0x4000 2 ∧
    ∀ x, x ≠ u → j ≠ healthKey x := by
  rcases mem_healReads.mp hj with rfl | rfl | ⟨n, rfl, rfl | rfl⟩
  · exact ⟨healthKey_ne_offered u, healthKey_ne_lostRecords u, fun x hx h => hx (healthKey_inj h.symm)⟩
  all_goals exact ⟨by unfold key; omega, by unfold key; omega, fun x _ => by cases x <;> (simp only [healthKey, key]; omega)⟩

theorem State.offences_congr {s t : State} {u : HwUnit} (hcon : t.con.offences = s.con.offences) (hnow : t.now = s.now)
    (hwindow : t.obj (key 0x5010 3) = s.obj (key 0x5010 3)) : t.offences u = s.offences u := by
  rw [State.offences, hcon, hnow, hwindow, State.offences]

section
variable {s t : State} {u x : HwUnit}

theorem State.Healable.congr (h : s.Healable u) (hobj : ∀ j ∈ healReads u, t.obj j = s.obj j) (hnow : t.now = s.now)
    (hoff : t.con.offences = s.con.offences) (hclean : u ∈ t.con.clean) : t.Healable u where
  suspect := (hobj _ (mem_healReads.mpr (.inl rfl))).trans h.suspect
  forgiven := (State.offences_congr hoff hnow (hobj _ (mem_healReads.mpr (.inr (.inl rfl))))).trans h.forgiven
  passed := hclean
  mapped := by
    refine Eq.trans ?_ h.mapped
    cases u with
    | engine n =>
      rw [State.mapPending, State.bypass, hobj _ (mem_healReads.mpr (.inr (.inr ⟨n, rfl, .inl rfl⟩))),
        hobj _ (mem_healReads.mpr (.inr (.inr ⟨n, rfl, .inr rfl⟩))), State.mapPending, State.bypass]
    | drain c => rfl
    | link c => rfl

/-- A unit that can be healthy again is, and counts no passed test. -/
theorem State.heal_of_healable (h : s.Healable u) : s.heal u =
    ({ s with con := { s.con with clean := s.con.clean.filter (fun x => x != u) } } : State).setObj (healthKey u) 0 :=
  if_pos ⟨h.suspect, h.forgiven, by simpa using h.passed, by simp [h.mapped]⟩

theorem State.obj_heal_self (h : s.Healable u) : (s.heal u).obj (healthKey u) = 0 := by
  rw [State.heal_of_healable h, State.obj_setObj_self]

theorem State.obj_heal_of_ne {j : Nat} (hj : j ≠ healthKey x) : (s.heal x).obj j = s.obj j := by
  unfold State.heal
  split
  · exact State.obj_setObj_of_ne hj (defaultSource_ne_healthKey j x)
  · rfl

theorem State.SameMachine.heal (s : State) (x : HwUnit) : s.SameMachine (s.heal x) := by
  unfold State.heal
  split
  · exact (withOffences s _ _).trans (setObj _ _ _)
  · exact refl s

theorem State.heal_offences (s : State) (x : HwUnit) : (s.heal x).con.offences = s.con.offences := by
  unfold State.heal
  split
  · rw [State.setObj_con]
  · rfl

theorem State.mem_clean_heal (hx : x ≠ u) (h : u ∈ s.con.clean) : u ∈ (s.heal x).con.clean := by
  unfold State.heal
  split
  · rw [State.setObj_con]
    exact List.mem_filter.mpr ⟨h, bne_iff_ne.mpr hx.symm⟩
  · exact h

/-- Another unit that heals leaves a unit as it is. -/
theorem State.Healable.heal_other (h : s.Healable u) (hx : x ≠ u) : (s.heal x).Healable u :=
  h.congr (fun _ hj => State.obj_heal_of_ne ((ne_of_mem_healReads hj).2.2 x hx)) ((State.SameMachine.heal s x).read State.now)
    (s.heal_offences x) (State.mem_clean_heal hx h.passed)

/-- A healthy unit stays healthy. -/
theorem State.obj_heal_healthy (h : s.obj (healthKey u) = 0) (x : HwUnit) : (s.heal x).obj (healthKey u) = 0 := by
  by_cases hx : x = u
  · subst hx
    unfold State.heal
    rw [if_neg (by omega)]
    exact h
  · rw [State.obj_heal_of_ne (fun e => hx (healthKey_inj e.symm)), h]

/-- Each of the units that can be healthy again is. -/
theorem State.obj_foldl_heal {us : List HwUnit} (hu : u ∈ us) (h : s.Healable u) :
    (us.foldl (fun s u => s.heal u) s).obj (healthKey u) = 0 := by
  induction us generalizing s with
  | nil => cases hu
  | cons x us ih =>
    by_cases hx : x = u
    · subst hx
      exact List.foldlRecOn us _ (motive := fun t : State => t.obj (healthKey x) = 0) (State.obj_heal_self h)
        (fun t ht y _ => State.obj_heal_healthy ht y)
    · exact ih ((List.mem_cons.mp hu).resolve_left (Ne.symm hx)) (h.heal_other hx)

/-! ### A passing test (R276) -/

/-- The suspect units of a core that has passed a test have passed one. -/
def State.testNoted (s : State) (c : Nat) : State :=
  let s1 := s.passEvent c
  { s1 with con := { s1.con with
    clean := s1.con.clean.filter (fun u => !(coreUnits c).elem u) ++ (coreUnits c).filter (fun u => s1.obj (healthKey u) == 1) } }

theorem State.testPassed_eq (s : State) (c : Nat) : s.testPassed c = (coreUnits c).foldl (fun s u => s.heal u) (s.testNoted c) := rfl

theorem State.SameMachine.testPassed (s : State) (c : Nat) : s.SameMachine (s.testPassed c) :=
  ((event s _).trans (withOffences _ _ _)).trans (foldl heal _ _)

/-- A suspect unit without offences and without a pending map is healthy once its core has passed a test. -/
theorem State.obj_testPassed {c : Nat} (hu : u ∈ coreUnits c) (hsuspect : s.obj (healthKey u) = 1) (hforgiven : s.offences u = 0)
    (hmapped : s.mapPending u = false) : (s.testPassed c).obj (healthKey u) = 0 := by
  have hobj (j : Nat) (hlost : j ≠ key 0x4000 2) : (s.testNoted c).obj j = s.obj j := State.obj_event hlost _
  have hbefore : ({ s with con := { s.con with clean := [u] } } : State).Healable u :=
    ⟨hsuspect, hforgiven, List.mem_singleton_self u, hmapped⟩
  have hnoted : (s.testNoted c).Healable u := by
    refine hbefore.congr (fun j hj => hobj j (ne_of_mem_healReads hj).2.1)
      (((State.SameMachine.event s _).trans (.withOffences _ _ _)).read State.now) ?_ ?_
    · exact (congrArg Contain.offences (State.event_con s _) :)
    · refine List.mem_append_right _ (List.mem_filter.mpr ⟨hu, ?_⟩)
      rw [beq_iff_eq, State.passEvent, State.obj_event (healthKey_ne_lostRecords u), hsuspect]
  rw [State.testPassed_eq]
  exact State.obj_foldl_heal hu hnoted

end

end Sys2Proof.Machine
end

section
/-! DECK_ROTATION, CORE_TEST_START and CORE_TEST_END: the deck's test, and what its result leads to (R275, R276, R279, R286, R287, R290). -/

namespace Sys2Proof.Machine

/-! ### The deck at another test (R286) -/

/-- The deck is at another test, and the cores offered follow. -/
def State.deckAt (s : State) (d : DeckSt) : State := ({ s with con := { s.con with deck := d } } : State).refreshCores

section
variable {s t : State} {d : DeckSt}

theorem State.deckAt_frame (s : State) (d : DeckSt) : { s.deckAt d with con := s.con, dict := s.dict, mg := s.mg } = s :=
  (congrArg (fun u : State => { u with con := s.con })
    (State.setObj_frame ({ s with con := { s.con with deck := d } } : State) (key 0x1000 0) _) :)

@[simp] theorem State.deckAt_con (s : State) (d : DeckSt) : (s.deckAt d).con = { s.con with deck := d } := State.setObj_con _ _ _

theorem State.obj_deckAt {j : Nat} (hj : j ≠ key 0x1000 0) : (s.deckAt d).obj j = s.obj j :=
  State.obj_setObj_of_ne hj (defaultSource_ne_offered j)

theorem State.deckAt_sameArray (s : State) (d : DeckSt) : Safety.sameArray (s.deckAt d) s ∧ (s.deckAt d).ops = s.ops := by
  simp [State.deckAt, State.refreshCores, Safety.sameArray]

/-- The object of the cores offered is no part of what it is formed from (R277, R286). -/
theorem State.offeredMask_refreshCores (s : State) : s.refreshCores.offeredMask = s.offeredMask := by
  have hquar (c : Nat) : s.refreshCores.coreQuarantined c = s.coreQuarantined c :=
    congrArg (bitOf · c) (State.obj_setObj_of_ne (by decide) (defaultSource_ne_offered _))
  have hperiod (c : Nat) : s.refreshCores.hasPeriod c = s.hasPeriod c :=
    (congrArg (fun t : State => t.hasPeriod c) (State.setObj_frame s (key 0x1000 0) s.offeredMask) :)
  have hcon : s.refreshCores.con = s.con := State.setObj_con _ _ _
  have hconf : s.refreshCores.conf = s.conf := State.setObj_conf _ _ _
  unfold State.offeredMask
  simp only [hquar, hperiod, hcon, hconf]

theorem State.offered_deckAt (s : State) (d : DeckSt) : (s.deckAt d).obj (key 0x1000 0) = (s.deckAt d).offeredMask :=
  State.obj_setObj_self.trans (State.offeredMask_refreshCores _).symm

/-- What follows a change of the test and keeps to it. -/
theorem State.SameMachine.of_deckAt (h : (s.deckAt d).SameMachine t) :
    t.con.deck.state = d.state ∧ t.con.deck.core = d.core ∧ Safety.sameArray t s ∧ t.ops = s.ops := by
  obtain ⟨harray, hops⟩ := s.deckAt_sameArray d
  exact ⟨h.testState.trans (by rw [State.deckAt_con]), h.testCore.trans (by rw [State.deckAt_con]),
    Safety.sameArray_trans harray h.sameArray, h.ops.trans hops⟩

end

/-! ### DECK_ROTATION and CORE_TEST_START (R286, R290) -/

section
variable {s : State}

/-- A priority or release test that waits goes ahead. -/
theorem exec_deckRotation_waiting {p : Nat × Option Nat} {r : List (Nat × Option Nat)} (hstep : s.boot.step = 8) (hidle : s.con.deck.state = 0)
    (hprio : s.con.deck.prio.filter (fun p => p.2.isSome || !s.coreQuarantined p.1) = p :: r) : exec .deckRotation s =
      .next (s.deckAt { s.con.deck with state := 1, core := some p.1, rel := p.2, byPrio := p.2.isNone, prio := r }) := by
  show execDeckRotation s = _
  rw [execDeckRotation, if_neg (by simp [hstep, hidle])]
  simp only [hprio]
  rfl

/-- The next core's turn comes once the period of a turn is over. -/
theorem exec_deckRotation_turn {c : Nat} (hstep : s.boot.step = 8) (hidle : s.con.deck.state = 0)
    (hprio : s.con.deck.prio.filter (fun p => p.2.isSome || !s.coreQuarantined p.1) = []) (hrun : s.obj (key 0x5000 4) = 0)
    (hdue : s.con.deck.last + s.obj (key 0x5000 0) / s.conf.cores ≤ s.now) (hnext : s.nextInRotation = some c) : exec .deckRotation s =
      .next (s.deckAt ⟨1, some c, none, false, [], (c + 1) % s.conf.cores, s.now⟩) := by
  have hrotate : (State.rotate { s with con := { s.con with deck := { s.con.deck with prio := [] } } }) =
      s.deckAt ⟨1, some c, none, false, [], (c + 1) % s.conf.cores, s.now⟩ := by
    have hnext' : (State.nextInRotation { s with con := { s.con with deck := { s.con.deck with prio := [] } } }) = some c := hnext
    unfold State.rotate
    simp only [hnext']
    rfl
  show execDeckRotation s = _
  rw [execDeckRotation, if_neg (by simp [hstep, hidle])]
  simp only [hprio]
  exact (if_pos ⟨hrun, hdue⟩).trans (congrArg Host.Outcome.next hrotate)

/-- A newer image that takes effect changes the images, their version object and its notice only (R290). -/
theorem State.takeNewer_frame (s : State) (kind : Nat) : { s.takeNewer kind with tru := s.tru, dict := s.dict, mg := s.mg } = s := by
  unfold State.takeNewer
  split
  · rfl
  · split
    · unfold State.switchSlot
      split
      · rfl
      · exact (congrArg (fun u : State => { u with tru := s.tru }) (State.setObj_frame ({ s with tru := _ } : State) (verKey kind) _) :)
    · rfl

theorem exec_coreTestStart_pending {c : Nat} (hc : c < s.conf.cores) (hpend : s.con.deck.state = 1) (hcore : s.con.deck.core = some c)
    (hops : s.ops.any (fun o => opOnCore o c) = false) : exec (.coreTestStart c) s =
      .next { s.takeNewer 1 with con := { (s.takeNewer 1).con with deck := { (s.takeNewer 1).con.deck with state := 2 } } } := by
  show execCoreTestStart c s = _
  rw [execCoreTestStart, if_neg (Nat.not_le.mpr hc), if_pos ⟨hpend, hcore, hops⟩]

end

/-! ### A release (R279) -/

/-- A unit is healthy, its offences are forgotten, and a core is no longer among the quarantined. -/
def State.unitFreed (s : State) (u : HwUnit) : State :=
  let s1 := (s.forgive u).setObj (healthKey u) 0
  match u with
  | .drain d => s1.setObj (key 0x1000 1) (s1.obj (key 0x1000 1) - (if bitOf (s1.obj (key 0x1000 1)) d then 2 ^ d else 0))
  | _ => s1

/-- The offset of a core is on its way back to 0. -/
def State.offsetBack (s : State) (c : Nat) : State := if s.offsetNow c = 0 then s else s.askOffset c 0

/-- The margin of a core is back at MFLOOR, and the cores offered follow (R209). -/
def State.marginBack (s : State) (c : Nat) : State :=
  ((s.setObj (key (0x2100 + c) 3) (s.mfloor c)).setObj (key (0x2100 + c) 1) (s.mfloor c)).refreshCores

section
variable {s : State} {u : HwUnit}

theorem State.release_eq (s : State) (u : HwUnit) :
    s.release u = (((s.unitFreed u).offsetBack (unitCore u)).marginBack (unitCore u)).releaseEvent u true := rfl

theorem State.SameMachine.forgive (s : State) (u : HwUnit) : s.SameMachine (s.forgive u) := by
  cases u with
  | engine n => exact (withOffences s _ _).trans (setObj _ _ _)
  | drain c => exact withOffences s _ _
  | link c => exact withOffences s _ _

theorem State.forgive_offences (s : State) (u : HwUnit) : (s.forgive u).con.offences = s.con.offences.filter (fun e => e.1 != u) := by
  cases u with
  | engine n => exact (congrArg Contain.offences (State.setObj_con _ _ _) :)
  | drain c => rfl
  | link c => rfl

theorem State.SameMachine.unitFreed (s : State) (u : HwUnit) : s.SameMachine (s.unitFreed u) := by
  have hhealthy : s.SameMachine ((s.forgive u).setObj (healthKey u) 0) := (forgive s u).trans (setObj _ _ _)
  cases u with
  | engine n => exact hhealthy
  | drain c => exact hhealthy.trans (setObj _ _ _)
  | link c => exact hhealthy

theorem State.unitFreed_offences (s : State) (u : HwUnit) : (s.unitFreed u).con.offences = s.con.offences.filter (fun e => e.1 != u) := by
  have hhealthy : ((s.forgive u).setObj (healthKey u) 0).con.offences = s.con.offences.filter (fun e => e.1 != u) := by
    rw [State.setObj_con, State.forgive_offences]
  cases u with
  | engine n => exact hhealthy
  | drain c => exact (congrArg Contain.offences (State.setObj_con _ _ _) :).trans hhealthy
  | link c => exact hhealthy

theorem State.obj_unitFreed (s : State) (u : HwUnit) : (s.unitFreed u).obj (healthKey u) = 0 := by
  cases u with
  | engine n => exact State.obj_setObj_self
  | drain c => exact (State.obj_healthKey_setObj (u := .drain c) (by simp only [healthKey, key]; omega)).trans State.obj_setObj_self
  | link c => exact State.obj_setObj_self

theorem State.offsetBack_frame (s : State) (c : Nat) : { s.offsetBack c with pwr := s.pwr, out := s.out } = s := by
  unfold State.offsetBack
  split
  · rfl
  · unfold State.askOffset State.sendVofs State.sendPower
    split <;> rfl

theorem State.SameMachine.marginBack (s : State) (c : Nat) : s.SameMachine (s.marginBack c) :=
  ((setObj s _ _).trans (setObj _ _ _)).trans (refreshCores _)

theorem State.marginBack_con (s : State) (c : Nat) : (s.marginBack c).con = s.con :=
  ((State.setObj_con _ _ _).trans (State.setObj_con _ _ _)).trans (State.setObj_con _ _ _)

/-- The margin of a core is no health of its units. -/
theorem State.obj_marginBack (s : State) (u : HwUnit) : (s.marginBack (unitCore u)).obj (healthKey u) = s.obj (healthKey u) := by
  have hmargin (sub : Nat) (hsub : sub = 1 ∨ sub = 3) : healthKey u ≠ key (0x2100 + unitCore u) sub := by
    cases u <;> (simp only [healthKey, key, unitCore, coreOf]; omega)
  refine (State.obj_healthKey_setObj (healthKey_ne_offered u)).trans ?_
  exact (State.obj_healthKey_setObj (hmargin 1 (.inl rfl))).trans (State.obj_healthKey_setObj (hmargin 3 (.inr rfl)))

theorem State.obj_release (s : State) (u : HwUnit) : (s.release u).obj (healthKey u) = 0 := by
  rw [State.release_eq, State.releaseEvent, State.obj_event (healthKey_ne_lostRecords u), State.obj_marginBack]
  refine Eq.trans ?_ (s.obj_unitFreed u)
  exact (congrArg (fun t : State => t.obj (healthKey u)) ((s.unitFreed u).offsetBack_frame (unitCore u)) :)

theorem State.release_con (s : State) (u : HwUnit) : (s.release u).con = (s.unitFreed u).con := by
  rw [State.release_eq, State.releaseEvent, State.event_con, State.marginBack_con]
  exact (congrArg State.con ((s.unitFreed u).offsetBack_frame (unitCore u)) :)

/-- A unit that is released has no offence. -/
theorem State.offences_release (s : State) (u : HwUnit) : (s.release u).offences u = 0 := by
  have hoff : (s.release u).con.offences = s.con.offences.filter (fun e => e.1 != u) := by
    rw [State.release_con, State.unitFreed_offences]
  rw [State.offences, hoff, List.filter_filter, List.length_eq_zero_iff, List.filter_eq_nil_iff]
  intro e _
  simp +contextual

theorem State.release_sameArray (s : State) (u : HwUnit) : Safety.sameArray (s.release u) s := by
  have hback : Safety.sameArray ((s.unitFreed u).offsetBack (unitCore u)) (s.unitFreed u) :=
    Safety.sameArray_of_eq ((s.unitFreed u).offsetBack_frame (unitCore u)) ⟨rfl, rfl, rfl, rfl, rfl, rfl, rfl⟩
  have hafter : ((s.unitFreed u).offsetBack (unitCore u)).SameMachine (s.release u) :=
    (State.SameMachine.marginBack _ (unitCore u)).trans (.event _ _)
  exact Safety.sameArray_trans (State.SameMachine.unitFreed s u).sameArray (Safety.sameArray_trans hback hafter.sameArray)

theorem State.release_test (s : State) (u : HwUnit) : (s.release u).con.deck.state = s.con.deck.state := by
  rw [State.release_con]
  exact (State.SameMachine.unitFreed s u).testState

end

/-! ### A release test that fails (R273, R275, R279) -/

section
variable {s : State} {c : Nat} {f : DeckFail} {u : HwUnit}

theorem State.releaseFails_same (hcore : s.coreHealth c ≠ 2) (u : HwUnit) :
    (s.poisonRows c f.rows).SameMachine (s.releaseFails c f u) := by
  unfold State.releaseFails
  dsimp only
  split
  · exact (s.testCharged_same c f).trans (.event _ _)
  · exact (State.deckFails_same hcore).trans (.event _ _)

/-- The unit stays quarantined, whichever unit the failure is localized to. -/
theorem State.obj_releaseFails (hcore : s.coreHealth c ≠ 2) (hquar : s.obj (healthKey u) = 3) :
    (s.releaseFails c f u).obj (healthKey u) = 3 := by
  have hsub : healthKey u % 256 ≠ 2 ∧ healthKey u % 256 ≠ 4 ∧ healthKey u % 256 ≠ 5 := by
    cases u <;> (simp only [healthKey, key]; omega)
  obtain ⟨hmap, hcount, htime⟩ := hsub
  have hlost := healthKey_ne_lostRecords u
  unfold State.releaseFails
  dsimp only
  rw [State.releaseEvent, State.obj_event hlost]
  split
  · next hfailed =>
    by_cases heq : u = scopeUnit c f.scope
    · rw [heq]
      exact (s.obj_testCharged_self c f).trans (by rw [hfailed]; rfl)
    · exact (State.obj_testCharged_of_ne (fun h => heq (healthKey_inj h)) hlost hcount htime).trans hquar
  · next hfailed =>
    have hne : healthKey u ≠ healthKey (scopeUnit c f.scope) := fun h => hfailed (h ▸ hquar)
    exact (State.obj_deckFails_of_ne hcore hne hlost hmap hcount htime).trans hquar

end

/-! ### CORE_TEST_END (R275, R279, R286) -/

/-- The core under test is offered again. -/
def State.testEnded (s : State) : State := s.deckAt { s.con.deck with state := 0, core := none, rel := none, byPrio := false }

/-- What the result of a test leads to, of a release test or another. -/
def State.testResult (s : State) (c : Nat) (byPrio : Bool) : Option Nat → Option DeckFail → State
  | some a, none => (s.testPassed c).release (relUnit a)
  | some a, some f => s.releaseFails c f (relUnit a)
  | none, none => s.deckPasses c byPrio
  | none, some f => s.deckFails c f

section
variable {s : State} {c : Nat}

theorem exec_coreTestEnd_testing (hc : c < s.conf.cores) (htest : s.con.deck.state = 2) (hcore : s.con.deck.core = some c)
    (res : Option DeckFail) : exec (.coreTestEnd c res) s = .next (s.testEnded.testResult c s.con.deck.byPrio s.con.deck.rel res) := by
  show execCoreTestEnd c res s = _
  rw [execCoreTestEnd, if_neg (Nat.not_le.mpr hc), if_pos ⟨htest, hcore⟩]
  dsimp only
  cases s.con.deck.rel <;> cases res <;> rfl

theorem State.obj_testEnded {j : Nat} (hj : j ≠ key 0x1000 0) : s.testEnded.obj j = s.obj j := State.obj_deckAt hj

theorem State.coreHealth_testEnded : s.testEnded.coreHealth c = s.coreHealth c := State.obj_deckAt (by unfold key; omega)

theorem State.bypass_testEnded (n : Nat) : s.testEnded.bypass n = s.bypass n := State.obj_deckAt (by unfold key; omega)

theorem State.testEnded_regs : s.testEnded.regs = s.regs := (congrArg State.regs (s.deckAt_frame _) :)

/-- The rows that a failing test touched are poisoned, with their values, and nothing else of the machine changes (R287). -/
theorem State.failed_rows {f : DeckFail} {t : State} (h : (s.testEnded.poisonRows c f.rows).SameMachine t) :
    t.con.deck.state = 0 ∧ t.ops = s.ops ∧ t.cells = s.cells ∧
      (∀ p ∈ f.rows, ∀ k ∈ s.rowKeys ⟨c * 16 + p.1, 0⟩ p.2 32, (t.reg k).poison = true) ∧ ∀ k, (t.reg k).n = (s.reg k).n := by
  have hframe := State.poisonRows_frame c f.rows s.testEnded
  have hended := s.deckAt_frame { s.con.deck with state := 0, core := none, rel := none, byPrio := false }
  have hreg (k : Nat) : t.reg k = (s.testEnded.poisonRows c f.rows).reg k := h.read (fun v => v.reg k)
  refine ⟨?_, h.ops.trans ?_, (h.read State.cells).trans ?_, fun p hp k hk => ?_, fun k => ?_⟩
  · refine h.testState.trans ((congrArg (fun v : State => v.con.deck.state) hframe :).trans ?_)
    rw [State.testEnded, State.deckAt_con]
  · exact (congrArg State.ops hframe :).trans (congrArg State.ops hended :)
  · exact (congrArg State.cells hframe :).trans (congrArg State.cells hended :)
  · rw [hreg]
    exact State.poison_poisonRows hp (by rwa [State.rowKeys_congr (State.bypass_testEnded _)])
  · rw [hreg, State.n_poisonRows, State.reg, State.testEnded_regs, State.reg]

/-- A test that follows no offence asks for no remedy. -/
theorem State.deckPasses_rotation (s : State) (c : Nat) : s.deckPasses c false = s.testPassed c := by
  simp only [State.deckPasses, Bool.false_eq_true, false_and, if_false]

/-- A test of the rotation that passes. -/
theorem coreTestEnd_passes (hc : c < s.conf.cores) (htest : s.con.deck.state = 2) (hcore : s.con.deck.core = some c)
    (hrel : s.con.deck.rel = none) (hprio : s.con.deck.byPrio = false) :
    ∃ t, exec (.coreTestEnd c none) s = .next t ∧ t.con.deck.state = 0 ∧ t.con.deck.core = none ∧ Safety.sameArray t s ∧ t.ops = s.ops ∧
      ∀ u ∈ coreUnits c, s.obj (healthKey u) = 1 → s.offences u = 0 → s.mapPending u = false → t.obj (healthKey u) = 0 := by
  have hexec := exec_coreTestEnd_testing hc htest hcore none
  rw [hrel, hprio, State.testResult, State.deckPasses_rotation] at hexec
  obtain ⟨hstate, hnone, harray, hops⟩ := (State.SameMachine.testPassed s.testEnded c).of_deckAt
  refine ⟨_, hexec, hstate, hnone, harray, hops, fun u hu hsuspect hforgiven hmapped => ?_⟩
  have hended : s.testEnded.con.offences = s.con.offences :=
    (congrArg Contain.offences (s.deckAt_con _) :)
  have hnow : s.testEnded.now = s.now := (congrArg State.now (s.deckAt_frame _) :)
  refine State.obj_testPassed hu ((State.obj_testEnded (healthKey_ne_offered u)).trans hsuspect)
    ((State.offences_congr hended hnow (State.obj_testEnded (by decide))).trans hforgiven) (Eq.trans ?_ hmapped)
  cases u with
  | engine n =>
    rw [State.mapPending, State.bypass_testEnded, State.obj_testEnded (by unfold key; omega), State.mapPending]
  | drain c => rfl
  | link c => rfl

/-- A test of the rotation that fails, on a core that does not await quarantine. -/
theorem coreTestEnd_fails (hc : c < s.conf.cores) (htest : s.con.deck.state = 2) (hcore : s.con.deck.core = some c) (f : DeckFail)
    (hrel : s.con.deck.rel = none) (hhealth : s.coreHealth c ≠ 2) : ∃ t, exec (.coreTestEnd c (some f)) s = .next t ∧ t.con.deck.state = 0 ∧
      t.ops = s.ops ∧ t.cells = s.cells ∧
      (∀ p ∈ f.rows, ∀ k ∈ s.rowKeys ⟨c * 16 + p.1, 0⟩ p.2 32, (t.reg k).poison = true) ∧ (∀ k, (t.reg k).n = (s.reg k).n) ∧
      (∀ e col, f.scope = .column e col → bitOf (t.obj (key (0x8000 + (c * 16 + e)) 2)) (col % 32) = true ∧
        t.bypass (c * 16 + e) = s.bypass (c * 16 + e)) ∧
      (∀ e, f.scope = .engine e → t.obj (healthKey (.engine (c * 16 + e))) = max 2 (s.obj (healthKey (.engine (c * 16 + e))))) ∧
      (f.scope = .core → t.coreHealth c = max 2 (s.coreHealth c)) := by
  have hexec := exec_coreTestEnd_testing hc htest hcore (some f)
  rw [hrel, State.testResult] at hexec
  have hended : s.testEnded.coreHealth c ≠ 2 := by rwa [State.coreHealth_testEnded]
  obtain ⟨hstate, hops, hcells, hpoison, hn⟩ := State.failed_rows (State.deckFails_same (f := f) hended)
  have hpends (hscope : ∀ e col, f.scope ≠ .column e col) : (s.testEnded.deckFails c f).obj (healthKey (scopeUnit c f.scope)) =
      max 2 (s.obj (healthKey (scopeUnit c f.scope))) := by
    rw [State.deckFails_health hended hscope, State.obj_testEnded (healthKey_ne_offered _)]
  refine ⟨_, hexec, hstate, hops, hcells, hpoison, hn, fun e col hscope => ?_, fun e hscope => ?_, fun hscope => ?_⟩
  · obtain ⟨hbit, hmap⟩ := State.deckFails_column hended hscope
    exact ⟨hbit, hmap.trans (State.bypass_testEnded _)⟩
  · have hpend := hpends (by simp [hscope])
    rwa [hscope] at hpend
  · have hpend := hpends (by simp [hscope])
    rwa [hscope] at hpend

/-- A release test that passes. -/
theorem coreTestEnd_releases (hc : c < s.conf.cores) (htest : s.con.deck.state = 2) (hcore : s.con.deck.core = some c) {a : Nat}
    (hrel : s.con.deck.rel = some a) : ∃ t, exec (.coreTestEnd c none) s = .next t ∧ t.con.deck.state = 0 ∧
      t.obj (healthKey (relUnit a)) = 0 ∧ t.offences (relUnit a) = 0 ∧ Safety.sameArray t s := by
  have hexec := exec_coreTestEnd_testing hc htest hcore none
  rw [hrel, State.testResult] at hexec
  obtain ⟨hstate, -, harray, -⟩ := (State.SameMachine.testPassed s.testEnded c).of_deckAt
  exact ⟨_, hexec, (State.release_test _ _).trans hstate, State.obj_release _ _, State.offences_release _ _,
    Safety.sameArray_trans harray (State.release_sameArray _ _)⟩

/-- A release test that fails, on a core that does not await quarantine. -/
theorem coreTestEnd_keepsQuarantine (hc : c < s.conf.cores) (htest : s.con.deck.state = 2) (hcore : s.con.deck.core = some c) {a : Nat}
    (f : DeckFail) (hrel : s.con.deck.rel = some a) (hquar : s.obj (healthKey (relUnit a)) = 3) (hhealth : s.coreHealth c ≠ 2) :
    ∃ t, exec (.coreTestEnd c (some f)) s = .next t ∧ t.con.deck.state = 0 ∧ t.obj (healthKey (relUnit a)) = 3 ∧ t.ops = s.ops ∧
      t.cells = s.cells ∧ (∀ p ∈ f.rows, ∀ k ∈ s.rowKeys ⟨c * 16 + p.1, 0⟩ p.2 32, (t.reg k).poison = true) ∧
      (∀ k, (t.reg k).n = (s.reg k).n) := by
  have hexec := exec_coreTestEnd_testing hc htest hcore (some f)
  rw [hrel, State.testResult] at hexec
  have hended : s.testEnded.coreHealth c ≠ 2 := by rwa [State.coreHealth_testEnded]
  obtain ⟨hstate, hrows⟩ := State.failed_rows (State.releaseFails_same (f := f) hended (relUnit a))
  exact ⟨_, hexec, hstate, State.obj_releaseFails hended ((State.obj_testEnded (healthKey_ne_offered _)).trans hquar), hrows⟩

end

/-- Settles O58: each command moves the deck to its next test (`deckAt`), and the result of a test heals, charges and poisons as
`coreTestEnd_passes` and the three lemmas after it say. -/
theorem deckTestsCoresAndActs : Obligations.Deck_tests_cores_and_acts := by
  refine ⟨fun s hstep hidle => ⟨fun p r hprio => ?_, fun c hprio hrun hdue hnext => ?_⟩, fun c s hc hpend hcore hops => ?_,
    fun c s hc htest hcore => ⟨coreTestEnd_passes hc htest hcore, coreTestEnd_fails hc htest hcore,
      fun _ => coreTestEnd_releases hc htest hcore, fun _ f => coreTestEnd_keepsQuarantine hc htest hcore f⟩⟩
  · obtain ⟨harray, hops⟩ := s.deckAt_sameArray { s.con.deck with state := 1, core := some p.1, rel := p.2, byPrio := p.2.isNone, prio := r }
    refine ⟨_, exec_deckRotation_waiting hstep hidle hprio, ?_, ?_, ?_, ?_, s.offered_deckAt _, harray, hops⟩ <;> rw [State.deckAt_con]
  · obtain ⟨harray, hops⟩ := s.deckAt_sameArray ⟨1, some c, none, false, [], (c + 1) % s.conf.cores, s.now⟩
    refine ⟨_, exec_deckRotation_turn hstep hidle hprio hrun hdue hnext, ?_, ?_, ?_, ?_, ?_, harray, hops⟩ <;> rw [State.deckAt_con]
  · have hframe := s.takeNewer_frame 1
    refine ⟨_, exec_coreTestStart_pending hc hpend hcore hops, ?_,
      Safety.sameArray_of_eq hframe ⟨rfl, rfl, rfl, rfl, rfl, rfl, rfl⟩, (congrArg State.ops hframe :)⟩
    exact (congrArg (fun u : State => { u.con.deck with state := 2 }) hframe :)

end Sys2Proof.Machine
end

section
/-! QUARANTINE, OFFENCE_DECAY and AGEING_SWEEP (R60, R273, R275 to R277, R291). -/

namespace Sys2Proof.Machine

/-! ### Weights that are cleared (R60, R277) -/

/-- The weights and shadow rows of the engines of `p` are clear in `t`; those of the others, and the registers, the tiles and the ops, are as
in `s`. -/
structure State.ClearsWeights (p : Nat → Bool) (s t : State) : Prop where
  cell : ∀ k, sget Cell.zero t.cells k = if p (k / 1024) = true then Cell.zero else sget Cell.zero s.cells k
  shadow : ∀ k, sget Cell.zero t.shadow k = if p (k / 1024) = true then Cell.zero else sget Cell.zero s.shadow k
  swr : ∀ k, k ∈ t.swr ↔ k ∈ s.swr ∧ p (k / 64) = false
  regs : t.regs = s.regs
  tiles : t.tiles = s.tiles
  ops : t.ops = s.ops

namespace State.ClearsWeights

variable {p q : Nat → Bool} {s t u : State}

theorem refl (s : State) : s.ClearsWeights (fun _ => false) s := by
  constructor <;> simp

theorem trans (h : s.ClearsWeights p t) (g : t.ClearsWeights q u) : s.ClearsWeights (fun n => p n || q n) u where
  cell k := by rw [g.cell, h.cell]; cases p (k / 1024) <;> cases q (k / 1024) <;> rfl
  shadow k := by rw [g.shadow, h.shadow]; cases p (k / 1024) <;> cases q (k / 1024) <;> rfl
  swr k := by rw [g.swr, h.swr, Bool.or_eq_false_iff, and_assoc]
  regs := g.regs.trans h.regs
  tiles := g.tiles.trans h.tiles
  ops := g.ops.trans h.ops

theorem then_same (h : s.ClearsWeights p t) (g : t.SameMachine u) : s.ClearsWeights p u where
  cell k := by rw [g.read State.cells, h.cell]
  shadow k := by rw [g.read State.shadow, h.shadow]
  swr k := by rw [g.read State.swr, h.swr]
  regs := (g.read State.regs).trans h.regs
  tiles := (g.read State.tiles).trans h.tiles
  ops := g.ops.trans h.ops

theorem clearWeights (s : State) (n : Nat) : s.ClearsWeights (fun x => x == n) (s.clearWeights n) := by
  have hkeep (a : Nat) : ((a != n) = true ↔ ¬ (a == n) = true) := by simp
  refine ⟨fun k => ?_, fun k => ?_, fun k => ?_, rfl, rfl, rfl⟩
  · rw [State.clearWeights, sget_filter_key (p := fun k => k / 1024 != n)]
    simp only [hkeep, ite_not]
  · rw [State.clearWeights, sget_filter_key (p := fun k => k / 1024 != n)]
    simp only [hkeep, ite_not]
  · rw [State.clearWeights, List.mem_filter, bne, Bool.not_eq_true']

/-- Engines are cleared one after another. -/
theorem foldl (l : List Nat) (f : Nat → Nat) (s : State) :
    s.ClearsWeights (fun n => l.any (fun e => n == f e)) (l.foldl (fun s e => s.clearWeights (f e)) s) := by
  induction l generalizing s with
  | nil => exact refl s
  | cons e l ih => exact (clearWeights s (f e)).trans (ih _)

end State.ClearsWeights

/-! ### QUARANTINE (R277) -/

section
variable {s : State}

theorem State.ClearsWeights.quarEngine (s : State) (n : Nat) : s.ClearsWeights (fun x => x == n) (s.quarEngine n) := by
  have hdebug : s.leaveDebug.ClearsWeights (fun x => x == n) (s.quarEngine n) :=
    (clearWeights _ n).then_same (((SameMachine.setObj _ _ _).trans (.event _ _)).trans (.event _ _))
  refine ⟨fun k => ?_, fun k => ?_, fun k => ?_, ?_, ?_, ?_⟩
  · rw [hdebug.cell, State.leaveDebug_cells]
  · rw [hdebug.shadow, State.leaveDebug_shadow]
  · rw [hdebug.swr, State.leaveDebug_swr]
  · rw [hdebug.regs, State.leaveDebug_regs]
  · rw [hdebug.tiles, State.leaveDebug_tiles]
  · rw [hdebug.ops, State.leaveDebug_ops]

theorem State.obj_quarEngine (s : State) (n : Nat) : (s.quarEngine n).obj (healthKey (.engine n)) = 3 := by
  have hlost := healthKey_ne_lostRecords (.engine n)
  exact (State.obj_event hlost _).trans ((State.obj_event hlost _).trans State.obj_setObj_self)

/-- The objects of a core's quarantine are written once its weights are clear. -/
def State.coreQuarNoted (s : State) (c mask : Nat) : State :=
  ((s.setObj (healthKey (.drain c)) 3).setObj (key 0x1000 1) mask).refreshCores

theorem State.quarCore_eq (s : State) (c : Nat) (imm : Bool) : s.quarCore c imm =
    (((List.range 16).foldl (fun s e => s.clearWeights (c * 16 + e)) s).coreQuarNoted c (s.obj (key 0x1000 1) ||| 2 ^ c)).event
      ⟨0x083, 3, 0x06, (TileRef.mk (c * 16) 0).handle, none, none, at_ 1 39 + at_ (bit imm) 38⟩ := rfl

theorem State.SameMachine.coreQuarNoted (s : State) (c mask : Nat) : s.SameMachine (s.coreQuarNoted c mask) :=
  ((setObj s _ _).trans (setObj _ _ _)).trans (refreshCores _)

theorem State.ClearsWeights.quarCore (s : State) (c : Nat) (imm : Bool) :
    s.ClearsWeights (fun n => n / 16 == c) (s.quarCore c imm) := by
  have hcleared := foldl (List.range 16) (fun e => c * 16 + e) s
  simp only [any_engine_of_core] at hcleared
  rw [State.quarCore_eq]
  exact hcleared.then_same ((SameMachine.coreQuarNoted _ _ _).trans (.event _ _))

theorem State.obj_quarCore (s : State) (c : Nat) (imm : Bool) : (s.quarCore c imm).obj (healthKey (.drain c)) = 3 ∧
    bitOf ((s.quarCore c imm).obj (key 0x1000 1)) c = true := by
  rw [State.quarCore_eq]
  constructor
  · refine (State.obj_event (healthKey_ne_lostRecords _) _).trans ((State.obj_healthKey_setObj (healthKey_ne_offered _)).trans ?_)
    exact (State.obj_healthKey_setObj (by simp only [healthKey, key]; omega)).trans State.obj_setObj_self
  · have hmask : ∀ u : State, ∀ mask e, ((u.coreQuarNoted c mask).event e).obj (key 0x1000 1) = mask := fun u mask e =>
      (State.obj_event (by decide) e).trans ((State.obj_setObj_of_ne (by decide) (defaultSource_ne_offered _)).trans State.obj_setObj_self)
    rw [hmask]
    exact bitOf_or_two_pow _ c

theorem exec_quarantine_engine {n : Nat} (hn : n < s.conf.engines) (hpend : s.obj (healthKey (.engine n)) = 2)
    (hops : ∀ o ∈ s.ops, o.k = .drain ∨ o.k = .save ∨ s.usesEngine n o = false) :
    exec (.quarantine (.engine n)) s = .next (s.quarEngine n) := by
  have hfree : ¬ s.ops.any (fun o => o.k != .drain && o.k != .save && s.usesEngine n o) = true := by
    rw [List.any_eq_true]
    rintro ⟨o, ho, huse⟩
    simp only [Bool.and_eq_true, bne_iff_ne] at huse
    obtain ⟨⟨hdrain, hsave⟩, huses⟩ := huse
    rcases hops o ho with h | h | h
    · exact hdrain h
    · exact hsave h
    · exact Bool.false_ne_true (h.symm.trans huses)
  show execQuarantine (.engine n) s = _
  rw [execQuarantine, if_neg (by simp [unitBuilt, hn]), if_neg (not_not.mpr hpend)]
  exact if_neg hfree

theorem exec_quarantine_core {c : Nat} (hc : c < s.conf.cores) (hpend : s.obj (healthKey (.drain c)) = 2)
    (hops : s.ops.any (fun o => opOnCore o c) = false) : exec (.quarantine (.drain c)) s = .next (s.quarCore c false) := by
  show execQuarantine (.drain c) s = _
  rw [execQuarantine, if_neg (by simp [unitBuilt, hc]), if_neg (not_not.mpr hpend)]
  exact if_neg (by rw [hops]; exact Bool.false_ne_true)

end

/-! ### OFFENCE_DECAY (R273, R276) -/

/-- The offences of a unit that still count, and an engine's count of them. -/
def State.decayed (s : State) (u : HwUnit) : State :=
  let s1 : State := { s with con := { s.con with
    offences := s.con.offences.filter (fun e => e.1 != u || decide (s.now - e.2 < s.obj (key 0x5010 3))) } }
  match u with
  | .engine n => s1.setObj (key (0x8000 + n) 4) (min 255 (s1.offences u))
  | _ => s1

section
variable {s : State} {u : HwUnit}

theorem State.SameMachine.decayed (s : State) (u : HwUnit) : s.SameMachine (s.decayed u) := by
  cases u with
  | engine n => exact (withOffences s _ _).trans (setObj _ _ _)
  | drain c => exact withOffences s _ _
  | link c => exact withOffences s _ _

theorem State.decayed_con (s : State) (u : HwUnit) : (s.decayed u).con = { s.con with
    offences := s.con.offences.filter (fun e => e.1 != u || decide (s.now - e.2 < s.obj (key 0x5010 3))) } := by
  cases u with
  | engine n => exact State.setObj_con _ _ _
  | drain c => rfl
  | link c => rfl

theorem State.obj_decayed {j : Nat} (hcount : j % 256 ≠ 4) : (s.decayed u).obj j = s.obj j := by
  cases u with
  | engine n => exact State.obj_setObj_of_sub (by unfold key; omega) (by unfold key; omega)
  | drain c => rfl
  | link c => rfl

theorem exec_offenceDecay_link {c : Nat} (h : unitBuilt s.conf (.link c) = true) :
    exec (.offenceDecay (.link c)) s = .next (s.decayed (.link c)) := by
  show execOffenceDecay (.link c) s = _
  rw [execOffenceDecay, if_neg (by rw [h]; decide)]
  rfl

theorem exec_offenceDecay_heals (h : unitBuilt s.conf u = true) (hne : ∀ c, u ≠ .link c) :
    exec (.offenceDecay u) s = .next ((s.decayed u).heal u) := by
  show execOffenceDecay u s = _
  rw [execOffenceDecay, if_neg (by rw [h]; decide)]
  cases u with
  | engine n => rfl
  | drain c => rfl
  | link c => exact absurd rfl (hne c)

/-- A suspect unit whose core has passed a test since its last offence is healthy once none counts. -/
theorem State.obj_heal_decayed (hsuspect : s.obj (healthKey u) = 1) (hclean : u ∈ s.con.clean)
    (hforgiven : ((s.decayed u).heal u).offences u = 0) (hmapped : s.mapPending u = false) :
    ((s.decayed u).heal u).obj (healthKey u) = 0 := by
  have hsub : healthKey u % 256 ≠ 4 := by cases u <;> (simp only [healthKey, key]; omega)
  have hoffences : ((s.decayed u).heal u).offences u = (s.decayed u).offences u :=
    State.offences_congr (State.heal_offences _ u) ((State.SameMachine.heal _ u).read State.now)
      (State.obj_heal_of_ne (by cases u <;> (simp only [healthKey, key]; omega)))
  refine State.obj_heal_self ⟨(State.obj_decayed hsub).trans hsuspect, hoffences.symm.trans hforgiven, ?_, ?_⟩
  · rw [State.decayed_con]
    exact hclean
  · refine Eq.trans ?_ hmapped
    cases u with
    | engine n =>
      rw [State.mapPending, State.bypass, State.obj_decayed (by unfold key; omega), State.obj_decayed (by unfold key; omega),
        State.mapPending, State.bypass]
    | drain c => rfl
    | link c => rfl

theorem offenceDecay_effect (h : unitBuilt s.conf u = true) : ∃ t, exec (.offenceDecay u) s = .next t ∧
    t.con.offences = s.con.offences.filter (fun e => e.1 != u || decide (s.now - e.2 < s.obj (key 0x5010 3))) ∧
    Safety.sameArray t s ∧ t.ops = s.ops ∧
    ((∀ c, u ≠ .link c) → s.obj (healthKey u) = 1 → u ∈ s.con.clean → t.offences u = 0 → s.mapPending u = false →
      t.obj (healthKey u) = 0) := by
  have hdecayed := State.SameMachine.decayed s u
  have hoffences : (s.decayed u).con.offences =
      s.con.offences.filter (fun e => e.1 != u || decide (s.now - e.2 < s.obj (key 0x5010 3))) := by rw [State.decayed_con]
  by_cases hlink : ∃ c, u = .link c
  · obtain ⟨c, rfl⟩ := hlink
    exact ⟨_, exec_offenceDecay_link h, hoffences, hdecayed.sameArray, hdecayed.ops, fun hne => absurd rfl (hne c)⟩
  · have hhealed := hdecayed.trans (.heal _ u)
    exact ⟨_, exec_offenceDecay_heals h (not_exists.mp hlink), (State.heal_offences _ u).trans hoffences, hhealed.sameArray, hhealed.ops,
      fun _ hsuspect hclean hforgiven hmapped => State.obj_heal_decayed hsuspect hclean hforgiven hmapped⟩

end

/-! ### AGEING_SWEEP (R291) -/

/-- The setting that a sweep wants: G above the first failing setting, or G when no step fails. -/
def State.sweepWant (s : State) (u : Nat) (f : Option (BitVec 4)) : Nat := match f with
  | none => s.obj (key (0x5200 + u) 1)
  | some x => x.toNat + 1 + s.obj (key (0x5200 + u) 1)

/-- A sweep ends: it no longer runs, its setting is in force, its request is answered and its history grows. -/
def State.sweepEnded (s : State) (u set_ history : Nat) : State :=
  ((({ s with con := { s.con with sweeps := delN s.con.sweeps u } } : State).setObj (key (0x5200 + u) 0) set_).setObj
    (key (0x5200 + u) 3) 0).setObj (key (0x5200 + u) 2) history

section
variable {s : State} {u : Nat}

theorem exec_ageingSweep_ends (f : Option (BitVec 4)) (hbuilt : ageingBuilt s.conf u = true) (hrun : s.con.sweeps.elem u = true)
    (hout : s.outOfUse u = true) : ∃ history e, exec (.ageingSweep u f) s =
      .next ((s.sweepEnded u (min 15 (s.sweepWant u f)) history).event e) := by
  show ∃ history e, execAgeingSweep u f s = _
  rw [execAgeingSweep, if_neg (by rw [hbuilt]; decide), if_pos ⟨hrun, hout⟩]
  exact ⟨_, _, rfl⟩

theorem State.SameMachine.sweepEnded (s : State) (u set_ history : Nat) : s.SameMachine (s.sweepEnded u set_ history) := by
  have hsweeps : s.SameMachine { s with con := { s.con with sweeps := delN s.con.sweeps u } } := ⟨rfl, rfl⟩
  exact ((hsweeps.trans (setObj _ _ _)).trans (setObj _ _ _)).trans (setObj _ _ _)

theorem State.sweepEnded_sweeps (s : State) (u set_ history : Nat) : u ∉ (s.sweepEnded u set_ history).con.sweeps := by
  have hcon : (s.sweepEnded u set_ history).con = { s.con with sweeps := delN s.con.sweeps u } :=
    ((State.setObj_con _ _ _).trans (State.setObj_con _ _ _)).trans (State.setObj_con _ _ _)
  rw [hcon]
  simp [delN]

theorem State.obj_sweepEnded_request (s : State) (u set_ history : Nat) :
    (s.sweepEnded u set_ history).obj (key (0x5200 + u) 3) = 0 :=
  (State.obj_setObj_of_sub (by unfold key; omega) (by unfold key; omega)).trans State.obj_setObj_self

theorem State.obj_sweepEnded_setting (s : State) (u set_ history : Nat) :
    (s.sweepEnded u set_ history).obj (key (0x5200 + u) 0) = set_ :=
  (State.obj_setObj_of_sub (by unfold key; omega) (by unfold key; omega)).trans
    ((State.obj_setObj_of_sub (by unfold key; omega) (by unfold key; omega)).trans State.obj_setObj_self)

theorem ageingSweep_effect (f : Option (BitVec 4)) (hbuilt : ageingBuilt s.conf u = true) (hrun : s.con.sweeps.elem u = true)
    (hout : s.outOfUse u = true) : ∃ t, exec (.ageingSweep u f) s = .next t ∧ u ∉ t.con.sweeps ∧ t.obj (key (0x5200 + u) 3) = 0 ∧
      t.obj (key (0x5200 + u) 0) = min 15 (s.sweepWant u f) ∧ Safety.sameArray t s ∧ t.ops = s.ops := by
  obtain ⟨history, e, hexec⟩ := exec_ageingSweep_ends f hbuilt hrun hout
  have hsame := (State.SameMachine.sweepEnded s u (min 15 (s.sweepWant u f)) history).trans (.event _ e)
  refine ⟨_, hexec, ?_, ?_, ?_, hsame.sameArray, hsame.ops⟩
  · rw [State.event_con]
    exact State.sweepEnded_sweeps _ _ _ _
  · rw [State.obj_event (by unfold key; omega), State.obj_sweepEnded_request]
  · rw [State.obj_event (by unfold key; omega), State.obj_sweepEnded_setting]

end

/-- Settles O59: a quarantine clears weights and nothing else of the machine (`ClearsWeights.quarEngine`, `ClearsWeights.quarCore`), a decay heals
a unit that no offence counts for (`offenceDecay_effect`), and a sweep ends with its setting (`ageingSweep_effect`). -/
theorem quarantineDecayAndSweeps : Obligations.Quarantine_decay_and_sweeps := by
  refine ⟨fun n s hn hpend hops => ?_, fun c s hc hpend hops => ?_, fun u s hbuilt => offenceDecay_effect hbuilt,
    fun u f s hbuilt hrun hout => ageingSweep_effect f hbuilt hrun hout⟩
  · have hclears := State.ClearsWeights.quarEngine s n
    refine ⟨_, exec_quarantine_engine hn hpend hops, s.obj_quarEngine n, hclears.regs, hclears.tiles, hclears.ops, fun k hk => ?_,
      fun k hk => ?_, fun k hk => ?_⟩
    · rw [hclears.cell, hclears.shadow, if_pos (beq_iff_eq.mpr hk), if_pos (beq_iff_eq.mpr hk)]
      exact ⟨rfl, rfl⟩
    · rw [hclears.cell, hclears.shadow, if_neg (by simpa using hk), if_neg (by simpa using hk)]
      exact ⟨rfl, rfl⟩
    · exact beq_eq_false_iff_ne.mp ((hclears.swr k).mp hk).2
  · have hclears := State.ClearsWeights.quarCore s c false
    obtain ⟨hhealth, hmask⟩ := s.obj_quarCore c false
    have hcore (k : Nat) : (k / 1024 / 16 == c) = (k / 16384 == c) := by rw [Nat.div_div_eq_div_mul]
    refine ⟨_, exec_quarantine_core hc hpend hops, hhealth, hmask, hclears.regs, hclears.tiles, hclears.ops, fun k hk => ?_, fun k hk => ?_⟩
    · rw [hclears.cell, hclears.shadow, hcore, if_pos (beq_iff_eq.mpr hk), if_pos (beq_iff_eq.mpr hk)]
      exact ⟨rfl, rfl⟩
    · rw [hclears.cell, hcore, if_neg (by simpa using hk)]

end Sys2Proof.Machine
end

section
/-! A frame that arrives and is taken: its credit returns, and it is handled for its group slot (R215, R303). -/

namespace Sys2Proof.Machine

section
variable {s : State} {q : Nat} {f : Frame} {ftype g : Nat}

/-- The CRC of a frame that arrives does not discard it (R295, R302). -/
theorem Safety.arrives.crc (h : Safety.arrives s q f ftype g) : ¬(q ≠ 0xFE ∧ frameOk f = false) := by
  obtain ⟨-, -, -, -, hcrc, -⟩ := h
  rintro ⟨hq, hbad⟩
  rcases hcrc with hloop | hok
  · exact hq hloop
  · exact Bool.false_ne_true (hbad.symm.trans hok)

/-- A frame that arrives is for its group slot once its credit has returned, too. -/
theorem Safety.arrives.frameSlot (h : Safety.arrives s q f ftype g) : (s.returnCredit q f).frameSlot q f = some g := by
  have hcrc := Safety.arrives.crc h
  obtain ⟨-, -, -, hver, -, hslot⟩ := h
  rw [State.frameSlot, if_neg (not_or.mpr ⟨not_not_intro hver, hcrc⟩)]
  simpa only [State.slotOf, State.obj_returnCredit] using hslot

/-- The shell of the frame commands, for a frame that arrives (R303). -/
theorem State.onFrame_of_arrives (h : Safety.arrives s q f ftype g) (body : State → Nat → State) :
    s.onFrame q ftype f body = .next (body (s.returnCredit q f) g) := by
  have hslot := Safety.arrives.frameSlot h
  obtain ⟨hport, hhears, htype, -⟩ := h
  rw [State.onFrame, hport, if_neg Bool.false_ne_true, State.overflows_of_hears hhears, if_neg (by simp), if_neg (by simp [hhears, htype])]
  simp only [hslot]

/-- An END frame that arrives and follows no frame of its stream in the pool: its credit returns, and it does what it does at the owner. -/
theorem exec_end_taken (h : Safety.arrives s q f 2 g) (hbehind : s.behind q f = false) :
    exec (.end_ q f) s = .next ((s.returnCredit q f).endIn g f) := by
  have ⟨hport, _⟩ := h
  have hgood : ¬(s.hears q f = true ∧ f.ftype = 2 ∧ q ≠ 0xFE ∧ frameOk f = false) :=
    fun ⟨_, _, hq, hbad⟩ => Safety.arrives.crc h ⟨hq, hbad⟩
  show execEnd q f s = _
  rw [execEnd, hport, if_neg Bool.false_ne_true, if_neg hgood, if_neg (by simp [hbehind])]
  exact State.onFrame_of_arrives h _

/-- An ALLOT frame of the first player in its term: its credit returns, and its table is in force (R301). -/
theorem exec_allot_taken (h : Safety.arrives s q f 0xD g) (hfirst : (s.group g).first = some f.src) (hterm : f.term = (s.group g).term) :
    exec (.allot q f) s = .next ((s.returnCredit q f).takeAllot g ((List.range 64).map (fun i => (payUnit f.payload i).1.toNat))) := by
  have hgroup : (s.returnCredit q f).group g = s.group g := by
    unfold State.returnCredit
    split
    · rfl
    · rw [State.group, State.giveCredits_groups, State.setPort_groups, State.group]
  show execAllot q f s = _
  rw [execAllot, State.onFrame_of_arrives h, hgroup, if_pos ⟨hfirst, hterm⟩]

end

end Sys2Proof.Machine
end

section
/-! ALLOT: a frame that waited for its allotment leaves with the table that raises it, and its flits count for its op (R240, R300, R301). -/

namespace Sys2Proof.Machine

/-- The owner op of a range at group slot 0, accepted. -/
def answeringOwner : Op := { State.reset.newOp .owner ⟨0, 0, 0, 0, 0, 0, 0, 0⟩ false none none with id := 0 }

/-- Its answer to a contribution of position 1. -/
def withheldAck : Frame := ({ ftype := 3, src := 0, dst := 1, group := 0 } : Hdr).frame []

/-- Port 17 is up and holds credits of its partner; the answer waits there for an allotment at position 1. -/
def withholdingPort : PortSt := { PortSt.zero with st := 2, pool := 8, cr := 8, wait := [(⟨some 0, some 0, 1, some (0, 1)⟩, withheldAck)] }

/-- The first player, position 1, allots a flit to the block at its own position: an ALLOT of two flits, with its CRC. -/
def raisingAllot : Frame :=
  ⟨BitVec.ofNat 64 (2 ^ 60 + 0xD * 2 ^ 56 + 2 ^ 38), 0, 0, BitVec.ofNat 64 (2 * 2 ^ 15), 0, 0, 0, BitVec.ofNat 64 (1779503234 * 2 ^ 32),
    [⟨BitVec.ofNat 512 (2 ^ 16), 0⟩, ⟨0, 0⟩]⟩

/-- The CRC of the frame, over its header and then flit by flit (R302). -/
theorem raisingAllot_ok : frameOk raisingAllot = true := by
  have hheader : ((frameBytes raisingAllot).take 64).foldl crcByte 0xFFFFFFFF = 1722142547#32 := by decide +kernel
  have hfirst : (((frameBytes raisingAllot).drop 64).take 68).foldl crcByte 1722142547#32 = 196747694#32 := by decide +kernel
  have hsecond : (((frameBytes raisingAllot).drop 64).drop 68).foldl crcByte 196747694#32 = 2515464061#32 := by decide +kernel
  have hcrc : (frameBytes raisingAllot).foldl crcByte 0xFFFFFFFF = 2515464061#32 := by
    rw [← List.take_append_drop 64 (frameBytes raisingAllot), List.foldl_append, hheader,
      ← List.take_append_drop 68 ((frameBytes raisingAllot).drop 64), List.foldl_append, hfirst, hsecond]
  rw [frameOk, crc32c, hcrc]
  decide +kernel

/-- Position 0 of a group of two, whose other member is the first player and lies behind port 17. -/
def awaitingAllot : State :=
  { (((State.reset.setObj (key 0x6000 2) 3).setObj (key 0x6040 1) 0).setPort 17 withholdingPort).setGroup 0 { GroupSt.zero with first := some 1 }
      with ops := [answeringOwner] }

theorem awaitingAllot_arrives : Safety.arrives awaitingAllot 17 raisingAllot 0xD 0 := by
  refine ⟨?_, ?_, ?_, ?_, .inr raisingAllot_ok, ?_⟩ <;> decide +kernel

theorem awaitingAllot_first : (awaitingAllot.group 0).first = some raisingAllot.src ∧ raisingAllot.term = (awaitingAllot.group 0).term := by
  decide +kernel

/-- The answer leaves once the table is in force, and its flit counts for the op that sent it. -/
theorem awaitingAllot_leaves :
    ((awaitingAllot.returnCredit 17 raisingAllot).takeAllot 0 ((List.range 64).map (fun i => (payUnit raisingAllot.payload i).1.toNat))).ops =
      [{ answeringOwner with wout := 1 }] := by
  decide +kernel

/-- Refutes O54: ALLOT's clause says that no op changes, but a table in force at once lets the frames leave that waited for their
allotment (R300, R301). In `awaitingAllot` an owner's ACK waits so; it leaves, and its flit counts as one that the op has sent and
that is not yet returned (R240). -/
theorem not_groupsElectAndKeepMembers : ¬Obligations.Groups_elect_and_keep_members := by
  intro h
  obtain ⟨-, -, -, hallot, -⟩ := h 0 awaitingAllot (by decide)
  obtain ⟨hfirst, hterm⟩ := awaitingAllot_first
  obtain ⟨t, hexec, -, hops, -⟩ := hallot 17 raisingAllot awaitingAllot_arrives hfirst hterm
  have ht := Host.Outcome.next.inj (hexec.symm.trans (exec_allot_taken awaitingAllot_arrives hfirst hterm))
  rw [ht, awaitingAllot_leaves] at hops
  have hwout : [1] = [0] := congrArg (List.map Op.wout) hops
  exact absurd hwout (by decide)

end Sys2Proof.Machine
end

section
/-! END at the owner: the slot of a range as a frame reads it, and the answer of the owner (R308, R311, R316). -/

namespace Sys2Proof.Machine

/-! ### Ranges that a frame names -/

/-- A record of the range that a frame names. -/
def Range.isFor (r : Range) (f : Frame) : Prop := r.group = f.group ∧ r.bucket = f.bucket ∧ r.eoff = f.reoff

/-- A change of a range record that leaves which range it is and its op. -/
def keepsRange (h : Range → Range) : Prop :=
  ∀ x, (h x).group = x.group ∧ (h x).bucket = x.bucket ∧ (h x).eoff = x.eoff ∧ (h x).op = x.op

section
variable {s t : State} {r y : Range} {f : Frame} {i : Nat} {x : Slot}

theorem State.isFor_of_frameRange (h : s.frameRange f = some r) : r.isFor f := by
  have hp := List.find?_some (p := fun r : Range => r.group == f.group && r.bucket == f.bucket && r.eoff == f.reoff) h
  simpa [Range.isFor, and_assoc] using hp

/-- The record that a frame reads after a change of one. -/
theorem State.frameRange_mapRange {h : Range → Range} (hkeep : keepsRange h) : (s.mapRange r h).frameRange f =
    (s.frameRange f).map (fun x => if x.group == r.group && x.bucket == r.bucket && x.eoff == r.eoff then h x else x) := by
  unfold State.frameRange State.range?
  rw [State.mapRange_ranges, List.find?_map]
  congr 2
  funext x
  obtain ⟨hgroup, hbucket, heoff, -⟩ := hkeep x
  rw [Function.comp_apply]
  split
  · rw [hgroup, hbucket, heoff]
  · rfl

/-- The record that a frame names, after a change of it. -/
theorem State.frameRange_mapRange_isFor {h : Range → Range} (hkeep : keepsRange h) (hr : r.isFor f) (hy : s.frameRange f = some y) :
    (s.mapRange r h).frameRange f = some (h y) := by
  obtain ⟨hgroup, hbucket, heoff⟩ := hr
  obtain ⟨ygroup, ybucket, yeoff⟩ := State.isFor_of_frameRange hy
  rw [State.frameRange_mapRange hkeep, hy, Option.map_some, if_pos (by simp [hgroup, hbucket, heoff, ygroup, ybucket, yeoff])]

theorem Safety.slotNow_eq_some : Safety.slotNow s f i = some x ↔ ∃ y, s.frameRange f = some y ∧ y.slots[i]? = some x := Option.bind_eq_some_iff

/-- The slots that a frame reads depend on the range records alone. -/
theorem Safety.slotNow_congr (h : t.ranges = s.ranges) : Safety.slotNow t f i = Safety.slotNow s f i := by
  unfold Safety.slotNow State.frameRange State.range?
  rw [h]

/-- The slot that a frame names, after a change of it. -/
theorem Safety.slotNow_mapSlot (hr : r.isFor f) (hx : Safety.slotNow s f i = some x) (k : Slot → Slot) :
    Safety.slotNow (s.mapSlot r i k) f i = some (k x) := by
  obtain ⟨y, hy, hyx⟩ := Safety.slotNow_eq_some.mp hx
  refine Safety.slotNow_eq_some.mpr ⟨_, State.frameRange_mapRange_isFor (fun _ => ⟨rfl, rfl, rfl, rfl⟩) hr hy, ?_⟩
  rw [List.getElem?_set_self (List.getElem?_eq_some_iff.mp hyx).1, List.getD_eq_getElem?_getD, hyx, Option.getD_some]

/-- The slots that a frame reads, after a change of a record that leaves them. -/
theorem Safety.slotNow_mapRange {h : Range → Range} (hkeep : keepsRange h) (hslots : ∀ x, (h x).slots = x.slots) :
    Safety.slotNow (s.mapRange r h) f i = Safety.slotNow s f i := by
  unfold Safety.slotNow
  rw [State.frameRange_mapRange hkeep, Option.bind_map]
  congr 1
  funext x
  rw [Function.comp_apply]
  split
  · rw [hslots]
  · rfl

/-- The slot of a record as it stands now is the one that the frame reads. -/
theorem State.rangeNow_slot (hr : r.isFor f) (hx : Safety.slotNow s f i = some x) : (s.rangeNow r).slots.getD i .zero = x := by
  obtain ⟨y, hy, hyx⟩ := Safety.slotNow_eq_some.mp hx
  obtain ⟨hgroup, hbucket, heoff⟩ := hr
  have hnow : s.range? r.group r.bucket r.eoff = some y := by rw [hgroup, hbucket, heoff]; exact hy
  rw [State.rangeNow, hnow, Option.getD_some, List.getD_eq_getElem?_getD, hyx, Option.getD_some]

end

/-! ### The owner's answer (R295, Table 12-5) -/

theorem Frame.src_lt (f : Frame) : f.src < 64 := Nat.mod_lt _ (by decide)

theorem State.slotOf_lt {s : State} {group g : Nat} (h : s.slotOf group = some g) : g < 16 :=
  List.mem_range.mp (List.mem_of_find?_eq_some h)

theorem State.returnCredit_ops (s : State) (q : Nat) (f : Frame) : (s.returnCredit q f).ops = s.ops := by
  unfold State.returnCredit
  split <;> simp

theorem State.returnCredit_ranges (s : State) (q : Nat) (f : Frame) : (s.returnCredit q f).ranges = s.ranges := by
  unfold State.returnCredit
  split <;> simp

theorem State.returnCredit_regs (s : State) (q : Nat) (f : Frame) : (s.returnCredit q f).regs = s.regs := by
  unfold State.returnCredit
  split <;> simp

/-- The epoch of an owner's frames is read in the descriptor of its op. -/
theorem State.ownerEpoch_eq (s : State) (r : Option Range) (f : Frame) :
    s.ownerEpoch r f = (r.bind fun r => r.op.bind fun id => (s.op? id).map Op.d).elim f.epoch Desc.epoch := by
  unfold State.ownerEpoch State.rangeOp
  cases r with
  | none => rfl
  | some r =>
    simp only [Option.bind_some]
    cases r.op with
    | none => rfl
    | some id => cases h : s.op? id <;> simp [h]

/-- The two states send the answers to a frame of group slot `g` alike: on the same route, from the same position, for the same epoch. -/
structure State.SameAnswers (g : Nat) (f : Frame) (s t : State) : Prop where
  route : t.route g f.src = s.route g f.src
  pos : t.posOf g = s.posOf g
  epoch : t.ownerEpoch (t.frameRange f) f = s.ownerEpoch (s.frameRange f) f

namespace State.SameAnswers

variable {g : Nat} {f : Frame} {s t u : State}

theorem refl (s : State) : s.SameAnswers g f s := ⟨rfl, rfl, rfl⟩

theorem trans (h : s.SameAnswers g f t) (h' : t.SameAnswers g f u) : s.SameAnswers g f u :=
  ⟨h'.route.trans h.route, h'.pos.trans h.pos, h'.epoch.trans h.epoch⟩

theorem replyHdr (h : s.SameAnswers g f t) (ctl : Nat) : t.replyHdr g 3 f ctl = s.replyHdr g 3 f ctl := by
  unfold State.replyHdr
  rw [h.pos, h.epoch]

/-- The routes are read in the group's objects and the states of the ports, the epoch in the ops and the ranges. -/
theorem of_objs (hobj : ∀ j, key 0x6000 0 ≤ j → j < key 0x6080 0 → t.obj j = s.obj j) (hg : g < 16) (hconf : t.conf = s.conf)
    (hup : ∀ q, t.up q = s.up q) (hops : t.ops = s.ops) (hranges : t.ranges = s.ranges) : s.SameAnswers g f t := by
  have hslot (sub : Nat) (hsub : sub < 64) : t.obj (key (0x6000 + g) sub) = s.obj (key (0x6000 + g) sub) :=
    hobj _ (by unfold key; omega) (by unfold key; omega)
  have hsrc := Frame.src_lt f
  have hroute : t.obj (key (0x6040 + g) f.src) = s.obj (key (0x6040 + g) f.src) := hobj _ (by unfold key; omega) (by unfold key; omega)
  refine ⟨?_, hslot 1 (by decide), ?_⟩
  · unfold State.route
    rw [hroute, hslot 1 (by decide), hslot 2 (by decide), hconf]
    simp only [hup]
  · unfold State.ownerEpoch State.rangeOp State.op? State.frameRange State.range?
    rw [hops, hranges]

theorem of_eq (hdict : t.dict = s.dict) (hg : g < 16) (hconf : t.conf = s.conf) (hspeed : t.speed = s.speed) (hup : ∀ q, t.up q = s.up q)
    (hops : t.ops = s.ops) (hranges : t.ranges = s.ranges) : s.SameAnswers g f t :=
  of_objs (fun _ _ _ => State.obj_congr hdict hconf hspeed) hg hconf hup hops hranges

/-- A counter of the cascade goes up (R326). -/
theorem bump (hg : g < 16) (s : State) {k : Nat} (hk : key 0x6080 0 ≤ k) (n : Nat) : s.SameAnswers g f (s.bump k n) := by
  refine of_objs (fun j hlo hhi => State.obj_bump_of_ne (by omega) ?_) hg (by simp) (fun q => by simp [State.up, State.port]) (by simp) (by simp)
  have hnone : defaultSource j = none := by
    unfold defaultSource
    unfold key at *
    rw [if_neg (by omega), if_neg (by omega), if_neg (by omega)]
  rw [hnone]
  exact nofun

theorem cascadeEvent (hg : g < 16) (s : State) (cls sev g' pp : Nat) (tn : Option Nat) (detail : Nat) :
    s.SameAnswers g f (s.cascadeEvent cls sev g' pp tn detail) :=
  of_objs (fun j hlo _ => State.obj_event (by unfold key at *; omega) _) hg (by simp [State.cascadeEvent])
    (fun q => by simp [State.cascadeEvent, State.up, State.port]) (by simp [State.cascadeEvent]) (by simp [State.cascadeEvent])

/-- A frame that is taken (R215). -/
theorem returnCredit (hg : g < 16) (s : State) (q : Nat) (x : Frame) : s.SameAnswers g f (s.returnCredit q x) := by
  refine of_eq (State.returnCredit_dict _ _ _) hg (State.returnCredit_conf _ _ _) (State.returnCredit_speed _ _ _) (fun p => ?_)
    (State.returnCredit_ops _ _ _) (State.returnCredit_ranges _ _ _)
  unfold State.returnCredit
  split
  · rfl
  · rw [State.up, State.port, State.giveCredits_ports, ← State.port, State.port_setPort]
    split
    · next h => rw [h, State.up]
    · rfl

theorem mapRange (s : State) (r : Range) {h : Range → Range} (hkeep : keepsRange h) : s.SameAnswers g f (s.mapRange r h) := by
  refine ⟨rfl, rfl, ?_⟩
  rw [State.frameRange_mapRange hkeep]
  cases s.frameRange f with
  | none => rfl
  | some y =>
    have hop : (if y.group == r.group && y.bucket == r.bucket && y.eoff == r.eoff then h y else y).op = y.op := by
      split
      · exact (hkeep y).2.2.2
      · rfl
    simp only [Option.map_some, State.ownerEpoch, Option.bind_some, State.rangeOp, hop]
    rfl

theorem mapSlot (s : State) (r : Range) (i : Nat) (k : Slot → Slot) : s.SameAnswers g f (s.mapSlot r i k) :=
  mapRange s r fun _ => ⟨rfl, rfl, rfl, rfl⟩

/-- A change of an op that leaves its number and its descriptor. -/
theorem mapOp (s : State) (id : Nat) {h : Op → Op} (hid : ∀ o, (h o).id = o.id) (hd : ∀ o, (h o).d = o.d) :
    s.SameAnswers g f (s.mapOp id h) := by
  have hfind (j : Nat) : ((s.mapOp id h).op? j).map Op.d = (s.op? j).map Op.d := by
    have hpred : ((fun o : Op => o.id == j) ∘ fun o => if o.id == id then h o else o) = fun o : Op => o.id == j := by
      funext o
      rw [Function.comp_apply]
      split
      · rw [hid]
      · rfl
    rw [State.op?, State.mapOp_ops, List.find?_map, hpred, Option.map_map, State.op?]
    congr 1
    funext o
    rw [Function.comp_apply]
    split
    · exact hd o
    · rfl
  refine ⟨rfl, rfl, ?_⟩
  rw [State.ownerEpoch_eq, State.ownerEpoch_eq]
  simp only [hfind]
  rfl

end State.SameAnswers
/-! ### An answer on its way -/

section
variable {s t : State} {g : Nat} {f x : Frame} {i : Nat}

theorem Safety.posted_congr (hout : t.out = s.out) (hloop : t.loop = s.loop) (hports : t.ports = s.ports) (h : Safety.posted s x) :
    Safety.posted t x := by
  unfold Safety.posted State.port
  rw [hout, hloop, hports]
  exact h

theorem Safety.posted_of_out {q : Nat} (h : Out.frame q x ∈ s.out) : Safety.posted s x :=
  .inl ⟨q, List.mem_filterMap.mpr ⟨_, h, rfl⟩⟩

theorem State.launch_out (s : State) (q : Nat) (fl : Flight) (x : Frame) : (s.launch q fl x).out = s.out ++ [.frame q x] := by
  unfold State.launch
  dsimp only
  split <;> split <;> simp

theorem State.launch_ranges (s : State) (q : Nat) (fl : Flight) (x : Frame) : (s.launch q fl x).ranges = s.ranges := by
  unfold State.launch
  dsimp only
  split <;> split <;> simp

theorem State.sendFrame_ranges (s : State) (g pp : Nat) (op tenant : Option Nat) (x : Frame) :
    (s.sendFrame g pp op tenant x).ranges = s.ranges := by
  unfold State.sendFrame State.sendOn
  dsimp only
  split_ifs
  · rfl
  · rfl
  · exact s.launch_ranges _ _ _
  · rfl

/-- A frame to a position with a route leaves, stands on the loopback path or waits for credits (R295). -/
theorem State.posted_sendFrame {pp : Nat} (hroute : s.route g pp ≠ 0xFF) (op tenant : Option Nat) (x : Frame) :
    Safety.posted (s.sendFrame g pp op tenant x) x := by
  unfold State.sendFrame
  dsimp only
  split
  · exact .inr (.inl (List.mem_append_right _ (List.mem_singleton_self x)))
  · unfold State.sendOn
    dsimp only
    split
    · exact Safety.posted_of_out (by rw [State.launch_out]; exact List.mem_append_right _ (List.mem_singleton_self _))
    · refine .inr (.inr ⟨17 + s.route g pp, ⟨op, tenant, frameFlits x, some (g, pp)⟩, ?_⟩)
      rw [State.port_setPort, if_pos rfl]
      exact List.mem_append_right _ (List.mem_singleton_self _)

end

/-! ### What an END frame leaves -/

/-- The two states agree in the frames that are on their way, in the registers, and in the slots of the range that a frame names. -/
structure State.SameClose (f : Frame) (s t : State) : Prop where
  out : t.out = s.out
  loop : t.loop = s.loop
  ports : t.ports = s.ports
  regs : t.regs = s.regs
  slots : ∀ i, Safety.slotNow t f i = Safety.slotNow s f i

namespace State.SameClose

variable {f : Frame} {s t u : State}

theorem refl (s : State) : s.SameClose f s := ⟨rfl, rfl, rfl, rfl, fun _ => rfl⟩

theorem trans (h : s.SameClose f t) (h' : t.SameClose f u) : s.SameClose f u :=
  ⟨h'.out.trans h.out, h'.loop.trans h.loop, h'.ports.trans h.ports, h'.regs.trans h.regs, fun i => (h'.slots i).trans (h.slots i)⟩

theorem of_counts (h : s.Counts t) : s.SameClose f t :=
  ⟨h.same State.out, h.same State.loop, h.same State.ports, h.same State.regs, fun i => h.same (fun v => Safety.slotNow v f i)⟩

theorem cascadeEvent (s : State) (cls sev g pp : Nat) (tn : Option Nat) (detail : Nat) :
    s.SameClose f (s.cascadeEvent cls sev g pp tn detail) := of_counts (.event s _)

theorem withOps (s : State) (os : List Op) : s.SameClose f { s with ops := os } := ⟨rfl, rfl, rfl, rfl, fun _ => rfl⟩

theorem mapRange (s : State) (r : Range) {h : Range → Range} (hkeep : keepsRange h) (hslots : ∀ x, (h x).slots = x.slots) :
    s.SameClose f (s.mapRange r h) := ⟨rfl, rfl, rfl, rfl, fun _ => Safety.slotNow_mapRange hkeep hslots⟩

/-- The check of a complete range lets its op deliver, or fails ops (R311, R313). -/
theorem checkComplete (s : State) (r : Range) : s.SameClose f (s.checkComplete r) := by
  unfold State.checkComplete
  extract_lets now
  split
  · exact refl s
  · split_ifs
    · exact withOps s _
    · have hbad : s.SameClose f (s.mapRange now (fun x => { x with badSum := true })) :=
        mapRange s now (fun _ => ⟨rfl, rfl, rfl, rfl⟩) fun _ => rfl
      exact (hbad.trans (withOps _ _)).trans (cascadeEvent _ _ _ _ _ _ _)
    · exact refl s

end State.SameClose

/-- `t` holds `x` in the slot that a frame names and the registers `rs`, and the frame's ACK, which `s` would send, is on its way. -/
structure State.Closes (s : State) (g : Nat) (f : Frame) (i : Nat) (x : Slot) (code n : Nat) (rs : Sparse LongReg) (t : State) : Prop where
  slot : Safety.slotNow t f i = some x
  posted : Safety.posted t ((s.replyHdr g 3 f (code * 2 ^ 24 + n % 2 ^ 24)).frame [])
  regs : t.regs = rs

namespace State.Closes

variable {g : Nat} {f : Frame} {i : Nat} {x : Slot} {code n : Nat} {rs : Sparse LongReg} {s t u : State}

theorem reg (h : s.Closes g f i x code n rs t) (k : Nat) : t.reg k = sget .zero rs k := congrArg (sget LongReg.zero · k) h.regs

theorem sameClose (h : s.Closes g f i x code n rs t) (h' : t.SameClose f u) : s.Closes g f i x code n rs u :=
  ⟨(h'.slots i).trans h.slot, Safety.posted_congr h'.out h'.loop h'.ports h.posted, h'.regs.trans h.regs⟩

theorem cascadeEvent (h : s.Closes g f i x code n rs t) (cls sev g' pp : Nat) (tn : Option Nat) (detail : Nat) :
    s.Closes g f i x code n rs (t.cascadeEvent cls sev g' pp tn detail) := h.sameClose (.cascadeEvent _ _ _ _ _ _ _)

theorem mapSlot {r : Range} (h : s.Closes g f i x code n rs t) (hr : r.isFor f) (k : Slot → Slot) :
    s.Closes g f i (k x) code n rs (t.mapSlot r i k) :=
  ⟨Safety.slotNow_mapSlot hr h.slot k, Safety.posted_congr (s := t) rfl rfl rfl h.posted, h.regs⟩

/-- The owner answers with the slot as it is to stay. -/
theorem ack (h : s.SameAnswers g f t) (hroute : s.route g f.src ≠ 0xFF) (hslot : Safety.slotNow t f i = some x) (code n : Nat) :
    s.Closes g f i x code n t.regs (t.ack g f code n) where
  slot := (Safety.slotNow_congr (State.sendFrame_ranges _ _ _ _ _ _)).trans hslot
  posted := by
    rw [← h.replyHdr]
    exact State.posted_sendFrame (h.route ▸ hroute) _ _ _
  regs := (SameArray.sendFrame _ _ _ _ _ _).regs

theorem ackFail (h : s.SameAnswers g f t) (hroute : s.route g f.src ≠ 0xFF) (hslot : Safety.slotNow t f i = some x) (code n : Nat) :
    s.Closes g f i x code n t.regs (t.ackFail g f code n) := (ack h hroute hslot code n).cascadeEvent _ _ _ _ _ _

end State.Closes

end Sys2Proof.Machine
end

section
/-! The flags of the registers of ledger entries, set entry by entry (R312). -/

namespace Sys2Proof.Machine

/-! ### The registers of ledger entries -/

/-- Each ledger entry in turn changes the register of its element. -/
def State.editLedger (s : State) (r : Range) (led : List (Nat × Nat)) (ed : LongReg → Nat × Nat → LongReg) : State :=
  led.foldl (fun s e => match s.rangeReg r e.1 with
    | none => s
    | some rk => s.setReg rk (ed (s.reg rk) e)) s

section
variable {s t : State} {r : Range}

/-- The place of an element depends on the bypass maps alone. -/
theorem State.placeIn_congr (h : ∀ n, t.bypass n = s.bypass n) (ts : List TileRef) (k : Nat) : t.placeIn ts k = s.placeIn ts k := by
  induction ts generalizing k with
  | nil => rfl
  | cons x ts ih =>
    have hwidth : t.width x = s.width x := by simp only [State.width, State.physCols, h]
    simp only [State.placeIn, hwidth, ih]

theorem State.rangeReg_congr (h : ∀ n, t.bypass n = s.bypass n) (k : Nat) : t.rangeReg r k = s.rangeReg r k := by
  simp only [State.rangeReg, State.rangePlace, State.placeIn_congr h, State.regAt, State.physCols, h]

theorem State.rangeReg_setReg (rk : Nat) (v : LongReg) (k : Nat) : (s.setReg rk v).rangeReg r k = s.rangeReg r k :=
  State.rangeReg_congr (s := s) (t := s.setReg rk v) (fun _ => rfl) k

variable (s) (r) (led : List (Nat × Nat)) (ed : LongReg → Nat × Nat → LongReg)

/-- Ledger entries change nothing but registers. -/
theorem State.editLedger_frame : { s.editLedger r led ed with regs := s.regs } = s := by
  unfold State.editLedger
  refine List.foldlRecOn led _ (motive := fun t : State => { t with regs := s.regs } = s) rfl (fun t ht e _ => ?_)
  split
  · exact ht
  · exact ht

/-- A register is changed by the entries of its elements, in their order. -/
theorem State.reg_editLedger (rk : Nat) :
    (s.editLedger r led ed).reg rk = (led.filter (fun e => s.rangeReg r e.1 == some rk)).foldl ed (s.reg rk) := by
  induction led generalizing s with
  | nil => rfl
  | cons e led ih =>
    rw [State.editLedger, List.foldl_cons, ← State.editLedger, ih, List.filter_cons]
    cases h : s.rangeReg r e.1 with
    | none => simp
    | some k =>
      simp only [State.rangeReg_setReg, State.reg_setReg, Option.some_beq_some, beq_iff_eq, eq_comm (a := rk)]
      split
      · next hk => rw [hk, List.foldl_cons]
      · rfl

end

/-! ### Flags by the bits of entries -/

theorem bitOf_eq_testBit (v i : Nat) : bitOf v i = v.testBit i := by
  rw [Nat.testBit_eq_decide_div_mod_eq, bitOf, Bool.beq_eq_decide_eq]

theorem Safety.flagOf_flagged (v : LongReg) (c : Nat) {b : Nat} (hb : b < 4) :
    Safety.flagOf (v.flagged c) b = (Safety.flagOf v b || bitOf c b) := by
  interval_cases b <;> rfl

theorem Safety.flagOf_reflag (v : LongReg) (c : Nat) {b : Nat} (hb : b < 4) : Safety.flagOf (v.reflag c) b = bitOf c b := by
  interval_cases b <;> rfl

/-- A ledger entry sets its bits in the flags of its register. -/
def setsFlags (v : LongReg) (e : Nat × Nat) : LongReg := v.flagged e.2

/-- Entries that enter the flags of a register: each flag is also set where an entry has its bit. -/
theorem flagOf_foldl_setsFlags (led : List (Nat × Nat)) (v : LongReg) {b : Nat} (hb : b < 4) :
    Safety.flagOf (led.foldl setsFlags v) b = (Safety.flagOf v b || led.any (fun e => bitOf e.2 b)) := by
  induction led generalizing v with
  | nil => simp
  | cons e led ih => rw [List.foldl_cons, ih, setsFlags, Safety.flagOf_flagged v e.2 hb, List.any_cons, Bool.or_assoc]

theorem n_foldl_setsFlags (led : List (Nat × Nat)) (v : LongReg) : (led.foldl setsFlags v).n = v.n :=
  List.foldlRecOn led _ (motive := fun w : LongReg => w.n = v.n) rfl (fun _ hw _ _ => hw)

/-- Flags that are set to a function of each entry leave the number. -/
theorem n_foldl_reflag (c : Nat × Nat → Nat) (led : List (Nat × Nat)) (v : LongReg) : (led.foldl (fun v e => v.reflag (c e)) v).n = v.n :=
  List.foldlRecOn led _ (motive := fun w : LongReg => w.n = v.n) rfl (fun _ hw _ _ => hw)

/-- Flags that every entry sets alike. -/
theorem flagOf_foldl_reflag {c : Nat × Nat → Nat} {d : Nat} {led : List (Nat × Nat)} (hne : led ≠ []) (hc : ∀ e ∈ led, c e = d)
    (v : LongReg) {b : Nat} (hb : b < 4) : Safety.flagOf (led.foldl (fun v e => v.reflag (c e)) v) b = bitOf d b := by
  rw [← List.dropLast_append_getLast hne, List.foldl_append, List.foldl_cons, List.foldl_nil, Safety.flagOf_reflag _ _ hb,
    hc _ (List.getLast_mem hne)]

/-- The bits of the OR of entries. -/
theorem bitOf_foldl_or (led : List (Nat × Nat)) (v b : Nat) :
    bitOf (led.foldl (fun a x => a ||| x.2) v) b = (bitOf v b || led.any (fun x => bitOf x.2 b)) := by
  induction led generalizing v with
  | nil => simp
  | cons e led ih => rw [List.foldl_cons, ih, bitOf_eq_testBit, Nat.testBit_or, List.any_cons, Bool.or_assoc, bitOf_eq_testBit, bitOf_eq_testBit]

end Sys2Proof.Machine
end

section
/-! END: how a contribution, a withdrawal and a retraction close at the owner (R311, R312, R316 to R318). -/

namespace Sys2Proof.Machine

/-! ### Flags that remain (R312) -/

/-- The ledger bits of an element in the FINAL slots of a range but one. -/
def Range.restBits (r : Range) (i : Nat) (e : Nat × Nat) : Nat :=
  (((r.slots.zipIdx.filter (fun x => x.2 != i && x.1.st == .final)).flatMap (fun x => x.1.ledger)).filter (fun x => x.1 == e.1)).foldl
    (fun a x => a ||| x.2) 0

/-- What does not read the registers is as before the edits of ledger entries. -/
theorem State.editLedger_same {α : Type} (s : State) (r : Range) (led : List (Nat × Nat)) (ed : LongReg → Nat × Nat → LongReg)
    (F : State → α) (hF : ∀ v rs, F { v with regs := rs } = F v := by intros; rfl) : F (s.editLedger r led ed) = F s :=
  (hF _ s.regs).symm.trans (congrArg F (s.editLedger_frame r led ed))

theorem State.SameAnswers.editLedger {g : Nat} {f : Frame} (s : State) (r : Range) (led : List (Nat × Nat))
    (ed : LongReg → Nat × Nat → LongReg) : s.SameAnswers g f (s.editLedger r led ed) :=
  ⟨s.editLedger_same r led ed (fun v => v.route g f.src), s.editLedger_same r led ed (fun v => v.posOf g),
    s.editLedger_same r led ed (fun v => v.ownerEpoch (v.frameRange f) f)⟩

/-- The bits that are left of an element. -/
theorem bitOf_restBits {r : Range} {i : Nat} {e : Nat × Nat} {b : Nat} : bitOf (r.restBits i e) b = true ↔
    ∃ y ∈ r.slots.zipIdx, y.2 ≠ i ∧ y.1.st = .final ∧ ∃ z ∈ y.1.ledger, z.1 = e.1 ∧ bitOf z.2 b = true := by
  have hzero : bitOf 0 b = false := by rw [bitOf_eq_testBit, Nat.zero_testBit]
  rw [Range.restBits, bitOf_foldl_or, hzero, Bool.false_or, List.any_eq_true]
  simp only [List.mem_filter, List.mem_flatMap, Bool.and_eq_true, bne_iff_ne, beq_iff_eq, ne_eq]
  constructor
  · rintro ⟨z, ⟨⟨y, ⟨hy, hi, hst⟩, hz⟩, hze⟩, hb⟩
    exact ⟨y, hy, hi, hst, z, hz, hze, hb⟩
  · rintro ⟨y, hy, hi, hst, z, hz, hze, hb⟩
    exact ⟨z, ⟨⟨y, ⟨hy, hi, hst⟩, hz⟩, hze⟩, hb⟩

/-! ### The slot and the collectors as an END leaves them -/

/-- A slot whose contribution has been refused, so that its withdrawal is awaited (R316). -/
def awaiting (f : Frame) (code : Nat) (x : Slot) : Slot :=
  { x with st := .receiving, src := f.src, cid := f.cid, await := some code, crc := 0, drop := false }

/-- A slot that has become FINAL. -/
def finished (x : Slot) : Slot := { x with st := .final, csum := x.cs, prov := none, crc := 0 }

/-- A slot that is HELD for the region of an END frame (R317). -/
def heldFor (f : Frame) (x : Slot) : Slot :=
  { x with st := .held, prov := some (f.tenant, f.region, f.epoch), src := f.src, cid := f.cid, crc := 0 }

/-- A slot whose elements have been taken back (R316). -/
def takenBack (excised : Bool) (x : Slot) : Slot :=
  { Slot.zero with st := if excised then .excised else .empty, used := true, again := x.again, src := x.src }

/-- A slot whose contribution has been retracted (R318). -/
def retracted (x : Slot) : Slot := { Slot.zero with used := true, again := x.again }

/-- A slot that notes the sender of an END frame. -/
def sentBy (f : Frame) (x : Slot) : Slot := { x with src := f.src, cid := f.cid }

/-- The sender of an END frame is a collector when the frame says so (R313). -/
def State.noteCollector (s : State) (r : Range) (f : Frame) : State :=
  if bitOf f.ctl 31 then s.mapRange r (fun x => { x with colls := insN x.colls f.src }) else s

theorem State.noteCollector_slot (s : State) (r : Range) (f : Frame) (i : Nat) :
    Safety.slotNow (s.noteCollector r f) f i = Safety.slotNow s f i := by
  unfold State.noteCollector
  split
  · exact Safety.slotNow_mapRange (fun _ => ⟨rfl, rfl, rfl, rfl⟩) fun _ => rfl
  · rfl

/-- What does not read the ranges is as before a collector is noted. -/
theorem State.noteCollector_same {α : Type} (s : State) (r : Range) (f : Frame) (F : State → α)
    (hF : ∀ v rs, F { v with ranges := rs } = F v := by intros; rfl) : F (s.noteCollector r f) = F s := by
  unfold State.noteCollector
  split
  · exact hF _ _
  · rfl

theorem State.SameAnswers.noteCollector {g : Nat} {f : Frame} (s : State) (r : Range) (f' : Frame) :
    s.SameAnswers g f (s.noteCollector r f') := by
  unfold State.noteCollector
  split
  · exact .mapRange s r fun _ => ⟨rfl, rfl, rfl, rfl⟩
  · exact .refl s

theorem State.reopen_ranges (s : State) (r : Range) : (s.reopen r).ranges = s.ranges := by
  unfold State.reopen
  split <;> rfl

theorem State.reopen_regs (s : State) (r : Range) : (s.reopen r).regs = s.regs := by
  unfold State.reopen
  split <;> rfl

/-- The op of a range that is incomplete again keeps its number and its descriptor (R319). -/
theorem State.SameAnswers.reopen {g : Nat} {f : Frame} (s : State) (r : Range) : s.SameAnswers g f (s.reopen r) := by
  unfold State.reopen
  split
  · exact .refl s
  · exact (State.SameAnswers.mapOp s _ (h := fun o => { o with fin := false, got := 0 }) (fun _ => rfl) fun _ => rfl).trans ⟨rfl, rfl, rfl⟩

section
variable {s u : State} {r : Range} {f : Frame} {i : Nat} {sl y : Slot}
  (hs : s.SameAnswers r.g f u) (hroute : s.route r.g f.src ≠ 0xFF) (hr : r.isFor f) (hget : r.slots.getD i .zero = sl)
  (hy : Safety.slotNow u f i = some y)

/-! ### A slot that becomes FINAL (R312, R321) -/

include hr hy in
/-- A slot becomes FINAL with its running checksum, its ledger in the flags of its registers. -/
theorem State.finalSlot_spec (hg : r.g < 16) : u.SameAnswers r.g f (u.finalSlot r i) ∧
    (u.finalSlot r i).regs = (u.editLedger r y.ledger setsFlags).regs ∧
    ∃ x, Safety.slotNow (u.finalSlot r i) f i = some x ∧ x.st = .final ∧ x.csum = y.cs := by
  unfold State.finalSlot
  rw [State.rangeNow_slot hr hy]
  extract_lets now flags done
  have hdone : done = ((u.editLedger r y.ledger setsFlags).mapSlot r i finished).bump (key 0x6110 0) 1 := rfl
  have hsame : u.SameAnswers r.g f done :=
    hdone ▸ ((State.SameAnswers.editLedger _ _ _ _).trans (.mapSlot _ _ _ _)).trans (.bump hg _ (by decide) _)
  have hregs : done.regs = (u.editLedger r y.ledger setsFlags).regs := State.bump_regs _ _ _
  have hslot : Safety.slotNow done f i = some (finished y) :=
    (Safety.slotNow_congr (State.bump_ranges _ _ _)).trans
      (Safety.slotNow_mapSlot hr ((Safety.slotNow_congr (u.editLedger_same r y.ledger setsFlags State.ranges)).trans hy) finished)
  split
  · exact ⟨hsame, hregs, _, hslot, rfl, rfl⟩
  · split
    · exact ⟨hsame, hregs, _, hslot, rfl, rfl⟩
    · exact ⟨(hsame.trans (.mapSlot _ _ _ _)).trans (.cascadeEvent hg _ _ _ _ _ _ _), (State.event_regs _ _).trans hregs, _,
        (State.SameClose.cascadeEvent _ _ _ _ _ _ _).slots i |>.trans (Safety.slotNow_mapSlot hr hslot _), rfl, rfl⟩

/-! ### The END of a contribution (R311, R317) -/

include hget in
/-- A contribution whose checksum is the owner's closes its slot, unless an excising range keeps it out for a NaN. -/
theorem State.endContrib_match (hcs : sl.cs = f.cs) (hkept : r.excise = false ∨ sl.ledger.any (fun e => bitOf e.2 0) = false) :
    u.endContrib r i f = if f.prov then
      ((u.noteCollector r f).mapSlot r i (heldFor f)).ack r.g f 1 sl.nf
    else ((((u.noteCollector r f).mapSlot r i (sentBy f)).finalSlot r i).ack r.g f 0 sl.nf).checkComplete r := by
  have hgo : (r.excise && sl.ledger.any (fun e => bitOf e.2 0)) ≠ true := by
    rcases hkept with h | h <;> simp [h]
  unfold State.endContrib
  rw [hget]
  extract_lets now noted
  rw [if_neg (not_not_intro hcs), if_neg hgo]
  rfl

include hs hroute hr hget hy

/-- A checksum that differs: the withdrawal of the contribution is awaited. -/
theorem State.endContrib_mismatch (hcs : sl.cs ≠ f.cs) :
    ∃ x, s.Closes r.g f i x 4 y.nf u.regs (u.endContrib r i f) ∧ x.await = some 4 ∧ x.again = true := by
  have hsame : s.SameAnswers r.g f (u.mapSlot r i (awaiting f 4)) := hs.trans (.mapSlot _ _ _ _)
  have hslot := Safety.slotNow_mapSlot hr hy (awaiting f 4)
  have hreject : s.Closes r.g f i (awaiting f 4 y) 4 y.nf u.regs (u.reject r i f 4) := by
    have heq : u.reject r i f 4 = if y.again = false then (u.mapSlot r i (awaiting f 4)).ack r.g f 4 y.nf
        else (u.mapSlot r i (awaiting f 4)).ackFail r.g f 4 y.nf := by
      unfold State.reject
      rw [State.rangeNow_slot hr hy]
      exact if_congr (by simp) rfl rfl
    rw [heq]
    split
    · exact .ack hsame hroute hslot _ _
    · exact .ackFail hsame hroute hslot _ _
  unfold State.endContrib
  rw [hget]
  exact ⟨_, by rw [if_pos hcs]; exact (hreject.mapSlot hr _).cascadeEvent _ _ _ _ _ _, rfl, rfl⟩

/-- A provisional contribution is HELD (R317). -/
theorem State.endContrib_held (hcs : sl.cs = f.cs) (hkept : r.excise = false ∨ sl.ledger.any (fun e => bitOf e.2 0) = false)
    (hprov : f.prov = true) : ∃ x, s.Closes r.g f i x 1 sl.nf u.regs (u.endContrib r i f) ∧ x.st = .held := by
  have hslot := Safety.slotNow_mapSlot hr ((State.noteCollector_slot u r f i).trans hy) (heldFor f)
  have hsame := (hs.trans (.noteCollector u r f)).trans (.mapSlot _ r i (heldFor f))
  rw [State.endContrib_match hget hcs hkept, if_pos hprov]
  have hregs : ((u.noteCollector r f).mapSlot r i (heldFor f)).regs = u.regs := u.noteCollector_same r f State.regs
  exact ⟨_, hregs ▸ State.Closes.ack hsame hroute hslot _ _, rfl⟩

/-- Any other contribution is FINAL, its ledger entries in the flags of their registers (R311, R312). -/
theorem State.endContrib_final (hg : r.g < 16) (hcs : sl.cs = f.cs)
    (hkept : r.excise = false ∨ sl.ledger.any (fun e => bitOf e.2 0) = false) (hprov : f.prov = false) :
    ∃ x rs, s.Closes r.g f i x 0 sl.nf rs (u.endContrib r i f) ∧ x.st = .final ∧ x.csum = y.cs ∧
      ∀ rk, sget .zero rs rk = (y.ledger.filter (fun e => u.rangeReg r e.1 == some rk)).foldl setsFlags (u.reg rk) := by
  have hslot := Safety.slotNow_mapSlot hr ((State.noteCollector_slot u r f i).trans hy) (sentBy f)
  obtain ⟨hfinal, hregs, x, hx, hst, hcsum⟩ := State.finalSlot_spec hr hslot hg
  have hsame := ((hs.trans (.noteCollector u r f)).trans (.mapSlot _ r i (sentBy f))).trans hfinal
  rw [State.endContrib_match hget hcs hkept, if_neg (by simp [hprov])]
  refine ⟨x, _, (State.Closes.ack hsame hroute hx _ _).sameClose (.checkComplete _ _), hst, hcsum, fun rk => ?_⟩
  rw [hregs]
  refine (State.reg_editLedger _ _ _ _ _).trans ?_
  have hreg (k : Nat) : ((u.noteCollector r f).mapSlot r i (sentBy f)).rangeReg r k = u.rangeReg r k :=
    State.rangeReg_congr (s := u) (t := (u.noteCollector r f).mapSlot r i (sentBy f)) (fun _ => u.noteCollector_same r f (fun v => v.bypass _)) k
  simp only [hreg]
  exact congrArg (List.foldl setsFlags · _) (u.noteCollector_same r f (fun v => v.reg rk))

/-! ### The END of a withdrawal and of a retraction (R312, R316, R318) -/

/-- A withdrawal that took back what the slot held empties it, or leaves it EXCISED (R316). -/
theorem State.endWithdraw_match (hg : r.g < 16) (hnf : (sl.wd.getD (0, 0)).1 = sl.nf) (hcs : (sl.wd.getD (0, 0)).2 = f.cs)
    (hsum : ((sl.wd.getD (0, 0)).2 + sl.cs) % csMod = 0) :
    ∃ x, s.Closes r.g f i x 0xB (sl.wd.getD (0, 0)).1 u.regs (u.endWithdraw r i f) ∧
      x.st = (if sl.await = some 2 then .excised else .empty) ∧ x.used = true := by
  have hsame : s.SameAnswers r.g f ((u.mapSlot r i (takenBack (sl.await == some 2))).bump (key 0x6110 1) 1) :=
    (hs.trans (.mapSlot u r i _)).trans (.bump hg _ (by decide) _)
  have hslot : Safety.slotNow ((u.mapSlot r i (takenBack (sl.await == some 2))).bump (key 0x6110 1) 1) f i =
      some (takenBack (sl.await == some 2) y) :=
    (Safety.slotNow_congr (State.bump_ranges _ _ _)).trans (Safety.slotNow_mapSlot hr hy _)
  have hregs : ((u.mapSlot r i (takenBack (sl.await == some 2))).bump (key 0x6110 1) 1).regs = u.regs := State.bump_regs _ _ _
  have hanswered := hregs ▸ State.Closes.ack hsame hroute hslot 0xB (sl.wd.getD (0, 0)).1
  refine ⟨takenBack (sl.await == some 2) y, ?_, by simp [takenBack], rfl⟩
  unfold State.endWithdraw
  rw [hget]
  extract_lets now w ex zero emptied answered
  rw [if_pos ⟨hnf, hcs, hsum⟩]
  have h : s.Closes r.g f i (takenBack (sl.await == some 2) y) 0xB (sl.wd.getD (0, 0)).1 u.regs answered := hanswered
  split
  · exact ((h.sameClose (.of_counts (.bump _ (k := key 0x6110 2) (by decide) 1))).cascadeEvent _ _ _ _ _ _).sameClose (.checkComplete _ _)
  · exact h

/-- A retraction that took back what the slot had recorded empties it, and leaves in each register of its ledger the flags of the entries
that remain (R312, R318). -/
theorem State.endRetract_match (hcs : (sl.wd.getD (0, 0)).2 = f.cs) (hsum : ((sl.wd.getD (0, 0)).2 + sl.csum) % csMod = 0) :
    ∃ x rs, s.Closes r.g f i x 0xC (sl.wd.getD (0, 0)).1 rs (u.endRetract r i f) ∧ x.st = .empty ∧ x.used = true ∧
      ∀ rk, sget .zero rs rk =
        (sl.ledger.filter (fun e => u.rangeReg r e.1 == some rk)).foldl (fun v e => v.reflag (r.restBits i e)) (u.reg rk) := by
  have hsame : s.SameAnswers r.g f (((u.editLedger r sl.ledger (fun v e => v.reflag (r.restBits i e))).mapSlot r i retracted).reopen r) :=
    ((hs.trans (.editLedger u r _ _)).trans (.mapSlot _ r i retracted)).trans (.reopen _ _)
  have hslot : Safety.slotNow (((u.editLedger r sl.ledger (fun v e => v.reflag (r.restBits i e))).mapSlot r i retracted).reopen r) f i =
      some (retracted y) :=
    (Safety.slotNow_congr (State.reopen_ranges _ _)).trans
      (Safety.slotNow_mapSlot hr ((Safety.slotNow_congr (u.editLedger_same r _ _ State.ranges)).trans hy) retracted)
  refine ⟨retracted y, (u.editLedger r sl.ledger (fun v e => v.reflag (r.restBits i e))).regs, ?_, rfl, rfl, fun rk => ?_⟩
  · unfold State.endRetract
    rw [hget]
    extract_lets
    rw [if_pos ⟨hcs, hsum⟩]
    have hanswered := State.Closes.ack hsame hroute hslot 0xC (sl.wd.getD (0, 0)).1
    rw [State.reopen_regs] at hanswered
    exact hanswered.cascadeEvent _ _ _ _ _ _
  · exact State.reg_editLedger _ _ _ _ _

end

section
variable {s u : State} {q g i : Nat} {f : Frame} {r : Range} {sl : Slot}

/-! ### The slot that an END frame meets -/

/-- A slot that hears its stream again. -/
def hearing (x : Slot) : Slot := { x with drop := false }

/-- The END of a contribution in its place. -/
theorem State.slotEnd_contrib (hget : r.slots.getD i .zero = sl) (hstream : streamOf sl f = .contrib)
    (hseq : f.fseq = sl.expects (streamOf sl f)) (hawait : sl.await = none)
    (hopen : (sl.st = .receiving ∧ sl.src = f.src ∧ sl.cid = f.cid) ∨ (sl.st = .empty ∧ r.elems = 0)) :
    u.slotEnd r i f = (u.mapSlot r i hearing).endContrib r i f := by
  have hnf : f.fseq = sl.nf := by rw [hseq, hstream, Slot.expects]
  unfold State.slotEnd
  rw [hget]
  extract_lets now stream
  rw [if_neg (fun h => h.2 hseq), show stream = .contrib from hstream]
  simp only [now, hawait, Option.isSome_none, Bool.false_eq_true, if_false]
  rw [if_pos hopen, if_pos hnf]
  rfl

/-- The END of a withdrawal in its place. -/
theorem State.slotEnd_withdraw (hget : r.slots.getD i .zero = sl) (hstream : streamOf sl f = .withdraw)
    (hseq : f.fseq = sl.expects (streamOf sl f)) : u.slotEnd r i f = u.endWithdraw r i f := by
  unfold State.slotEnd
  rw [hget]
  extract_lets now stream
  rw [if_neg (fun h => h.2 hseq), show stream = .withdraw from hstream]
  exact if_pos (hstream ▸ hseq)

/-- The END of a retraction in its place. -/
theorem State.slotEnd_retract (hget : r.slots.getD i .zero = sl) (hstream : streamOf sl f = .retract)
    (hseq : f.fseq = sl.expects (streamOf sl f)) : u.slotEnd r i f = u.endRetract r i f := by
  unfold State.slotEnd
  rw [hget]
  extract_lets now stream
  rw [if_neg (fun h => h.2 hseq), show stream = .retract from hstream]
  exact if_pos (hstream ▸ hseq)

/-- The state in which an END frame of a range meets its slot: its credit has returned, and the range has noted it. -/
def State.endMet (s : State) (q : Nat) (f : Frame) (r : Range) : State := (s.returnCredit q f).touchRange r

theorem State.straggler_returnCredit (s : State) (q : Nat) (f : Frame) : (s.returnCredit q f).straggler f = s.straggler f := by
  unfold State.straggler State.epochLive State.frameRange State.range? State.rangeOp State.op?
  simp only [State.obj_returnCredit, State.returnCredit_ops, State.returnCredit_ranges]

/-- An END frame that arrives for a slot of a range and is in its place there. -/
theorem exec_end_met (harrives : Safety.arrives s q f 2 g) (hat : Safety.slotAt s f r i sl) (hbehind : s.behind q f = false) :
    exec (.end_ q f) s = .next ((s.endMet q f r).slotEnd r i f) := by
  obtain ⟨hlive, hrange, hidx, -⟩ := hat
  have hrange' : (s.returnCredit q f).frameRange f = some r := by
    unfold State.frameRange State.range?
    rw [State.returnCredit_ranges]
    exact hrange
  rw [exec_end_taken harrives hbehind, State.endIn, State.straggler_returnCredit, hlive, if_neg Bool.false_ne_true, hrange']
  simp only [hidx]
  rfl

theorem State.SameAnswers.endMet (hg : g < 16) : s.SameAnswers g f (s.endMet q f r) :=
  (State.SameAnswers.returnCredit hg s q f).trans (.mapRange _ r fun _ => ⟨rfl, rfl, rfl, rfl⟩)

theorem Safety.slotAt.slotNow_endMet (hat : Safety.slotAt s f r i sl) : Safety.slotNow (s.endMet q f r) f i = some sl := by
  obtain ⟨-, hrange, -, hslot⟩ := hat
  have hnow : Safety.slotNow s f i = some sl := Safety.slotNow_eq_some.mpr ⟨r, hrange, hslot⟩
  have htouched : Safety.slotNow (s.endMet q f r) f i = Safety.slotNow (s.returnCredit q f) f i :=
    Safety.slotNow_mapRange (h := fun x => { x with last := (s.returnCredit q f).now }) (fun _ => ⟨rfl, rfl, rfl, rfl⟩) fun _ => rfl
  exact htouched.trans ((Safety.slotNow_congr (State.returnCredit_ranges s q f)).trans hnow)

theorem State.endMet_regs : (s.endMet q f r).regs = s.regs := State.returnCredit_regs s q f

theorem State.rangeReg_endMet (r' : Range) (k : Nat) : (s.endMet q f r).rangeReg r' k = s.rangeReg r' k :=
  State.rangeReg_congr (s := s) (t := s.endMet q f r) (fun _ => State.obj_returnCredit s q f _) k

theorem Safety.slotAt.getD (hat : Safety.slotAt s f r i sl) : r.slots.getD i .zero = sl := by
  obtain ⟨-, -, -, hslot⟩ := hat
  rw [List.getD_eq_getElem?_getD, hslot, Option.getD_some]

theorem Safety.slotAt.isFor (hat : Safety.slotAt s f r i sl) : r.isFor f := by
  obtain ⟨-, hrange, -⟩ := hat
  exact State.isFor_of_frameRange hrange

end

/-! ### The obligation -/

/-- Settles O51: the slot's stream says which END it is, each of which closes its slot with its ACK (`State.Closes`); the registers that
it changes are those of the slot's ledger, entry by entry (`State.reg_editLedger`). -/
theorem endFrameClosesItsStream : Obligations.End_frame_closes_its_stream := by
  intro q f g i r sl s harrives hat hbehind hrg hroute hseq w ack
  subst hrg
  have hg : r.g < 16 := by
    obtain ⟨-, -, -, -, -, hslot⟩ := harrives
    exact State.slotOf_lt hslot
  have hexec := exec_end_met harrives hat hbehind
  have hget := Safety.slotAt.getD hat
  have hr := Safety.slotAt.isFor hat
  have hmet : Safety.slotNow (s.endMet q f r) f i = some sl := Safety.slotAt.slotNow_endMet hat
  have hsame : s.SameAnswers r.g f (s.endMet q f r) := .endMet hg
  have hregs : (s.endMet q f r).regs = s.regs := State.endMet_regs
  refine ⟨fun hstream hawait hopen => ?_, fun hstream hnf hcs hsum => ?_, fun hstream hcs hsum hinj => ?_⟩
  · have hend := State.slotEnd_contrib (u := s.endMet q f r) hget hstream hseq hawait hopen
    have hhears := Safety.slotNow_mapSlot hr hmet hearing
    have hsame' := hsame.trans (.mapSlot _ r i hearing)
    rw [hend] at hexec
    refine ⟨fun hcs hkept hprov => ?_, fun hcs hkept hprov => ?_, fun hcs => ?_⟩
    · obtain ⟨x, h, hst⟩ := State.endContrib_held hsame' hroute hr hget hhears hcs hkept hprov
      exact ⟨_, x, hexec, h.slot, hst, h.posted, h.regs.trans hregs⟩
    · obtain ⟨x, rs, h, hst, hcsum, hrs⟩ := State.endContrib_final hsame' hroute hr hget hhears hg hcs hkept hprov
      refine ⟨_, x, hexec, h.slot, hst, hcsum, h.posted, fun rk => ?_⟩
      have hread := (h.reg rk).trans ((hrs rk).trans (congrArg (List.foldl setsFlags · _) (congrArg (sget LongReg.zero · rk) hregs)))
      simp only [State.rangeReg_congr (s := s) (t := (s.endMet q f r).mapSlot r i hearing) (fun _ => State.obj_returnCredit s q f _)] at hread
      rw [hread]
      exact ⟨n_foldl_setsFlags _ _, fun b hb => by rw [flagOf_foldl_setsFlags _ _ hb, List.any_filter]; rfl⟩
    · obtain ⟨x, h, hawaits, hagain⟩ := State.endContrib_mismatch hsame' hroute hr hget hhears hcs
      exact ⟨_, x, hexec, h.slot, hawaits, hagain, h.posted, h.regs.trans hregs⟩
  · obtain ⟨x, h, hst, hused⟩ := State.endWithdraw_match hsame hroute hr hget hmet hg hnf hcs hsum
    rw [State.slotEnd_withdraw hget hstream hseq] at hexec
    exact ⟨_, x, hexec, h.slot, hst, hused, h.posted, h.regs.trans hregs⟩
  · obtain ⟨x, rs, h, hst, hused, hrs⟩ := State.endRetract_match hsame hroute hr hget hmet hcs hsum
    rw [State.slotEnd_retract hget hstream hseq] at hexec
    have hread (rk : Nat) := (h.reg rk).trans (hrs rk)
    simp only [State.rangeReg_endMet] at hread
    refine ⟨_, x, hexec, h.slot, hst, hused, h.posted, fun rk => ?_, fun e rk b he hrk hb => ?_⟩
    · rw [hread, n_foldl_reflag]
      exact congrArg (fun m => (sget LongReg.zero m rk).n) hregs
    · have hentry : e ∈ sl.ledger.filter (fun x => s.rangeReg r x.1 == some rk) := List.mem_filter.mpr ⟨he, beq_iff_eq.mpr hrk⟩
      have halike : ∀ x ∈ sl.ledger.filter (fun x => s.rangeReg r x.1 == some rk), r.restBits i x = r.restBits i e := fun x hx => by
        have hfst : x.1 = e.1 := hinj _ _ rk (beq_iff_eq.mp (List.mem_filter.mp hx).2) hrk
        rw [Range.restBits, hfst, Range.restBits]
      rw [hread, flagOf_foldl_reflag (List.ne_nil_of_mem hentry) halike _ hb, bitOf_restBits]

end Sys2Proof.Machine
end

section
/-! The table of islands that have settled in a grant is placed in rising order by each of their reports (R338, R339, R342). The statement on
reports, like `Safety.good`, leaves out that it rises. -/

namespace Sys2Proof.Machine

/-- A D4 in envelope A, the power port up, no grant, and a table of settled islands that names island 1 before island 0. -/
def settledOutOfOrder : State := { State.reset with
  ports := [(25, upPort)]
  pwr := { State.reset.pwr with met := [1, 0] } }

/-- A report of island 0, settled in the band of envelope A, places the island anew. -/
theorem settledOutOfOrder_met : (settledOutOfOrder.takeVt 0 620 50 1 0).bootOn.pwr.met = [0, 1, 0] := by decide +kernel

theorem exec_vt_settledOutOfOrder : exec (.vt 0 620 50 1 0) settledOutOfOrder = .next (settledOutOfOrder.takeVt 0 620 50 1 0).bootOn := rfl

/-- Refutes O34: where the table of settled islands names island 1 before island 0, with no change under way, a report of island 0 changes
that table, which the statement has unchanged. -/
theorem not_islandReportsAreKeptAndSettleAChange : ¬Obligations.Island_reports_are_kept_and_settle_a_change := by
  intro h
  obtain ⟨hkept, -⟩ := h
  obtain ⟨t, hexec, -, hpwr, -⟩ := hkept 0 620 50 1 0 settledOutOfOrder (by decide +kernel) (by decide) (by decide) (by decide) rfl (by decide)
    rfl rfl (by simp [settledOutOfOrder, State.reset])
  have hmet : t.pwr.met = [1, 0] := (congrArg Power.met hpwr :)
  obtain rfl : (settledOutOfOrder.takeVt 0 620 50 1 0).bootOn = t := Host.Outcome.next.inj (exec_vt_settledOutOfOrder.symm.trans hexec)
  exact absurd (settledOutOfOrder_met.symm.trans hmet) (by decide)

end Sys2Proof.Machine
end

section
/-! STEPDN, DENY and STEP_UP_TIMEOUT: a step-down that becomes pending or is forced, and what is given up (R341 to R345). -/

namespace Sys2Proof.Machine

/-! ### Messages from the stage that are well formed (R337, Table 13-3) -/

theorem fld_ofNat (n hi lo : Nat) : fld (BitVec.ofNat 64 n) hi lo = n % 2 ^ 64 / 2 ^ lo % 2 ^ (hi - lo + 1) := by
  rw [fld, fieldOf, BitVec.toNat_ofNat]

theorem badWord_stepdn (conf : Conf) {env : BitVec 2} (henv : env.toNat ≠ 3) (force : Bool) :
    badWord conf (BitVec.ofNat 64 (at_ 1 60 + at_ 4 56 + at_ env.toNat 54 + at_ 0 42 + at_ (bit force) 41)) = false := by
  have hlt := env.isLt
  have hbit : bit force ≤ 1 := by cases force <;> decide
  have hread := fld_ofNat (at_ 1 60 + at_ 4 56 + at_ env.toNat 54 + at_ 0 42 + at_ (bit force) 41)
  generalize (BitVec.ofNat 64 _ : W64) = w at hread ⊢
  unfold at_ at hread
  have hver : fld w 63 60 = 1 := by rw [hread]; omega
  have htype : fld w 59 56 = 4 := by rw [hread]; omega
  have hreserved : fld w 40 0 = 0 := by rw [hread]; omega
  have hcode : fld w 55 54 ≠ 3 := by rw [hread]; omega
  simp [badWord, hver, htype, hreserved, hcode]

theorem badWord_denyOffset (conf : Conf) (core : BitVec 6) :
    badWord conf (BitVec.ofNat 64 (at_ 1 60 + at_ 7 56 + at_ 6 52 + at_ core.toNat 46)) = false := by
  have hlt := core.isLt
  have hread := fld_ofNat (at_ 1 60 + at_ 7 56 + at_ 6 52 + at_ core.toNat 46)
  generalize (BitVec.ofNat 64 _ : W64) = w at hread ⊢
  unfold at_ at hread
  have hver : fld w 63 60 = 1 := by rw [hread]; omega
  have htype : fld w 59 56 = 7 := by rw [hread]; omega
  have hreserved : fld w 45 0 = 0 := by rw [hread]; omega
  have hrefused : fld w 55 52 = 6 := by rw [hread]; omega
  simp [badWord, hver, htype, hreserved, hrefused]

theorem badWord_denyStepUp (conf : Conf) : badWord conf (BitVec.ofNat 64 (at_ 1 60 + at_ 7 56 + at_ 3 52 + at_ 0 46)) = false := rfl

/-! ### Margin steps and the envelope in force (R276, R345) -/

/-- From the one state to the other at most the offsets asked for, containment's own record, the objects with their notices, and the error
records change. -/
def State.Readmits (s t : State) : Prop :=
  { t with con := s.con, dict := s.dict, mg := s.mg, errs := s.errs, pwr := { t.pwr with ofs := s.pwr.ofs } } = s

namespace State.Readmits

variable {s t u : State}

theorem refl (s : State) : s.Readmits s := rfl

theorem trans (h : s.Readmits t) (g : t.Readmits u) : s.Readmits u :=
  (congrArg (fun v : State => { v with con := s.con, dict := s.dict, mg := s.mg, errs := s.errs, pwr := { v.pwr with ofs := s.pwr.ofs } })
    g :).trans h

theorem of_sameMachine (h : s.SameMachine t) : s.Readmits t :=
  (congrArg (fun v : State => { v with pwr := { v.pwr with ofs := s.pwr.ofs } }) h.rest :)

theorem dropOffset (s : State) (c : Nat) : s.Readmits (s.dropOffset c) :=
  trans (t := s.mapPwr (fun p => { p with ofs := p.ofs.filter (fun x => x.1 != c) })) rfl (of_sameMachine (.setObj _ _ _))

end State.Readmits

theorem State.SameMachine.noRemedy (s : State) (c : Nat) : s.SameMachine (s.noRemedy c) := foldl (fun s u => pendQuarantine s u) _ s

/-- A margin step of a core is left (R276). -/
theorem State.nextMargin_of_lt {s : State} {c : Nat} (h : s.marginNow c < 15) :
    s.nextMargin c = (s.setObj (key (0x2100 + c) 3) (s.marginNow c + 1)).remedyEvent c 1 (s.marginNow c + 1) := if_pos h

/-- No margin step of a core is left (R275). -/
theorem State.nextMargin_of_le {s : State} {c : Nat} (h : 15 ≤ s.marginNow c) : s.nextMargin c = s.noRemedy c := if_neg (by omega)

theorem State.SameMachine.nextMargin (s : State) (c : Nat) : s.SameMachine (s.nextMargin c) := by
  by_cases h : s.marginNow c < 15
  · rw [State.nextMargin_of_lt h]
    exact (setObj _ _ _).trans (event _ _)
  · rw [State.nextMargin_of_le (by omega)]
    exact noRemedy s c

theorem State.obj_nextMargin {s : State} {c : Nat} (h : s.marginNow c < 15) :
    (s.nextMargin c).obj (key (0x2100 + c) 3) = s.marginNow c + 1 := by
  rw [State.nextMargin_of_lt h]
  exact (State.obj_event (by unfold key; omega) _).trans State.obj_setObj_self

theorem State.readmitOffsets_readmits (s : State) (env : Nat) : s.Readmits (s.readmitOffsets env) :=
  List.foldlRecOn _ _ (State.Readmits.refl s) fun t ht c _ => by
    dsimp only
    split
    · exact (ht.trans (.dropOffset t c)).trans (.of_sameMachine (.nextMargin _ c))
    · exact ht

theorem State.notify_frame (s : State) (k : Nat) : { s.notify k with mg := s.mg } = s := by
  unfold State.notify
  split <;> rfl

/-- The envelope in force, before the object that names it notifies. -/
def State.inEnv (s : State) (env : Nat) : State :=
  ((s.readmitOffsets env).mapPwr (fun p => { p with env := env, metEnv := env, lastChange := s.now, changed := true })).refreshCores

theorem State.setEnv_cases (s : State) (env : Nat) : s.setEnv env = s.inEnv env ∨ s.setEnv env = (s.inEnv env).notify (key 0x2000 1) := by
  unfold State.setEnv
  split
  · exact .inl rfl
  · exact .inr rfl

/-- An envelope comes into force: beside the power record, what the re-admission of the offsets may change (R345). -/
theorem State.inEnv_frame (s : State) (env : Nat) : ∃ os, { s.inEnv env with con := s.con, dict := s.dict, mg := s.mg, errs := s.errs } =
    { s with pwr := { s.pwr with env := env, metEnv := env, lastChange := s.now, changed := true, ofs := os } } :=
  ⟨(s.readmitOffsets env).pwr.ofs, (congrArg (fun v : State => { v with con := s.con, dict := s.dict, mg := s.mg, errs := s.errs })
      (State.SameMachine.refreshCores _).rest :).trans
    (congrArg (fun v : State => { v with pwr := { v.pwr with
        env := env, metEnv := env, lastChange := s.now, changed := true, ofs := (s.readmitOffsets env).pwr.ofs } })
      (s.readmitOffsets_readmits env) :)⟩

theorem State.setEnv_frame (s : State) (env : Nat) : ∃ os, { s.setEnv env with con := s.con, dict := s.dict, mg := s.mg, errs := s.errs } =
    { s with pwr := { s.pwr with env := env, metEnv := env, lastChange := s.now, changed := true, ofs := os } } := by
  obtain ⟨os, h⟩ := s.inEnv_frame env
  refine ⟨os, ?_⟩
  obtain hset | hset := s.setEnv_cases env <;> rw [hset]
  · exact h
  · exact (congrArg (fun v : State => { v with con := s.con, dict := s.dict, mg := s.mg, errs := s.errs })
      ((s.inEnv env).notify_frame _) :).trans h

theorem State.setEnv_pwr (s : State) (env : Nat) : ∃ os, (s.setEnv env).pwr =
    { s.pwr with env := env, metEnv := env, lastChange := s.now, changed := true, ofs := os } := by
  obtain ⟨os, h⟩ := s.setEnv_frame env
  exact ⟨os, (congrArg State.pwr h :)⟩

theorem State.setEnv_sameArray (s : State) (env : Nat) : Safety.sameArray (s.setEnv env) s := by
  obtain ⟨os, h⟩ := s.setEnv_frame env
  exact ⟨(congrArg State.regs h :), (congrArg State.tiles h :), (congrArg State.cells h :), (congrArg State.shadow h :),
    (congrArg State.chains h :), (congrArg State.spine h :), (congrArg State.buf h :)⟩

/-! ### STEPDN (R342, R343) -/

/-- The power record after a step-down of the stage's asking becomes pending (R342). -/
theorem State.pendDown_stage (s : State) (e : Nat) : ∃ m, (s.pendDown (some e) none true).pwr =
    { s.pwr with up := none, metEnv := m, pendEnv := some (min e (s.pwr.pendEnv.getD e)), byStage := true,
                 firstReq := some (s.pwr.firstReq.getD s.now) } := by
  obtain ⟨m, hm⟩ := s.abandonUp_pwr false true
  refine ⟨m, (State.setObj_pwr _ _ _).trans ?_⟩
  simp only [State.mapPwr, hm, Bool.or_true, if_true]

theorem State.takeStepdn_lower {s : State} {env : Nat} (hlow : env < s.envTarget) :
    s.takeStepdn env 0 false = s.pendDown (some env) none true := by
  simp [State.takeStepdn, hlow, State.capLowers]

theorem State.takeStepdn_forced {s : State} (hdue : s.forceDue = true) (env : Nat) :
    s.takeStepdn env 0 true = s.stageDefaults.forceDown env 0 := by
  simp [State.takeStepdn, hdue]

/-- A forced step-down is in force, and nothing is pending (R343). -/
theorem State.forceDown_spec (s : State) (env cap : Nat) :
    (s.forceDown env cap).pwr.env = min s.pwr.env (min (s.pwr.pendEnv.getD 3) env) ∧ (s.forceDown env cap).pwr.pendEnv = none ∧
    (s.forceDown env cap).pwr.pendCap = none ∧ (s.forceDown env cap).pwr.firstReq = none ∧ Safety.sameArray (s.forceDown env cap) s := by
  unfold State.forceDown
  extract_lets e c s1 s2
  have hpwr : s2.pwr = s1.pwr := by
    unfold s2
    split
    · exact State.setObj_pwr _ _ _
    · rfl
  have harray : Safety.sameArray s2 s := by
    unfold s2
    split
    · exact (State.SameMachine.setObj s1 _ _).sameArray
    · exact (State.SameMachine.refl s1).sameArray
  split
  · obtain ⟨os, hset⟩ := s2.setEnv_pwr e
    rw [hset, hpwr]
    exact ⟨rfl, rfl, rfl, rfl, Safety.sameArray_trans harray (s2.setEnv_sameArray e)⟩
  · next hsame =>
    rw [hpwr] at hsame ⊢
    exact ⟨(not_not.mp hsame).symm, rfl, rfl, rfl, harray⟩

theorem exec_stepdn_wellFormed {s : State} (hport : s.up 25 = true) {env : BitVec 2} (henv : env.toNat ≠ 3) (force : Bool) :
    exec (.stepdn env 0 force) s = .next (s.takeStepdn env.toNat 0 force) := by
  show execStepdn env 0 force s = _
  have hword := badWord_stepdn s.conf henv force
  simp [execStepdn, hport, hword]

/-! ### DENY and STEP_UP_TIMEOUT (R341, R345) -/

theorem exec_deny_stepUp {s : State} (hport : s.up 25 = true) : exec (.deny 3 0) s = .next (s.abandonUp true false) := by
  show execDeny 3 0 s = _
  have hword := badWord_denyStepUp s.conf
  simp [execDeny, hport, hword]

theorem exec_deny_offset {s : State} (hport : s.up 25 = true) {core : BitVec 6} (hasked : s.pwr.ofs.any (fun o => o.1 == core.toNat) = true) :
    exec (.deny 6 core) s =
      .next (({ s with pwr := { s.pwr with ofs := s.pwr.ofs.filter (fun x => x.1 != core.toNat) } } : State).nextMargin core.toNat) := by
  show execDeny 6 core s = _
  have hword := badWord_denyOffset s.conf core
  simp [execDeny, hport, hword, hasked, State.mapPwr]

theorem exec_stepUpTimeout_due {s : State} {e t0 : Nat} (hup : s.pwr.up = some (e, t0)) (hdue : t0 + 100000000 ≤ s.now) :
    exec .stepUpTimeout s = .next (s.abandonUp false false) := by
  show execStepUpTimeout s = _
  simp only [execStepUpTimeout, hup, hdue, if_true]

/-- A step-up that is not given up for a step-down ends with its record, and no ENVREQ (R341). -/
theorem State.abandonUp_asked {s : State} {e t0 : Nat} (hup : s.pwr.up = some (e, t0)) (deny : Bool) : s.abandonUp deny false =
    ({ s with pwr := { s.pwr with up := none, metEnv := s.pwr.env } } : State).event
      ⟨0x18B, 0, 0x14, 25 * 256, none, none, e * 2 ^ 38 + bit deny * 2 ^ 37⟩ := by
  simp [State.abandonUp, hup, State.mapPwr, portLoc, at_, bit]

/-- Settles O35: a STEPDN makes its envelope pending (`pendDown`) or is forced (`forceDown`); DENY and the timeout give up what was asked
for (`abandonUp`, `nextMargin`). -/
theorem stageStepsDownOrAStepUpIsGivenUp : Obligations.Stage_steps_down_or_a_step_up_is_given_up := by
  refine ⟨fun env s hport henv => ⟨?lower, ?forced⟩, ?denied, ?late, ?offset⟩
  case lower =>
    intro hlow
    obtain ⟨m, hpwr⟩ := s.pendDown_stage env.toNat
    have hkept := State.Repowers.pendDown s (some env.toNat) none true
    refine ⟨_, exec_stepdn_wellFormed hport henv false, ?_⟩
    rw [State.takeStepdn_lower hlow, hpwr]
    exact ⟨congrArg some (State.min_pendEnv hlow), rfl, rfl, rfl, rfl, rfl, hkept.array, hkept.ops⟩
  case forced =>
    intro hdue
    refine ⟨_, exec_stepdn_wellFormed hport henv true, ?_⟩
    rw [State.takeStepdn_forced hdue]
    exact s.stageDefaults.forceDown_spec env.toNat 0
  case denied =>
    intro e t0 s hport hup
    rw [exec_deny_stepUp hport, State.abandonUp_asked hup true, show bit true * 2 ^ 37 = 2 ^ 37 from rfl]
  case late =>
    intro e t0 s hup hdue
    rw [exec_stepUpTimeout_due hup hdue, State.abandonUp_asked hup false, show bit false * 2 ^ 37 = 0 from rfl, Nat.add_zero]
  case offset =>
    intro core o s hport _ ho hcore hleft
    have hmargin := State.SameMachine.nextMargin
      ({ s with pwr := { s.pwr with ofs := s.pwr.ofs.filter (fun x => x.1 != core.toNat) } } : State) core.toNat
    exact ⟨_, exec_deny_offset hport (List.any_eq_true.mpr ⟨o, ho, beq_iff_eq.mpr hcore⟩), State.obj_nextMargin hleft,
      hmargin.read State.pwr, hmargin.sameArray, hmargin.ops⟩

end Sys2Proof.Machine
end

section
/-! Forecasts, holds, excursions, the strobe and discarded messages (R332 to R334, R337, R339, R408). -/

namespace Sys2Proof.Machine

/-! ### An open key of an event (R264) -/

/-- After an event its class key is open. -/
theorem State.exists_key_event (s : State) (e : Event) : ∃ k ∈ (s.event e).errs.keys, k.isOf e = true := by
  cases hopen : s.errs.keys.any (fun x => x.isOf e) with
  | true =>
    obtain ⟨x, hx, hof⟩ := List.any_eq_true.mp hopen
    rw [State.event_of_open hopen]
    exact ⟨_, List.mem_map.mpr ⟨x, hx, if_pos hof⟩, hof⟩
  | false =>
    rw [State.event_of_new hopen]
    exact ⟨_, List.mem_append_right _ (List.mem_singleton_self _), e.opens_isOf s.evictKey.now⟩

/-! ### The commands -/

section
variable {s : State}

theorem exec_forecastLeadExpiry_due {f : Forecast} (hdue : s.pwr.fcs.find? (fun f => decide (f.sent + f.lead ≤ s.now)) = some f) :
    exec .forecastLeadExpiry s =
      .next { s with pwr := { s.pwr with fLevel := f.level * 100000, fcs := s.pwr.fcs.filter (fun x => x != f) } } := by
  show execForecastLeadExpiry s = _
  simp only [execForecastLeadExpiry, hdue, State.mapPwr]

/-- The intervals of a core whose hold has ended (R334). -/
def State.pastHold (s : State) (core : Nat) (x : PlanCore) : Bool := x.core == core && s.holdOver x

/-- The level without lead that is forecast when holds end (R334). -/
def State.levelAhead (s : State) : Nat := ceilDiv s.peakAhead 100000

theorem exec_ballastHoldExpiry_over {core : Nat} {p : PlanCore} (hp : p ∈ s.pwr.plan) (hcore : p.core = core) (hover : s.holdOver p = true) :
    exec (.ballastHoldExpiry core) s =
      let u := s.endHold (s.pastHold core)
      .next ((u.sendPower 2 (at_ (min u.levelAhead 65535) 40)).mapPwr
        (fun p => { p with fLevel := if p.fLevel = 0 then 0 else min p.fLevel (u.levelAhead * 100000) })) :=
  if_pos (List.any_eq_true.mpr ⟨p, hp, by simp [hcore, hover]⟩)

/-- The record of an excursion, with what the island last reported (R339, class 0x18A). -/
def State.excursionEvent (s : State) (core : Nat) : Event :=
  ⟨0x18A, 3, 0x14, 25 * 256, none, none, at_ core 34 + at_ (s.island core).mv 22 + at_ (s.island core).tj 14⟩

theorem exec_excursion_begins {core since : Nat} (hout : (s.island core).outSince = some since) (hlong : since + 200 < s.now)
    (hnew : (s.island core).exc = false) : exec (.excursion core) s =
      .next ((s.stageDefaults.beginExcursion core).event (s.excursionEvent core)) := by
  show execExcursion core s = _
  have htime : 200 < s.now - since := by omega
  simp only [execExcursion, hout, htime, hnew, and_self, if_true, portLoc, State.excursionEvent]

/-- Start-up goes on from its second step only. -/
theorem State.bootOn_of_step (h : s.boot.step ≠ 2) : s.bootOn = s := if_pos (.inr (.inl h))

theorem exec_strobeRestored_running (hlost : s.clk.lost = true) (hstep : s.boot.step ≠ 2) : exec .strobeRestored s =
    .next (({ s with clk := { s.clk with lost := false } } : State).event ⟨0x189, 0, 0x16, 27 * 256, none, none, 0⟩) := by
  show execStrobeRestored s = _
  rw [execStrobeRestored, if_pos hlost, State.bootOn_of_step]
  · rfl
  · rwa [State.portEvent, State.event_boot]

end

/-- Settles O37: each command under its condition; the key of an excursion's class is the one that its event opens or finds open. -/
theorem supplyEventsHaveTheirEffect : Obligations.Supply_events_have_their_effect := by
  refine ⟨fun f s hdue => exec_forecastLeadExpiry_due hdue, ?hold, ?excursion, ?reopens, ?lost, ?restored, ?bad⟩
  case hold =>
    intro core p s hp hcore hover hport past tapers u level
    have hsent : u.sendPower 2 (at_ (min level 65535) 40) =
        u.emit (.power (BitVec.ofNat 64 (2 ^ 60 + 2 * 2 ^ 56 + min level 65535 * 2 ^ 40))) := by
      rw [State.sendPower, if_pos (show u.up 25 = true from hport), at_, at_, at_, Nat.one_mul]
    have hexec := exec_ballastHoldExpiry_over hp hcore hover
    change _ = Host.Outcome.next ((u.sendPower 2 (at_ (min level 65535) 40)).mapPwr _) at hexec
    rw [hsent] at hexec
    exact ⟨_, hexec, rfl, rfl, rfl, rfl, rfl⟩
  case excursion =>
    intro core since s hout hlong hnew
    obtain ⟨k, hk, hof⟩ := (s.stageDefaults.beginExcursion core).exists_key_event (s.excursionEvent core)
    obtain ⟨hcls, -, hloc, -, -⟩ := (CoKey.isOf_iff _ _).mp hof
    have hrec := State.SameMachine.event (s.stageDefaults.beginExcursion core) (s.excursionEvent core)
    exact ⟨_, exec_excursion_begins hout hlong hnew, hrec.read State.pwr, hrec.sameArray, hrec.ops, k, hk, hcls, hloc⟩
  case reopens => exact fun s hexc hpast => if_pos ⟨hexc, hpast⟩
  case lost => exact fun s hkept => if_neg (by simp [hkept])
  case restored => exact fun s hlost hstep => exec_strobeRestored_running hlost hstep
  case bad => exact fun w s hport hbad => if_pos ⟨hport, hbad⟩

end Sys2Proof.Machine
end

section
/-! A step, and what every command leaves alone: the queue behind it, the configuration, and what has been sent (logs 10, 103). -/

namespace Sys2Proof.Machine

/-- Settles O1: the step is defined by the queue and, where it is empty, by the loopback path. -/
theorem stepRunsTheFrontCommand : Obligations.Step_runs_the_front_command := by
  refine ⟨fun c rest s => rfl, fun s hqueue hloop => ?idle, fun f l s hqueue hloop => ?loop⟩
  case idle => simp only [step, hqueue, hloop]
  case loop => simp only [step, hqueue, hloop]

/-- Settles O4: the strobe edge changes the clock, the meter, the slips and the ops; every other command keeps queue, configuration and
output (`exec_keeps`). -/
theorem noCommandTouchesQueueOrConfiguration : Obligations.No_command_touches_queue_or_configuration := by
  intro c s t h
  by_cases hc : c = .siderealCounterAdvance
  case pos =>
    subst hc
    obtain ⟨hpending, hconf, -, hout⟩ := execSiderealCounterAdvance_edge h
    exact ⟨hpending, hconf, hout⟩
  case neg =>
    have hkeeps := exec_keeps hc s
    rw [h] at hkeeps
    exact ⟨hkeeps.pending, hkeeps.conf, hkeeps.sent⟩

end Sys2Proof.Machine
end

section
/-! Which commands stop: those that name a unit that is not built (R374, R394). -/

namespace Sys2Proof.Machine

/-- What a command may do: end in the fault of an absent unit when it names one, and have a next state when it does not. -/
def StopsWhen (absent : Bool) (x : Host.Outcome State Fault Refusal) : Prop :=
  (absent = true → x = .fault .absentUnit) ∧ (absent = false → ∃ t, x = .next t)

/-! ### Guards and branches -/

namespace StopsWhen

variable {absent : Bool} {x y : Host.Outcome State Fault Refusal} {c : Prop} [Decidable c]

theorem next (t : State) : StopsWhen false (.next t) := ⟨nofun, fun _ => ⟨t, rfl⟩⟩

theorem ite (hx : StopsWhen false x) (hy : StopsWhen false y) : StopsWhen false (if c then x else y) := by
  split <;> assumption

/-- The guard of a command on units that may not be built. -/
theorem guard (hc : c ↔ absent = true) (hx : StopsWhen false x) : StopsWhen absent (if c then .fault .absentUnit else x) := by
  cases absent with
  | true => exact ⟨fun _ => if_pos (hc.mpr rfl), nofun⟩
  | false => exact if_neg (fun h => Bool.false_ne_true (hc.mp h)) ▸ hx

end StopsWhen

/-! ### The shells of link words and frames -/

section
variable {s : State} {q ftype : Nat} {f : Frame} {w : W64}

/-- The shell of the link words stops for a port without link words only. -/
theorem State.onLink_stops (body : State → State) : StopsWhen (!portBuilt s.conf q || decide (25 < q)) (s.onLink q w ftype body) :=
  .guard (by simp) (.ite (.next _) (.ite (.next _) (.ite (.next _) (.next _))))

theorem State.onFrame_built (hq : s.noPort q = false) (body : State → Nat → State) : StopsWhen false (s.onFrame q ftype f body) := by
  unfold State.onFrame
  rw [hq, if_neg Bool.false_ne_true]
  refine .ite (.next _) (.ite (.next _) ?_)
  dsimp only
  split <;> exact .next _

/-- The shell of the frames stops for a port that is not built only. -/
theorem State.onFrame_stops (body : State → Nat → State) : StopsWhen (s.noPort q) (s.onFrame q ftype f body) := by
  cases hq : s.noPort q with
  | true => exact ⟨fun _ => if_pos hq, nofun⟩
  | false => exact State.onFrame_built hq body

/-- A frame command that looks at its frame before the shell. -/
theorem StopsWhen.frameGuard {x : Host.Outcome State Fault Refusal} (hx : s.noPort q = false → StopsWhen false x) :
    StopsWhen (s.noPort q) (if s.noPort q then .fault .absentUnit else x) := by
  cases hq : s.noPort q with
  | true => exact ⟨fun _ => rfl, nofun⟩
  | false => exact hx hq

end

/-! ### The commands -/

/-- A command stops for a unit that is not built only. -/
theorem exec_stopsWhen (c : Instr) (s : State) : StopsWhen (Safety.absent s.conf c) (exec c s) := by
  cases c
  case loadw | stream | preload | drain | scan | mpass | ownerXred | contribution | trimmedLongContribution | collection | retract |
      fenceOrder | fenceEpoch | fenceQuiesce | gate | commit | squash | save | restore | dictRead | dictWrite | ballast |
      unlistedOpDescriptor =>
    exact .ite (.next _) (.next _)
  case localRetry | promiseFloorEvaluation | envelopeStepUpRequest | envelopeStepDownRequest | coolingClass | powerCap |
      pendingMarginStep | marginStepInForce | pendingBypassMap | tenantState | coreOwner | quadrantOwners | bufferRange | debugMode |
      transferOpen | transferChunk | transferVerify | gfwActivate | coldResetRequest | warmResetRequest | portReset | write | evack |
      drainRequest | deckPause | releaseRequest | sweepRequest | beaconPeriod =>
    exact .next _
  case responseCredit | ballastHoldExpiry | strobeLost | strobeRestored | excursionEnd | tenantRelease | debugExpiry | gfwHeartbeat |
      powerGood | powerGoodLoss | admissionOpen | neighbourSolicitation | echoRequest | badMessage =>
    exact .ite (.next _) (.next _)
  case siderealCounterAdvance | vt | stepdn => exact .ite (.next _) (.ite (.next _) (.next _))
  case gfwHeartbeatTimeout | flashCommit => exact .ite (.next _) (.ite (.next _) (.ite (.next _) (.next _)))
  case deny => exact .ite (.next _) (.ite (.next _) (.ite (.next _) (.ite (.next _) (.next _))))
  case cap | capsel | down | beacon =>
    dsimp only [exec, execCap, execCapsel, execDown, execBeacon]
    exact State.onLink_stops _
  case ack | resend | commitNotice | revoke | abort | claim | claimreply | elected | allot =>
    dsimp only [exec, execAck, execResend, execCommitNotice, execRevoke, execAbort, execClaim, execClaimreply, execElected, execAllot]
    exact State.onFrame_stops _
  case data | end_ =>
    exact .frameGuard fun hq => .ite (.next _) (.ite (.next _) (State.onFrame_built hq _))
  case collect => exact .frameGuard fun hq => .ite (.next _) (State.onFrame_built hq _)
  case reservedFrameType => exact .frameGuard fun _ => .ite (.next _) (.ite (.next _) (.next _))
  case bypassMapApply | coreMoveComplete | coreTestStart => exact .guard (by simp [Safety.absent]) (.ite (.next _) (.next _))
  case quarantineHoldExpiry | exchangeTimeout | racingFault | silenceBoundExpiry | creditBoundExpiry | creditReturn =>
    exact .guard (by simp [Safety.absent]) (.ite (.next _) (.next _))
  case liveRise => exact .guard (by simp [Safety.absent]) (.ite (.next _) (.ite (.next _) (.ite (.next _) (.next _))))
  case liveLoss => exact .guard (by simp [Safety.absent]) (.ite (.next _) (.ite (.next _) (.next _)))
  case ageingSweep => exact .guard (by simp [Safety.absent]) (.ite (.next _) (.next _))
  case memoryReadLines =>
    refine .guard (by simp [Safety.absent, or_assoc]) (.ite (.next _) ?_)
    split
    · exact .next _
    · exact .ite (.next _) (.ite (.next _) (.next _))
  case coreTestEnd =>
    refine .guard (by simp [Safety.absent]) ?_
    split
    · dsimp only
      split <;> exact .next _
    · exact .next _
  case quarantine u =>
    refine .guard (by simp [Safety.absent]) (.ite (.next _) ?_)
    cases u with
    | engine => exact .ite (.next _) (.next _)
    | drain => exact .ite (.next _) (.next _)
    | link => exact .next _
  case offenceDecay u =>
    refine .guard (by simp [Safety.absent]) ?_
    cases u <;> exact .next _
  case result q f =>
    refine .frameGuard (s := s) fun _ => .ite (.next _) (.ite (.next _) ?_)
    dsimp only
    split
    · exact .next _
    · refine .ite (.next _) (.ite (.next _) (.ite (.next _) (.ite (.next _) (.ite (.next _) (.ite (.next _) ?_)))))
      split <;> exact .next _
  case opStart | shadowRowWrite | swapFront | tokenPresent | runningSumAdd | drainRowConvert | preloadRowWrite | spineSend |
      spineReceive | spineResend | snapshotTake | snapshotRestore | commitTakesEffect | regionTtlExpiry | rerollVerdict |
      opDelivery | ballastToken | forecastLeadExpiry | excursion | stepUpTimeout | warmReset | frameSend | claimRetry |
      rangeTimeout | memberLost | eventSend | eventRetry | coalescingIntervalExpiry | dictionaryDrain | deckRotation =>
    dsimp only [exec, execOpStart, execShadowRowWrite, execSwapFront, execTokenPresent, execRunningSumAdd, execDrainRowConvert,
      execPreloadRowWrite, execSpineSend, execSpineReceive, execSpineResend, execSnapshotTake, execSnapshotRestore,
      execCommitTakesEffect, execRegionTtlExpiry, execRerollVerdict, execOpDelivery, execBallastToken, execForecastLeadExpiry,
      execExcursion, execStepUpTimeout, execWarmReset, execFrameSend, execClaimRetry, execRangeTimeout, execMemberLost,
      execEventSend, execEventRetry, execCoalescingIntervalExpiry, execDictionaryDrain, execDeckRotation]
    (repeat' split) <;> exact .next _

/-- Settles O6: `exec_stopsWhen` is the statement of one command. -/
theorem commandsStopOnlyForAbsentUnits : Obligations.Commands_stop_only_for_absent_units := exec_stopsWhen

end Sys2Proof.Machine
end

section
/-! A write that is not answered OK: the object's rules change nothing, and they answer alike whatever the buckets and kept answers hold
(R380, R382, R388, R389). -/

namespace Sys2Proof.Machine

/-! ### Answers of an object's rules -/

/-- What an object's rules do in `s`, and with other buckets and kept answers `m`: an answer in `s` that is not OK is given there too, and
changes nothing. -/
def RefusesAlike (s : State) (m : Mgmt) (x y : State × Nat) : Prop := x.2 ≠ stOk → y = ({ s with mg := m }, x.2)

/-- The same of rules that may not name the object. -/
def RulesAlike (s : State) (m : Mgmt) : Option (State × Nat) → Option (State × Nat) → Prop
  | some x, some y => RefusesAlike s m x y
  | none, none => True
  | _, _ => False

namespace RefusesAlike

variable {s : State} {m : Mgmt} {x x' y y' : State × Nat} {c c' : Prop} [Decidable c] [Decidable c']

theorem ok (h : x.2 = stOk) : RefusesAlike s m x y := fun hx => absurd h hx

theorem refused (st : Nat) : RefusesAlike s m (s, st) ({ s with mg := m }, st) := fun _ => rfl

theorem ite (hc : c ↔ c') (hx : RefusesAlike s m x y) (hx' : RefusesAlike s m x' y') :
    RefusesAlike s m (if c then x else x') (if c' then y else y') := by
  by_cases h : c
  · rwa [if_pos h, if_pos (hc.mp h)]
  · rwa [if_neg h, if_neg (fun h' => h (hc.mpr h'))]

end RefusesAlike

section
variable (s : State) (m : Mgmt) (i n v : Nat)

open RefusesAlike

theorem State.storeIf_alike {b b' : Bool} (hb : b' = b) (index sub : Nat) :
    RefusesAlike s m (s.storeIf b index sub v) (({ s with mg := m } : State).storeIf b' index sub v) :=
  hb ▸ ite .rfl (ok rfl) (refused _)

/-! ### Ports, power and containment -/

theorem State.setCooling_alike : RefusesAlike s m (s.setCooling v) (({ s with mg := m } : State).setCooling v) :=
  ite .rfl (refused _) (ok (by dsimp only; split_ifs <;> rfl))

theorem State.requestEnv_alike : RefusesAlike s m (s.requestEnv v) (({ s with mg := m } : State).requestEnv v) :=
  ite .rfl (refused _) (ite .rfl (ok rfl) (ite .rfl (ok rfl) (ite .rfl (refused _) (ok rfl))))

theorem State.requestCap_alike : RefusesAlike s m (s.requestCap v) (({ s with mg := m } : State).requestCap v) :=
  ite .rfl (refused _) (ite .rfl (ok rfl) (ite .rfl (ok rfl) (ite .rfl (refused _) (ok rfl))))

theorem State.forceMargin_alike : RefusesAlike s m (s.forceMargin n v) (({ s with mg := m } : State).forceMargin n v) :=
  ite .rfl (refused _) (ok rfl)

theorem State.pendMargin_alike : RefusesAlike s m (s.pendMargin n v) (({ s with mg := m } : State).pendMargin n v) :=
  ite .rfl (refused _) (ok rfl)

theorem State.writeOffset_alike : RefusesAlike s m (s.writeOffset n v) (({ s with mg := m } : State).writeOffset n v) :=
  ite .rfl (ok rfl) (ite .rfl (refused _) (ok rfl))

theorem State.requestRelease_alike : RefusesAlike s m (s.requestRelease v) (({ s with mg := m } : State).requestRelease v) :=
  ite .rfl (ok rfl) (refused _)

theorem State.requestSweep_alike : RefusesAlike s m (s.requestSweep n v) (({ s with mg := m } : State).requestSweep n v) :=
  ite .rfl (ok rfl) (ite .rfl (refused _) (ok rfl))

theorem State.forceMap_alike : RefusesAlike s m (s.forceMap n v) (({ s with mg := m } : State).forceMap n v) :=
  ite .rfl (refused _) (ok rfl)

/-! ### Tenants, groups and trust -/

theorem State.activate_alike : RefusesAlike s m (s.activate v) (({ s with mg := m } : State).activate v) :=
  ite .rfl (ok rfl) (ite .rfl (refused _) (ok rfl))

theorem State.verifyTransfer_alike : RefusesAlike s m (s.verifyTransfer v) (({ s with mg := m } : State).verifyTransfer v) :=
  ite .rfl (ok rfl) (ite .rfl (refused _) (ok rfl))

theorem State.takeChunk_alike (bs : List Byte) : RefusesAlike s m (s.takeChunk bs) (({ s with mg := m } : State).takeChunk bs) :=
  ite .rfl (refused _) (ok rfl)

theorem State.writeDebug_alike (role : Role) : RefusesAlike s m (s.writeDebug role v) (({ s with mg := m } : State).writeDebug role v) :=
  ite .rfl (ok rfl) (ite .rfl (ok rfl) (refused _))

theorem State.requestDrain_alike : RefusesAlike s m (s.requestDrain i v n) (({ s with mg := m } : State).requestDrain i v n) :=
  ite .rfl (refused _) (ok rfl)

theorem State.writeMode_alike : RefusesAlike s m (s.writeMode n v) (({ s with mg := m } : State).writeMode n v) :=
  ite .rfl (refused _) (ok rfl)

theorem State.writeTenant_alike : RefusesAlike s m (s.writeTenant n v) (({ s with mg := m } : State).writeTenant n v) :=
  ite .rfl (ok rfl) (ite .rfl (refused _) (ok rfl))

theorem State.writeSnapArea_alike : RefusesAlike s m (s.writeSnapArea n v) (({ s with mg := m } : State).writeSnapArea n v) :=
  ite .rfl (refused _) (ite .rfl (refused _) (ok rfl))

theorem State.moveRange_alike : RefusesAlike s m (s.moveRange i n v) (({ s with mg := m } : State).moveRange i n v) :=
  ite .rfl (ok rfl) (refused _)

theorem State.moveCore_alike : RefusesAlike s m (s.moveCore n v) (({ s with mg := m } : State).moveCore n v) :=
  ite .rfl (ok rfl) (refused _)

theorem State.moveQuads_alike : RefusesAlike s m (s.moveQuads n v) (({ s with mg := m } : State).moveQuads n v) :=
  ite .rfl (refused _) (ite .rfl (ok rfl) (refused _))

theorem State.writeGroup_alike : RefusesAlike s m (s.writeGroup i n v) (({ s with mg := m } : State).writeGroup i n v) :=
  ite .rfl (refused _) (ite .rfl (refused _) (ok rfl))

theorem State.writeRoute_alike : RefusesAlike s m (s.writeRoute i n v) (({ s with mg := m } : State).writeRoute i n v) :=
  ite .rfl (refused _) (ite .rfl (refused _) (ok rfl))

end

/-! ### The rules that a write meets (R380) -/

namespace RulesAlike

variable {s : State} {m : Mgmt} {o o' p p' : Option (State × Nat)} {x y : State × Nat} {c : Prop} [Decidable c]

theorem ite (ho : RulesAlike s m o p) (ho' : RulesAlike s m o' p') :
    RulesAlike s m (if c then o else o') (if c then p else p') := by
  split <;> assumption

theorem rules (h : RefusesAlike s m x y) : RulesAlike s m (some x) (some y) := h

theorem none : RulesAlike s m Option.none Option.none := trivial

/-- The rules of the first kind that names the object, else those of the others. -/
theorem orElse {rest rest' : State × Nat} (h : RulesAlike s m o p) (hrest : RefusesAlike s m rest rest') :
    RefusesAlike s m (o.getD rest) (p.getD rest') := by
  cases o with
  | none => cases p with
    | none => exact hrest
    | some => exact h.elim
  | some => cases p with
    | none => exact h.elim
    | some => exact h

end RulesAlike

section
variable (s : State) (m : Mgmt) (index sub v : Nat)

open RulesAlike

theorem State.writePorts_alike : RulesAlike s m (s.writePorts index sub v) (({ s with mg := m } : State).writePorts index sub v) := by
  unfold State.writePorts
  split
  · exact rules (.ok rfl)
  · exact rules (s.storeIf_alike m v rfl _ _)
  · exact rules (s.storeIf_alike m v rfl _ _)
  · exact ite (rules (.ok rfl)) none

theorem State.writePower_alike : RulesAlike s m (s.writePower index sub v) (({ s with mg := m } : State).writePower index sub v) := by
  unfold State.writePower
  split
  · exact rules (s.setCooling_alike m v)
  · exact rules (s.requestEnv_alike m v)
  · exact rules (s.requestCap_alike m v)
  · exact rules (.ok rfl)
  · exact rules (s.requestRelease_alike m v)
  · exact rules (s.storeIf_alike m v rfl _ _)
  · refine ite ?margin (ite (rules (s.requestSweep_alike m _ v)) (ite (rules (s.forceMap_alike m _ v)) (ite (rules (.ok rfl)) none)))
    split
    · exact rules (s.forceMargin_alike m _ v)
    · exact rules (s.pendMargin_alike m _ v)
    · exact rules (s.writeOffset_alike m _ v)
    · exact none

theorem State.writeTrust_alike (x : Tran) : RulesAlike s m (s.writeTrust x v) (({ s with mg := m } : State).writeTrust x v) := by
  unfold State.writeTrust
  split
  · exact rules (s.activate_alike m v)
  · exact rules (.ok rfl)
  · exact rules (s.verifyTransfer_alike m v)
  · exact rules (s.takeChunk_alike m _)
  · exact rules (s.writeDebug_alike m v _)
  · exact rules (s.requestDrain_alike m _ _ v)
  · exact rules (s.writeMode_alike m _ v)
  · refine ite ?tenant (ite (rules (s.moveRange_alike m _ _ v)) (ite (rules (s.moveCore_alike m _ v))
      (ite (rules (s.writeGroup_alike m _ _ v)) (ite (rules (s.writeRoute_alike m _ _ v)) (ite (rules (s.moveQuads_alike m _ v)) none)))))
    split
    · exact rules (s.writeTenant_alike m _ v)
    · exact rules (s.writeSnapArea_alike m _ v)
    · exact rules (s.storeIf_alike m _ rfl _ _)
    · exact none

/-- A checked write: the rules of the first kind that names the object, else its value is simply in force. -/
theorem State.applyWrite_eq (x : Tran) : s.applyWrite x = (s.writePorts x.index x.sub (ofLe x.value)).getD
    ((s.writePower x.index x.sub (ofLe x.value)).getD ((s.writeTrust x (ofLe x.value)).getD (s.store x.index x.sub (ofLe x.value)))) := by
  unfold State.applyWrite
  dsimp only
  split
  · next h => rw [h, Option.getD_some]
  · next h =>
    rw [h, Option.getD_none]
    split
    · next h => rw [h, Option.getD_some]
    · next h =>
      rw [h, Option.getD_none]
      split <;> next h => rw [h]; rfl

theorem State.applyWrite_alike (x : Tran) : RefusesAlike s m (s.applyWrite x) (({ s with mg := m } : State).applyWrite x) := by
  rw [State.applyWrite_eq, State.applyWrite_eq]
  exact (s.writePorts_alike m _ _ _).orElse ((s.writePower_alike m _ _ _).orElse ((s.writeTrust_alike m _ x).orElse (.ok rfl)))

/-- A write that is not answered OK (R380). -/
theorem State.tran_refused {x : Tran} (hw : x.wr = true) (h : (s.tran x).2.1 ≠ stOk) :
    ({ s with mg := m } : State).tran x = ({ s with mg := m }, (s.tran x).2.1, []) := by
  unfold State.tran at h ⊢
  rw [State.tranStatus_mg]
  split at h
  · rfl
  · simp only [hw, if_true] at h ⊢
    rw [s.applyWrite_alike m x h]

end

/-! ### The commands -/

/-- Nothing follows an answer that is not OK. -/
theorem State.afterAnswer_refused {s : State} {x : Tran} {st : Nat} (h : st ≠ stOk) : s.afterAnswer x st = s := if_pos (.inr h)

/-- A command that writes one object is a request. -/
theorem exec_of_objectOf {c : Instr} {r : Req} {index sub : Nat} (h : Safety.objectOf c = some (r, index, sub)) (s : State) :
    exec c s = .next (s.request r index sub) := by
  cases c <;> cases h <;> rfl

/-- Settles O38: whoever asks, the rate's draw, the answer and its keeping are all that a refused write leaves. -/
theorem writeWithoutOkChangesNothing : Obligations.Write_without_ok_changes_nothing := by
  intro c r index sub s hobj hserved hst
  have htran (m : Mgmt) := s.tran_refused m (x := Safety.tranOf r index sub) rfl hst
  have hafter (t : State) := State.afterAnswer_refused (s := t) (x := Safety.tranOf r index sub) hst
  generalize (s.tran (Safety.tranOf r index sub)).2.1 = st at htran hafter ⊢
  refine ⟨_, exec_of_objectOf hobj s, ?_⟩
  unfold State.request
  unfold Safety.tranOf at htran hafter
  unfold Safety.served at hserved
  unfold Safety.answered
  dsimp only
  cases hrole : r.role with
  | m =>
    simp only [hrole] at hserved htran hafter ⊢
    obtain ⟨hup, hlocal, hdraw, hkept⟩ := hserved
    obtain ⟨m, hm⟩ := State.drawM_served hdraw
    rw [if_pos ⟨hup, hlocal⟩]
    unfold State.serveM
    simp only [hdraw, hm] at hkept ⊢
    simp only [Bool.true_eq_false, if_false, if_true, hkept, htran m, hafter]
    obtain ⟨m', hm'⟩ := State.keep_eq (({ s with mg := m } : State).emit (s.sends r.src r.sport (respBytes st index sub r.xid [])))
      r.src r.xid (dgW0 3 st index sub 0) (at_ r.xid 32)
    rw [hm']
    exact ⟨List.mem_append_right _ (List.mem_singleton_self _), rfl⟩
  | h =>
    simp only [hrole] at hserved htran hafter ⊢
    obtain ⟨m, hm⟩ := State.drawH_served hserved
    simp only [hserved, hm, if_true, htran m, hafter]
    exact ⟨trivial, trivial⟩
  | t =>
    simp only [hrole] at htran hafter ⊢
    simp only [show s.tran _ = _ from htran s.mg, hafter]
    exact ⟨List.mem_append_right _ (List.mem_singleton_self _), rfl⟩

end Sys2Proof.Machine
end

section
/-! The firmware's heartbeat, the end of debug mode and flash commits (R349, R353, R366, R373, R410). -/

namespace Sys2Proof.Machine

/-! ### Counters and writes that notify nobody -/

section
variable {s : State}

/-- A counter counts to the largest value that its object holds (R372). -/
theorem State.obj_bump_self {k n : Nat} {o : Obj} (h : objInfo s.conf (k / 256) (k % 256) = some o) :
    (s.bump k n).obj k = min (maxOf o.ty.size) (s.obj k + n) := by
  unfold State.bump
  rw [h]
  exact State.obj_setObj_self

/-- A counter of 32 bits stops at its largest value. -/
theorem State.obj_bump_u32 {k n : Nat} {o : Obj} (h : objInfo s.conf (k / 256) (k % 256) = some o) (hty : o.ty = .u32) :
    (s.bump k n).obj k = min (2 ^ 32 - 1) (s.obj k + n) := by
  rw [State.obj_bump_self h, hty]
  rfl

/-- A write of an object that notifies nobody changes the dictionary only. -/
theorem State.setObj_quiet {k : Nat} (hk : notifying k = false) (v : Nat) : { s.setObj k v with dict := s.dict } = s := by
  rw [State.setObj, if_neg (by simp [hk])]

theorem State.bump_quiet {k : Nat} (hk : notifying k = false) (n : Nat) : { s.bump k n with dict := s.dict } = s := by
  unfold State.bump
  split
  · rfl
  · exact State.setObj_quiet hk _

/-! ### GFW_HEARTBEAT (R349) -/

theorem exec_gfwHeartbeat_serving (h : 6 ≤ s.boot.step) : exec .gfwHeartbeat s =
    .next ({ s with tru := { s.tru with heartbeat := s.now, gfwDown := false, fresh := false } } : State).reopenAdm :=
  if_neg (Nat.not_lt.mpr h)

/-- Admission opens where nothing holds it closed, and nothing else changes. -/
theorem State.reopenAdm_eq : s.reopenAdm = { s with adm := { s.adm with
    openA := s.adm.openA || (s.boot.step == 8 && !s.tru.gfwDown && !s.tru.jobAct && s.boot.warm.isNone) } } := by
  unfold State.reopenAdm
  split
  · next h =>
    obtain ⟨hstep, hdown, hact, hwarm⟩ := h
    simp [hstep, hdown, hact, hwarm]
  · next h =>
    have hshut : (s.boot.step == 8 && !s.tru.gfwDown && !s.tru.jobAct && s.boot.warm.isNone) = false := by
      rw [Bool.eq_false_iff]
      simpa [and_assoc] using h
    rw [hshut, Bool.or_false]

/-! ### GFW_HEARTBEAT_TIMEOUT (R349, R353, R410) -/

section
variable (hstep : 6 ≤ s.boot.step) (hlate : s.tru.heartbeat + 10000 ≤ s.now) (hwarm : s.boot.warm = none)
include hstep hlate hwarm

/-- The heartbeat is missing. -/
theorem State.heartbeat_missing : ¬(s.boot.step < 6 ∨ s.now < s.tru.heartbeat + 10000 ∨ s.boot.warm.isSome) := by
  rw [hwarm]
  simp
  omega

theorem exec_gfwHeartbeatTimeout_restarts (hfresh : s.tru.fresh = false) (hdown : s.tru.gfwDown = false) :
    exec .gfwHeartbeatTimeout s = .next (s.bump (key 0x7000 5) 1).restartGfw := by
  show execGfwHeartbeatTimeout s = _
  rw [execGfwHeartbeatTimeout, if_neg (State.heartbeat_missing hstep hlate hwarm), hfresh, hdown]
  rfl

theorem exec_gfwHeartbeatTimeout_resets (hfresh : s.tru.fresh = false) (hdown : s.tru.gfwDown = true) :
    exec .gfwHeartbeatTimeout s = .next (s.startWarm 5) := by
  show execGfwHeartbeatTimeout s = _
  rw [execGfwHeartbeatTimeout, if_neg (State.heartbeat_missing hstep hlate hwarm), hfresh, hdown]
  rfl

theorem exec_gfwHeartbeatTimeout_givesWay (hfresh : s.tru.fresh = true) :
    exec .gfwHeartbeatTimeout s = .next ((s.switchSlot 3).setObj (key 0x7000 6) 1).restartGfw := by
  show execGfwHeartbeatTimeout s = _
  rw [execGfwHeartbeatTimeout, if_neg (State.heartbeat_missing hstep hlate hwarm), hfresh]
  rfl

end

/-- A restart of GFW, after changes of trust and the dictionary alone: GFW is down, its heartbeat counts from now, and admission is closed
(R349). -/
theorem State.restartGfw_spec {u : State} (h : { u with tru := s.tru, dict := s.dict } = s) :
    u.restartGfw.tru = { u.tru with gfwDown := true, fresh := false, heartbeat := s.now } ∧
      u.restartGfw.adm = { s.adm with openA := false } ∧ { u.restartGfw with tru := s.tru, adm := s.adm, dict := s.dict } = s := by
  have hnow : u.now = s.now := (congrArg State.now h :)
  have hadm : u.adm = s.adm := (congrArg State.adm h :)
  refine ⟨?tru, ?adm, (congrArg (fun v : State => { v with adm := s.adm }) h :)⟩
  case tru => rw [← hnow]; rfl
  case adm => rw [← hadm]; rfl

/-- What a switch of GFW images leaves but trust and the dictionary (R353). -/
theorem State.switchSlot_frame : { s.switchSlot 3 with tru := s.tru, dict := s.dict } = s := by
  have hwrite (u : State) (v : Nat) : { u.setObj (verKey 3) v with tru := s.tru, dict := s.dict } = { u with tru := s.tru, dict := s.dict } :=
    (congrArg (fun u : State => { u with tru := s.tru, dict := s.dict }) (State.setObj_quiet (s := u) (k := verKey 3) rfl v) :)
  unfold State.switchSlot
  split
  · rfl
  · exact hwrite _ _

/-- The image that comes into force gives the version in force (R353). -/
theorem State.obj_verKey_switchSlot {kind : Nat} {i : Image} (h : s.otherSlot kind = some i) :
    (s.switchSlot kind).obj (verKey kind) = i.dver := by
  unfold State.switchSlot
  rw [h]
  exact State.obj_setObj_self

/-! ### The start of a warm reset (R410) -/

theorem State.respond_openA (r : Resp) : (s.respond r).adm.openA = s.adm.openA := by
  unfold State.respond
  split <;> rfl

theorem State.loseOp_openA (o : Op) : (s.loseOp o).adm.openA = s.adm.openA := by
  have hfinish : (s.finishOp o 0x03).adm.openA = s.adm.openA := by
    have hreleased := (State.QuietPorts.dropOp s o.id).trans (s.dropOp_released o 0x03)
    have hcounted := (State.QuietPorts.dropOp s o.id).trans (s.dropOp_counted o 0x03)
    rw [State.finishOp_eq]
    split_ifs
    · rw [hreleased.adm]
    · rw [hcounted.adm]
    · rw [State.respond_openA, hcounted.adm]
  have hregs (u : State) (ks : List Nat) (f : Nat → LongReg → LongReg) : (u.mapRegs ks f).adm = u.adm :=
    List.foldlRecOn ks _ (motive := fun t : State => t.adm = u.adm) rfl (fun _ ht _ _ => ht)
  unfold State.loseOp State.sweepUnread
  dsimp only
  split_ifs
  · exact hfinish
  · exact hfinish
  · rw [State.clearRows, State.poisonRecords, (State.Quiet.foldl (fun u _ => .event u _) _ _).adm, hregs, hfinish]

/-- Once a list of ops is lost, an op is one of the others, or stands for rows that are still to be cleared (R154). -/
theorem State.of_mem_foldl_loseOp {l : List Op} {p : Op} (hp : p ∈ (l.foldl (fun s o => s.loseOp o) s).ops) :
    p.k = .clear ∨ ∃ q ∈ s.ops, q.id = p.id ∧ q.k = p.k ∧ ∀ o ∈ l, p.id ≠ o.id := by
  induction l generalizing s with
  | nil => exact .inr ⟨p, hp, rfl, rfl, by simp⟩
  | cons o l ih =>
    rcases ih hp with hk | ⟨q, hq, hid, hk, hne⟩
    · exact .inl hk
    · rcases State.mem_loseOp hq with hclear | ⟨r, hr, hrid, hrk, hrne⟩
      · exact .inl (hk ▸ hclear)
      · exact .inr ⟨r, hr, hrid.trans hid, hrk.trans hk, List.forall_mem_cons.mpr ⟨hid ▸ hrne, hne⟩⟩

theorem OpK.ghost_iff {k : OpK} : k.ghost = true ↔ k = .reroll ∨ k = .tagged ∨ k = .clear := by
  simp [OpK.ghost, or_assoc]

/-- A warm reset loses every outstanding op and closes admission (R410). -/
theorem State.startWarm_spec (cause : Nat) : (s.startWarm cause).boot.warm = some s.now ∧ (s.startWarm cause).boot.warmCause = cause ∧
    (s.startWarm cause).adm.openA = false ∧ ∀ o ∈ (s.startWarm cause).ops, o.k.ghost = true := by
  refine ⟨rfl, rfl, ?shut, fun p hp => ?lost⟩
  case shut =>
    exact List.foldlRecOn (s.ops.filter (fun o => !o.k.ghost)) (fun (s : State) o => s.loseOp o) (b := s.shut)
      (motive := fun t => t.adm.openA = false) rfl (fun t ht o _ => (State.loseOp_openA o).trans ht)
  case lost =>
    rcases State.of_mem_foldl_loseOp (s := s.shut) hp with hk | ⟨q, hq, hid, hk, hne⟩
    · exact OpK.ghost_iff.mpr (.inr (.inr hk))
    · by_contra hghost
      exact hne q (List.mem_filter.mpr ⟨hq, by simp [hk, hghost]⟩) hid.symm

/-! ### The end of debug mode (R366, R409) -/

theorem State.obj_endDebug : s.endDebug.obj (key 0xF000 0) = 0 ∧ s.endDebug.obj (key 0x1303 0) = 0 :=
  ⟨(State.obj_setObj_of_ne (by decide) (by decide)).trans State.obj_setObj_self, State.obj_setObj_self⟩

theorem State.endDebug_tru : s.endDebug.tru = { s.tru with dbgOn := false, dbgScope := 0, dbgExpiry := 0 } := by
  simp [State.endDebug]

theorem State.endDebug_frame : { s.endDebug with tru := s.tru, dict := s.dict, mg := s.mg } = s :=
  (congrArg (fun u : State => { u with tru := s.tru, dict := s.dict, mg := s.mg })
    ((State.setObj_frame _ (key 0x1303 0) 0).trans (State.setObj_frame _ (key 0xF000 0) 0)) :)

theorem exec_debugExpiry_due (hon : s.tru.dbgOn = true) (hpast : s.tru.dbgExpiry ≤ s.now) : exec .debugExpiry s = .next s.endDebug :=
  if_pos ⟨hon, hpast⟩

/-! ### FLASH_COMMIT (R373) -/

section
variable {k : Nat}

/-- A pending commit no longer waits. -/
def State.withoutCommit (s : State) (k : Nat) : State := { s with dict := { s.dict with commits := delN s.dict.commits k } }

theorem exec_flashCommit_fails (hk : k ∈ s.dict.commits) : exec (.flashCommit k false) s = .next ((s.withoutCommit k).bump (key 0x0010 3) 1) := by
  show execFlashCommit k false s = _
  rw [execFlashCommit, if_neg (by simpa using hk)]
  rfl

/-- The copy that is not current takes the values of the current one with the object's value, and becomes current. -/
theorem exec_flashCommit_done (hk : k ∈ s.dict.commits) : exec (.flashCommit k true) s = .next { s with dict := { s.dict with
    commits := delN s.dict.commits k
    cur := !s.dict.cur
    flash0 := if s.dict.cur then sput s.dict.flash1 k (s.obj k) else s.dict.flash0
    flash1 := if s.dict.cur then s.dict.flash1 else sput s.dict.flash0 k (s.obj k) } } := by
  show execFlashCommit k true s = _
  rw [execFlashCommit, if_neg (by simpa using hk)]
  cases hcur : s.dict.cur <;> simp [hcur]

theorem State.setObj_flash (j v : Nat) : (s.setObj j v).dict.cur = s.dict.cur ∧ (s.setObj j v).dict.flash0 = s.dict.flash0 ∧
    (s.setObj j v).dict.flash1 = s.dict.flash1 := by
  have hdict : (s.setObj j v).dict = { s.dict with
      vals := sset (s.unset j) s.dict.vals j v
      commits := if isFlash s.conf j then insN s.dict.commits j else s.dict.commits } := by
    unfold State.setObj
    dsimp only
    split <;> simp
  rw [hdict]
  exact ⟨rfl, rfl, rfl⟩

theorem State.bump_flash (j n : Nat) : (s.bump j n).dict.cur = s.dict.cur ∧ (s.bump j n).dict.flash0 = s.dict.flash0 ∧
    (s.bump j n).dict.flash1 = s.dict.flash1 := by
  unfold State.bump
  split
  · exact ⟨rfl, rfl, rfl⟩
  · exact State.setObj_flash _ _

end

end

/-- Settles O45: each command does what the lemmas above say of it. -/
theorem firmwareTimersAndCommits : Obligations.Firmware_timers_and_commits := by
  refine ⟨?heartbeat, fun s hstep hlate hwarm hfresh => ⟨?restarts, ?resets⟩, ?givesWay, ?debug, fun k s hk => ⟨?done, ?fails⟩⟩
  case heartbeat =>
    intro s hstep
    refine ⟨_, exec_gfwHeartbeat_serving hstep, ?_⟩
    rw [State.reopenAdm_eq]
    exact ⟨rfl, by simp, rfl⟩
  case restarts =>
    intro hdown
    have hquiet := State.bump_quiet (s := s) (k := key 0x7000 5) rfl 1
    have hsame : (s.bump (key 0x7000 5) 1).tru = s.tru := (congrArg State.tru hquiet :)
    have hcounted : { s.bump (key 0x7000 5) 1 with tru := s.tru, dict := s.dict } = s :=
      (congrArg (fun v : State => { v with tru := s.tru }) hquiet :)
    obtain ⟨htru, hadm, hframe⟩ := State.restartGfw_spec hcounted
    refine ⟨_, exec_gfwHeartbeatTimeout_restarts hstep hlate hwarm hfresh hdown, htru.trans ?_, hadm,
      State.obj_bump_u32 (s := s) (k := key 0x7000 5) rfl rfl, hframe⟩
    rw [hsame, ← hfresh]
  case resets =>
    intro hdown
    obtain ⟨hboot, hcause, hshut, hlost⟩ := s.startWarm_spec 5
    exact ⟨_, exec_gfwHeartbeatTimeout_resets hstep hlate hwarm hfresh hdown, hboot, hcause, hshut,
      fun o ho => OpK.ghost_iff.mp (hlost o ho)⟩
  case givesWay =>
    intro i s hstep hlate hwarm hfresh hi
    have hframe : { (s.switchSlot 3).setObj (key 0x7000 6) 1 with tru := s.tru, dict := s.dict } = s :=
      (congrArg (fun v : State => { v with tru := s.tru, dict := s.dict }) (State.setObj_quiet (s := s.switchSlot 3) (k := key 0x7000 6) rfl 1) :).trans
        State.switchSlot_frame
    obtain ⟨htru, hadm, hrest⟩ := State.restartGfw_spec hframe
    have hver : ((s.switchSlot 3).setObj (key 0x7000 6) 1).obj (verKey 3) = i.dver :=
      (State.obj_setObj_of_ne (by decide) (by decide)).trans (State.obj_verKey_switchSlot hi)
    have hmark : ((s.switchSlot 3).setObj (key 0x7000 6) 1).obj (key 0x7000 6) = 1 := State.obj_setObj_self
    exact ⟨_, exec_gfwHeartbeatTimeout_givesWay hstep hlate hwarm hfresh, congrArg Trust.gfwDown htru, congrArg Trust.fresh htru,
      congrArg Trust.heartbeat htru, hadm, hver, hmark, hrest⟩
  case debug =>
    intro s hon hpast
    exact ⟨_, exec_debugExpiry_due hon hpast, State.endDebug_tru, State.obj_endDebug.1, State.obj_endDebug.2, State.endDebug_frame⟩
  case done =>
    refine ⟨_, exec_flashCommit_done hk, rfl, rfl, rfl, rfl, fun x => ?_⟩
    cases hcur : s.dict.cur <;> simp [sfind_sput]
  case fails =>
    obtain ⟨hcur, hflash0, hflash1⟩ := (s.withoutCommit k).bump_flash (key 0x0010 3) 1
    exact ⟨_, exec_flashCommit_fails hk, hcur, hflash0, hflash1, State.obj_bump_u32 (s := s.withoutCommit k) rfl rfl⟩

end Sys2Proof.Machine
end

section
/-! The writes of firmware trust: image transfers, the activation of firmware and debug mode (R352, R353, R355, R366). -/

namespace Sys2Proof.Machine

/-! ### Which rules a write meets (R380) -/

section
variable {s : State} {role : Role} {tn : Nat} {value : List Byte}

theorem State.applyWrite_transferOpen : s.applyWrite ⟨role, tn, true, 0x7010, 0, value⟩ = s.openTransfer (ofLe value) := by
  simp [State.applyWrite, State.writePorts_none, State.writePower_of_lt, State.writeTrust]

theorem State.applyWrite_transferChunk : s.applyWrite ⟨role, tn, true, 0x7011, 0, value⟩ = s.takeChunk value := by
  simp [State.applyWrite, State.writePorts_none, State.writePower_of_lt, State.writeTrust]

theorem State.applyWrite_transferVerify : s.applyWrite ⟨role, tn, true, 0x7010, 1, value⟩ = s.verifyTransfer (ofLe value) := by
  simp [State.applyWrite, State.writePorts_none, State.writePower_of_lt, State.writeTrust]

theorem State.applyWrite_activate : s.applyWrite ⟨role, tn, true, 0x7000, 4, value⟩ = s.activate (ofLe value) := by
  simp [State.applyWrite, State.writePorts_none, State.writePower_of_lt, State.writeTrust]

theorem State.applyWrite_debug : s.applyWrite ⟨role, tn, true, 0xF000, 0, value⟩ = s.writeDebug role (ofLe value) := by
  simp [State.applyWrite, State.writePorts_none, State.writePower_of_lt, State.writeTrust]

end

/-! ### A transfer and its outcome (R290, R352, R355) -/

section
variable {s : State}

/-- A new transfer, of a kind and length. -/
theorem State.openTransfer_spec (v : Nat) : ∃ t, s.openTransfer v = (t, stOk) ∧
    t.tru = { s.tru with xKind := v / 2 ^ 60, xTotal := v % 2 ^ 32, xBytes := [], xOpen := true } ∧
    { t with tru := s.tru, dict := s.dict, mg := s.mg } = s :=
  ⟨_, rfl, by simp, (congrArg (fun u : State => { u with tru := s.tru }) (State.setObj_frame _ (key 0x7010 0) v) :)⟩

theorem State.takeChunk_next {bs : List Byte} (hopen : s.tru.xOpen = true) (hoff : ofLe (bs.take 8) = s.tru.xBytes.length)
    (hlen : s.tru.xBytes.length + (bs.drop 8).length ≤ s.tru.xTotal) :
    s.takeChunk bs = ({ s with tru := { s.tru with xBytes := s.tru.xBytes ++ bs.drop 8 } }, stOk) :=
  if_neg (by simp [hopen, hoff]; simpa using hlen)

/-- The transfer has ended with a status. -/
def State.transferEnds (s : State) (st : Nat) : State := { s with tru := { s.tru with xOpen := false, xBytes := [], xStatus := st } }

/-- An image that passes is stored; another changes nothing. -/
def State.storesIf (s : State) (st : Nat) (bs : List Byte) : State := if st = 0 then s.storeImage bs else s

theorem State.verifyTransfer_open (hopen : s.tru.xOpen = true) : s.verifyTransfer 1 =
    (if s.tru.xKind = 1 then ((s.transferEnds (s.judge s.tru.xBytes)).storesIf (s.judge s.tru.xBytes) s.tru.xBytes).deckOutcome
        (s.judge s.tru.xBytes) (imgVer s.tru.xBytes)
      else (s.transferEnds (s.judge s.tru.xBytes)).storesIf (s.judge s.tru.xBytes) s.tru.xBytes, stOk) := by
  rw [State.verifyTransfer, if_neg Nat.one_ne_zero, hopen]
  rfl

/-- The record of a deck image leaves trust, the array and the ops (R290). -/
theorem State.deckOutcome_frame (st ver : Nat) : (s.deckOutcome st ver).tru = s.tru ∧ Safety.sameArray (s.deckOutcome st ver) s ∧
    (s.deckOutcome st ver).ops = s.ops := by
  simp [State.deckOutcome, Safety.sameArray]

theorem State.storeImage_frame (bs : List Byte) : { s.storeImage bs with tru := s.tru, dict := s.dict, mg := s.mg } = s := by
  unfold State.storeImage
  split
  · exact (congrArg (fun u : State => { u with tru := s.tru }) (State.setObj_frame _ (key 0xF000 0) 1) :)
  · rfl

/-- What is received of a transfer, and its status, are not the image's. -/
theorem State.storeImage_transfer (bs : List Byte) : (s.storeImage bs).tru.xOpen = s.tru.xOpen ∧
    (s.storeImage bs).tru.xBytes = s.tru.xBytes ∧ (s.storeImage bs).tru.xStatus = s.tru.xStatus := by
  unfold State.storeImage
  split
  · simp [State.startDebug]
  · exact ⟨rfl, rfl, rfl⟩

/-- An image, but for a debug grant, is in the slot not in force (R352). -/
theorem State.otherSlot_storeImage {bs : List Byte} (h : imgKind bs ≠ 5) :
    (s.storeImage bs).otherSlot (imgKind bs) = some ⟨imgKind bs, imgVer bs, bs, false⟩ := by
  have hnone : (s.tru.images.filter (fun i => !(i.kind == imgKind bs && !i.inForce))).find? (fun i => i.kind == imgKind bs && !i.inForce) =
      none := List.find?_eq_none.mpr (fun i hi => by simpa [imp_iff_not_or] using (List.mem_filter.mp hi).2)
  rw [State.storeImage, if_neg h, State.otherSlot, List.find?_append, hnone]
  simp

/-- What a transfer of `bs` with status `st` leaves when it has ended: an image that passes is in the slot not in force, another changes no
image and leaves debug mode as it is (R352). -/
structure State.EndsTransfer (s t : State) (bs : List Byte) (st : Nat) : Prop where
  closed : t.tru.xOpen = false
  emptied : t.tru.xBytes = []
  status : t.tru.xStatus = st
  array : Safety.sameArray t s
  ops : t.ops = s.ops
  stored : st = 0 → imgKind bs ≠ 5 → t.otherSlot (imgKind bs) = some ⟨imgKind bs, imgVer bs, bs, false⟩
  kept : st ≠ 0 → t.tru.images = s.tru.images ∧ t.tru.dbgOn = s.tru.dbgOn

theorem State.storesIf_endsTransfer (bs : List Byte) (st : Nat) : s.EndsTransfer ((s.transferEnds st).storesIf st bs) bs st := by
  unfold State.storesIf
  split
  · next hzero =>
    obtain ⟨hclosed, hemptied, hstatus⟩ := (s.transferEnds st).storeImage_transfer bs
    have hframe := (s.transferEnds st).storeImage_frame bs
    have harray : Safety.sameArray ((s.transferEnds st).storeImage bs) (s.transferEnds st) :=
      Safety.sameArray_of_eq hframe ⟨rfl, rfl, rfl, rfl, rfl, rfl, rfl⟩
    exact ⟨hclosed, hemptied, hstatus, harray, (congrArg State.ops hframe :), fun _ => State.otherSlot_storeImage,
      fun hne => absurd hzero hne⟩
  · next hne =>
    exact ⟨rfl, rfl, rfl, ⟨rfl, rfl, rfl, rfl, rfl, rfl, rfl⟩, rfl, fun hzero => absurd hzero hne, fun _ => ⟨rfl, rfl⟩⟩

/-- The record of a deck image (R290). -/
theorem State.EndsTransfer.deckOutcome {t : State} {bs : List Byte} {st : Nat} (h : s.EndsTransfer t bs st) (ver : Nat) :
    s.EndsTransfer (t.deckOutcome st ver) bs st := by
  obtain ⟨htru, harray, hops⟩ := t.deckOutcome_frame st ver
  have hslot (k : Nat) : (t.deckOutcome st ver).otherSlot k = t.otherSlot k := by rw [State.otherSlot, htru, State.otherSlot]
  exact ⟨htru ▸ h.closed, htru ▸ h.emptied, htru ▸ h.status, Safety.sameArray_trans h.array harray, hops.trans h.ops,
    fun hst hkind => (hslot _).trans (h.stored hst hkind), htru ▸ h.kept⟩

/-- A transfer that is open ends with the status of its checks. -/
theorem State.verifyTransfer_ends (hopen : s.tru.xOpen = true) :
    ∃ t, s.verifyTransfer 1 = (t, stOk) ∧ s.EndsTransfer t s.tru.xBytes (s.judge s.tru.xBytes) := by
  have hstored := s.storesIf_endsTransfer s.tru.xBytes (s.judge s.tru.xBytes)
  rw [State.verifyTransfer_open hopen]
  split
  · exact ⟨_, rfl, hstored.deckOutcome _⟩
  · exact ⟨_, rfl, hstored⟩

/-! ### The activation of firmware (R353) -/

theorem State.activate_spec (himg : (s.otherSlot 3).isSome = true) : ∃ t, s.activate 1 = (t, stOk) ∧
    t.tru = { s.tru with jobAct := true } ∧ t.adm = { s.adm with openA := false } ∧
    { t with tru := s.tru, adm := s.adm, dict := s.dict, mg := s.mg } = s := by
  have hnot : ¬(s.otherSlot 3).isNone = true := by simpa using Option.isSome_iff_ne_none.mp himg
  refine ⟨_, (if_neg Nat.one_ne_zero).trans (if_neg hnot), ?_, ?_, ?_⟩
  · simp [State.shut]
  · simp [State.shut]
  · exact (congrArg (fun u : State => { u with tru := s.tru, adm := s.adm }) (State.setObj_frame _ (key 0x7000 4) 1) :)

/-! ### Debug mode (R366) -/

/-- What a write `v` of object 0xF000:00 leaves: debug mode is on just when `v` is not 0, and its end ends the grant's scope and the
wrapper's enable with it. -/
structure State.SetsDebug (s t : State) (v : Nat) : Prop where
  on : t.tru.dbgOn = decide (v ≠ 0)
  mode : t.obj (key 0xF000 0) = v
  ended : v = 0 → t.tru.dbgScope = 0 ∧ t.obj (key 0x1303 0) = 0
  images : t.tru.images = s.tru.images
  frame : { t with tru := s.tru, dict := s.dict, mg := s.mg } = s

/-- Debug mode is ended by anyone, and begun by TMON. -/
theorem State.writeDebug_sets {role : Role} {v : Nat} (hv : v = 0 ∨ v = 1 ∧ role = .t) :
    ∃ t, s.writeDebug role v = (t, stOk) ∧ s.SetsDebug t v := by
  obtain rfl | ⟨rfl, rfl⟩ := hv
  · have htru := State.endDebug_tru (s := s)
    exact ⟨_, rfl, by rw [htru]; rfl, State.obj_endDebug.1, fun _ => ⟨by rw [htru], State.obj_endDebug.2⟩, by rw [htru],
      State.endDebug_frame⟩
  · refine ⟨({ s with tru := { s.tru with dbgOn := true } } : State).setObj (key 0xF000 0) 1, rfl, by simp, ?_, by simp, by simp, ?_⟩
    · exact State.obj_setObj_self
    · exact (congrArg (fun u : State => { u with tru := s.tru }) (State.setObj_frame _ (key 0xF000 0) 1) :)

end

/-! ### The commands -/

theorem writes_mono {c : Instr} {s : State} {p q : Nat → State → Prop} (h : Safety.writes c s p)
    (hpq : ∀ v t, p v t → q v t) : Safety.writes c s q := fun r index sub hobj hwf hserved hstatus =>
  let ⟨t, hexec, hans, hpost⟩ := h r index sub hobj hwf hserved hstatus
  ⟨t, hexec, hans, hpq _ t hpost⟩

/-- TRANSFER_OPEN (R355). -/
theorem transferOpen_writes (s : State) (r : Req) : Safety.writes (.transferOpen r) s fun v t => t.tru.xKind = v / 2 ^ 60 ∧
    t.tru.xTotal = v % 2 ^ 32 ∧ t.tru.xBytes = [] ∧ t.tru.xOpen = true ∧ t.tru.images = s.tru.images ∧
    { t with tru := s.tru, dict := s.dict, mg := s.mg, out := s.out } = s := by
  refine writes_of_applyWrite rfl rfl (by decide) (fun _ _ _ h => h) (fun _ m => ?_)
  obtain ⟨t, ht, htru, hframe⟩ := State.openTransfer_spec (s := { s with mg := m }) (ofLe r.value)
  exact ⟨t, State.applyWrite_transferOpen.trans ht, congrArg Trust.xKind htru, congrArg Trust.xTotal htru, congrArg Trust.xBytes htru,
    congrArg Trust.xOpen htru, (congrArg Trust.images htru :), (congrArg (fun u : State => { u with mg := s.mg, out := s.out }) hframe :)⟩

/-- TRANSFER_CHUNK at the next offset, within the length (R355). -/
theorem transferChunk_writes (s : State) (r : Req) (hopen : s.tru.xOpen = true) (hoff : ofLe (r.value.take 8) = s.tru.xBytes.length)
    (hlen : s.tru.xBytes.length + (r.value.drop 8).length ≤ s.tru.xTotal) : Safety.writes (.transferChunk r) s fun _ t =>
      t.tru = { s.tru with xBytes := s.tru.xBytes ++ r.value.drop 8 } ∧ { t with tru := s.tru, mg := s.mg, out := s.out } = s :=
  writes_of_applyWrite rfl rfl (by decide) (fun _ _ _ h => h) (fun _ m =>
    ⟨_, State.applyWrite_transferChunk.trans (State.takeChunk_next (s := { s with mg := m }) hopen hoff hlen), rfl, rfl⟩)

/-- TRANSFER_VERIFY of a transfer that is open (R352). -/
theorem transferVerify_writes (s : State) (r : Req) (hv : ofLe r.value = 1) (hopen : s.tru.xOpen = true) :
    Safety.writes (.transferVerify r) s fun _ t => s.EndsTransfer t s.tru.xBytes (s.judge s.tru.xBytes) := by
  refine writes_of_applyWrite rfl rfl (by decide) (fun _ _ _ h => ⟨h.1, h.2, h.3, h.4, h.5, h.6, h.7⟩) (fun _ m => ?_)
  obtain ⟨t, ht, hends⟩ := State.verifyTransfer_ends (s := { s with mg := m }) hopen
  exact ⟨t, (hv ▸ State.applyWrite_transferVerify).trans ht, hends.1, hends.2, hends.3, hends.4, hends.5, hends.6, hends.7⟩

/-- GFW_ACTIVATE with an image in the slot not in force (R353). -/
theorem gfwActivate_writes (s : State) (r : Req) (hv : ofLe r.value = 1) (himg : (s.otherSlot 3).isSome = true) :
    Safety.writes (.gfwActivate r) s fun _ t => t.tru = { s.tru with jobAct := true } ∧ t.adm = { s.adm with openA := false } ∧
      { t with tru := s.tru, adm := s.adm, dict := s.dict, mg := s.mg, out := s.out } = s := by
  refine writes_of_applyWrite rfl rfl (by decide) (fun _ _ _ h => h) (fun _ m => ?_)
  obtain ⟨t, ht, htru, hadm, hframe⟩ := State.activate_spec (s := { s with mg := m }) himg
  exact ⟨t, (hv ▸ State.applyWrite_activate).trans ht, htru, hadm, (congrArg (fun u : State => { u with mg := s.mg, out := s.out }) hframe :)⟩

/-- DEBUG_MODE: 0 ends it whoever writes, TMON begins it (R366). -/
theorem debugMode_writes (s : State) (r : Req) (hr : ofLe r.value = 0 ∨ r.role = .t) : Safety.writes (.debugMode r) s fun v t =>
    t.tru.dbgOn = decide (v ≠ 0) ∧ t.obj (key 0xF000 0) = v ∧ (v = 0 → t.tru.dbgScope = 0 ∧ t.obj (key 0x1303 0) = 0) ∧
      t.tru.images = s.tru.images ∧ { t with tru := s.tru, dict := s.dict, mg := s.mg, out := s.out } = s := by
  refine writes_of_checked rfl rfl (by decide) fun _ hstatus m => ?_
  obtain ⟨-, hle⟩ : _ ∧ ofLe r.value ≤ 1 := State.range_of_tranStatus hstatus rfl rfl (by simp [Safety.tranOf])
  have hv : ofLe r.value = 0 ∨ ofLe r.value = 1 ∧ r.role = .t := by
    by_cases h0 : ofLe r.value = 0
    · exact .inl h0
    · exact .inr ⟨by omega, hr.resolve_left h0⟩
  obtain ⟨t, ht, hsets⟩ := State.writeDebug_sets (s := { s with mg := m }) hv
  exact ⟨t, State.applyWrite_debug.trans ht, fun m' os _ => ⟨hsets.on, hsets.mode, hsets.ended, hsets.images,
    (congrArg (fun u : State => { u with mg := s.mg, out := s.out }) hsets.frame :)⟩⟩

/-- Settles O42: each command writes one object, and its object's rules bring about what the clause says. -/
theorem trustWritesTakeEffect : Obligations.Trust_writes_take_effect := by
  refine fun s => ⟨transferOpen_writes s, transferChunk_writes s, fun r hv hopen => ?verify, gfwActivate_writes s, debugMode_writes s⟩
  refine writes_mono (transferVerify_writes s r hv hopen) fun v t h => ?_
  exact ⟨h.closed, h.emptied, h.status, h.array, h.ops, h.stored, h.kept⟩

end Sys2Proof.Machine
end

section
/-! A kept response of a source that is not tracked (R382). The statement on kept responses leaves out that the source of a kept response is
tracked. A response is kept only while its source is heard, and both last 100,000,000 steps. -/

namespace Sys2Proof.Machine

/-- A D4 with its management port up, no source tracked, and the response to WRITE 7 of source 0x80FE kept at time 0. -/
def keptUntracked : State := { State.reset with
  ports := [(26, upPort)]
  mg := { State.reset.mg with kept := [⟨0x80FE, 7, 1, 2, 0⟩] } }

/-- That source's WRITE of XID 7. -/
def writeAgain : Datagram :=
  ⟨0x80FE, keptUntracked.ownAddress, 49152, keptUntracked.obj (key 0x1400 0), true, dgBytes (dgW0 2 0 0x2000 0 1) (at_ 7 32 + 0) [1]⟩

theorem message_writeAgain : Safety.message keptUntracked writeAgain 2 0x2000 0 7 0 [1] := by
  unfold Safety.message
  decide +kernel

theorem exec_writeAgain : exec (.write writeAgain) keptUntracked = .next (keptUntracked.datagram writeAgain) := rfl

/-- The write has its source tracked and is answered with the kept response. -/
theorem kept_writeAgain : (keptUntracked.datagram writeAgain).mg.kept = [⟨0x80FE, 7, 1, 2, 0⟩] := by decide +kernel

/-- Refutes O56: where a source that is not tracked has a kept response, its WRITE of the same XID is answered with that one, while the
statement, which asks whether one is kept only of a tracked source, has it executed and a new response kept. -/
theorem not_keptResponsesAnswerRepeatedWrites : ¬Obligations.Kept_responses_answer_repeated_writes := by
  intro h
  obtain ⟨-, hanew, -⟩ := h writeAgain 0x2000 0 7 0 [1] keptUntracked (by decide +kernel)
  obtain ⟨t, k, hexec, -, -, -, -, hkept⟩ := hanew message_writeAgain (.inr (by decide +kernel)) (by decide)
    (fun hknown => absurd hknown (by decide +kernel))
  obtain rfl : keptUntracked.datagram writeAgain = t := Host.Outcome.next.inj (exec_writeAgain.symm.trans hexec)
  have hlen := congrArg List.length hkept
  rw [kept_writeAgain, List.length_append, List.length_singleton] at hlen
  exact absurd hlen (by decide +kernel)

end Sys2Proof.Machine
end

section
/-! What start-up leaves of the power port as it goes on behind it (R411, R412): no image that comes into force, no failure of the opening
deck and no pending map touches a port, the elections only send frames, and the ports that exchange then are others. -/

namespace Sys2Proof.Machine

/-! ### What touches no port (R188, R270, R277, R288, R354) -/

section
variable (s : State)

theorem State.portEvent_ports (q cls sev detail : Nat) : (s.portEvent q cls sev detail).ports = s.ports := s.event_ports _

theorem State.askAgain_ports : s.askAgain.ports = s.ports := by
  refine foldl_ports (fun t o => ?_) _ s
  unfold State.sendVofs State.sendPower
  split <;> rfl

theorem State.switchSlot_ports (kind : Nat) : (s.switchSlot kind).ports = s.ports := by
  unfold State.switchSlot
  split
  · rfl
  · exact State.setObj_ports _ _ _

theorem State.takeNewer_ports (kind : Nat) : (s.takeNewer kind).ports = s.ports := by
  unfold State.takeNewer
  split
  · rfl
  · split
    · exact s.switchSlot_ports kind
    · rfl

theorem State.bootSlot_ports (kind : Nat) : (s.bootSlot kind).ports = s.ports := by
  unfold State.bootSlot
  split
  · rfl
  · exact s.switchSlot_ports kind

theorem State.speedEvents_ports : s.speedEvents.ports = s.ports := by
  refine foldl_ports (fun t c => ?_) _ s
  dsimp only
  split
  · rfl
  · exact t.event_ports _

theorem State.loseOps_ports (f : Op → Bool) : (s.loseOps f).ports = s.ports := foldl_ports (fun t o => t.loseOp_ports o) _ s

theorem State.refreshCores_ports : s.refreshCores.ports = s.ports := s.setObj_ports _ _

theorem State.quarEngine_ports (n : Nat) : (s.quarEngine n).ports = s.ports := by
  simp [State.quarEngine, State.clearWeights]

theorem State.quarCore_ports (c : Nat) (imm : Bool) : (s.quarCore c imm).ports = s.ports := by
  have hclear := foldl_ports (f := fun t e => t.clearWeights (c * 16 + e)) (fun _ _ => rfl) (List.range 16) s
  simp [State.quarCore, State.refreshCores, hclear]

theorem State.endRanges_ports (f : Range → Bool) : (s.endRanges f).ports = s.ports := foldl_ports (fun t _ => t.setObj_ports _ _) _ _

theorem State.applyMap_ports (n : Nat) : (s.applyMap n).ports = s.ports := by
  have hclear : ((s.clearWeights n).clearTile n).ports = s.ports := State.endRanges_ports _ _
  unfold State.applyMap State.setMap
  extract_lets s1
  split <;> simp [s1, hclear]

theorem State.applyPending_ports : s.applyPending.ports = s.ports := by
  unfold State.applyPending
  extract_lets maps engines
  have hmaps : maps.ports = s.ports := foldl_ports (fun t n => by split <;> [exact t.applyMap_ports n; rfl]) _ s
  have hengines : engines.ports = maps.ports := foldl_ports (fun t n => by split <;> [exact t.quarEngine_ports n; rfl]) _ maps
  have hcores := foldl_ports (f := fun t c => if t.coreHealth c = 2 then t.quarCore c false else t)
    (fun t c => by split <;> [exact t.quarCore_ports c false; rfl]) (List.range s.conf.cores) engines
  exact hcores.trans (hengines.trans hmaps)

/-! A failure of the deck (R270, R271, R277). -/

theorem State.poisonRows_ports (core : Nat) (rows : List (Nat × Nat)) : (s.poisonRows core rows).ports = s.ports :=
  foldl_ports (fun t _ => t.mapRegs_ports _ _) rows s

theorem State.priorityTest_ports (core : Nat) (rel : Option Nat) : (s.priorityTest core rel).ports = s.ports := by
  unfold State.priorityTest
  split <;> rfl

theorem State.noteOffence_ports (u : HwUnit) : (s.noteOffence u).ports = s.ports := by
  unfold State.noteOffence
  split
  · simp
  · rfl

theorem State.chargeDeck_ports (u : HwUnit) : (s.chargeDeck u).ports = s.ports := by
  unfold State.chargeDeck
  extract_lets con charged noted
  have hnoted : noted.ports = s.ports := charged.noteOffence_ports u
  split
  · simp [State.priorityTest_ports, hnoted]
  · exact hnoted

theorem State.scrambleCore_ports (c : Nat) : (s.scrambleCore c).ports = s.ports :=
  foldl_ports (f := fun t k => (t.setReg k (LongReg.lost t.freeCtr)).drawFree) (fun _ _ => rfl) _ s

theorem State.pendMap_ports (n v : Nat) : (s.pendMap n v).ports = s.ports := by simp [State.pendMap]

theorem State.pendQuarantine_ports (u : HwUnit) : (s.pendQuarantine u).ports = s.ports := by
  unfold State.pendQuarantine
  split
  · rfl
  · simp

theorem State.forgive_ports (u : HwUnit) : (s.forgive u).ports = s.ports := by
  unfold State.forgive
  dsimp only
  split
  · simp
  · rfl

theorem State.deckFails_ports (core : Nat) (f : DeckFail) : (s.deckFails core f).ports = s.ports := by
  unfold State.deckFails
  extract_lets u wasPending charged
  have hcharged : charged.ports = s.ports := by
    simp [charged, State.chargeDeck_ports, State.failEvent, State.poisonRows_ports]
  split
  · simp [State.quarCore_ports, State.scrambleCore_ports, State.loseOps_ports, hcharged]
  · split
    · simp [State.forgive_ports, State.pendMap_ports, hcharged]
    · simp [State.pendQuarantine_ports, hcharged]

end

/-! ### A port that stays as it was agreed on -/

/-- Port `x` has in `t` the state, the partner's pool and the version that it has in `s`. -/
structure State.SameLink (x : Nat) (s t : State) : Prop where
  st : (t.port x).st = (s.port x).st
  pool : (t.port x).pool = (s.port x).pool
  agreed : (t.port x).agreed = (s.port x).agreed

namespace State.SameLink

variable {x : Nat} {s t u : State}

theorem refl (x : Nat) (s : State) : s.SameLink x s := ⟨rfl, rfl, rfl⟩

theorem trans (h : s.SameLink x t) (g : t.SameLink x u) : s.SameLink x u :=
  ⟨g.st.trans h.st, g.pool.trans h.pool, g.agreed.trans h.agreed⟩

theorem foldl {α : Type} {f : State → α → State} (l : List α) (hf : ∀ (s : State), ∀ a ∈ l, s.SameLink x (f s a)) (s : State) :
    s.SameLink x (l.foldl f s) :=
  List.foldlRecOn l f (refl x s) (fun t ht a ha => ht.trans (hf t a ha))

theorem of_port (h : t.port x = s.port x) : s.SameLink x t := ⟨by rw [h], by rw [h], by rw [h]⟩

theorem of_ports (h : t.ports = s.ports) : s.SameLink x t := of_port (congrArg (sget PortSt.zero · x) h)

/-- Some port changes, but for its state, pool and version. -/
theorem setPort {q : Nat} {p : PortSt} (hst : p.st = (s.port q).st) (hpool : p.pool = (s.port q).pool)
    (hagreed : p.agreed = (s.port q).agreed) : s.SameLink x (s.setPort q p) := by
  by_cases hx : x = q
  · subst hx
    have hself : (s.setPort x p).port x = p := State.port_setPort.trans (if_pos rfl)
    exact ⟨(congrArg PortSt.st hself).trans hst, (congrArg PortSt.pool hself).trans hpool, (congrArg PortSt.agreed hself).trans hagreed⟩
  · exact of_port (State.port_setPort.trans (if_neg hx))

/-- Another port changes. -/
theorem setPort_of_ne {q : Nat} (hx : x ≠ q) (p : PortSt) : s.SameLink x (s.setPort q p) := of_port (State.port_setPort.trans (if_neg hx))

/-! Frames (R295, R300). -/

theorem launch (s : State) (q : Nat) (fl : Flight) (f : Frame) : s.SameLink x (s.launch q fl f) := by
  unfold State.launch
  extract_lets p spent sent counted
  have hspent := setPort (x := x) (s := s) (q := q) (p := { spent with fly := p.fly ++ [fl] }) rfl rfl rfl
  have hsent : s.SameLink x sent := hspent.trans (of_ports rfl)
  have hcounted : counted.ports = sent.ports := by
    unfold counted
    split <;> rfl
  split <;> exact hsent.trans (of_ports hcounted)

theorem sendFrame (s : State) (g pp : Nat) (op tenant : Option Nat) (f : Frame) : s.SameLink x (s.sendFrame g pp op tenant f) := by
  unfold State.sendFrame State.sendOn
  dsimp only
  split
  · exact of_ports rfl
  · split
    · exact refl x s
    · split
      · exact launch s _ _ f
      · exact setPort rfl rfl rfl

theorem sendControl (s : State) (g pp ftype ctl mask term : Nat) (payload : List Flit) :
    s.SameLink x (s.sendControl g pp ftype ctl mask term payload) := sendFrame s _ _ _ _ _

theorem flushPort (s : State) (q fuel : Nat) : s.SameLink x (s.flushPort q fuel) := by
  induction fuel generalizing s with
  | zero => exact refl x s
  | succ k ih =>
    unfold State.flushPort
    split
    · exact refl x s
    · next y _ =>
      have hleft := setPort (x := x) (s := s) (q := q) (p := { s.port q with wait := (s.port q).wait.erase y }) rfl rfl rfl
      exact (hleft.trans (launch _ _ _ _)).trans (ih _)

/-! Allotments and the election (R298 to R301). -/

theorem replyFirst (s : State) (g : Nat) (confirm : Bool) : s.SameLink x (s.replyFirst g confirm) := by
  unfold State.replyFirst
  split
  · exact refl x s
  · split
    · exact refl x s
    · exact sendControl s _ _ _ _ _ _ _

theorem confirmNow (s : State) (g : Nat) : s.SameLink x (s.confirmNow g) := by
  unfold State.confirmNow
  split
  · exact refl x s
  · split
    · exact refl x s
    · dsimp only
      split
      · exact of_ports rfl
      · exact (of_ports (State.mapGroup_ports s g _)).trans (replyFirst _ g true)

theorem takeAllot (s : State) (g : Nat) (es : List Nat) : s.SameLink x (s.takeAllot g es) := by
  unfold State.takeAllot
  extract_lets written flushed
  have hwritten : s.SameLink x written := foldl _ (fun u _ _ => of_ports (u.setObj_ports _ _)) s
  have hflushed : s.SameLink x flushed := hwritten.trans (foldl _ (fun u _ _ => flushPort u _ _) written)
  split
  · exact (hflushed.trans (of_ports (State.mapGroup_ports _ _ _))).trans (confirmNow _ g)
  · exact hflushed

theorem allot (s : State) (g : Nat) : s.SameLink x (s.allot g) := by
  unfold State.allot
  dsimp only
  split
  · exact refl x s
  · refine trans (t := s.setGroup g _) (of_ports rfl) (foldl _ (fun u m _ => ?_) _)
    split
    · exact takeAllot u _ _
    · exact sendControl u _ _ _ _ _ _ _

theorem checkClaim (s : State) (g : Nat) : s.SameLink x (s.checkClaim g) := by
  unfold State.checkClaim
  split
  · exact refl x s
  · split
    · extract_lets me recorded told
      have hrecorded : s.SameLink x recorded := of_ports (State.event_ports _ _)
      exact (hrecorded.trans (foldl _ (fun u _ _ => sendControl u _ _ _ _ _ _ _) recorded)).trans (allot told g)
    · exact refl x s

theorem elect (s : State) (g : Nat) : s.SameLink x (s.elect g) := by
  unfold State.elect
  extract_lets me v term claimed told
  split
  · exact refl x s
  · have hclaimed : s.SameLink x claimed := of_ports rfl
    exact (hclaimed.trans (foldl _ (fun u _ _ => sendControl u _ _ _ _ _ _ _) claimed)).trans (checkClaim told g)

/-! Ports that exchange (R404). -/

theorem bringPort_of_ne {q : Nat} (hx : x ≠ q) (s : State) : s.SameLink x (s.bringPort q) := by
  unfold State.bringPort
  extract_lets p raised
  have hraised : s.SameLink x raised := (setPort_of_ne hx _).trans (of_ports (State.emit_ports _ _))
  split
  · unfold State.beginExchange
    dsimp only
    split
    · exact (hraised.trans (setPort_of_ne hx _)).trans (of_ports (State.portEvent_ports _ _ _ _ _))
    · exact (hraised.trans (setPort_of_ne hx _)).trans (of_ports (State.emit_ports _ _))
  · exact hraised

theorem bringPorts {qs : List Nat} (hx : x ∉ qs) (s : State) : s.SameLink x (s.bringPorts qs) := by
  refine foldl qs (fun u q hq => ?_) s
  split
  · exact bringPort_of_ne (ne_of_mem_of_not_mem hq hx |>.symm) u
  · exact refl x u

/-! Start-up (R411, R412). -/

theorem enterPorts (s : State) : s.SameLink 25 s.enterPorts := by
  unfold State.enterPorts
  extract_lets boot tru entered
  have hnot : 25 ∉ (List.range 25).filter (fun q => !entered.retired q) := fun h =>
    absurd (List.mem_range.mp (List.mem_filter.mp h).1) (lt_irrefl _)
  have hbrought := bringPorts hnot entered
  have hentered : s.SameLink 25 entered := of_ports rfl
  have helected (u : State) : u.SameLink 25 u.electAll := foldl _ (fun u g _ => elect u g) u
  exact ((hentered.trans hbrought).trans (helected _)).trans (of_ports (State.refreshCores_ports _))

theorem verifyAll (s : State) : s.SameLink 25 s.verifyAll := by
  unfold State.verifyAll
  extract_lets boot brought verified tru failed
  have hstep : s.SameLink 25 { s with boot := { s.boot with step := 3 } } := of_ports rfl
  have hbrought : s.SameLink 25 brought := hstep.trans (bringPort_of_ne (by decide) _)
  have hverified : s.SameLink 25 verified := hbrought.trans (of_ports (by
    simp only [verified, State.speedEvents_ports, State.bootSlot_ports, State.takeNewer_ports]))
  split
  · exact hverified.trans (of_ports rfl)
  · have hfailed : verified.SameLink 25 failed :=
      of_ports (foldl_ports (fun u f => by split <;> [exact u.deckFails_ports _ _; rfl]) _ verified)
    have hopened : failed.SameLink 25 { failed with boot := { failed.boot with deck := [] } } := of_ports rfl
    have hpending (u : State) : u.SameLink 25 u.applyPending := of_ports u.applyPending_ports
    exact ((hverified.trans hfailed).trans hopened).trans ((hpending _).trans (enterPorts _))

/-- Where start-up goes on, the power port that is up stays so. -/
theorem bootOn (hup : (s.port 25).st = 2) : s.SameLink 25 s.bootOn := by
  unfold State.bootOn
  split
  · exact refl 25 s
  · split
    · exact (of_ports s.askAgain_ports).trans (verifyAll _)
    · rw [if_neg (by simp [hup])]
      exact refl 25 s

end State.SameLink

end Sys2Proof.Machine
end

section
/-! The exchange of a port, from its live lines to up or down (R401, R404, R411). -/

namespace Sys2Proof.Machine

/-! ### The exchange begins (R402, R404) -/

/-- In `t` the exchange of port `q` has begun, its live lines as in `s`: the block's CAP has been sent, or the management port is up. -/
structure State.BeginsExchange (s t : State) (q : Nat) : Prop where
  liveI : (t.port q).liveI = (s.port q).liveI
  liveO : (t.port q).liveO = (s.port q).liveO
  since : (t.port q).since = s.portNow
  st : (t.port q).st = if q = 26 then 2 else 1
  cap : q ≠ 26 → t.out = s.out ++ [.link q (s.ownCap q)] ∧ { t with ports := s.ports, out := s.out } = s
  array : Safety.sameArray t s
  ops : t.ops = s.ops
  others : ∀ x, x ≠ q → t.port x = s.port x

section
variable (s : State) (q : Nat)

theorem State.port_setPort_self (p : PortSt) : (s.setPort q p).port q = p := State.port_setPort.trans (if_pos rfl)

theorem State.port_setPort_of_ne (p : PortSt) {x : Nat} (hx : x ≠ q) : (s.setPort q p).port x = s.port x :=
  State.port_setPort.trans (if_neg hx)

theorem State.port_emit (o : Out) (x : Nat) : (s.emit o).port x = s.port x := rfl

theorem State.port_portEvent (q' cls sev detail : Nat) : (s.portEvent q' cls sev detail).port q = s.port q :=
  congrArg (sget PortSt.zero · q) (s.event_ports _)

theorem Safety.sameArray_event (e : Event) : Safety.sameArray (s.event e) s := by simp [Safety.sameArray]

theorem Safety.sameArray_setPort (p : PortSt) : Safety.sameArray (s.setPort q p) s := ⟨rfl, rfl, rfl, rfl, rfl, rfl, rfl⟩

theorem State.beginExchange_begins : s.BeginsExchange (s.beginExchange q) q := by
  unfold State.beginExchange
  extract_lets p
  split
  · next hq =>
    have hport (x : Nat) (p' : PortSt) : ((s.setPort q p').portEvent q 0x181 0 (at_ 1 36)).port x = (s.setPort q p').port x :=
      State.port_portEvent _ _ _ _ _ _
    exact ⟨by rw [hport, State.port_setPort_self], by rw [hport, State.port_setPort_self], by rw [hport, State.port_setPort_self],
      by rw [hport, State.port_setPort_self, if_pos hq], fun hne => absurd hq hne,
      Safety.sameArray_trans (Safety.sameArray_setPort s q _) (Safety.sameArray_event _ _), State.event_ops _ _,
      fun x hx => (hport x _).trans (s.port_setPort_of_ne q _ hx)⟩
  · next hq =>
    have hport (p' : PortSt) : ((s.setPort q p').emit (.link q (s.ownCap q))).port q = p' := s.port_setPort_self q p'
    exact ⟨by rw [hport], by rw [hport], by rw [hport], by rw [hport, if_neg hq], fun _ => ⟨rfl, rfl⟩,
      ⟨rfl, rfl, rfl, rfl, rfl, rfl, rfl⟩, rfl, fun x hx => (State.port_emit _ _ x).trans (s.port_setPort_of_ne q _ hx)⟩

end

/-- In `t` port `q` has its live line out high, and exchanges where the partner's is too. -/
structure State.BringsPort (s t : State) (q : Nat) : Prop where
  liveI : (t.port q).liveI = (s.port q).liveI
  liveO : (t.port q).liveO = true
  st : (t.port q).st = if (s.port q).liveI = true ∧ q = 26 then 2 else 1
  cap : (s.port q).liveI = true → q ≠ 26 → Out.link q (s.ownCap q) ∈ t.out
  array : Safety.sameArray t s
  ops : t.ops = s.ops
  others : ∀ x, x ≠ q → t.port x = s.port x

theorem State.bringPort_brings (s : State) (q : Nat) : s.BringsPort (s.bringPort q) q := by
  unfold State.bringPort
  extract_lets p raised
  have hport : raised.port q = { p with st := 1, liveO := true, cr := 0, pool := 0, since := s.portNow } :=
    (State.port_emit _ _ q).trans (s.port_setPort_self q _)
  have hothers (x : Nat) (hx : x ≠ q) : raised.port x = s.port x := (State.port_emit _ _ x).trans (s.port_setPort_of_ne q _ hx)
  have harray : Safety.sameArray raised s := ⟨rfl, rfl, rfl, rfl, rfl, rfl, rfl⟩
  split
  · next hlive =>
    have hlive' : (s.port q).liveI = true := hlive
    have hbegins := raised.beginExchange_begins q
    exact ⟨hbegins.liveI.trans (by rw [hport]), hbegins.liveO.trans (by rw [hport]), hbegins.st.trans (by simp [hlive']),
      fun _ hq => (hbegins.cap hq).1 ▸ List.mem_append_right _ (List.mem_singleton_self _), Safety.sameArray_trans harray hbegins.array,
      hbegins.ops, fun x hx => (hbegins.others x hx).trans (hothers x hx)⟩
  · next hlive =>
    have hlive' : ¬(s.port q).liveI = true := hlive
    exact ⟨by rw [hport], by rw [hport], by simp [hport, hlive'], fun h => absurd h hlive, harray, rfl,
      hothers⟩

/-! ### A port that waits takes a port reset (R404, R410) -/

section
variable {s : State}

/-- Queued responses are discarded at the work port (R406). -/
def State.unanswered (s : State) (q : Nat) : State := if q = 0 then { s with adm := { s.adm with respQ := [] } } else s

/-- The state in which a port that is reset may exchange: debug mode has ended, and the reset is recorded (R366, R410). -/
def State.portReset (s : State) (q : Nat) : State :=
  (s.unanswered q).leaveDebug.portEvent q 0x191 0 (at_ 3 32 + (s.unanswered q).obj (key 0x1300 1))

theorem State.resetPort_waiting {q : Nat} (hst : (s.port q).st ≠ 1) (hup : (s.port q).st ≠ 2)
    (hmay : (s.portReset q).mayExchange q = true) : s.resetPort q = (s.portReset q).bringPort q := by
  unfold State.resetPort
  extract_lets down adm answered reset
  have hdown : down = s := if_neg (by simp [hst, hup])
  have hreset : reset = s.portReset q := by
    unfold reset answered adm
    rw [hdown]
    rfl
  rw [hreset]
  exact if_pos hmay

theorem State.unanswered_frame (q : Nat) : { s.unanswered q with adm := s.adm } = s := by
  unfold State.unanswered
  split <;> rfl

/-- The end of debug mode leaves all but its own objects. -/
theorem State.obj_leaveDebug_of_ne {j : Nat} (hmode : j ≠ key 0xF000 0) (hwrap : j ≠ key 0x1303 0) (hdefault : defaultSource j = none) :
    s.leaveDebug.obj j = s.obj j := by
  unfold State.leaveDebug
  split
  · rw [State.endDebug, State.obj_setObj_of_ne hwrap (by simp [hdefault]), State.obj_setObj_of_ne hmode (by simp [hdefault])]
    exact State.obj_congr rfl rfl rfl
  · rfl

/-- The objects of sweeps and links are none that a reset of a port writes. -/
theorem State.obj_portReset {j : Nat} (hlo : 0x5200 ≤ j / 256) (hhi : j / 256 < 0x6200) (q : Nat) : (s.portReset q).obj j = s.obj j := by
  have hdefault : defaultSource j = none := by
    unfold defaultSource key
    rw [if_neg (by omega), if_neg (by omega), if_neg (by omega)]
  refine (State.obj_event (by unfold key; omega) _).trans ((State.obj_leaveDebug_of_ne ?_ ?_ hdefault).trans ?_)
  · unfold key; omega
  · unfold key; omega
  · exact (congrArg (fun u : State => u.obj j) (s.unanswered_frame q) :)

theorem State.portReset_ports (q : Nat) : (s.portReset q).ports = s.ports := by
  have hbefore : (s.unanswered q).ports = s.ports := (congrArg State.ports (s.unanswered_frame q) :)
  simp [State.portReset, State.portEvent, hbefore]

theorem State.portReset_ops (q : Nat) : (s.portReset q).ops = s.ops := by
  have hbefore : (s.unanswered q).ops = s.ops := (congrArg State.ops (s.unanswered_frame q) :)
  simp [State.portReset, State.portEvent, hbefore]

theorem State.portReset_array (q : Nat) : Safety.sameArray (s.portReset q) s := by
  have hbefore : Safety.sameArray (s.unanswered q) s :=
    Safety.sameArray_of_eq (s.unanswered_frame q) ⟨rfl, rfl, rfl, rfl, rfl, rfl, rfl⟩
  refine Safety.sameArray_trans hbefore ?_
  simp [Safety.sameArray, State.portReset, State.portEvent]

theorem State.ownCap_congr {t : State} {q : Nat} (h : ∀ p < 8, t.obj (key 0x6100 p) = s.obj (key 0x6100 p)) : t.ownCap q = s.ownCap q := by
  have hkind : t.pkind q = s.pkind q := by
    unfold State.pkind State.far
    by_cases h24 : 16 < q ∧ q ≤ 24
    · rw [h (q - 17) (by omega)]
    · by_cases h16 : q ≤ 16
      · simp only [h16, if_true]
      · have hhigh : ¬q ≤ 24 := by omega
        simp only [hhigh, if_false]
  rw [State.ownCap, State.ownCap, State.ownPool, State.ownPool, hkind]

theorem State.retired_congr {t : State} {q : Nat} (h : ∀ p < 8, t.obj (key (0x5240 + p) 2) = s.obj (key (0x5240 + p) 2)) :
    t.retired q = s.retired q := by
  unfold State.retired
  by_cases hq : q ≤ 24
  · by_cases h17 : 17 ≤ q
    · rw [h (q - 17) (by omega)]
    · simp [h17]
  · simp [hq]

theorem State.portReset_ownCap (q : Nat) : (s.portReset q).ownCap q = s.ownCap q :=
  State.ownCap_congr fun p hp => State.obj_portReset (by unfold key; omega) (by unfold key; omega) q

theorem State.portReset_retired (q : Nat) : (s.portReset q).retired q = s.retired q :=
  State.retired_congr fun p hp => State.obj_portReset (by unfold key; omega) (by unfold key; omega) q

theorem State.portReset_mayExchange (q : Nat) : (s.portReset q).mayExchange q = s.mayExchange q := by
  have hbefore := s.unanswered_frame q
  have hgood : (s.portReset q).pwrGood = s.pwrGood := by
    simpa [State.portReset, State.portEvent] using (congrArg State.pwrGood hbefore :)
  have hclk : (s.portReset q).clk = s.clk := by
    simpa [State.portReset, State.portEvent] using (congrArg State.clk hbefore :)
  have hboot : (s.portReset q).boot = s.boot := by
    simpa [State.portReset, State.portEvent] using (congrArg State.boot hbefore :)
  rw [State.mayExchange, hgood, hclk, hboot, s.portReset_retired q, State.mayExchange]

/-- A port reset of a port that neither exchanges nor is up brings it, where it may exchange. -/
theorem State.resetPort_brings {q : Nat} (hst : (s.port q).st ≠ 1) (hup : (s.port q).st ≠ 2) (hmay : s.mayExchange q = true) :
    s.BringsPort (s.resetPort q) q := by
  rw [State.resetPort_waiting hst hup ((s.portReset_mayExchange q).trans hmay)]
  have hport (x : Nat) : (s.portReset q).port x = s.port x := congrArg (sget PortSt.zero · x) (s.portReset_ports q)
  obtain ⟨hliveI, hliveO, hst, hcap, harray, hops, hothers⟩ := (s.portReset q).bringPort_brings q
  rw [hport] at hliveI hst hcap
  exact ⟨hliveI, hliveO, hst, s.portReset_ownCap q ▸ hcap, Safety.sameArray_trans (s.portReset_array q) harray,
    hops.trans (s.portReset_ops q), fun x hx => (hothers x hx).trans (hport x)⟩

end

/-! ### A port that goes down without having been up (R401, R404) -/

section
variable {s : State} {q : Nat}

/-- What is in flight on a port is no part of the array. -/
theorem State.dropFlights_array (s : State) (q : Nat) : Safety.sameArray (s.dropFlights q) s := by
  unfold State.dropFlights
  extract_lets p landed
  have hlanded : Safety.sameArray landed s :=
    List.foldlRecOn p.fly _ (motive := fun u => Safety.sameArray u s) ⟨rfl, rfl, rfl, rfl, rfl, rfl, rfl⟩ (fun u hu f _ => by
      refine Safety.sameArray_trans hu ?_
      dsimp only
      split <;> split <;> exact ⟨rfl, rfl, rfl, rfl, rfl, rfl, rfl⟩)
  exact Safety.sameArray_trans hlanded (Safety.sameArray_setPort _ q _)

/-- An exchange that fails leaves its REASON, and the array as it was. -/
theorem State.failPort_exchanging (hst : (s.port q).st = 1) (reason : Nat) :
    ((s.failPort q reason).port q).st = 0 ∧ ((s.failPort q reason).port q).liveO = false ∧
      ((s.failPort q reason).port q).reason = reason ∧ Safety.sameArray (s.failPort q reason) s := by
  have hclosed := (s.portDown_loses q 0 reason true).closed
  refine ⟨hclosed.st, hclosed.liveO, ?_⟩
  unfold State.failPort State.portDown
  extract_lets p told clamped dropped cut down recorded
  rw [if_neg (by simp [p, hst])]
  have hclamped : Safety.sameArray clamped s := by
    unfold clamped told
    split_ifs <;> exact ⟨rfl, rfl, rfl, rfl, rfl, rfl, rfl⟩
  have hdown : Safety.sameArray down s :=
    Safety.sameArray_trans (Safety.sameArray_trans hclamped (clamped.dropFlights_array q)) (Safety.sameArray_setPort dropped q _)
  exact ⟨by rw [State.port_portEvent, State.port_setPort_self], Safety.sameArray_trans hdown (Safety.sameArray_event _ _)⟩

end

/-! ### Both CAPSELs (R404, log 30) -/

/-- In `t` port `q` is up in the version of the block's CAPSEL `a`, and its partner's pool is as in `s`. -/
structure State.ComesUp (s t : State) (q : Nat) (a : W64) : Prop where
  st : (t.port q).st = 2
  pool : (t.port q).pool = (s.port q).pool
  agreed : (t.port q).agreed = fld a 51 48 * 256 + fld a 43 36
  work : q = 0 → t.adm.wdCredits = 128
  boot : t.boot = s.boot
  array : Safety.sameArray t s

section
variable {s : State} {q : Nat}

/-- Both CAPSELs bring the port up when they agree on all but the pools. -/
theorem State.checkSel_agree {a b : W64} (hout : (s.port q).selOut = some a) (hin : (s.port q).selIn = some b)
    (hsame : a.toNat / 2 ^ 24 = b.toNat / 2 ^ 24) : s.ComesUp (s.checkSel q) q a := by
  unfold State.checkSel
  extract_lets p
  split
  case h_2 hnot => exact (hnot a b hout hin).elim
  next a' b' ha hb =>
  obtain rfl : a = a' := Option.some.inj (hout.symm.trans ha)
  obtain rfl : b = b' := Option.some.inj (hin.symm.trans hb)
  rw [if_pos hsame]
  extract_lets up recorded adm counted
  have hcounted : { counted with adm := recorded.adm } = recorded := by
    unfold counted adm
    split_ifs <;> rfl
  have hport : counted.port q = { p with st := 2, since := s.portNow, agreed := fld a 51 48 * 256 + fld a 43 36, feat := fld a 35 28 } :=
    (congrArg (fun u : State => u.port q) hcounted :).trans ((State.port_portEvent _ _ _ _ _ _).trans (s.port_setPort_self q _))
  have hwork : q = 0 → counted.adm.wdCredits = 128 := by
    rintro rfl
    rfl
  have hboot : counted.boot = s.boot := (congrArg State.boot hcounted :).trans (State.event_boot _ _)
  have harray : Safety.sameArray counted s := Safety.sameArray_trans (Safety.sameArray_trans (Safety.sameArray_setPort s q _)
    (Safety.sameArray_event up _)) (Safety.sameArray_of_eq hcounted ⟨rfl, rfl, rfl, rfl, rfl, rfl, rfl⟩)
  have hup : s.ComesUp counted q a := ⟨by rw [hport], by rw [hport], by rw [hport], hwork, hboot, harray⟩
  split
  · exact hup
  · exact ⟨hup.st, hup.pool, hup.agreed, hup.work, hup.boot, hup.array⟩

/-- The partner's CAPSEL, where the block's is the same but for the pool. -/
theorem State.capsel_comesUp {a w : W64} (hout : (s.port q).selOut = some a) (hsame : a.toNat / 2 ^ 24 = w.toNat / 2 ^ 24) :
    s.ComesUp ((s.setPort q { s.port q with selIn := some w }).checkSel q) q a := by
  have hself := s.port_setPort_self q { s.port q with selIn := some w }
  obtain ⟨hst, hpool, hagreed, hwork, hboot, harray⟩ := State.checkSel_agree (s := s.setPort q { s.port q with selIn := some w }) (q := q)
    (by rw [hself, hout]) (by rw [hself]) hsame
  rw [hself] at hpool
  exact ⟨hst, hpool, hagreed, hwork, hboot, Safety.sameArray_trans (Safety.sameArray_setPort s q _) harray⟩

/-- A port that has come up stays up while start-up goes on, which it does at the power port alone (R411). -/
theorem State.ComesUp.bootOn {t : State} {a : W64} (h : s.ComesUp t q a) (hq : s.boot.step ≠ 2 ∨ q = 25) :
    (t.bootOn.port q).st = 2 ∧ (t.bootOn.port q).pool = (s.port q).pool ∧ (t.bootOn.port q).agreed = fld a 51 48 * 256 + fld a 43 36 ∧
      (s.boot.step ≠ 2 → Safety.sameArray t.bootOn s) := by
  by_cases hstep : s.boot.step = 2
  · obtain rfl : q = 25 := hq.resolve_left (not_not_intro hstep)
    obtain ⟨hst, hpool, hagreed⟩ := State.SameLink.bootOn h.st
    exact ⟨hst.trans h.st, hpool.trans h.pool, hagreed.trans h.agreed, fun hne => absurd hstep hne⟩
  · rw [State.bootOn_of_step (by rwa [h.boot])]
    exact ⟨h.st, h.pool, h.agreed, fun _ => h.array⟩

/-- The credits of the work port, where start-up does not go on (R404). -/
theorem State.ComesUp.bootOn_work {t : State} {a : W64} (h : s.ComesUp t q a) (hzero : q = 0) (hq : s.boot.step ≠ 2 ∨ q = 25) :
    t.bootOn.adm.wdCredits = 128 := by
  have hstep : s.boot.step ≠ 2 := hq.resolve_right (by omega)
  rw [State.bootOn_of_step (by rwa [h.boot])]
  exact h.work hzero

theorem State.checkSel_first (hout : (s.port q).selOut = none) : s.checkSel q = s := by
  unfold State.checkSel
  simp only [hout]

theorem State.checkSel_alone (hin : (s.port q).selIn = none) : s.checkSel q = s := by
  unfold State.checkSel
  extract_lets p
  split
  · next hsel => exact absurd (hin.symm.trans hsel) nofun
  · rfl

theorem State.checkSel_unequal {a b : W64} (hout : (s.port q).selOut = some a) (hin : (s.port q).selIn = some b)
    (hne : a.toNat / 2 ^ 24 ≠ b.toNat / 2 ^ 24) : s.checkSel q = s := by
  unfold State.checkSel
  simp only [hout, hin, if_neg hne]

end

/-- A CAP that can be agreed on is answered with a CAPSEL (R404). -/
theorem State.takeCap_agreed {s : State} {q : Nat} {w : W64} (hagree : (s.agreement q w).1 = 0) : s.takeCap q w =
    ((s.setPort q { s.port q with capIn := some w, pool := fld w 23 0, selOut := some (s.agreement q w).2 }).emit
      (.link q (s.agreement q w).2)).checkSel q :=
  if_neg (not_not_intro hagree)

/-! ### The commands -/

section
variable {s : State} {q : Nat} (hbuilt : portBuilt s.conf q = true)
include hbuilt

/-- The partner of a port that is down is there (R404, R410). -/
theorem exec_liveRise_down (hq : q ≤ 26) (hlive : (s.port q).liveI = false) (hst : (s.port q).st = 0) (hmay : s.mayExchange q = true) :
    exec (.liveRise q) s = .next ((s.setPort q { s.port q with liveI := true }).resetPort q) := by
  show execLiveRise q s = _
  have hle : ¬26 < q := by omega
  simp [execLiveRise, hbuilt, hle, hlive, hst, hmay]

/-- The partner that a port waits for is there (R404). -/
theorem exec_liveRise_waiting (hq : q ≤ 26) (hlive : (s.port q).liveI = false) (hst : (s.port q).st = 1) :
    exec (.liveRise q) s = .next ((s.setPort q { s.port q with liveI := true }).beginExchange q) := by
  show execLiveRise q s = _
  have hle : ¬26 < q := by omega
  simp [execLiveRise, hbuilt, hle, hlive, hst]

theorem exec_liveRise_else (hq : q ≤ 26) (hlive : (s.port q).liveI = false) (hst : (s.port q).st ≠ 1)
    (hnot : (s.port q).st ≠ 0 ∨ s.mayExchange q = false) :
    exec (.liveRise q) s = .next (s.setPort q { s.port q with liveI := true }) := by
  show execLiveRise q s = _
  have hle : ¬26 < q := by omega
  have hstays : ¬((s.port q).st = 0 ∧ s.mayExchange q = true) := by
    rintro ⟨h0, hmay⟩
    exact hnot.elim (· h0) (by simp [hmay])
  simp [execLiveRise, hbuilt, hle, hlive, hst, hstays]

variable {w : W64} (hgood : linkBad w = false) (hlive : (s.port q).liveI = true) (hst : (s.port q).st = 1)
include hgood hlive hst

/-- The first CAP of a port that exchanges (R404). -/
theorem exec_cap_first (hwf : (Instr.cap q w).wf = true) (hfirst : (s.port q).capIn = none) : exec (.cap q w) s = .next (s.takeCap q w) := by
  show execCap q w s = _
  obtain ⟨hq, htype⟩ : q ≤ 25 ∧ fld w 59 56 = 1 := by simpa [Instr.wf, linkWf] using hwf
  have hle : ¬25 < q := by omega
  simp [execCap, State.onLink, hbuilt, hle, hlive, hst, hgood, htype, hfirst]

/-- A CAPSEL of a port that exchanges (R404, R411). -/
theorem exec_capsel_exchanging (hwf : (Instr.capsel q w).wf = true) :
    exec (.capsel q w) s = .next ((s.setPort q { s.port q with selIn := some w }).checkSel q).bootOn := by
  show execCapsel q w s = _
  obtain ⟨hq, htype⟩ : q ≤ 25 ∧ fld w 59 56 = 2 := by simpa [Instr.wf, linkWf] using hwf
  have hle : ¬25 < q := by omega
  simp [execCapsel, State.onLink, hbuilt, hle, hlive, hst, hgood, htype]

end

section
variable {s : State} {q : Nat} (hbuilt : portBuilt s.conf q = true)
include hbuilt

theorem exec_exchangeTimeout_due (hst : (s.port q).st = 1) (hlive : (s.port q).liveI = true)
    (htime : s.timeUp (s.port q).since (s.obj (key 0x1302 4)) = true) : exec (.exchangeTimeout q) s = .next (s.failPort q 4) := by
  show execExchangeTimeout q s = _
  simp [execExchangeTimeout, hbuilt, hst, hlive, htime]

theorem exec_quarantineHoldExpiry_due (hst : (s.port q).st = 3 ∨ (s.port q).st = 0) (hmay : s.mayExchange q = true)
    (htime : s.timeUp (s.port q).since (s.obj (key 0x1302 0)) = true) : exec (.quarantineHoldExpiry q) s = .next (s.resetPort q) := by
  show execQuarantineHoldExpiry q s = _
  simp [execQuarantineHoldExpiry, hbuilt, hst, hmay, htime]

end

/-- Settles O46: each command is a step of the exchange (`beginExchange_begins`, `resetPort_brings`, `checkSel_agree`,
`failPort_exchanging`), behind which start-up leaves the power port up (`SameLink.bootOn`). -/
theorem portExchangeRunsToUpOrDown : Obligations.Port_exchange_runs_to_up_or_down := by
  refine ⟨fun q s hbuilt hq hlive hst hmay => ?down, fun q s hbuilt hq hlive hst => ?waits, fun q s => exec_liveRise_else,
    fun q w s hbuilt hwf hgood hlive hst hfirst hagree hsel => ?cap, fun q w s hbuilt hwf hgood hlive hst hfirst hfail => ?refused,
    fun q w a s hbuilt hwf hgood hlive hst hout hsame hstep => ?agreed, fun q w s hbuilt hwf hgood hlive hst hout => ?alone,
    fun q w a s hbuilt hwf hgood hlive hst hout hne => ?unequal, fun s => State.bootOn_of_step,
    fun q s hbuilt hst hlive htime => ?timeout, fun q s hbuilt hq hst hmay htime => ?hold⟩
  case down =>
    have hself : (s.setPort q { s.port q with liveI := true }).port q = { s.port q with liveI := true } := s.port_setPort_self q _
    obtain ⟨hliveI, hliveO, hst', hcap, harray, hops, hothers⟩ :=
      State.resetPort_brings (s := s.setPort q { s.port q with liveI := true }) (q := q) (by rw [hself]; simp [hst])
        (by rw [hself]; simp [hst]) hmay
    rw [hself] at hliveI hst' hcap
    exact ⟨_, exec_liveRise_down hbuilt hq hlive hst hmay, hliveI, hliveO, by simpa using hst', hcap rfl,
      Safety.sameArray_trans (Safety.sameArray_setPort s q _) harray, hops, fun x hx => (hothers x hx).trans (s.port_setPort_of_ne q _ hx)⟩
  case waits =>
    have hself : (s.setPort q { s.port q with liveI := true }).port q = { s.port q with liveI := true } := s.port_setPort_self q _
    obtain ⟨hliveI, hliveO, hsince, hst', hcap, harray, hops, hothers⟩ :=
      (s.setPort q { s.port q with liveI := true }).beginExchange_begins q
    rw [hself] at hliveI hliveO
    exact ⟨_, exec_liveRise_waiting hbuilt hq hlive hst, hliveI, hliveO, hsince, hst', fun hne => ⟨(hcap hne).1,
      (congrArg (fun u : State => { u with ports := s.ports }) (hcap hne).2 :)⟩,
      Safety.sameArray_trans (Safety.sameArray_setPort s q _) harray, hops, fun x hx => (hothers x hx).trans (s.port_setPort_of_ne q _ hx)⟩
  case cap =>
    rw [exec_cap_first hbuilt hgood hlive hst hwf hfirst, State.takeCap_agreed hagree]
    refine congrArg Host.Outcome.next (State.checkSel_alone ?_)
    rw [State.port_emit, s.port_setPort_self, hsel]
  case refused =>
    obtain ⟨hdown, hclamped, hreason, harray⟩ := State.failPort_exchanging hst (s.agreement q w).1
    refine ⟨_, (exec_cap_first hbuilt hgood hlive hst hwf hfirst).trans ?_, hdown, hclamped, hreason, harray⟩
    exact congrArg Host.Outcome.next (if_pos hfail)
  case agreed =>
    have hup := State.capsel_comesUp hout hsame
    obtain ⟨hst', hpool, hagreed, harray⟩ := hup.bootOn hstep
    exact ⟨_, exec_capsel_exchanging hbuilt hgood hlive hst hwf, beq_iff_eq.mpr hst', hpool, hagreed, fun hq => hup.bootOn_work hq hstep,
      harray⟩
  case alone =>
    rw [exec_capsel_exchanging hbuilt hgood hlive hst hwf, State.checkSel_first (by rw [s.port_setPort_self, hout])]
  case unequal =>
    rw [exec_capsel_exchanging hbuilt hgood hlive hst hwf]
    rw [State.checkSel_unequal (a := a) (b := w) (by rw [s.port_setPort_self, hout]) (by rw [s.port_setPort_self]) hne]
  case timeout =>
    obtain ⟨hdown, hclamped, hreason, harray⟩ := State.failPort_exchanging hst 4
    exact ⟨_, exec_exchangeTimeout_due hbuilt hst hlive htime, hdown, hclamped, hreason, harray⟩
  case hold =>
    have hwaits : (s.port q).st = 3 ∨ (s.port q).st = 0 := hst.imp_right And.left
    obtain ⟨-, hliveO, hst', -, harray, -, -⟩ := State.resetPort_brings (s := s) (q := q) (by omega) (by omega) hmay
    exact ⟨_, exec_quarantineHoldExpiry_due hbuilt hwaits hmay htime, hliveO, hst', harray⟩

end Sys2Proof.Machine
end
